-- ==== Sys2Proof/Word.lean ====
section
/-!
DEFINITION. The word types of the MQ-1: bytes, 32-bit elements and instruction words, 64-bit
registers (R5, R17, R48, R133).
-/

namespace Sys2Proof

/-- One byte of memory. -/
abbrev Byte := BitVec 8

/-- One 32-bit element of a token (R5). -/
abbrev Elem := BitVec 32

/-- One 64-bit register of a control thread (R48). -/
abbrev Word := BitVec 64

end Sys2Proof
end

