-- ==== Sys2Proof/Syntax.lean ====
section
/-!
DEFINITION. The instructions of the MQ-1 as syntax (R17 to R45) and its device steps that carry no
encoding: one constructor of `Instr` for each row of spec/opcode_table.json. An event's arguments
name the unit or request it acts on and carry what comes from outside the device.
-/

namespace Sys2Proof

/-- Register x0 to x63 (R28). -/
abbrev XReg := Fin 64

/-- Capability register c0 to c15 (R28). -/
abbrev CReg := Fin 16

/-- Scope codes 0 to 5 (R8). -/
inductive Scope where
  | cell | row | band | die | dev | pod
  deriving DecidableEq, Repr

/-- The field that CGET reads (R73). -/
inductive CapField where
  | base | length | space | perms | tenant | otype | tag | limit
  deriving DecidableEq, Repr

/-- Predicate modes pm 00, 01, 10 and 11 (R20). -/
inductive Pm where
  | always | onTrue | onFalse | third
  deriving DecidableEq, Repr

/-- The position of a target (R21): an operand position of a slot, or `out` for a register write,
a port send or no target. -/
inductive Pos where
  | l | r | p | out
  deriving DecidableEq, Repr

/-- A target: position [8:7] and index [6:0] (R21). -/
structure Target where
  pos : Pos
  idx : Fin 128
  deriving DecidableEq, Repr

/-- The target "none", 0x1FF (R21). -/
def Target.none : Target := ⟨.out, 127⟩

/-- Fields of format C3 (R19). -/
structure C3 where
  pm : Pm
  t0 : Target
  t1 : Target
  m : Fin 16
  deriving DecidableEq, Repr

/-- Fields of format CI (R19). -/
structure CI where
  pm : Pm
  t0 : Target
  imm : BitVec 13
  deriving DecidableEq, Repr

/-- Fields of format CB (R19). -/
structure CB where
  pm : Pm
  blk : Fin 32
  deriving DecidableEq, Repr

/-- A cell of the device: die, row, column (R2). -/
structure CellId where
  die : Fin 2
  row : Fin 64
  col : Fin 36
  deriving DecidableEq, Repr

/-- A row of the device (R2). -/
structure RowId where
  die : Fin 2
  row : Fin 64
  deriving DecidableEq, Repr

/-- Control core 16 · die + k (R3). -/
abbrev CoreId := Fin 32

/-- A grotto: 128 on die 0's vault, then 128 on die 1's (R316). -/
abbrev GrottoId := Fin 256

/-- A virtual pipeline by the fields of its handle (R238): die, record and generation. -/
structure VpId where
  die : Fin 2
  num : Fin 1024
  gen : Fin 2097152
  deriving DecidableEq, Repr

/-- A unit that executes remote calls: a control core or a grotto (R331). -/
inductive UnitId where
  | core (k : CoreId)
  | grotto (g : GrottoId)
  deriving DecidableEq, Repr

/-- A remote context of a unit; a control core has two and a grotto eight (R331). -/
structure RemoteId where
  unit : UnitId
  ctx : Fin 8
  deriving DecidableEq, Repr

/-- A unit that makes calls: a control core or a cell (R336, R337). -/
inductive CallerId where
  | core (k : CoreId)
  | cell (c : CellId)
  deriving DecidableEq, Repr

/-- The read-modify-write operations of an owner (R330, R357). -/
inductive AmoOp where
  | add | swap | cas | min | max | and | or | xor
  deriving DecidableEq, Repr

/-- The privilege mode in which a Spire hart makes an access (R416). -/
inductive HartMode where
  | machine | supervisor | user
  deriving DecidableEq, Repr

/-- What an access of a Spire hart is to its page tables (R416). -/
inductive HartAccess where
  | load | store | fetch
  deriving DecidableEq, Repr

/-- What a Spire hart does to device memory or to a SYS register (R329, R416), at an address that its own page tables
translate. `size` counts bytes, 1, 2, 4 or 8; of an instruction that is fetched, 2 or 4. -/
inductive HartOp where
  | fetch (m : HartMode) (va size : Nat)
  | load (m : HartMode) (va size : Nat)
  | store (m : HartMode) (va size : Nat) (data : Word)
  | amo (m : HartMode) (op : AmoOp) (va size : Nat) (b expected : Word)
  | loadReserved (m : HartMode) (va size : Nat)
  | storeConditional (m : HartMode) (va size : Nat) (data : Word)
  | fence
  /-- The hart's translation is set: `satp`, and whether supervisor mode reaches user pages and reads executable ones.
  -/
  | translation (satp : Word) (sum mxr : Bool)
  deriving DecidableEq, Repr

/-- What a flit from another module asks for (R318, R421). -/
inductive FlitBody where
  | read (pa size : Nat)
  | write (pa : Nat) (bytes : List Byte)
  | capWrite (pa : Nat) (bytes : List Byte)
  | atomic (op : AmoOp) (pa size : Nat) (b expected : Word)
  /-- A cell's atomic: 0 add, 1 float add, 2 signed maximum. -/
  | cellAtomic (op : Fin 3) (pa : Nat) (b : Elem)
  /-- A fibre operation on the head row at `pa`: 0 FORMAT, 1 NEW, 2 FREE, 3 MERGE, 4 DELETE, 5 SCAN, 6 PROBE,
  7 INFO, with its pairs or coordinates and its operands; `issuer` numbers the core, context or cell of the source that
  issues it (R100), `id` the request. -/
  | fibre (pa va length issuer id : Nat) (kind : Fin 8) (pairs : List (Nat × Nat)) (a b : Nat) (flag : Bool)
  /-- A call of the caller `src` on device `device`, which a function of the source may have forwarded (R343). -/
  | call (pa index number device : Nat) (src : BitVec 32) (cap : BitVec 128) (payload : List Word)
      (rel forwarded : Bool)
  | callReply (caller : CallerId) (number entry status : Nat) (r0 r1 : Word)
  /-- The reply to fibre request `id` of this device: status, work units, rows split, wait cycles, and the values that
  the operation returns (R107, R110). -/
  | fibreReply (id status work splits wait value : Nat) (pairs : List (Nat × Nat)) (found : List (Option Nat))
      (cursor : Nat) (endFlag : Bool)
  /-- Fibre request `id` of this device is refused back by a full hold queue (R98). -/
  | fibreRefusal (id : Nat)
  /-- A call of a unit of this device is refused back by the full unit that homes `pa` (R333). -/
  | callRefusal (pa index number : Nat) (caller : CallerId) (cap : BitVec 128) (payload : List Word)
      (rel forwarded : Bool)
  /-- The acknowledgement of a store of this device at `pa`, or the reply of a cell's atomic there (R321). -/
  | ack (pa : Nat)
  /-- A call of a unit of this device has been accepted (R321). -/
  | callAccepted (caller : CallerId) (number : Nat)
  deriving DecidableEq, Repr

/-- A Firel flit: its CRC verdict, its tenant and its body (R421). -/
structure Flit where
  crcOk : Bool
  link : Fin 12
  source : Nat
  tenant : BitVec 8
  body : FlitBody
  deriving DecidableEq, Repr

/-- An inbound PCIe request: of a virtual function, translated by its partition, or of the physical
function (R420). -/
inductive PcieRequest where
  | read (vf : Option (Fin 16)) (addr size : Nat)
  | write (vf : Option (Fin 16)) (addr : Nat) (bytes : List Byte)
  | functionReset (vf : Fin 16)
  deriving DecidableEq, Repr

/-- What firmware finds at boot: the populated GDDR in MiB that its training comes up with (R423 step 4). -/
structure BootInput where
  trainedMiB : Nat
  deriving DecidableEq, Repr

/-- The instructions and device steps of the MQ-1. The control instructions come first, then the
cell instructions, then the device steps. -/
inductive Instr where
  | add (d a b : XReg)
  | sub (d a b : XReg)
  | mul (d a b : XReg)
  | mulh (d a b : XReg)
  | mulhu (d a b : XReg)
  | div (d a b : XReg)
  | divu (d a b : XReg)
  | rem (d a b : XReg)
  | remu (d a b : XReg)
  | and (d a b : XReg)
  | or (d a b : XReg)
  | xor (d a b : XReg)
  | shl (d a b : XReg)
  | shr (d a b : XReg)
  | sar (d a b : XReg)
  | slt (d a b : XReg)
  | sltu (d a b : XReg)
  | min (d a b : XReg)
  | max (d a b : XReg)
  | minu (d a b : XReg)
  | maxu (d a b : XReg)
  | clz (d a : XReg)
  | popc (d a : XReg)
  | addi (d a : XReg) (imm : BitVec 12)
  | andi (d a : XReg) (imm : BitVec 12)
  | ori (d a : XReg) (imm : BitVec 12)
  | xori (d a : XReg) (imm : BitVec 12)
  | shli (d a : XReg) (imm : BitVec 6)
  | shri (d a : XReg) (imm : BitVec 6)
  | sari (d a : XReg) (imm : BitVec 6)
  | slti (d a : XReg) (imm : BitVec 12)
  | sltiu (d a : XReg) (imm : BitVec 12)
  | lui (d : XReg) (imm : BitVec 18)
  | beq (a b : XReg) (off : BitVec 12)
  | bne (a b : XReg) (off : BitVec 12)
  | blt (a b : XReg) (off : BitVec 12)
  | bge (a b : XReg) (off : BitVec 12)
  | bltu (a b : XReg) (off : BitVec 12)
  | bgeu (a b : XReg) (off : BitVec 12)
  | jal (d : XReg) (off : BitVec 18)
  | jalr (d a : XReg) (imm : BitVec 12)
  | ldb (d : XReg) (c : CReg) (a : XReg) (imm : BitVec 8)
  | ldh (d : XReg) (c : CReg) (a : XReg) (imm : BitVec 8)
  | ldw (d : XReg) (c : CReg) (a : XReg) (imm : BitVec 8)
  | ldd (d : XReg) (c : CReg) (a : XReg) (imm : BitVec 8)
  | ldbu (d : XReg) (c : CReg) (a : XReg) (imm : BitVec 8)
  | ldhu (d : XReg) (c : CReg) (a : XReg) (imm : BitVec 8)
  | ldwu (d : XReg) (c : CReg) (a : XReg) (imm : BitVec 8)
  | stb (d : XReg) (c : CReg) (a : XReg) (imm : BitVec 8)
  | sth (d : XReg) (c : CReg) (a : XReg) (imm : BitVec 8)
  | stw (d : XReg) (c : CReg) (a : XReg) (imm : BitVec 8)
  | std (d : XReg) (c : CReg) (a : XReg) (imm : BitVec 8)
  | lda (d : XReg) (c : CReg) (a : XReg) (imm : BitVec 8)
  | stl (d : XReg) (c : CReg) (a : XReg) (imm : BitVec 8)
  | amoadd (d : XReg) (c : CReg) (a b : XReg) (w ar : Bool)
  | amoswp (d : XReg) (c : CReg) (a b : XReg) (w ar : Bool)
  | amocas (d : XReg) (c : CReg) (a b : XReg) (w ar : Bool)
  | amomin (d : XReg) (c : CReg) (a b : XReg) (w ar : Bool)
  | amomax (d : XReg) (c : CReg) (a b : XReg) (w ar : Bool)
  | amoand (d : XReg) (c : CReg) (a b : XReg) (w ar : Bool)
  | amoor (d : XReg) (c : CReg) (a b : XReg) (w ar : Bool)
  | amoxor (d : XReg) (c : CReg) (a b : XReg) (w ar : Bool)
  | cld (cd c : CReg) (a : XReg) (imm : BitVec 8)
  | cst (cd c : CReg) (a : XReg) (imm : BitVec 8)
  | csetb (cd ca : CReg) (b : XReg)
  | candp (cd ca : CReg) (b : XReg)
  | cget (d : XReg) (ca : CReg) (f : CapField)
  | cmov (cd ca : CReg)
  | fnew (d : XReg) (c : CReg) (a : XReg)
  | ffree (d : XReg) (c : CReg) (a : XReg)
  | fmrg (d : XReg) (c : CReg) (a b : XReg) (n : Fin 4)
  | fscan (d : XReg) (c : CReg) (a b : XReg) (n : Fin 4)
  | fprobe (d : XReg) (c : CReg) (a b : XReg) (n : Fin 4)
  | fdel (d : XReg) (c : CReg) (a b : XReg) (n : Fin 4)
  | finfo (d : XReg) (c : CReg) (a : XReg)
  | launch (d : XReg) (ca : CReg) (b : XReg)
  | splice (d : XReg) (ca : CReg) (b : XReg)
  | preempt (d a : XReg)
  | resume (d : XReg) (ca : CReg) (b : XReg)
  | cfgld (d : XReg) (ca : CReg) (b : XReg)
  | evpopPoll (d : XReg)
  | evpopWait (d : XReg)
  | rcall (d : XReg) (c : CReg) (rel : Bool) (e : Fin 32) (b : XReg) (n : Fin 4)
  | rwait (d a b : XReg)
  | rret (d a b : XReg)
  | rfwd (ca : CReg) (b : XReg)
  | fence (scope : Scope)
  | trap (code : BitVec 12)
  | eret
  | sysrd (d : XReg) (num : BitVec 12)
  | syswr (d : XReg) (num : BitVec 12)
  | wfe
  | sev
  | halt
  | tlbi (a b : XReg)
  | crc (d a b : XReg)
  | vsig (d : XReg) (ca : CReg) (b : XReg)
  | ldsc (d : XReg) (ca : CReg) (b : XReg)
  | stsc (d : XReg) (ca : CReg) (b : XReg)
  | cfgchk (d : XReg) (ca : CReg) (b : XReg)
  | cfgclr (d a : XReg)
  | barw (d a : XReg)
  | ifence
  | sbind (d a b : XReg)
  | sbar (d a : XReg)
  | cyc (d : XReg)
  | nop
  | bx (f : C3)
  | bxi (f : CB)
  | bend (f : CB)
  | mov (f : C3)
  | movi (f : CI)
  | movh (f : CI)
  | null (f : C3)
  | iota (f : C3)
  | cid (f : C3)
  | cellCyc (f : C3)
  | cellTrap (f : C3)
  | testk (f : C3)
  | sel (f : C3)
  | setv (f : C3)
  | getv (f : C3)
  | cellAdd (f : C3)
  | cellSub (f : C3)
  | cellMul (f : C3)
  | cellMulh (f : C3)
  | cellMin (f : C3)
  | cellMax (f : C3)
  | cellAnd (f : C3)
  | cellOr (f : C3)
  | cellXor (f : C3)
  | cellShl (f : C3)
  | cellShr (f : C3)
  | cellSar (f : C3)
  | cellClz (f : C3)
  | cellPopc (f : C3)
  | cmp (f : C3)
  | cellAddi (f : CI)
  | cellAndi (f : CI)
  | cellOri (f : CI)
  | cellShli (f : CI)
  | cellShri (f : CI)
  | cellSari (f : CI)
  | fadd (f : C3)
  | fsub (f : C3)
  | fmul (f : C3)
  | fma (f : C3)
  | fmin (f : C3)
  | fmax (f : C3)
  | fabs (f : C3)
  | fcmp (f : C3)
  | fcvt (f : C3)
  | unpk (f : C3)
  | pack (f : C3)
  | fexp2 (f : C3)
  | flog2 (f : C3)
  | frcp (f : C3)
  | frsq (f : C3)
  | ftanh (f : C3)
  | radd (f : C3)
  | rmax (f : C3)
  | rmin (f : C3)
  | psum (f : C3)
  | perm (f : C3)
  | bcst (f : C3)
  | lsh (f : C3)
  | cmpk (f : C3)
  | expd (f : C3)
  | nzscan (f : C3)
  | join (f : C3)
  | ld (f : C3)
  | ldc (f : C3)
  | st (f : C3)
  | stc (f : C3)
  | atadd (f : C3)
  | atfadd (f : C3)
  | atmax (f : C3)
  | lookup (f : C3)
  | tagset (f : C3)
  | tagclr (f : C3)
  | cellFmrg (f : C3)
  | cellFprobe (f : C3)
  | cellFscan (f : C3)
  | rcv (f : C3)
  | mark (f : C3)
  | xreq (f : C3)
  | cellRcall (f : C3)
  | joinp (f : C3)
  | mma (f : C3)
  | mmas (f : C3)
  | mmap (f : C3)
  | accrd (f : C3)
  | accz (f : C3)
  | fibreFormat (i : Nat)
  | fibreNew (i : Nat)
  | fibreFree (i : Nat)
  | fibreMerge (i : Nat)
  | poolReservation (i : Nat)
  | fibreDelete (i : Nat)
  | fibreScanStep (i : Nat)
  | fibreProbe (i : Nat)
  | fibreInfo (i : Nat)
  | holdLapse (i : Nat)
  | fibreRefusedResend (i : Nat)
  | fibreReply (i : Nat)
  | fibrePostedReply (i : Nat)
  | fprobeReply (i : Nat)
  | pageWalk (i : Nat)
  | blockCommit (c : CellId)
  | blockQuiescence (c : CellId)
  | markerDrain (c : CellId) (port : Fin 8)
  | sendResume (c : CellId)
  | tokenReceive (i : Nat) (codeOk : Bool)
  | memoryCellRequest (c : CellId) (n : Nat)
  | memoryCellReply (c : CellId)
  | transferLine (c : CellId)
  | addressGeneratorToken (c : CellId) (gen : Fin 2)
  | matrixCommandStart (c : CellId)
  | matrixOperandTake (c : CellId) (port : Fin 8)
  | acczCommand (c : CellId)
  | tileRelease (c : CellId)
  | positionLeave (r : RowId)
  | waveMarkerCompletion (r : RowId)
  | engineDrainEnd (r : RowId)
  | rcfPlacement (r : RowId)
  | stateSave (r : RowId)
  | positionGoLive (r : RowId)
  | imagePreload (r : RowId)
  | ringDelivery (v : VpId) (edge : Nat)
  | ingressBindingTake (v : VpId) (binding : Nat)
  | egressBindingWrite (v : VpId) (binding : Nat)
  | deadlockTimeout (v : VpId)
  | vpCompletion (v : VpId)
  | preInsertion (v : VpId)
  | cellContextSave (c : CellId)
  | orphanTokenDrop (c : CellId) (port : Fin 8)
  | candidateChoice (die : Fin 2)
  | admission (die : Fin 2)
  | priorityAging (die : Fin 2)
  | eventRecordArrival (i : Nat)
  | wfeTimeout (k : CoreId)
  | remoteCallArrival (i : Nat)
  | callRefusalResend (i : Nat)
  | remoteContextStart (u : UnitId)
  | remoteBudgetExhausted (t : RemoteId)
  | builtinReduce (t : RemoteId)
  | builtinAdamw (t : RemoteId)
  | builtinFill (t : RemoteId)
  | builtinCopy (t : RemoteId)
  | callReplyArrival (i : Nat)
  | callReplyToken (c : CellId)
  | callResend (c : CallerId) (slot : Fin 16)
  | callLostTimeout (c : CallerId) (slot : Fin 16)
  | lineOwnerAccess (k : CoreId) (n : Nat)
  | atomicAtOwner (c : CellId) (n : Nat)
  | scTokenVisit (node : Nat)
  | firelFlitReceive (flit : Flit)
  | firelLinkFailure (link : Fin 12)
  | faultReplay (c : CellId)
  | faultTeardown (c : CellId)
  | faultWatchdog (c : CellId)
  | kevqEmpty (k : CoreId)
  | postTrigger (k : CoreId) (n : Nat)
  | launchTrigger (hart : Fin 24)
  | partitionCommit (hart : Fin 24)
  | coreStart (hart : Fin 24)
  | registerWrite (k : CoreId) (n : Nat)
  | vfReset (tenant : BitVec 8)
  | powerWindowEnd (mW : Nat) (tempC : Nat)
  | overTemperature (tempC : Nat)
  | moduleBoot (b : BootInput)
  | pcieInboundRequest (req : PcieRequest)
  | spireHartInstruction (hart : Fin 24) (op : HartOp)
  deriving DecidableEq, Repr

end Sys2Proof
end

