-- ==== Sys2Proof/WellFormed.lean ====
section
/-!
DEFINITION. The rules that a control word (R30) and a cell word on its own (R26, items 2 to 9) have
to meet beyond the values its fields can hold. `Instr.reject` answers the reason for a refusal.
-/

namespace Sys2Proof

/-- Why a word is no instruction. A control core answers every one with ILLEGAL (R18, R30). An image
check reports the item of R26. -/
inductive Reject where
  /-- An opcode byte of no set, or of the other set (R18). -/
  | undefinedOpcode
  /-- A field that the instruction does not use is nonzero (R30). -/
  | unusedField
  /-- A capability field has its top bits nonzero (R30). -/
  | capabilityField
  /-- A function code that the opcode does not define (R30). -/
  | undefinedFunction
  /-- A register range that runs past x63 (R30). -/
  | registerRange
  /-- A cell word that the image check refuses, under this item of R26. -/
  | item (n : Nat)
  /-- Fewer than four bytes are left. -/
  | truncated
  deriving DecidableEq, Repr

/-- The registers x[r] to x[r+n] exist (R30). -/
def rangeItem (r : XReg) (n : Nat) : Option Reject :=
  if r.val + n < 64 then .none else some .registerRange

/-- A target whose position is `out` names g0 to g63, port 0 to 5 or none (R21). -/
def Target.defined (t : Target) : Bool :=
  t.pos != .out || decide (t.idx.val < 70) || t.idx == 127

/-- The items of R26 that one C3 word can fail, lowest first: the predicate mode (2), the modifier
(3), an undefined target (5), a target where there is no result (7). `needP` and `ord` say whether
pm 11 is required or allowed (R20). -/
def c3Item (needP ord mOk hasT0 hasT1 : Bool) (f : C3) : Option Reject :=
  if (needP && f.pm != .third) || (!needP && !ord && f.pm == .third) then some (.item 2)
  else if !mOk then some (.item 3)
  else if !f.t0.defined || !f.t1.defined then some (.item 5)
  else if (!hasT0 && f.t0 != .none) || (!hasT1 && f.t1 != .none) then some (.item 7)
  else .none

/-- The items of R26 that one CI word can fail. -/
def ciItem (f : CI) : Option Reject :=
  if f.pm == .third then some (.item 2) else if !f.t0.defined then some (.item 5) else .none

/-- The items of R26 that one CB word can fail on its own; BEND takes block 0 only (item 9). -/
def cbItem (blkOk : Bool) (f : CB) : Option Reject :=
  if f.pm == .third then some (.item 2) else if !blkOk then some (.item 9) else .none

/-- Why a term of `Instr` stands for no word that the device accepts; `none` where it does. -/
def Instr.reject : Instr → Option Reject
  | .fmrg _ _ _ b n => rangeItem b n
  | .fscan _ _ _ b n => rangeItem b (n + 1)
  | .fprobe _ _ _ b n => rangeItem b n
  | .fdel _ _ _ b n => rangeItem b n
  | .evpopPoll d => rangeItem d 1
  | .evpopWait d => rangeItem d 1
  | .rcall _ _ _ _ b n => rangeItem b n
  | .rwait _ _ b => rangeItem b 1
  | .bx f => c3Item false false (f.m = 0) false false f
  | .bxi f => cbItem true f
  | .bend f => cbItem (f.blk = 0) f
  | .mov f => c3Item false false (f.m = 0) true true f
  | .movi f => ciItem f
  | .movh f => ciItem f
  | .null f => c3Item false false (f.m = 0) true true f
  | .iota f => c3Item false false (f.m = 0) true true f
  | .cid f => c3Item false false (f.m = 0) true true f
  | .cellCyc f => c3Item false false (f.m = 0) true true f
  | .cellTrap f => c3Item false false (f.m = 0) false false f
  | .testk f => c3Item false false (f.m ≤ 12) true true f
  | .sel f => c3Item true false (f.m = 0) true true f
  | .setv f => c3Item false false (f.m = 0) true true f
  | .getv f => c3Item false false (f.m = 0) true true f
  | .cellAdd f => c3Item false false (f.m.val % 4 ≠ 3 ∧ f.m.val / 4 % 2 = 0) true true f
  | .cellSub f => c3Item false false (f.m.val % 4 ≠ 3 ∧ f.m.val / 4 % 2 = 0) true true f
  | .cellMul f => c3Item false false (f.m < 3) true true f
  | .cellMulh f => c3Item false false (f.m.val % 4 ≠ 3 ∧ f.m < 8) true true f
  | .cellMin f => c3Item false false (f.m.val % 4 ≠ 3 ∧ f.m < 8) true true f
  | .cellMax f => c3Item false false (f.m.val % 4 ≠ 3 ∧ f.m < 8) true true f
  | .cellAnd f => c3Item false false (f.m < 3) true true f
  | .cellOr f => c3Item false false (f.m < 3) true true f
  | .cellXor f => c3Item false false (f.m < 3) true true f
  | .cellShl f => c3Item false false (f.m < 3) true true f
  | .cellShr f => c3Item false false (f.m.val % 4 ≠ 3 ∧ f.m < 8) true true f
  | .cellSar f => c3Item false false (f.m < 3) true true f
  | .cellClz f => c3Item false false (f.m < 3) true true f
  | .cellPopc f => c3Item false false (f.m < 3) true true f
  | .cmp f => c3Item false false (f.m ≤ 5) true true f
  | .cellAddi f => ciItem f
  | .cellAndi f => ciItem f
  | .cellOri f => ciItem f
  | .cellShli f => ciItem f
  | .cellShri f => ciItem f
  | .cellSari f => ciItem f
  | .fadd f => c3Item false false (f.m = 0) true true f
  | .fsub f => c3Item false false (f.m = 0) true true f
  | .fmul f => c3Item false false (f.m = 0) true true f
  | .fma f => c3Item true false (f.m = 0) true true f
  | .fmin f => c3Item false false (f.m = 0) true true f
  | .fmax f => c3Item false false (f.m = 0) true true f
  | .fabs f => c3Item false false (f.m ≤ 3) true true f
  | .fcmp f => c3Item false false (f.m ≤ 4) true true f
  | .fcvt f => c3Item false false (f.m ≤ 9) true true f
  | .unpk f => c3Item false false (f.m ≤ 3) true true f
  | .pack f => c3Item false false (f.m ≤ 2) true true f
  | .fexp2 f => c3Item false false (f.m = 0) true true f
  | .flog2 f => c3Item false false (f.m = 0) true true f
  | .frcp f => c3Item false false (f.m = 0) true true f
  | .frsq f => c3Item false false (f.m = 0) true true f
  | .ftanh f => c3Item false false (f.m = 0) true true f
  | .radd f => c3Item false false (f.m ≤ 1) true true f
  | .rmax f => c3Item false false (f.m ≤ 2) true true f
  | .rmin f => c3Item false false (f.m ≤ 2) true true f
  | .psum f => c3Item false false (f.m ≤ 1) true true f
  | .perm f => c3Item false false (f.m = 0) true true f
  | .bcst f => c3Item false false true true true f
  | .lsh f => c3Item false false true true true f
  | .cmpk f => c3Item false false (f.m = 0) true true f
  | .expd f => c3Item false false (f.m = 0) true true f
  | .nzscan f => c3Item false false (f.m ≤ 1) true true f
  | .join f => c3Item false false (f.m ≤ 1) true true f
  | .ld f => c3Item false true true true true f
  | .ldc f => c3Item false true true true true f
  | .st f => c3Item false true true true true f
  | .stc f => c3Item false true true true true f
  | .atadd f => c3Item false true true true (f.t0 ≠ .none) f
  | .atfadd f => c3Item false true true true (f.t0 ≠ .none) f
  | .atmax f => c3Item false true true true (f.t0 ≠ .none) f
  | .lookup f => c3Item false true true true true f
  | .tagset f => c3Item false true true true true f
  | .tagclr f => c3Item false true true true true f
  | .cellFmrg f => c3Item false true true false false f
  | .cellFprobe f => c3Item false true true true true f
  | .cellFscan f => c3Item false true true false false f
  | .rcv f => c3Item false false (f.m ≤ 7) true true f
  | .mark f => c3Item false false (f.m ≤ 12) true true f
  | .xreq f => c3Item false false true false false f
  | .cellRcall f => c3Item false true true false false f
  | .joinp f => c3Item false false true true true f
  | .mma f => c3Item true false (f.m = 0) true false f
  | .mmas f => c3Item true false (f.m = 0) true false f
  | .mmap f => c3Item true false (f.m = 0) true false f
  | .accrd f => c3Item false false (f.m = 0) true true f
  | .accz f => c3Item false false (f.m = 0) false false f
  | .add .. | .sub .. | .mul .. | .mulh .. | .mulhu .. | .div .. | .divu .. | .rem ..
  | .remu .. | .and .. | .or .. | .xor .. | .shl .. | .shr .. | .sar .. | .slt .. | .sltu ..
  | .min .. | .max .. | .minu .. | .maxu .. | .clz .. | .popc .. | .addi .. | .andi ..
  | .ori .. | .xori .. | .shli .. | .shri .. | .sari .. | .slti .. | .sltiu .. | .lui ..
  | .beq .. | .bne .. | .blt .. | .bge .. | .bltu .. | .bgeu .. | .jal .. | .jalr .. | .ldb ..
  | .ldh .. | .ldw .. | .ldd .. | .ldbu .. | .ldhu .. | .ldwu .. | .stb .. | .sth .. | .stw ..
  | .std .. | .lda .. | .stl .. | .amoadd .. | .amoswp .. | .amocas .. | .amomin ..
  | .amomax .. | .amoand .. | .amoor .. | .amoxor .. | .cld .. | .cst .. | .csetb ..
  | .candp .. | .cget .. | .cmov .. | .fnew .. | .ffree .. | .finfo .. | .launch ..
  | .splice .. | .preempt .. | .resume .. | .cfgld .. | .rret .. | .rfwd .. | .fence ..
  | .trap .. | .eret .. | .sysrd .. | .syswr .. | .wfe .. | .sev .. | .halt .. | .tlbi ..
  | .crc .. | .vsig .. | .ldsc .. | .stsc .. | .cfgchk .. | .cfgclr .. | .barw .. | .ifence ..
  | .sbind .. | .sbar .. | .cyc .. | .nop .. | .fibreFormat .. | .fibreNew .. | .fibreFree ..
  | .fibreMerge .. | .poolReservation .. | .fibreDelete .. | .fibreScanStep .. | .fibreProbe ..
  | .fibreInfo .. | .holdLapse .. | .fibreRefusedResend .. | .fibreReply ..
  | .fibrePostedReply .. | .fprobeReply .. | .pageWalk .. | .blockCommit ..
  | .blockQuiescence .. | .markerDrain .. | .sendResume .. | .tokenReceive ..
  | .memoryCellRequest .. | .memoryCellReply .. | .transferLine .. | .addressGeneratorToken ..
  | .matrixCommandStart .. | .matrixOperandTake .. | .acczCommand .. | .tileRelease ..
  | .positionLeave .. | .waveMarkerCompletion .. | .engineDrainEnd .. | .rcfPlacement ..
  | .stateSave .. | .positionGoLive .. | .imagePreload .. | .ringDelivery ..
  | .ingressBindingTake .. | .egressBindingWrite .. | .deadlockTimeout .. | .vpCompletion ..
  | .preInsertion .. | .cellContextSave .. | .orphanTokenDrop .. | .candidateChoice ..
  | .admission .. | .priorityAging .. | .eventRecordArrival .. | .wfeTimeout ..
  | .remoteCallArrival .. | .callRefusalResend .. | .remoteContextStart ..
  | .remoteBudgetExhausted .. | .builtinReduce .. | .builtinAdamw .. | .builtinFill ..
  | .builtinCopy .. | .callReplyArrival .. | .callReplyToken .. | .callResend ..
  | .callLostTimeout .. | .lineOwnerAccess .. | .atomicAtOwner .. | .scTokenVisit ..
  | .firelFlitReceive .. | .firelLinkFailure .. | .faultReplay .. | .faultTeardown ..
  | .faultWatchdog .. | .kevqEmpty .. | .postTrigger .. | .launchTrigger ..
  | .partitionCommit .. | .coreStart .. | .registerWrite .. | .vfReset .. | .powerWindowEnd ..
  | .overTemperature .. | .moduleBoot .. | .pcieInboundRequest .. | .spireHartInstruction .. => .none

/-- The term stands for a word that the device accepts (R26, R30); a device step has no word and is
well-formed. -/
def Instr.wellFormed (i : Instr) : Bool := i.reject.isNone

end Sys2Proof
end

