-- ==== Sys2Proof/Decode.lean ====
section
/-!
DEFINITION. The decoder of one 32-bit word (R17 to R46), and the encoder after it. Both work on
natural numbers, each field by division and remainder, from the formats of R19 and R27. A control core
answers every refusal with ILLEGAL; an image check reports the item of R26.
-/

namespace Sys2Proof

/-! Field values of a word w. -/

/-- The opcode byte [31:24] (R18). -/
def vOp (w : Nat) : Nat := w / 16777216 % 256
/-- Field d, [23:18] (R27). -/
def vD (w : Nat) : Nat := w / 262144 % 64
/-- Field a of XR and XI, [17:12]. -/
def vA (w : Nat) : Nat := w / 4096 % 64
/-- Field b of XR, [11:6]. -/
def vB (w : Nat) : Nat := w / 64 % 64
/-- The function code f, [5:0]. -/
def vF (w : Nat) : Nat := w % 64
/-- imm12 and off12, [11:0]. -/
def vImm12 (w : Nat) : Nat := w % 4096
/-- imm18 and off18, [17:0]. -/
def vLow18 (w : Nat) : Nat := w % 262144
/-- Field a of XM, XA and XF, [13:8]. -/
def vMA (w : Nat) : Nat := w / 256 % 64

def fD (w : Nat) : XReg := Fin.ofNat 64 (vD w)
def fA (w : Nat) : XReg := Fin.ofNat 64 (vA w)
def fB (w : Nat) : XReg := Fin.ofNat 64 (vB w)
def fMA (w : Nat) : XReg := Fin.ofNat 64 (vMA w)
/-- Field b of XA and XF, [7:2]. -/
def fMB (w : Nat) : XReg := Fin.ofNat 64 (w / 4)
/-- Field c, [17:14]. -/
def fC (w : Nat) : CReg := Fin.ofNat 16 (w / 16384)
def fImm12 (w : Nat) : BitVec 12 := BitVec.ofNat 12 (vImm12 w)
def fImm8 (w : Nat) : BitVec 8 := BitVec.ofNat 8 w

/-- The number of a predicate mode (R20). -/
def Pm.code : Pm → Nat
  | .always => 0 | .onTrue => 1 | .onFalse => 2 | .third => 3

def Pm.ofCode : Nat → Pm
  | 0 => .always | 1 => .onTrue | 2 => .onFalse | _ => .third

/-- The number of a target position (R21). -/
def Pos.code : Pos → Nat
  | .l => 0 | .r => 1 | .p => 2 | .out => 3

def Pos.ofCode : Nat → Pos
  | 0 => .l | 1 => .r | 2 => .p | _ => .out

/-- The nine bits of a target (R21). -/
def Target.code (t : Target) : Nat := t.pos.code * 128 + t.idx.val

def Target.ofCode (x : Nat) : Target := ⟨Pos.ofCode (x / 128 % 4), Fin.ofNat 128 x⟩

/-- The scope codes of R8. -/
def Scope.code : Scope → Nat
  | .cell => 0 | .row => 1 | .band => 2 | .die => 3 | .dev => 4 | .pod => 5

/-- The field selectors of R73. -/
def CapField.code : CapField → Nat
  | .base => 0 | .length => 1 | .space => 2 | .perms => 3 | .tenant => 4 | .otype => 5 | .tag => 6
  | .limit => 7

/-- The fields of a C3 word (R19). -/
def fC3 (w : Nat) : C3 :=
  ⟨Pm.ofCode (w / 4194304 % 4), Target.ofCode (w / 8192 % 512), Target.ofCode (w / 16 % 512),
    Fin.ofNat 16 w⟩

/-- The fields of a CI word (R19). -/
def fCI (w : Nat) : CI :=
  ⟨Pm.ofCode (w / 4194304 % 4), Target.ofCode (w / 8192 % 512), BitVec.ofNat 13 w⟩

/-- The instruction, or the reason for refusal where the condition fails. -/
def need (ok : Bool) (r : Reject) (i : Except Reject Instr) : Except Reject Instr :=
  if ok then i else .error r

/-- A function code that has to be the one value its opcode defines (R45). -/
def needF (ok : Bool) (i : Except Reject Instr) : Except Reject Instr :=
  need ok .undefinedFunction i

/-- A CB word (R19): pm 11 is item 2 and a bit that the format marks zero item 4 of R26. -/
def decodeCB (w : Nat) (k : CB → Instr) : Except Reject Instr :=
  let f : CB := ⟨Pm.ofCode (w / 4194304 % 4), Fin.ofNat 32 (w / 65536)⟩
  need (f.pm != .third) (.item 2) <|
    need (w % 65536 = 0 ∧ w / 2097152 % 2 = 0) (.item 4) (.ok (k f))

/-- NOP has one word (R25); the others of opcode 0x00 fail the items of a C3 word without results. -/
def decodeNop (w : Nat) : Except Reject Instr :=
  let f := fC3 w
  if f.pm != .always then .error (.item 2)
  else match c3Item false false (f.m = 0) false false f with
    | some r => .error r
    | .none => .ok .nop

/-- CGET by its selector (R73). -/
def decodeCget (w : Nat) : Except Reject Instr :=
  let k (f : CapField) : Except Reject Instr :=
    need (vA w < 16) .capabilityField <|
      need (vB w = 0) .unusedField (.ok (.cget (fD w) (Fin.ofNat 16 (vA w)) f))
  match vF w with
  | 0 => k .base | 1 => k .length | 2 => k .space | 3 => k .perms | 4 => k .tenant
  | 5 => k .otype | 6 => k .tag | 7 => k .limit
  | _ => .error .undefinedFunction

/-- FENCE by its scope code (R8, R45). -/
def decodeFence (w : Nat) : Except Reject Instr :=
  let k (s : Scope) : Except Reject Instr :=
    need (vD w = 0 ∧ vA w = 0 ∧ vB w = 0) .unusedField (.ok (.fence s))
  match vF w with
  | 0 => k .cell | 1 => k .row | 2 => k .band | 3 => k .die | 4 => k .dev | 5 => k .pod
  | _ => .error .undefinedFunction

/-- The XALU functions (R43). -/
def decodeXalu (w : Nat) : Except Reject Instr :=
  match vF w with
  | 0 => .ok (.add (fD w) (fA w) (fB w))
  | 1 => .ok (.sub (fD w) (fA w) (fB w))
  | 2 => .ok (.mul (fD w) (fA w) (fB w))
  | 3 => .ok (.mulh (fD w) (fA w) (fB w))
  | 4 => .ok (.mulhu (fD w) (fA w) (fB w))
  | 5 => .ok (.div (fD w) (fA w) (fB w))
  | 6 => .ok (.divu (fD w) (fA w) (fB w))
  | 7 => .ok (.rem (fD w) (fA w) (fB w))
  | 8 => .ok (.remu (fD w) (fA w) (fB w))
  | 9 => .ok (.and (fD w) (fA w) (fB w))
  | 10 => .ok (.or (fD w) (fA w) (fB w))
  | 11 => .ok (.xor (fD w) (fA w) (fB w))
  | 12 => .ok (.shl (fD w) (fA w) (fB w))
  | 13 => .ok (.shr (fD w) (fA w) (fB w))
  | 14 => .ok (.sar (fD w) (fA w) (fB w))
  | 15 => .ok (.slt (fD w) (fA w) (fB w))
  | 16 => .ok (.sltu (fD w) (fA w) (fB w))
  | 17 => .ok (.min (fD w) (fA w) (fB w))
  | 18 => .ok (.max (fD w) (fA w) (fB w))
  | 19 => .ok (.minu (fD w) (fA w) (fB w))
  | 20 => .ok (.maxu (fD w) (fA w) (fB w))
  | 21 => need (vB w = 0) .unusedField (.ok (.clz (fD w) (fA w)))
  | 22 => need (vB w = 0) .unusedField (.ok (.popc (fD w) (fA w)))
  | _ => .error .undefinedFunction

/-- The SYS functions (R44). -/
def decodeSys (w : Nat) : Except Reject Instr :=
  match vF w with
  | 0 => need (vD w = 0) .unusedField (.ok (.trap (BitVec.ofNat 12 (w / 64))))
  | 1 => need (vD w = 0 ∧ vA w = 0 ∧ vB w = 0) .unusedField (.ok .eret)
  | 2 => .ok (.sysrd (fD w) (BitVec.ofNat 12 (w / 64)))
  | 3 => .ok (.syswr (fD w) (BitVec.ofNat 12 (w / 64)))
  | 4 => need (vD w = 0 ∧ vA w = 0 ∧ vB w = 0) .unusedField (.ok .wfe)
  | 5 => need (vD w = 0 ∧ vA w = 0 ∧ vB w = 0) .unusedField (.ok .sev)
  | 6 => need (vD w = 0 ∧ vA w = 0 ∧ vB w = 0) .unusedField (.ok .halt)
  | 7 => need (vD w = 0) .unusedField (.ok (.tlbi (fA w) (fB w)))
  | 8 => .ok (.crc (fD w) (fA w) (fB w))
  | 9 => need (vA w < 16) .capabilityField (.ok (.vsig (fD w) (Fin.ofNat 16 (vA w)) (fB w)))
  | 10 => need (vA w < 16) .capabilityField (.ok (.ldsc (fD w) (Fin.ofNat 16 (vA w)) (fB w)))
  | 11 => need (vA w < 16) .capabilityField (.ok (.stsc (fD w) (Fin.ofNat 16 (vA w)) (fB w)))
  | 12 => need (vA w < 16) .capabilityField (.ok (.cfgchk (fD w) (Fin.ofNat 16 (vA w)) (fB w)))
  | 13 => need (vB w = 0) .unusedField (.ok (.cfgclr (fD w) (fA w)))
  | 14 => need (vB w = 0) .unusedField (.ok (.barw (fD w) (fA w)))
  | 15 => need (vD w = 0 ∧ vA w = 0 ∧ vB w = 0) .unusedField (.ok .ifence)
  | 16 => .ok (.sbind (fD w) (fA w) (fB w))
  | 17 => need (vB w = 0) .unusedField (.ok (.sbar (fD w) (fA w)))
  | 18 => need (vA w = 0 ∧ vB w = 0) .unusedField (.ok (.cyc (fD w)))
  | _ => .error .undefinedFunction

/-- Opcode 0xBA by its function code (R45). -/
def decodeEvpop (w : Nat) : Except Reject Instr :=
  match vF w with
  | 0 => need (vA w = 0 ∧ vB w = 0) .unusedField (.ok (.evpopPoll (fD w)))
  | 1 => need (vA w = 0 ∧ vB w = 0) .unusedField (.ok (.evpopWait (fD w)))
  | _ => .error .undefinedFunction

/-- Opcode 0xBD by its function code (R45). -/
def decodeRfwd (w : Nat) : Except Reject Instr :=
  match vF w with
  | 0 => .ok (.rret (fD w) (fA w) (fB w))
  | 1 => need (vA w < 16) .capabilityField <|
    need (vD w = 0) .unusedField (.ok (.rfwd (Fin.ofNat 16 (vA w)) (fB w)))
  | _ => .error .undefinedFunction

/-- The control opcode map (R42, R45), before the checks of register ranges. -/
def decodeControlMap (w : Nat) : Except Reject Instr :=
  match vOp w with
  | 0x80 => decodeXalu w
  | 0x81 => .ok (.addi (fD w) (fA w) (fImm12 w))
  | 0x82 => .ok (.andi (fD w) (fA w) (fImm12 w))
  | 0x83 => .ok (.ori (fD w) (fA w) (fImm12 w))
  | 0x84 => .ok (.xori (fD w) (fA w) (fImm12 w))
  | 0x85 => need (vImm12 w < 64) .unusedField (.ok (.shli (fD w) (fA w) (BitVec.ofNat 6 (vImm12 w))))
  | 0x86 => need (vImm12 w < 64) .unusedField (.ok (.shri (fD w) (fA w) (BitVec.ofNat 6 (vImm12 w))))
  | 0x87 => need (vImm12 w < 64) .unusedField (.ok (.sari (fD w) (fA w) (BitVec.ofNat 6 (vImm12 w))))
  | 0x88 => .ok (.slti (fD w) (fA w) (fImm12 w))
  | 0x89 => .ok (.sltiu (fD w) (fA w) (fImm12 w))
  | 0x8A => .ok (.lui (fD w) (BitVec.ofNat 18 (vLow18 w)))
  | 0x8B => .ok (.beq (fD w) (fA w) (fImm12 w))
  | 0x8C => .ok (.bne (fD w) (fA w) (fImm12 w))
  | 0x8D => .ok (.blt (fD w) (fA w) (fImm12 w))
  | 0x8E => .ok (.bge (fD w) (fA w) (fImm12 w))
  | 0x8F => .ok (.bltu (fD w) (fA w) (fImm12 w))
  | 0x90 => .ok (.bgeu (fD w) (fA w) (fImm12 w))
  | 0x91 => .ok (.jal (fD w) (BitVec.ofNat 18 (vLow18 w)))
  | 0x92 => .ok (.jalr (fD w) (fA w) (fImm12 w))
  | 0x93 => .ok (.ldb (fD w) (fC w) (fMA w) (fImm8 w))
  | 0x94 => .ok (.ldh (fD w) (fC w) (fMA w) (fImm8 w))
  | 0x95 => .ok (.ldw (fD w) (fC w) (fMA w) (fImm8 w))
  | 0x96 => .ok (.ldd (fD w) (fC w) (fMA w) (fImm8 w))
  | 0x97 => .ok (.ldbu (fD w) (fC w) (fMA w) (fImm8 w))
  | 0x98 => .ok (.ldhu (fD w) (fC w) (fMA w) (fImm8 w))
  | 0x99 => .ok (.ldwu (fD w) (fC w) (fMA w) (fImm8 w))
  | 0x9A => .ok (.stb (fD w) (fC w) (fMA w) (fImm8 w))
  | 0x9B => .ok (.sth (fD w) (fC w) (fMA w) (fImm8 w))
  | 0x9C => .ok (.stw (fD w) (fC w) (fMA w) (fImm8 w))
  | 0x9D => .ok (.std (fD w) (fC w) (fMA w) (fImm8 w))
  | 0x9E => .ok (.lda (fD w) (fC w) (fMA w) (fImm8 w))
  | 0x9F => .ok (.stl (fD w) (fC w) (fMA w) (fImm8 w))
  | 0xA0 => .ok (.amoadd (fD w) (fC w) (fMA w) (fMB w) (w / 2 % 2 == 1) (w % 2 == 1))
  | 0xA1 => .ok (.amoswp (fD w) (fC w) (fMA w) (fMB w) (w / 2 % 2 == 1) (w % 2 == 1))
  | 0xA2 => .ok (.amocas (fD w) (fC w) (fMA w) (fMB w) (w / 2 % 2 == 1) (w % 2 == 1))
  | 0xA3 => .ok (.amomin (fD w) (fC w) (fMA w) (fMB w) (w / 2 % 2 == 1) (w % 2 == 1))
  | 0xA4 => .ok (.amomax (fD w) (fC w) (fMA w) (fMB w) (w / 2 % 2 == 1) (w % 2 == 1))
  | 0xA5 => .ok (.amoand (fD w) (fC w) (fMA w) (fMB w) (w / 2 % 2 == 1) (w % 2 == 1))
  | 0xA6 => .ok (.amoor (fD w) (fC w) (fMA w) (fMB w) (w / 2 % 2 == 1) (w % 2 == 1))
  | 0xA7 => .ok (.amoxor (fD w) (fC w) (fMA w) (fMB w) (w / 2 % 2 == 1) (w % 2 == 1))
  | 0xA8 => need (vD w < 16) .capabilityField (.ok (.cld (Fin.ofNat 16 (vD w)) (fC w) (fMA w) (fImm8 w)))
  | 0xA9 => need (vD w < 16) .capabilityField (.ok (.cst (Fin.ofNat 16 (vD w)) (fC w) (fMA w) (fImm8 w)))
  | 0xAA => need (vD w < 16 ∧ vA w < 16) .capabilityField <|
    needF (vF w = 0) (.ok (.csetb (Fin.ofNat 16 (vD w)) (Fin.ofNat 16 (vA w)) (fB w)))
  | 0xAB => need (vD w < 16 ∧ vA w < 16) .capabilityField <|
    needF (vF w = 0) (.ok (.candp (Fin.ofNat 16 (vD w)) (Fin.ofNat 16 (vA w)) (fB w)))
  | 0xAC => decodeCget w
  | 0xAD => need (vD w < 16 ∧ vA w < 16) .capabilityField <|
    needF (vF w = 0) (need (vB w = 0) .unusedField (.ok (.cmov (Fin.ofNat 16 (vD w)) (Fin.ofNat 16 (vA w)))))
  | 0xAE => need (w % 256 = 0) .unusedField (.ok (.fnew (fD w) (fC w) (fMA w)))
  | 0xAF => need (w % 256 = 0) .unusedField (.ok (.ffree (fD w) (fC w) (fMA w)))
  | 0xB0 => .ok (.fmrg (fD w) (fC w) (fMA w) (fMB w) (Fin.ofNat 4 w))
  | 0xB1 => .ok (.fscan (fD w) (fC w) (fMA w) (fMB w) (Fin.ofNat 4 w))
  | 0xB2 => .ok (.fprobe (fD w) (fC w) (fMA w) (fMB w) (Fin.ofNat 4 w))
  | 0xB3 => .ok (.fdel (fD w) (fC w) (fMA w) (fMB w) (Fin.ofNat 4 w))
  | 0xB4 => need (w % 256 = 0) .unusedField (.ok (.finfo (fD w) (fC w) (fMA w)))
  | 0xB5 => needF (vF w = 0) <| need (vA w < 16) .capabilityField (.ok (.launch (fD w) (Fin.ofNat 16 (vA w)) (fB w)))
  | 0xB6 => needF (vF w = 0) <| need (vA w < 16) .capabilityField (.ok (.splice (fD w) (Fin.ofNat 16 (vA w)) (fB w)))
  | 0xB7 => needF (vF w = 0) <| need (vB w = 0) .unusedField (.ok (.preempt (fD w) (fA w)))
  | 0xB8 => needF (vF w = 0) <| need (vA w < 16) .capabilityField (.ok (.resume (fD w) (Fin.ofNat 16 (vA w)) (fB w)))
  | 0xB9 => needF (vF w = 0) <| need (vA w < 16) .capabilityField (.ok (.cfgld (fD w) (Fin.ofNat 16 (vA w)) (fB w)))
  | 0xBA => decodeEvpop w
  | 0xBB => .ok (.rcall (fD w) (fC w) (w / 8192 % 2 == 1) (Fin.ofNat 32 (vMA w)) (fMB w) (Fin.ofNat 4 w))
  | 0xBC => needF (vF w = 0) (.ok (.rwait (fD w) (fA w) (fB w)))
  | 0xBD => decodeRfwd w
  | 0xBE => decodeFence w
  | 0xBF => decodeSys w
  | _ => .error .undefinedOpcode

/-- The cell opcode map (R41), before the checks of one word. -/
def decodeCellMap (w : Nat) : Except Reject Instr :=
  match vOp w with
  | 0x00 => decodeNop w
  | 0x01 => .ok (.bx (fC3 w))
  | 0x02 => decodeCB w .bxi
  | 0x03 => decodeCB w .bend
  | 0x04 => .ok (.mov (fC3 w))
  | 0x05 => .ok (.movi (fCI w))
  | 0x06 => .ok (.movh (fCI w))
  | 0x07 => .ok (.null (fC3 w))
  | 0x08 => .ok (.iota (fC3 w))
  | 0x09 => .ok (.cid (fC3 w))
  | 0x0A => .ok (.cellCyc (fC3 w))
  | 0x0B => .ok (.cellTrap (fC3 w))
  | 0x0C => .ok (.testk (fC3 w))
  | 0x0D => .ok (.sel (fC3 w))
  | 0x0E => .ok (.setv (fC3 w))
  | 0x0F => .ok (.getv (fC3 w))
  | 0x10 => .ok (.cellAdd (fC3 w))
  | 0x11 => .ok (.cellSub (fC3 w))
  | 0x12 => .ok (.cellMul (fC3 w))
  | 0x13 => .ok (.cellMulh (fC3 w))
  | 0x14 => .ok (.cellMin (fC3 w))
  | 0x15 => .ok (.cellMax (fC3 w))
  | 0x16 => .ok (.cellAnd (fC3 w))
  | 0x17 => .ok (.cellOr (fC3 w))
  | 0x18 => .ok (.cellXor (fC3 w))
  | 0x19 => .ok (.cellShl (fC3 w))
  | 0x1A => .ok (.cellShr (fC3 w))
  | 0x1B => .ok (.cellSar (fC3 w))
  | 0x1C => .ok (.cellClz (fC3 w))
  | 0x1D => .ok (.cellPopc (fC3 w))
  | 0x1E => .ok (.cmp (fC3 w))
  | 0x20 => .ok (.cellAddi (fCI w))
  | 0x21 => .ok (.cellAndi (fCI w))
  | 0x22 => .ok (.cellOri (fCI w))
  | 0x23 => .ok (.cellShli (fCI w))
  | 0x24 => .ok (.cellShri (fCI w))
  | 0x25 => .ok (.cellSari (fCI w))
  | 0x30 => .ok (.fadd (fC3 w))
  | 0x31 => .ok (.fsub (fC3 w))
  | 0x32 => .ok (.fmul (fC3 w))
  | 0x33 => .ok (.fma (fC3 w))
  | 0x34 => .ok (.fmin (fC3 w))
  | 0x35 => .ok (.fmax (fC3 w))
  | 0x36 => .ok (.fabs (fC3 w))
  | 0x37 => .ok (.fcmp (fC3 w))
  | 0x38 => .ok (.fcvt (fC3 w))
  | 0x39 => .ok (.unpk (fC3 w))
  | 0x3A => .ok (.pack (fC3 w))
  | 0x3B => .ok (.fexp2 (fC3 w))
  | 0x3C => .ok (.flog2 (fC3 w))
  | 0x3D => .ok (.frcp (fC3 w))
  | 0x3E => .ok (.frsq (fC3 w))
  | 0x3F => .ok (.ftanh (fC3 w))
  | 0x40 => .ok (.radd (fC3 w))
  | 0x41 => .ok (.rmax (fC3 w))
  | 0x42 => .ok (.rmin (fC3 w))
  | 0x43 => .ok (.psum (fC3 w))
  | 0x44 => .ok (.perm (fC3 w))
  | 0x45 => .ok (.bcst (fC3 w))
  | 0x46 => .ok (.lsh (fC3 w))
  | 0x47 => .ok (.cmpk (fC3 w))
  | 0x48 => .ok (.expd (fC3 w))
  | 0x49 => .ok (.nzscan (fC3 w))
  | 0x4A => .ok (.join (fC3 w))
  | 0x50 => .ok (.ld (fC3 w))
  | 0x51 => .ok (.ldc (fC3 w))
  | 0x52 => .ok (.st (fC3 w))
  | 0x53 => .ok (.stc (fC3 w))
  | 0x54 => .ok (.atadd (fC3 w))
  | 0x55 => .ok (.atfadd (fC3 w))
  | 0x56 => .ok (.atmax (fC3 w))
  | 0x57 => .ok (.lookup (fC3 w))
  | 0x58 => .ok (.tagset (fC3 w))
  | 0x59 => .ok (.tagclr (fC3 w))
  | 0x60 => .ok (.cellFmrg (fC3 w))
  | 0x61 => .ok (.cellFprobe (fC3 w))
  | 0x62 => .ok (.cellFscan (fC3 w))
  | 0x63 => .ok (.rcv (fC3 w))
  | 0x64 => .ok (.mark (fC3 w))
  | 0x65 => .ok (.xreq (fC3 w))
  | 0x66 => .ok (.cellRcall (fC3 w))
  | 0x67 => .ok (.joinp (fC3 w))
  | 0x70 => .ok (.mma (fC3 w))
  | 0x71 => .ok (.mmas (fC3 w))
  | 0x72 => .ok (.mmap (fC3 w))
  | 0x73 => .ok (.accrd (fC3 w))
  | 0x74 => .ok (.accz (fC3 w))
  | _ => .error .undefinedOpcode

/-- The decoded instruction, once it has passed the checks of `Instr.reject`. -/
def checked (r : Except Reject Instr) : Except Reject Instr :=
  match r with
  | .error e => .error e
  | .ok i => match i.reject with
    | some e => .error e
    | .none => .ok i

/-- A control word (R30). -/
def decodeControl (w : Nat) : Except Reject Instr := checked (decodeControlMap w)

/-- A cell word on its own (R26). An opcode of no cell instruction is item 1. -/
def decodeCell (w : Nat) : Except Reject Instr :=
  match checked (decodeCellMap w) with
  | .error .undefinedOpcode => .error (.item 1)
  | r => r

/-- A word of either set; its opcode byte says which (R18). -/
def decode (w : Nat) : Except Reject Instr :=
  if vOp w < 0x80 then decodeCell w else decodeControl w

/-- The value of little-endian bytes (R5). -/
def leNat : List Byte → Nat
  | [] => 0
  | b :: bs => b.toNat + 256 * leNat bs

/-- n as k little-endian bytes. -/
def leBytes : Nat → Nat → List Byte
  | 0, _ => []
  | k + 1, n => BitVec.ofNat 8 n :: leBytes k (n / 256)

/-- The instruction at the head of a list of bytes, little-endian (R17), and the rest. -/
def decodeBytes (bs : List Byte) : Except Reject (Instr × List Byte) :=
  if bs.length < 4 then .error .truncated
  else match decode (leNat (bs.take 4)) with
    | .error e => .error e
    | .ok i => .ok (i, bs.drop 4)

/-! The encoder. -/

/-- Formats XR and XC (R27). -/
def wXR (op d a b f : Nat) : Nat := op * 16777216 + d * 262144 + a * 4096 + b * 64 + f
/-- Formats XI and XB. -/
def wXI (op d a imm : Nat) : Nat := op * 16777216 + d * 262144 + a * 4096 + imm
/-- Formats XU and XJ. -/
def wXU (op d imm : Nat) : Nat := op * 16777216 + d * 262144 + imm
/-- Format XM. -/
def wXM (op d c a imm : Nat) : Nat := op * 16777216 + d * 262144 + c * 16384 + a * 256 + imm
/-- Formats XA and XF; n stands for w and o, or for the count. -/
def wXF (op d c a b n : Nat) : Nat :=
  op * 16777216 + d * 262144 + c * 16384 + a * 256 + b * 4 + n
/-- The XR words with a 12-bit number in [17:6] (R31). -/
def wXN (op d num f : Nat) : Nat := op * 16777216 + d * 262144 + num * 64 + f
/-- Format C3. -/
def wC3 (op : Nat) (f : C3) : Nat :=
  op * 16777216 + f.pm.code * 4194304 + f.t0.code * 8192 + f.t1.code * 16 + f.m.val
/-- Format CI. -/
def wCI (op : Nat) (f : CI) : Nat :=
  op * 16777216 + f.pm.code * 4194304 + f.t0.code * 8192 + f.imm.toNat
/-- Format CB. -/
def wCB (op : Nat) (f : CB) : Nat := op * 16777216 + f.pm.code * 4194304 + f.blk.val * 65536

/-- The word of a well-formed instruction; a device step has none. [DEDUCED, log 16] -/
def encode : Instr → Option Nat
  | .add d a b => some (wXR 0x80 d a b 0)
  | .sub d a b => some (wXR 0x80 d a b 1)
  | .mul d a b => some (wXR 0x80 d a b 2)
  | .mulh d a b => some (wXR 0x80 d a b 3)
  | .mulhu d a b => some (wXR 0x80 d a b 4)
  | .div d a b => some (wXR 0x80 d a b 5)
  | .divu d a b => some (wXR 0x80 d a b 6)
  | .rem d a b => some (wXR 0x80 d a b 7)
  | .remu d a b => some (wXR 0x80 d a b 8)
  | .and d a b => some (wXR 0x80 d a b 9)
  | .or d a b => some (wXR 0x80 d a b 10)
  | .xor d a b => some (wXR 0x80 d a b 11)
  | .shl d a b => some (wXR 0x80 d a b 12)
  | .shr d a b => some (wXR 0x80 d a b 13)
  | .sar d a b => some (wXR 0x80 d a b 14)
  | .slt d a b => some (wXR 0x80 d a b 15)
  | .sltu d a b => some (wXR 0x80 d a b 16)
  | .min d a b => some (wXR 0x80 d a b 17)
  | .max d a b => some (wXR 0x80 d a b 18)
  | .minu d a b => some (wXR 0x80 d a b 19)
  | .maxu d a b => some (wXR 0x80 d a b 20)
  | .clz d a => some (wXR 0x80 d a 0 21)
  | .popc d a => some (wXR 0x80 d a 0 22)
  | .addi d a imm => some (wXI 0x81 d a imm.toNat)
  | .andi d a imm => some (wXI 0x82 d a imm.toNat)
  | .ori d a imm => some (wXI 0x83 d a imm.toNat)
  | .xori d a imm => some (wXI 0x84 d a imm.toNat)
  | .shli d a imm => some (wXI 0x85 d a imm.toNat)
  | .shri d a imm => some (wXI 0x86 d a imm.toNat)
  | .sari d a imm => some (wXI 0x87 d a imm.toNat)
  | .slti d a imm => some (wXI 0x88 d a imm.toNat)
  | .sltiu d a imm => some (wXI 0x89 d a imm.toNat)
  | .lui d imm => some (wXU 0x8A d imm.toNat)
  | .beq a b off => some (wXI 0x8B a b off.toNat)
  | .bne a b off => some (wXI 0x8C a b off.toNat)
  | .blt a b off => some (wXI 0x8D a b off.toNat)
  | .bge a b off => some (wXI 0x8E a b off.toNat)
  | .bltu a b off => some (wXI 0x8F a b off.toNat)
  | .bgeu a b off => some (wXI 0x90 a b off.toNat)
  | .jal d off => some (wXU 0x91 d off.toNat)
  | .jalr d a imm => some (wXI 0x92 d a imm.toNat)
  | .ldb d c a imm => some (wXM 0x93 d c a imm.toNat)
  | .ldh d c a imm => some (wXM 0x94 d c a imm.toNat)
  | .ldw d c a imm => some (wXM 0x95 d c a imm.toNat)
  | .ldd d c a imm => some (wXM 0x96 d c a imm.toNat)
  | .ldbu d c a imm => some (wXM 0x97 d c a imm.toNat)
  | .ldhu d c a imm => some (wXM 0x98 d c a imm.toNat)
  | .ldwu d c a imm => some (wXM 0x99 d c a imm.toNat)
  | .stb d c a imm => some (wXM 0x9A d c a imm.toNat)
  | .sth d c a imm => some (wXM 0x9B d c a imm.toNat)
  | .stw d c a imm => some (wXM 0x9C d c a imm.toNat)
  | .std d c a imm => some (wXM 0x9D d c a imm.toNat)
  | .lda d c a imm => some (wXM 0x9E d c a imm.toNat)
  | .stl d c a imm => some (wXM 0x9F d c a imm.toNat)
  | .amoadd d c a b w ar => some (wXF 0xA0 d c a b (2 * w.toNat + ar.toNat))
  | .amoswp d c a b w ar => some (wXF 0xA1 d c a b (2 * w.toNat + ar.toNat))
  | .amocas d c a b w ar => some (wXF 0xA2 d c a b (2 * w.toNat + ar.toNat))
  | .amomin d c a b w ar => some (wXF 0xA3 d c a b (2 * w.toNat + ar.toNat))
  | .amomax d c a b w ar => some (wXF 0xA4 d c a b (2 * w.toNat + ar.toNat))
  | .amoand d c a b w ar => some (wXF 0xA5 d c a b (2 * w.toNat + ar.toNat))
  | .amoor d c a b w ar => some (wXF 0xA6 d c a b (2 * w.toNat + ar.toNat))
  | .amoxor d c a b w ar => some (wXF 0xA7 d c a b (2 * w.toNat + ar.toNat))
  | .cld cd c a imm => some (wXM 0xA8 cd c a imm.toNat)
  | .cst cd c a imm => some (wXM 0xA9 cd c a imm.toNat)
  | .csetb cd ca b => some (wXR 0xAA cd ca b 0)
  | .candp cd ca b => some (wXR 0xAB cd ca b 0)
  | .cget d ca f => some (wXR 0xAC d ca 0 f.code)
  | .cmov cd ca => some (wXR 0xAD cd ca 0 0)
  | .fnew d c a => some (wXF 0xAE d c a 0 0)
  | .ffree d c a => some (wXF 0xAF d c a 0 0)
  | .fmrg d c a b n => some (wXF 0xB0 d c a b n)
  | .fscan d c a b n => some (wXF 0xB1 d c a b n)
  | .fprobe d c a b n => some (wXF 0xB2 d c a b n)
  | .fdel d c a b n => some (wXF 0xB3 d c a b n)
  | .finfo d c a => some (wXF 0xB4 d c a 0 0)
  | .launch d ca b => some (wXR 0xB5 d ca b 0)
  | .splice d ca b => some (wXR 0xB6 d ca b 0)
  | .preempt d a => some (wXR 0xB7 d a 0 0)
  | .resume d ca b => some (wXR 0xB8 d ca b 0)
  | .cfgld d ca b => some (wXR 0xB9 d ca b 0)
  | .evpopPoll d => some (wXR 0xBA d 0 0 0)
  | .evpopWait d => some (wXR 0xBA d 0 0 1)
  | .rcall d c rel e b n => some (wXF 0xBB d c (32 * rel.toNat + e.val) b n)
  | .rwait d a b => some (wXR 0xBC d a b 0)
  | .rret d a b => some (wXR 0xBD d a b 0)
  | .rfwd ca b => some (wXR 0xBD 0 ca b 1)
  | .fence scope => some (wXR 0xBE 0 0 0 scope.code)
  | .trap code => some (wXN 0xBF 0 code.toNat 0)
  | .eret => some (wXR 0xBF 0 0 0 1)
  | .sysrd d num => some (wXN 0xBF d num.toNat 2)
  | .syswr d num => some (wXN 0xBF d num.toNat 3)
  | .wfe => some (wXR 0xBF 0 0 0 4)
  | .sev => some (wXR 0xBF 0 0 0 5)
  | .halt => some (wXR 0xBF 0 0 0 6)
  | .tlbi a b => some (wXR 0xBF 0 a b 7)
  | .crc d a b => some (wXR 0xBF d a b 8)
  | .vsig d ca b => some (wXR 0xBF d ca b 9)
  | .ldsc d ca b => some (wXR 0xBF d ca b 10)
  | .stsc d ca b => some (wXR 0xBF d ca b 11)
  | .cfgchk d ca b => some (wXR 0xBF d ca b 12)
  | .cfgclr d a => some (wXR 0xBF d a 0 13)
  | .barw d a => some (wXR 0xBF d a 0 14)
  | .ifence => some (wXR 0xBF 0 0 0 15)
  | .sbind d a b => some (wXR 0xBF d a b 16)
  | .sbar d a => some (wXR 0xBF d a 0 17)
  | .cyc d => some (wXR 0xBF d 0 0 18)
  | .nop => some 0x003FFFF0
  | .bx f => some (wC3 0x01 f)
  | .bxi f => some (wCB 0x02 f)
  | .bend f => some (wCB 0x03 f)
  | .mov f => some (wC3 0x04 f)
  | .movi f => some (wCI 0x05 f)
  | .movh f => some (wCI 0x06 f)
  | .null f => some (wC3 0x07 f)
  | .iota f => some (wC3 0x08 f)
  | .cid f => some (wC3 0x09 f)
  | .cellCyc f => some (wC3 0x0A f)
  | .cellTrap f => some (wC3 0x0B f)
  | .testk f => some (wC3 0x0C f)
  | .sel f => some (wC3 0x0D f)
  | .setv f => some (wC3 0x0E f)
  | .getv f => some (wC3 0x0F f)
  | .cellAdd f => some (wC3 0x10 f)
  | .cellSub f => some (wC3 0x11 f)
  | .cellMul f => some (wC3 0x12 f)
  | .cellMulh f => some (wC3 0x13 f)
  | .cellMin f => some (wC3 0x14 f)
  | .cellMax f => some (wC3 0x15 f)
  | .cellAnd f => some (wC3 0x16 f)
  | .cellOr f => some (wC3 0x17 f)
  | .cellXor f => some (wC3 0x18 f)
  | .cellShl f => some (wC3 0x19 f)
  | .cellShr f => some (wC3 0x1A f)
  | .cellSar f => some (wC3 0x1B f)
  | .cellClz f => some (wC3 0x1C f)
  | .cellPopc f => some (wC3 0x1D f)
  | .cmp f => some (wC3 0x1E f)
  | .cellAddi f => some (wCI 0x20 f)
  | .cellAndi f => some (wCI 0x21 f)
  | .cellOri f => some (wCI 0x22 f)
  | .cellShli f => some (wCI 0x23 f)
  | .cellShri f => some (wCI 0x24 f)
  | .cellSari f => some (wCI 0x25 f)
  | .fadd f => some (wC3 0x30 f)
  | .fsub f => some (wC3 0x31 f)
  | .fmul f => some (wC3 0x32 f)
  | .fma f => some (wC3 0x33 f)
  | .fmin f => some (wC3 0x34 f)
  | .fmax f => some (wC3 0x35 f)
  | .fabs f => some (wC3 0x36 f)
  | .fcmp f => some (wC3 0x37 f)
  | .fcvt f => some (wC3 0x38 f)
  | .unpk f => some (wC3 0x39 f)
  | .pack f => some (wC3 0x3A f)
  | .fexp2 f => some (wC3 0x3B f)
  | .flog2 f => some (wC3 0x3C f)
  | .frcp f => some (wC3 0x3D f)
  | .frsq f => some (wC3 0x3E f)
  | .ftanh f => some (wC3 0x3F f)
  | .radd f => some (wC3 0x40 f)
  | .rmax f => some (wC3 0x41 f)
  | .rmin f => some (wC3 0x42 f)
  | .psum f => some (wC3 0x43 f)
  | .perm f => some (wC3 0x44 f)
  | .bcst f => some (wC3 0x45 f)
  | .lsh f => some (wC3 0x46 f)
  | .cmpk f => some (wC3 0x47 f)
  | .expd f => some (wC3 0x48 f)
  | .nzscan f => some (wC3 0x49 f)
  | .join f => some (wC3 0x4A f)
  | .ld f => some (wC3 0x50 f)
  | .ldc f => some (wC3 0x51 f)
  | .st f => some (wC3 0x52 f)
  | .stc f => some (wC3 0x53 f)
  | .atadd f => some (wC3 0x54 f)
  | .atfadd f => some (wC3 0x55 f)
  | .atmax f => some (wC3 0x56 f)
  | .lookup f => some (wC3 0x57 f)
  | .tagset f => some (wC3 0x58 f)
  | .tagclr f => some (wC3 0x59 f)
  | .cellFmrg f => some (wC3 0x60 f)
  | .cellFprobe f => some (wC3 0x61 f)
  | .cellFscan f => some (wC3 0x62 f)
  | .rcv f => some (wC3 0x63 f)
  | .mark f => some (wC3 0x64 f)
  | .xreq f => some (wC3 0x65 f)
  | .cellRcall f => some (wC3 0x66 f)
  | .joinp f => some (wC3 0x67 f)
  | .mma f => some (wC3 0x70 f)
  | .mmas f => some (wC3 0x71 f)
  | .mmap f => some (wC3 0x72 f)
  | .accrd f => some (wC3 0x73 f)
  | .accz f => some (wC3 0x74 f)
  | .fibreFormat .. | .fibreNew .. | .fibreFree .. | .fibreMerge .. | .poolReservation ..
  | .fibreDelete .. | .fibreScanStep .. | .fibreProbe .. | .fibreInfo .. | .holdLapse ..
  | .fibreRefusedResend .. | .fibreReply .. | .fibrePostedReply .. | .fprobeReply ..
  | .pageWalk .. | .blockCommit .. | .blockQuiescence .. | .markerDrain .. | .sendResume ..
  | .tokenReceive .. | .memoryCellRequest .. | .memoryCellReply .. | .transferLine ..
  | .addressGeneratorToken .. | .matrixCommandStart .. | .matrixOperandTake ..
  | .acczCommand .. | .tileRelease .. | .positionLeave .. | .waveMarkerCompletion ..
  | .engineDrainEnd .. | .rcfPlacement .. | .stateSave .. | .positionGoLive ..
  | .imagePreload .. | .ringDelivery .. | .ingressBindingTake .. | .egressBindingWrite ..
  | .deadlockTimeout .. | .vpCompletion .. | .preInsertion .. | .cellContextSave ..
  | .orphanTokenDrop .. | .candidateChoice .. | .admission .. | .priorityAging ..
  | .eventRecordArrival .. | .wfeTimeout .. | .remoteCallArrival .. | .callRefusalResend ..
  | .remoteContextStart .. | .remoteBudgetExhausted .. | .builtinReduce .. | .builtinAdamw ..
  | .builtinFill .. | .builtinCopy .. | .callReplyArrival .. | .callReplyToken ..
  | .callResend .. | .callLostTimeout .. | .lineOwnerAccess .. | .atomicAtOwner ..
  | .scTokenVisit .. | .firelFlitReceive .. | .firelLinkFailure .. | .faultReplay ..
  | .faultTeardown .. | .faultWatchdog .. | .kevqEmpty .. | .postTrigger .. | .launchTrigger ..
  | .partitionCommit .. | .coreStart .. | .registerWrite .. | .vfReset .. | .powerWindowEnd ..
  | .overTemperature .. | .moduleBoot .. | .pcieInboundRequest .. | .spireHartInstruction .. => .none

/-- What the decoder reads from an instruction whose bits are w, bit 0 the least significant bit of
its one 32-bit word. The word is laid out as the device stores it (R17). -/
def decodeTableWord (_nbits w : Nat) : Option Instr :=
  match decodeBytes (leBytes 4 w) with
  | .ok (i, _) => some i
  | .error _ => .none

end Sys2Proof
end

