-- ==== Sys2Proof/Config.lean ====
section
/-!
DEFINITION. The values that the spec leaves open and the ones that a part of another module or a
secret of the device fixes. Each is opaque: no proof can see a value of it, so what is proved holds
whatever it is.
-/

namespace Sys2Proof.Config

/-- Root page table that a walk of a cell, an engine or a grotto starts at for a tenant that no
enabled partition holds (R378, R384 name only a partition's root). [DESIGN CHOICE, log 11] -/
opaque orphanRoot : Nat → Nat

/-- A byte that another module's memory returns to a read: number of the read, address (R318).
[DESIGN CHOICE, log 81] -/
opaque remoteByte : Nat → Nat → Byte

/-- Whether Belfry slot n holds a key (R401). [DESIGN CHOICE, log 76] -/
opaque keySlotHeld : Nat → Bool

/-- Whether both signatures, in the 8,240-byte block, verify over the bytes with the key of the slot
(R401, R423). [DESIGN CHOICE, log 76] -/
opaque signaturesVerify : Nat → List Byte → List Byte → Bool

/-- In the faithful range of a special function, the operand magnitude from which on (or up to which)
the neighbour of larger magnitude is delivered, for the exact results that lie just above one f32
magnitude: number of the function (of log2, one for the operands below 1 and one for those above), that magnitude (R276). A result is fixed by its operand (R277).
[DESIGN CHOICE, log 77] -/
opaque faithfulFrom : Nat → Nat → Nat

/-- The bank-activity budget of a vault die (R349 states none). [DESIGN CHOICE, log 78] -/
opaque budgetSize : Fin 4 → Nat

/-- What the n-th call to arrive at a grotto is charged (R349). [DESIGN CHOICE, log 78] -/
opaque callCharge : Nat → Nat

/-- The activity of a budget when the n-th call arrives, after what earlier calls have been charged (R349).
[DESIGN CHOICE, log 78] -/
opaque activityNow : Nat → Nat → Nat

/-- The tenant of the partition whose slot of the shared arbiters a cycle belongs to in strict mode (R385).
[DESIGN CHOICE, log 86] -/
opaque strictSlot : Nat → BitVec 8

/-- The device key that the Belfry derives (R423). [DESIGN CHOICE, log 76] -/
opaque deviceKey : List Byte

/-- How the boot configuration in an image's body has a root port run: number of links, 1, 2 or 4 (R420, R422).
[DESIGN CHOICE, log 97] -/
opaque portLinks : List Byte → Fin 4 → Nat

/-- Whether the boot configuration in an image's body makes port 4 an endpoint (R420, R422).
[DESIGN CHOICE, log 97] -/
opaque portEndpoint : List Byte → Bool

/-- The hash that picks one Firel link of a mask for a line (R421). [DESIGN CHOICE, log 79] -/
opaque linkHash : Nat → Nat

/-- A free value of a result that the spec does not state: number of the value.
[DEDUCED, log 8; DESIGN CHOICE, log 80] -/
opaque freeWord : Nat → Word

/-- The tag of a granule of another module's memory: number of the read, address (R70, R318).
[DESIGN CHOICE, log 81] -/
opaque remoteTag : Nat → Nat → Bool

/-- A byte of a cell's control state in a pre-emption context, which is not architectural (R224): number of the
save, place. [DESIGN CHOICE, log 47; DESIGN CHOICE, log 82] -/
opaque contextByte : Nat → Nat → Byte

/-- Whether the n-th SC of a hart whose reservation holds fails all the same (R329 says only when one may succeed).
[DESIGN CHOICE, log 68] -/
opaque scFails : Nat → Bool

end Sys2Proof.Config
end

