-- ==== Sys2Proof/Machine/State.lean ====
section
/-!
DEFINITION. The state of the MQ-1 as plain data, its reset, and the ways a step can stop. INVENTORY.md
lists each field with the rule of the spec that names it and its reset value.
-/

namespace Sys2Proof.Machine
open Sys2Proof

/-! ### Memory -/

/-- One address space as bytes, capability tags and units with an uncorrectable error. `bytes` lists
(address, byte) with addresses strictly rising and no zero byte; an unlisted byte reads 0. `tags`
lists the 16-byte granules whose tag is 1 (R315), by granule number, rising. `poison` lists the 8-byte
units that fail their check (R376), by unit number, rising, and `badTags` the granules whose tag fails its check
(R315), by granule number, rising. -/
structure Memory where
  bytes   : List Host.Cell
  tags    : List Nat
  poison  : List Nat
  badTags : List Nat
  deriving DecidableEq, Repr

/-- Nothing listed. [DESIGN CHOICE, log 3] -/
def Memory.empty : Memory := ⟨[], [], [], []⟩

/-! ### Capabilities and threads -/

/-- The four spaces (R310). -/
inductive Space where
  | dense | fibre | scratch | sys
  deriving DecidableEq, Repr

/-- A capability: 128 bits and the hidden tag (R68). -/
structure Cap where
  bits : BitVec 128
  tag  : Bool
  deriving DecidableEq, Repr

/-- The untagged capability of all zeros. -/
def Cap.null : Cap := ⟨0, false⟩

/-- The trap causes, with their codes in `Cause.code` (R367). -/
inductive Cause where
  | illegal | bounds | perm | tag | page | wprot | misalign | ecc | cfgReject | rowBusy
  | remoteFault | remoteBudget | nonlocal | deadlock | spillFull | doubleOperand | exitCount
  | trapInstruction | watchdog | unpaired
  deriving DecidableEq, Repr

/-- What a thread of a control core or of a remote context holds (R48, R339). `pc` is the byte offset
from pcc.base. -/
structure Thread where
  x      : Vector Word 64
  c      : Vector Cap 16
  pcc    : Cap
  pc     : Word
  priv   : Bool
  tenant : BitVec 8
  deriving DecidableEq, Repr

/-- Registers zero, capabilities untagged. [DESIGN CHOICE, log 2] -/
def Thread.zero : Thread :=
  ⟨Vector.replicate 64 0, Vector.replicate 16 Cap.null, Cap.null, 0, true, 0⟩

/-- The thread whose instruction runs: the control thread of a core or a remote context. -/
inductive ThreadId where
  | core (k : CoreId)
  | remote (t : RemoteId)
  deriving DecidableEq, Repr

/-! ### Fibre operations -/

/-- A fibre operation as its owner receives it (R88, R110, R117). Pairs are (coordinate, value); `ok`
says that the request sets no reserved bit (R112). -/
inductive FibreOp where
  | format (ok : Bool)
  | new (combine flags : Nat) (ok : Bool)
  | free
  | merge (pairs : List (Nat × Nat))
  | delete (coords : List Nat)
  | scan (cursor n : Nat) (exclusive : Bool)
  | probe (coords : List Nat)
  | info (selector : Nat)
  deriving DecidableEq, Repr

/-- Who issues a fibre operation, and what takes its reply. -/
inductive FibreAgent where
  /-- A control instruction of a thread; the reply writes x[d] and x[b] upward (R110). -/
  | thread (t : ThreadId) (d b : XReg) (n : Nat)
  /-- A posted form or a probe of a cell: its block, slot and instance (R116). -/
  | cell (c : CellId) (vp : VpId) (block slot inst : Nat) (lanes : List Nat)
  /-- An issuer of another module, by a number of its own, with the number of the request there and the tenant that its
  flits carry (R100, R318, R421). -/
  | module (device issuer id : Nat) (tenant : BitVec 8)
  deriving DecidableEq, Repr

/-- The statuses of R47. -/
inductive Status where
  | ok | busyPower | poolEmpty | lost | remoteFault | bounds | perm | notFound | rejected | timeout
  | peerReset | replayed | rowBusy | noBand | badDesc | retired | eccDropped
  deriving DecidableEq, Repr

/-- What an owner answers: status, work units, rows split, wait cycles, and the values that the
operation returns (R107, R110). -/
structure FibreReply where
  agent   : FibreAgent
  op      : FibreOp
  status  : Status
  work    : Nat
  splits  : Nat
  wait    : Nat
  value   : Nat
  pairs   : List (Nat × Nat)
  found   : List (Option Nat)
  cursor  : Nat
  endFlag : Bool
  owner   : GrottoId
  deriving DecidableEq, Repr

/-- A fibre request on its way to its owner or waiting there (R100). `va` and `pa` are the addresses of
the fibre's head row, for FORMAT and NEW of row 0. `ticket` orders arrivals and `arrived` is the cycle
of arrival; `refused` marks a request sent back by a full hold queue (R98); `reserved` holds the reply of a merge
performed with the reservation of its pool rows (R105); `after` are the slots of its instance's held effects that it is
ordered after (R322). A request to another module keeps its place here until the reply comes, and its ticket is the number
it travels under (R318). -/
structure FibreReq where
  agent    : FibreAgent
  op       : FibreOp
  va       : Nat
  pa       : Nat
  tenant   : BitVec 8
  length   : Nat
  owner    : GrottoId
  ticket   : Option Nat
  arrived  : Nat
  refused  : Bool
  reserved : Option FibreReply
  after    : List Nat
  deriving DecidableEq, Repr

/-- The issuer of an exclusive hold: one control core, remote context or cell (R98). -/
inductive HoldAgent where
  | thread (t : ThreadId)
  | cell (c : CellId)
  | module (device issuer : Nat)
  deriving DecidableEq, Repr

/-- An exclusive hold on the fibre whose head row has this physical address. After 65,536 cycles without
a step it lapses, and the holder's next step answers TIMEOUT (R98). -/
structure Hold where
  pa     : Nat
  holder : HoldAgent
  last   : Nat
  lapsed : Bool
  deriving DecidableEq, Repr

/-! ### Remote calls -/

/-- Who made a call (R339, x6): a control core of this device, a cell, or a unit of another
module, by its source word, with the tenant that its flits carry (R421). -/
inductive Caller where
  | core (k : CoreId)
  | cell (c : CellId) (vp : VpId) (slot block : Nat)
  | module (device : Nat) (src : BitVec 32) (tenant : BitVec 8)
  deriving DecidableEq, Repr

/-- The executing unit of a call: a unit of this device or another module (R331). -/
inductive Home where
  | unit (u : UnitId)
  | module (pa : Nat)
  deriving DecidableEq, Repr

/-- A remote call (R336). `forwarded` marks one that RFWD made (R343), `rel` the release flag (R344); `base`
is where the capability's base lies; `after` are the held effects of a cell that it is ordered after, by instance and slot
(R322). -/
structure Call where
  entry     : Nat
  payload   : Vector Word 4
  cap       : Cap
  tenant    : BitVec 8
  num       : BitVec 32
  caller    : Caller
  home      : Home
  forwarded : Bool
  refused   : Bool
  rel       : Bool
  base      : Nat
  after     : List (Nat × Nat)
  deriving DecidableEq, Repr

/-- A reply to a call. -/
structure CallReply where
  caller : Caller
  num    : BitVec 32
  entry  : Nat
  status : BitVec 16
  r0     : Word
  r1     : Word
  deriving DecidableEq, Repr

/-- A call that a caller waits for: its contents for resends, when it was first sent, how many resends
have gone, its reply (R336, R348), and whether another module has said that it has accepted it (R321). -/
structure OpenCall where
  call    : Call
  sentAt  : Nat
  resends : Nat
  reply   : Option CallReply
  accepted : Bool
  deriving DecidableEq, Repr

/-- A kept call number of an executing unit, with its reply once there is one (R348). -/
structure KeptCall where
  caller : Caller
  num    : BitVec 32
  reply  : Option CallReply
  deriving DecidableEq, Repr

/-- A remote context that runs a call (R339): the call, its thread, the instructions it may still
execute, whether it waits for a fibre reply. For a built-in, `params` holds its parameter block once its
checks have passed and `done` counts the elements or bytes completed (R351). -/
structure RemoteCtx where
  call   : Call
  thread : Thread
  budget : Nat
  fibre  : Bool
  params : Option (List Nat)
  done   : Nat
  deriving DecidableEq, Repr

/-- An executing unit: contexts, waiting calls in arrival order, kept calls (R331, R333, R348). -/
structure Unit where
  ctx     : Vector (Option RemoteCtx) 8
  waiting : List Call
  kept    : List KeptCall
  deriving DecidableEq, Repr

/-- No call. -/
def Unit.empty : Unit := ⟨Vector.replicate 8 none, [], []⟩

/-! ### Control cores -/

/-- A store that waits in a store queue (R65, R370): its space, physical or untranslated address,
bytes, and for a CST the tag it writes; `half` marks the two elements of an 8-byte store to SCRATCH (R64); the tenant is
that of the thread when it stored. -/
structure QueuedStore where
  space : Space
  addr  : Nat
  bytes : List Byte
  tag   : Bool
  half  : Bool
  tenant : BitVec 8
  deriving DecidableEq, Repr

/-- A control core (R48, R389). `fibre` says that it waits for a fibre reply, `wfeSince` since when a
WFE waits, `kevqPending` that a write of KEVQ is still to empty the queue. The event queue holds
records oldest first; `evHead` is the index of the oldest, and `overAt` the place in `events` of the
ERROR_COUNT record that counts dropped records (R247). `icache` holds the words fetched since the
last IFENCE, by physical address (R46). -/
structure Core where
  thread      : Thread
  halted      : Bool
  prevPriv    : Bool
  event       : Bool
  kcause      : BitVec 8
  kepc        : Word
  ktval       : Word
  ktvec       : Word
  kscratch    : Word
  kptbase     : Word
  krtime      : BitVec 16
  kidle       : Vector Word 16
  kinstr      : Word
  events      : List (BitVec 128)
  evHead      : Nat
  overAt      : Option Nat
  slots       : Vector (Option OpenCall) 16
  callNum     : BitVec 32
  storeQ      : List QueuedStore
  icache      : List (Nat × BitVec 32)
  fibre       : Bool
  wfeSince    : Option Nat
  kevqPending : Bool
  deriving DecidableEq, Repr

/-- A control core after module reset: halted (R419), privileged (R389). [DESIGN CHOICE, log 2] -/
def Core.reset : Core :=
  { thread := Thread.zero, halted := true, prevPriv := false, event := false, kcause := 0, kepc := 0,
    ktval := 0, ktvec := 0, kscratch := 0, kptbase := 0, krtime := 100,
    kidle := Vector.replicate 16 0, kinstr := 0, events := [], evHead := 0, overAt := none,
    slots := Vector.replicate 16 none, callNum := 1, storeQ := [], icache := [], fibre := false,
    wfeSince := none, kevqPending := false }

/-! ### Translation -/

/-- A translation cache (R382): of a row's edge ports, a memory cell, a die, the Spire. -/
inductive CacheId where
  | edge (r : RowId)
  | memCell (c : CellId)
  | die (d : Fin 2)
  | spire
  deriving DecidableEq, Repr

/-- A cached translation of one page: the leaf's fields and its physical address (R379, R382). -/
structure TlbEntry where
  cache    : CacheId
  tenant   : BitVec 8
  page     : Nat
  size     : Nat
  frame    : Nat
  write    : Bool
  exec     : Bool
  fill     : Option (BitVec 32)
  entryPa  : Nat
  dirty    : Bool
  deriving DecidableEq, Repr

/-- A partition entry (R384), as eight 64-bit words. -/
abbrev PartitionEntry := Vector Word 8

/-- The two error counters and their thresholds of a unit (R377, R391). -/
structure ErrorUnit where
  correctable      : BitVec 32
  uncorrectable    : BitVec 32
  thrCorrectable   : BitVec 32
  thrUncorrectable : BitVec 32
  deriving DecidableEq, Repr

def ErrorUnit.zero : ErrorUnit := ⟨0, 0, 0, 0⟩

/-- The units that count errors: cells, grottos, rows (edge ports), control cores, the Spire's link
unit (R377, R391, R421). -/
inductive ErrorSite where
  | cell (c : CellId)
  | grotto (g : GrottoId)
  | row (r : RowId)
  | core (k : CoreId)
  | link
  deriving DecidableEq, Repr

/-! ### Tokens and cells -/

/-- The token kinds that are made, codes 0 to 12 (R135). -/
inductive Kind where
  | data | eot | eor | eow | pre | rcf | nul | spc | pmt | ord | err | hdr | scl
  deriving DecidableEq, Repr

/-- A token: elements, valid mask, kind (R133). -/
structure Token where
  e : Vector Elem 16
  v : BitVec 16
  k : Kind
  deriving DecidableEq, Repr

/-- The NUL token (R138). -/
def Token.nul : Token := ⟨Vector.replicate 16 0, 0, .nul⟩

/-- An operand that has arrived: its token, the ports of the RCVs it depends on (R143), and the slots
of the held stores that its chain of order tokens comes from (R150). -/
structure Operand where
  tok   : Token
  ports : List (Fin 8)
  ords  : List Nat
  deriving DecidableEq, Repr

/-- What a slot of a running block instance has done (R147): waiting for operands, fired and waiting
for a reply, or done (fired or suppressed). -/
inductive Firing where
  | waiting | issued | done
  deriving DecidableEq, Repr

/-- A slot of a running block instance. -/
structure Slot where
  l      : Option Operand
  r      : Option Operand
  p      : Option Operand
  firing : Firing
  deriving DecidableEq, Repr

/-- A slot that nothing has reached. -/
def Slot.empty : Slot := ⟨none, none, none, .waiting⟩

/-- A memory operation of a cell on one element, as its memory cell or owner performs it. -/
inductive CellOp where
  | load | store | atadd | atfadd | atmax
  deriving DecidableEq, Repr

/-- A lane of a request: its number, its address (physical for dense and fibre space, SCRATCH address
otherwise), the data it carries. -/
structure LaneAccess where
  lane : Nat
  addr : Nat
  data : Elem
  fill : Option Elem
  deriving DecidableEq, Repr

/-- A table request's operation (R186). -/
inductive TableOp where
  | lookup | set | clear
  deriving DecidableEq, Repr

/-- An effect that a block holds until commit (R149). `ords` are the slots of the held effects that it is ordered after
(R322). -/
inductive Held where
  | store (slot : Nat) (op : CellOp) (space : Space) (lanes : List LaneAccess) (ords : List Nat)
  | table (slot : Nat) (op : TableOp) (target : CellId) (lanes : List (Nat × Elem × Elem))
      (ords : List Nat)
  | send (port : Fin 8) (tok : Token)
  | fibre (slot : Nat) (op : FibreOp) (va pa length : Nat) (ords : List Nat)
  | call (slot entry : Nat) (payload : Vector Word 4) (rel : Bool) (cap : Cap) (ords : List Nat)
  | xfer (slot : Nat) (toScratch : Bool) (cap : Cap) (off scratch len : Nat) (tag : Elem) (ords : List Nat)
  | matrix (slot : Nat) (op : Fin 4) (l r p : Token) (t0 : Target)
  deriving DecidableEq, Repr

/-- A drain of the two-input marker rule: the slot that waits for it, its port, the kind it looks for,
whether it has stopped, and the EOW that it stopped at in place of that kind (R143). -/
structure Drain where
  slot : Nat
  port : Fin 8
  kind : Kind
  fin  : Bool
  eow  : Option Token
  deriving DecidableEq, Repr

/-- Where an exit leads (R153). -/
inductive Exit where
  | block (n : Fin 32)
  | bend
  deriving DecidableEq, Repr

/-- A running block instance (R146 to R158). `held` is in slot order at commit; `taken` lists the
provisional tokens in the order taken (R151). -/
structure Instance where
  block    : Fin 32
  num      : Nat
  slots    : List Slot
  writes   : List (Fin 64 × Token)
  held     : List (Nat × Held)
  outputs  : Nat
  exit     : Option Exit
  taken    : List (Fin 8 × Token)
  drains   : List Drain
  discards : Nat
  join     : Option (BitVec 32 × BitVec 32)
  deriving DecidableEq, Repr

/-- A block of a cell program: output count, write mask, read entries (register, target), words by
slot (R23, R24). -/
structure Block where
  num     : Fin 32
  outputs : Nat
  mask    : BitVec 64
  reads   : List (Fin 64 × Target)
  words   : List (BitVec 32)
  deriving DecidableEq, Repr

/-- A frame record: tag and eight words (R405). -/
structure FrameRecord where
  tag   : BitVec 32
  words : Vector (BitVec 32) 8
  deriving DecidableEq, Repr

/-- What the records of a cell describe: blocks, route entries, address generators, memory-cell
reservation, register-initialisation mask, granted capabilities, kept state (R405). -/
structure Program where
  blocks   : List Block
  routes   : List (BitVec 32)
  agens    : List (Fin 2 × Vector (BitVec 32) 8)
  reserve  : Nat
  regInit  : BitVec 64
  grants   : List (Fin 16 × Cap)
  keptG    : BitVec 64
  keptScr  : Nat
  keptAcc  : Bool
  frames   : Nat
  records  : Nat
  deriving DecidableEq, Repr

/-- No records. -/
def Program.empty : Program := ⟨[], [], [], 0, 0, [], 0, 0, false, 0, 0⟩

/-- A kept image of a cell with its mark (R235), and the relative columns that hold a program of the image. -/
structure KeptImage where
  cap     : Cap
  tenant  : BitVec 8
  program : Program
  cols    : List Nat
  deriving DecidableEq, Repr

/-- An address generator at work: outer and inner index of the next token, and whether its EOT or its
EOW is still to be sent (R407). `stop` says that it has sent the marker behind which PRE goes (R222). -/
structure Agen where
  words   : Vector (BitVec 32) 8
  outer   : Nat
  inner   : Nat
  eots    : Nat
  done    : Bool
  faulted : Bool
  stop    : Bool
  deriving DecidableEq, Repr

/-- A command of the matrix array: 0 MMA, 1 MMAS, 2 MMAP, 3 ACCZ (R281, R284, R286). -/
structure MatrixCmd where
  op    : Fin 4
  l     : Token
  r     : Token
  p     : Token
  t0    : Target
  slot  : Nat
  wave  : Nat
  inst  : Nat
  deriving DecidableEq, Repr

/-- A command in the array (R282, R287, R294): the packet tokens taken from ports for A and B, whether they are
complete, whether the command has started and whether its checks have passed, how many k indices, windows or
blocks it has accumulated, the metadata bytes of an MMAS (R291), the packets still to be passed on (R288). `lentA` and
`lentB` say that the first token of the list is the path's last header, which no port gave (R271). -/
structure MatrixRun where
  cmd     : MatrixCmd
  a       : List Token
  b       : List Token
  lentA   : Bool
  lentB   : Bool
  aDone   : Bool
  bDone   : Bool
  started : Bool
  ready   : Bool
  k       : Nat
  marks   : List Nat
  fwd     : List (Fin 8 × Token)
  deriving DecidableEq, Repr

/-- What the array still sends to a port for a command of a block instance: a release with its EOR, or the ERR of a
failed command, which is no `tile` (R283, R289). -/
structure Release where
  port : Fin 8
  inst : Nat
  toks : List Token
  tile : Bool
  deriving DecidableEq, Repr

/-- A compute cell or memory cell (R129, R131). `program` is the one that runs; `loaded` is what CFGLD has
loaded, with the loading tenant (R413); `front` and `back` are the images of its banks (R130, R235), `filling` the one that
the back bank is taking and how many of its frames it has (R205). `sendQ`
holds sends that wait (R157), `sentEow` and `gotEow` the ports that the wave's EOW has left or left for good
(R201), `action` the fault word's action that is still to be taken (R372), `saved` that a pre-emption has saved
the cell (R223), `rejected` that the load of its program has failed (R409). `due` is the completed command whose
release has not begun, with whether it was i8; `release` holds the tokens of the array that still leave (R283);
`skip` lists the ports whose packet the array discards, `headers` the last header of the A and the B path (R271);
`tagBad` lists the entries of the tag table that fail their check (R376), rising; `badRegs` lists the g registers, and `badWords` the
words of the block store, by the kept image whose bank holds them (none: what CFGLD has loaded), block and slot, that have
an uncorrectable error (R376); `lastNum` is the number of the instance that committed last. -/
structure Cell where
  program   : Program
  loaded    : Option (BitVec 8 × Program)
  g         : Vector Token 64
  c         : Vector Cap 16
  acc       : Vector Elem 512
  sat       : Vector Bool 512
  counter   : Nat
  releases  : Nat
  matrix    : List MatrixRun
  reserved  : Nat
  due       : Option (MatrixCmd × Bool)
  release   : Option Release
  skip      : List (Fin 8)
  headers   : Vector (Option Token) 2
  tags      : Vector (BitVec 64) 64
  tagBad    : List (Fin 64)
  badRegs   : List (Fin 64)
  badWords  : List (Option (Cap × BitVec 8) × Fin 32 × Nat)
  join      : Vector (BitVec 32 × BitVec 32) 32
  ports     : Vector (List Token) 8
  inst      : Option Instance
  next      : Option (Fin 32)
  instNum   : Nat
  bend      : Bool
  sentEow   : List (Fin 8)
  gotEow    : List (Fin 8)
  lastMark  : Bool
  lastNum   : Nat
  sendQ     : List (Fin 8 × Token)
  cause     : Option Cause
  pending   : Bool
  srcKind   : Fin 4
  lane      : Fin 16
  slot      : Fin 128
  block     : Fin 32
  faultVal  : Word
  action    : Option Bool
  faultAt   : Nat
  discard   : Word
  callNum   : BitVec 32
  calls     : List OpenCall
  front     : Option KeptImage
  back      : Option KeptImage
  filling   : Option (KeptImage × Nat)
  agens     : Vector (Option Agen) 2
  saved     : Bool
  rejected  : Bool
  deriving DecidableEq, Repr

/-- A cell after module reset or CFGCLR (R412). [DESIGN CHOICE, log 2] -/
def Cell.reset : Cell :=
  { program := .empty, loaded := none, g := Vector.replicate 64 .nul,
    c := Vector.replicate 16 Cap.null, acc := Vector.replicate 512 0,
    sat := Vector.replicate 512 false, counter := 0, releases := 0, matrix := [], reserved := 0,
    due := none, release := none, skip := [], headers := Vector.replicate 2 none, tags := Vector.replicate 64 0,
    tagBad := [], badRegs := [], badWords := [], join := Vector.replicate 32 (0, 0),
    ports := Vector.replicate 8 [], inst := none, next := none, instNum := 0, bend := false,
    sentEow := [], gotEow := [], lastMark := false, lastNum := 0, sendQ := [], cause := none, pending := false, srcKind := 0,
    lane := 0, slot := 0, block := 0, faultVal := 0, action := none, faultAt := 0, discard := 0,
    callNum := 1, calls := [], front := none, back := none, filling := none, agens := Vector.replicate 2 none,
    saved := false, rejected := false }

/-! ### Requests of cells -/

/-- What a request of a cell asks of its memory cell (R131). `ords` names the held stores that its order
input comes from: a load takes their values (R150), a store is performed after them (R322). -/
inductive CellReqBody where
  | lanes (op : CellOp) (space : Space) (lanes : List LaneAccess) (ords : List Nat)
  | table (op : TableOp) (target : CellId) (lanes : List (Nat × Elem × Elem)) (ords : List Nat)
  /-- A probe, which the fibre's owner performs (R120). -/
  | probe
  deriving DecidableEq, Repr

/-- A vector request in a memory cell's queue (R132): who issued it, the block, slot and instance of the
instruction, and t0 and t1 in `reply` once it is performed. -/
structure CellReq where
  cell  : CellId
  vp    : VpId
  block : Nat
  slot  : Nat
  inst  : Nat
  body  : CellReqBody
  reply : Option (Token × Token)
  deriving DecidableEq, Repr

/-- A bulk transfer at work (R189), with its instance and the slots of the held effects that it is ordered after (R322). -/
structure Transfer where
  cell      : CellId
  vp        : VpId
  toScratch : Bool
  cap       : Cap
  off       : Nat
  scratch   : Nat
  len       : Nat
  moved     : Nat
  tag       : Elem
  slot      : Nat
  inst      : Nat
  after     : List Nat
  deriving DecidableEq, Repr

/-- Who waits for a walk: an instruction of a cell, at a lane of a slot of an instance, or any other unit, whose walk starts
from a root (R378). -/
inductive Waiter where
  | cell (c : CellId) (slot lane inst : Nat)
  | unit (root : Nat)
  deriving DecidableEq, Repr

/-- An access that has missed its translation cache and waits for a walker (R382). -/
structure Parked where
  cache  : CacheId
  tenant : BitVec 8
  va     : Nat
  write  : Bool
  waiter : Waiter
  deriving DecidableEq, Repr

/-- A token on its way to an input port (R159). `edge` is the edge it travels on, `wave` the wave of
its sender. -/
structure Flight where
  src  : CellId
  dest : CellId
  port : Fin 8
  vp   : VpId
  wave : Nat
  edge : Option Nat
  tok  : Token
  deriving DecidableEq, Repr

/-! ### Rows, virtual pipelines, schedulers -/

/-- How far a row has come with its position (R201, R202). -/
inductive Phase where
  | empty
  | live
  /-- Every cell has executed BEND and step 2 has begun. -/
  | markers
  /-- Steps 2 and 3 are complete. -/
  | draining
  /-- The engines have drained. -/
  | drained
  /-- RCF stands behind the last token of each input port. -/
  | rcf
  /-- Every cell has taken it. -/
  | taken
  /-- The kept state is saved. -/
  | saved
  /-- The position has left. -/
  | left
  deriving DecidableEq, Repr

/-- A row: the VP it hosts, the spliced successor that will take it, its position and how far it has
come, the next position, and the cycle of its last go-live (R201 to R206, R428). -/
structure Row where
  host     : Option VpId
  heir     : Option VpId
  pos      : Option Nat
  phase    : Phase
  nextPos  : Option Nat
  liveAt   : Nat
  leftAt   : Nat
  saveLen  : Nat
  stall    : Word
  tenant   : BitVec 8
  deriving DecidableEq, Repr

/-- A row after reset. -/
def Row.reset : Row := ⟨none, none, none, .empty, none, 0, 0, 0, 0, 0⟩

/-- An image-table entry (R196). `height` is the number of rows of a static stage's rectangle, from its image's header
once that has been read (R194, R403), else 1. -/
structure ImageEntry where
  cap     : Cap
  keptG   : BitVec 64
  keptScr : Nat
  keptAcc : Bool
  width   : Nat
  rowOff  : Nat
  baseCol : Nat
  height  : Nat
  deriving DecidableEq, Repr

/-- An edge (R197) with its ring: tokens with their cell of the span and wave, oldest first; `bad` lists the places of those
that have an uncorrectable error (R376). -/
structure Edge where
  src      : Nat
  dst      : Nat
  kind     : Nat
  fromBack : Bool
  toBack   : Bool
  fromPort : Fin 8
  toPort   : Fin 8
  bytes    : Nat
  ring     : List (Nat × Nat × Token)
  bad      : List Nat
  deriving DecidableEq, Repr

/-- A binding (R198); `stopped` after an inconsistent count. `eows` counts the EOWs that an ingress binding
has put into its port: the wave that its next token belongs to; `slots` gives, for each token at the port, the
buffer slots that it accounts for; `out` is a token that an egress binding has still to write; `seen` are the head and
tail counts as the band has seen them last (R216). -/
structure Binding where
  cap     : Cap
  image   : Nat
  cell    : Nat
  stopped : Bool
  eows    : Nat
  slots   : List Nat
  out     : Option Token
  seen    : Nat × Nat
  deriving DecidableEq, Repr

/-- Where a VP is between its launch and its end (R238, R242). -/
inductive VpStage where
  | free | queued | live | preempting | preempted | ending
  deriving DecidableEq, Repr

/-- A virtual pipeline's record (R195, R238). `waveDone` counts the waves whose phase end has been
found, `moved` is the cycle of the last movement in the band (R216). `spliced` says that the VP has been joined to another
one on its band (R219), `waits` lists the band rows that it is still to take from a VP of another band, `preempts` is the
band's pre-emption count (R222). `preAt` lists the ports behind whose marker
PRE is still to be put: input ports, and output ports of generators with `true` (R222). While the VP is
pre-empted, `positions` holds its rows by band row, and `control` the cells' control
state by band row and column, which R224 leaves to the implementation. -/
structure Vp where
  stage     : VpStage
  d         : Nat
  b         : Nat
  w         : Nat
  turn      : Bool
  strict    : Bool
  static    : Bool
  quiesce   : Bool
  images    : List ImageEntry
  edges     : List Edge
  ingress   : List Binding
  egress    : List Binding
  saveCap   : Cap
  ringCap   : Cap
  priority  : Nat
  tenant    : BitVec 8
  eventCore : CoreId
  args      : Vector (BitVec 32) 16
  krtime    : BitVec 16
  queue     : Fin 16
  base      : Nat
  origin    : Nat
  pred      : Option VpId
  succ      : Option VpId
  waveDone  : Nat
  spliced   : Bool
  waits     : List Nat
  preempts  : Nat
  context   : Bool
  positions : List (Nat × Row)
  preAt     : List (CellId × Fin 8 × Bool)
  control   : List (Nat × Fin 36 × Cell)
  moved     : Nat
  pausedAt  : Option Nat
  deriving DecidableEq, Repr

/-- A record that no VP uses. [DESIGN CHOICE, log 2] -/
def Vp.free : Vp :=
  { stage := .free, d := 0, b := 0, w := 0, turn := false, strict := false,
    static := false, quiesce := false, images := [], edges := [], ingress := [], egress := [],
    saveCap := .null, ringCap := .null, priority := 0, tenant := 0, eventCore := 0,
    args := Vector.replicate 16 0, krtime := 0, queue := 0, base := 0, origin := 0, pred := none,
    succ := none, waveDone := 0, spliced := false, waits := [], preempts := 0,
    context := false, positions := [], preAt := [], control := [], moved := 0, pausedAt := none }

/-- A launch in a queue: its VP, queued priority, and whether it is a RESUME (R230, R243). -/
structure Launch where
  vp       : VpId
  priority : Nat
  resume   : Bool
  deriving DecidableEq, Repr

/-- A launch queue: binding word, launches, and since when its head is the head (R227, R230). -/
structure LaunchQueue where
  binding   : BitVec 32
  launches  : List Launch
  headSince : Nat
  effective : Nat
  deriving DecidableEq, Repr

/-- A band scheduler (R227, R231): queues, candidate queue, round-robin pointer; in strict mode `turns` holds the pointer
and candidate of each partition, by its tenant (R385). -/
structure Scheduler where
  queues    : Vector LaunchQueue 16
  candidate : Option (Fin 16)
  pointer   : Fin 16
  turns     : List (BitVec 8 × Fin 16 × Option (Fin 16))
  deriving DecidableEq, Repr

/-- A scheduler after reset. [DESIGN CHOICE, log 2] -/
def Scheduler.reset : Scheduler := ⟨Vector.replicate 16 ⟨0, [], 0, 0⟩, none, 0, []⟩

/-! ### The Spire and the package -/

/-- What a hart has asked of a Spire trigger and not yet seen done (R417). -/
inductive HartTrigger where
  | launch (data : Word)
  | commit
  | coreStart (k : CoreId) (tenant : BitVec 8)
  deriving DecidableEq, Repr

/-- How a hart's access faults: its page tables refuse it, or what it reaches does (R416). -/
inductive HartFault where
  | page | access
  deriving DecidableEq, Repr

/-- A Spire hart as far as the device defines it: the value of its last load or fetch, its reservation, its
launch staging and result, its pending trigger, the fault of its last access, and its Sv48 translation (R329, R416 to
R418). -/
structure Hart where
  data      : Word
  reserved  : Option Nat
  staging   : Word
  result    : Word
  trigger   : Option HartTrigger
  fault     : Option HartFault
  satp      : Word
  sum       : Bool
  mxr       : Bool
  deriving DecidableEq, Repr

/-- A hart after reset. [DESIGN CHOICE, log 2] -/
def Hart.reset : Hart := ⟨0, none, 0, 0, none, none, 0, false, false⟩

/-- How far boot has come (R423): no power; power and Belfry ROM; neither copy accepted; a copy accepted, with the
bytes that were verified; measured, with
hart 0 in the image; memory and part record ready; firmware with the compute dies up. -/
inductive BootPhase where
  | off | powered | failed
  | accepted (copy : Fin 2) (image : List Byte)
  | measured | trained | firmware
  deriving DecidableEq, Repr

/-- How a PCIe root port runs: one ×16, two ×8 or four ×4 links (R420). -/
inductive PortSplit where
  | x16 | x8 | x4
  deriving DecidableEq, Repr

/-- A bank-activity budget: a vault die's, or in strict mode a tenant's share of it (R349, R385). -/
structure Budget where
  die   : Fin 4
  share : Option (BitVec 8)
  deriving DecidableEq, Repr

/-- What unit makes an access that leaves the module: it waits for the acknowledgement of a store (R321, R323). -/
inductive Accessor where
  | thread (t : ThreadId)
  | cell (c : CellId) (inst slot : Nat)
  | engine (c : CellId)
  | other
  deriving DecidableEq, Repr

/-- For whom an access is made: the tenant that its flit carries (R421), and the unit. -/
structure Sender where
  tenant : BitVec 8
  unit   : Accessor
  deriving DecidableEq, Repr

/-- What leaves the module on a Firel link or a PCIe port. An acknowledgement names the address of its store.
[DEDUCED, log 24] -/
inductive Outbound where
  | write (pa : Nat) (bytes : List Byte)
  | capWrite (pa : Nat) (bytes : List Byte)
  | amo (op : AmoOp) (pa size : Nat) (b expected : Word)
  | cellAmo (op : CellOp) (pa : Nat) (b : Elem)
  | call (pa : Nat) (c : Call)
  | reply (r : CallReply)
  | read (pa size : Nat)
  | atomicReply (device : Nat) (data : Word)
  | readReply (device : Nat) (bytes : List Byte) (tag : Bool)
  | fibreReply (r : FibreReply)
  | fibreRequest (id : Nat) (q : FibreReq)
  | fibreRefusal (device id : Nat)
  | callRefusal (c : Call)
  | callAccepted (c : Call)
  | ack (device pa : Nat)
  | pcieRead (bytes : List Byte)
  deriving DecidableEq, Repr

/-- Something that has left: the Firel link that an access took, for whom it left (R421), and whether its acknowledgement is
still to return (R321). -/
structure Sent where
  link   : Option (Fin 12)
  sender : Sender
  body   : Outbound
  due    : Bool
  deriving DecidableEq, Repr

/-- What a core's instruction is in the middle of. -/
inductive CoreWork where
  /-- A CFGLD or CFGCLR holds the row of its cell (R367, R408). -/
  | config (c : CellId)
  /-- A LAUNCH or SPLICE that has read its descriptor waits for a queue entry or a record: the queue, the VP, the
  predecessor's handle (0 for none) and whether it has to be spliced (R228, R238, R239). -/
  | launch (q : Fin 16) (y : Vp) (pred : Nat) (must : Bool)
  deriving DecidableEq, Repr

/-! ### Schedule -/

/-- What runs in one step. The schedule is data of the state: which unit acts next, and what comes
from outside, is whatever it says, so a statement about every state covers every order. [DESIGN CHOICE, log 1] -/
inductive Action where
  /-- The control thread of a core executes its next instruction. -/
  | core (k : CoreId)
  /-- A remote context executes its next instruction. -/
  | remote (t : RemoteId)
  /-- A slot of a cell's block instance fires. -/
  | slot (c : CellId) (n : Nat)
  /-- A device step. -/
  | event (i : Instr)
  /-- A translation cache drops its n-th entry (R382). -/
  | evict (n : Nat)
  /-- A core drops its n-th fetched word (R46). -/
  | refetch (k : CoreId) (n : Nat)
  /-- An uncorrectable error strikes an 8-byte unit of memory (R376). -/
  | strike (space : Space) (unit : Nat)
  /-- A core fetches the word at an offset from its pcc ahead of its execution (R46). -/
  | prefetch (k : CoreId) (pc : Word)
  /-- An uncorrectable error strikes the tag of a 16-byte granule (R315). -/
  | strikeTag (space : Space) (granule : Nat)
  /-- An uncorrectable error strikes an entry of a cell's tag table (R376). -/
  | strikeTable (c : CellId) (n : Fin 64)
  /-- An uncorrectable error strikes the word of a slot of a block in a cell's block store (R376). -/
  | strikeWord (c : CellId) (block : Fin 32) (slot : Nat)
  /-- An uncorrectable error strikes a g register of a cell (R376). -/
  | strikeReg (c : CellId) (r : Fin 64)
  /-- An uncorrectable error strikes the n-th token of an edge's ring (R376). -/
  | strikeRing (v : VpId) (edge n : Nat)
  /-- A correctable error is corrected at a unit (R376). -/
  | correct (site : ErrorSite)
  /-- Bytes are put into the module flash at an offset (R422). -/
  | flash (offset : Nat) (bytes : List Byte)
  /-- Nothing but time. -/
  | idle
  deriving DecidableEq, Repr

/-- One turn of the schedule: the cycles that pass and what then acts. [DESIGN CHOICE, log 1] -/
structure Turn where
  dt  : Nat
  act : Action
  deriving DecidableEq, Repr

/-- The instruction that runs: the thread of a control instruction, or the cell and slot of a cell
instruction. -/
structure Focus where
  thread : ThreadId
  cell   : CellId
  slot   : Nat
  deriving DecidableEq, Repr

/-! ### The machine -/

/-- The whole machine. -/
structure State where
  /-- Arithmetic cycles since power-up; the clock of every time of the spec. -/
  cycle     : Nat
  /-- Counter of each die, from when it left reset (R171): the cycle at which it was 0. -/
  dieStart  : Vector Nat 2
  /-- The model's own: numbers free values and arrivals. -/
  fresh     : Nat
  /-- The model's own: the schedule, next turn first. -/
  script    : List Turn
  /-- The model's own: what `exec` acts on. -/
  focus     : Focus
  mem       : Memory
  scratch   : Memory
  tlb       : List TlbEntry
  /-- The model's own: translations that have left a cache before TLBI named them (R383). -/
  spent     : List TlbEntry
  cores     : Vector Core 32
  /-- Cores in the middle of an instruction, with that instruction (R228, R367). -/
  works     : List (CoreId × Instr × CoreWork)
  units     : List (UnitId × Unit)
  cells     : List (CellId × Cell)
  memQueues : List (CellId × List CellReq)
  transfers : List Transfer
  parked    : List Parked
  /-- The model's own: the accesses of the current turn that have missed their translation cache (R382). -/
  misses    : List Parked
  flights   : List Flight
  rows      : List (RowId × Row)
  vps       : List (VpId × Vp)
  scheds    : Vector Scheduler 2
  fibreReqs : List FibreReq
  replies   : List FibreReply
  holds     : List Hold
  calls     : List Call
  callBack  : List CallReply
  lost      : List (Caller × BitVec 32)
  cleared   : List (Caller × BitVec 32)
  records   : List (CoreId × BitVec 128)
  errors    : List (ErrorSite × ErrorUnit)
  errorCore : Vector (BitVec 5) 2
  staging   : List (Nat × CoreId × Word)
  kdevno    : BitVec 12
  kstrict   : Bool
  staged    : Vector PartitionEntry 8
  partitions : Option (Vector PartitionEntry 8)
  commitResult : Word
  startRec  : Vector (Vector Word 3) 32
  harts     : Vector Hart 24
  routes    : List (Nat × BitVec 12)
  deadLinks : List (Fin 12)
  scNode    : Nat
  scCount   : Nat
  /-- Cores that a partition's reset has halted and that have not started since: the token skips them (R387). -/
  scSkip    : List CoreId
  outbox    : List Sent
  powerMw   : Nat
  tempC     : Nat
  held      : Bool
  overTemp  : Bool
  boot      : BootPhase
  measure0  : BitVec 384
  deviceKey : Option (List Byte)
  /-- The module flash by offset (R422). -/
  flash     : Memory
  ports     : Vector PortSplit 4
  /-- Port 4 is an endpoint (R420). -/
  endpoint  : Bool
  /-- When the current power window began (R425). -/
  windowAt  : Nat
  activity  : List (Budget × Nat)
  recordOk  : Bool
  speedGrade : Nat
  gddrMiB   : Nat
  retired   : List CellId
  dropped   : Nat
  deriving DecidableEq, Repr

/-- The cell and thread that the focus names where nothing has run. -/
def Focus.none : Focus := ⟨.core 0, ⟨0, 0, 0⟩, 0⟩

/-- The machine right after reset: nothing is loaded, every control core is halted (R419), every
queue is unbound (R227), no partition exists (R384), every tag is 0 (R315), the schedule is empty (log 4). A field
that no rule gives a reset value is zero or empty (DESIGN CHOICE, log 2, unsafe), and so is every byte of memory
(DESIGN CHOICE, log 3, unsafe). [DESIGN CHOICE, log 2; DESIGN CHOICE, log 3] -/
def State.reset : State :=
  { cycle := 0, dieStart := Vector.replicate 2 0, fresh := 0,
    script := [], focus := .none, mem := .empty, scratch := .empty, tlb := [], spent := [],
    cores := Vector.replicate 32 Core.reset, works := [], units := [], cells := [], memQueues := [],
    transfers := [], parked := [], misses := [], flights := [], rows := [], vps := [],
    scheds := Vector.replicate 2 Scheduler.reset, fibreReqs := [], replies := [], holds := [],
    calls := [], callBack := [], lost := [], cleared := [], records := [], errors := [], errorCore := Vector.replicate 2 0,
    staging := [], kdevno := 0, kstrict := false,
    staged := Vector.replicate 8 (Vector.replicate 8 0), partitions := none, commitResult := 0,
    startRec := Vector.replicate 32 (Vector.replicate 3 0), harts := Vector.replicate 24 Hart.reset,
    routes := [], deadLinks := [], scNode := 0, scCount := 0, scSkip := [], outbox := [], powerMw := 0,
    tempC := 0, held := false, overTemp := false, boot := .off, measure0 := 0, deviceKey := none,
    flash := .empty, ports := Vector.replicate 4 .x16, endpoint := false, windowAt := 0, activity := [], recordOk := false,
    speedGrade := 0, gddrMiB := 0, retired := [], dropped := 0 }

/-! ### Stops -/

/-- Why the machine stops with a fault. -/
inductive Fault where
  /-- The module stays in reset: neither first-stage image verifies (R423 step 2). Raised by `step` once boot has
  failed. Safe: nothing runs in such a module. -/
  | stayedInReset
  deriving DecidableEq, Repr

/-- Why the model gives an instruction no meaning. -/
inductive Refusal where
  /-- The instruction has no meaning in the model yet; raised by its arm of `exec` alone. Safe: nothing
  can be proved of what it does. -/
  | notModelled (mnemonic : String)
  deriving DecidableEq, Repr

end Sys2Proof.Machine
end

