-- ==== Sys2Proof/Machine/Memory.lean ====
section
/-!
DEFINITION. Reads and writes of one memory (R5, R315, R376). Every write keeps the canonical form of
`Memory.wf`.
-/

namespace Sys2Proof.Machine
open Sys2Proof

/-- The byte at an address; an unlisted address reads 0. -/
def bytesGet : List Host.Cell → Nat → Byte
  | [], _ => 0
  | (k, b) :: t, a => if k = a then b else bytesGet t a

/-- The list with the byte at an address set; a zero byte is not listed. -/
def bytesSet : List Host.Cell → Nat → Byte → List Host.Cell
  | [], a, v => if v = 0 then [] else [(a, v)]
  | (k, b) :: t, a, v =>
    if k < a then (k, b) :: bytesSet t a v
    else if k = a then (if v = 0 then t else (a, v) :: t)
    else if v = 0 then (k, b) :: t else (a, v) :: (k, b) :: t

/-- Addresses strictly rising and no zero byte. -/
def bytesWf : List Host.Cell → Bool
  | [] => true
  | [(_, b)] => b != 0
  | (k, b) :: (k', b') :: t => decide (k < k') && b != 0 && bytesWf ((k', b') :: t)

/-- n in a rising list of numbers. -/
def natInsert : List Nat → Nat → List Nat
  | [], n => [n]
  | k :: t, n => if k < n then k :: natInsert t n else if k = n then k :: t else n :: k :: t

/-- Strictly rising. -/
def natsWf : List Nat → Bool
  | [] => true
  | [_] => true
  | k :: k' :: t => decide (k < k') && natsWf (k' :: t)

/-- The canonical form of a memory: equal memories are equal data. -/
def Memory.wf (m : Memory) : Bool :=
  bytesWf m.bytes && natsWf m.tags && natsWf m.poison && natsWf m.badTags

/-- One byte. [DESIGN CHOICE, log 3] -/
def Memory.byte (m : Memory) (a : Nat) : Byte := bytesGet m.bytes a

/-- n bytes from an address. -/
def Memory.read (m : Memory) (a : Nat) : Nat → List Byte
  | 0 => []
  | n + 1 => m.byte a :: m.read (a + 1) n

/-- n bytes as a little-endian number (R5). -/
def Memory.readNat (m : Memory) (a n : Nat) : Nat := leNat (m.read a n)

/-- The bytes of a list written from an address. -/
def bytesPut : List Host.Cell → Nat → List Byte → List Host.Cell
  | l, _, [] => l
  | l, a, b :: bs => bytesPut (bytesSet l a b) (a + 1) bs

/-- The numbers outside [lo, hi). -/
def natsOutside (l : List Nat) (lo hi : Nat) : List Nat :=
  l.filter fun n => decide (n < lo) || decide (hi ≤ n)

/-- A write clears the tag of each granule it touches and writes it anew (R315), and makes whole the 8-byte units
that it covers whole (R376). -/
def Memory.write (m : Memory) (a : Nat) (bs : List Byte) : Memory :=
  match bs with
  | [] => m
  | _ :: _ =>
    { bytes := bytesPut m.bytes a bs
      tags := natsOutside m.tags (a / 16) ((a + bs.length + 15) / 16)
      poison := natsOutside m.poison ((a + 7) / 8) ((a + bs.length) / 8)
      badTags := natsOutside m.badTags (a / 16) ((a + bs.length + 15) / 16) }

/-- A number written in n little-endian bytes. -/
def Memory.writeNat (m : Memory) (a n v : Nat) : Memory := m.write a (leBytes n v)

/-- The tag of the granule that holds an address has an uncorrectable error (R315). -/
def Memory.badTag (m : Memory) (a : Nat) : Bool := m.badTags.contains (a / 16)

/-- The tag of the granule that holds an address (R315). A tag with an uncorrectable error reads 0. -/
def Memory.tagAt (m : Memory) (a : Nat) : Bool := m.tags.contains (a / 16) && !m.badTag a

/-- The tag of the granule set, its bytes left alone. -/
def Memory.setTag (m : Memory) (a : Nat) : Memory :=
  { m with
    tags := natInsert m.tags (a / 16)
    badTags := m.badTags.filter fun n => n != a / 16 }

/-- An uncorrectable error in the 8-byte units of a range (R376). -/
def Memory.bad (m : Memory) (a n : Nat) : Bool :=
  m.poison.any fun u => decide (a / 8 ≤ u) && decide (u * 8 < a + n)

/-- A write that covers a damaged unit only in part (R376): the error is counted once more. -/
def Memory.partialBad (m : Memory) (a n : Nat) : Bool :=
  (m.poison.any fun u => decide (a / 8 ≤ u) && decide (u * 8 < a + n) &&
    (decide (u * 8 < a) || decide (a + n < u * 8 + 8)))

/-- Units that a store covers whole: what stands in them is replaced, with its check bits (R376). -/
def Memory.heal (m : Memory) (units : List Nat) : Memory :=
  { m with poison := m.poison.filter fun u => !units.contains u }

/-- An uncorrectable error strikes a unit. -/
def Memory.strike (m : Memory) (unit : Nat) : Memory := { m with poison := natInsert m.poison unit }

/-- An uncorrectable error strikes the tag of a granule (R315). -/
def Memory.strikeTag (m : Memory) (granule : Nat) : Memory :=
  { m with badTags := natInsert m.badTags granule }

end Sys2Proof.Machine
end

