-- ==== Sys2Proof/Machine/Ops.lean ====
section
/-!
DEFINITION. The named operations over the state: capabilities' fields, accessors, event records, error
counts, homes and owners, translation, taking a trap and returning from one.
-/

namespace Sys2Proof

/-- A source word of an event record (R246). -/
def srcWord (die row col slot lane : Nat) : Nat :=
  die * 2 ^ 31 + row * 2 ^ 24 + col * 2 ^ 16 + slot * 2 ^ 8 + lane

/-- The source of a cell's slot and lane. -/
def CellId.src (c : CellId) (slot lane : Nat) : Nat := srcWord c.die c.row c.col slot lane

/-- A column that holds a memory cell (R2). -/
def CellId.isMem (c : CellId) : Bool := c.col.val % 9 == 8

/-- The memory cell that serves a cell (R131). [DESIGN CHOICE, log 101] -/
def CellId.server (c : CellId) : CellId := { c with col := Fin.ofNat 36 (c.col.val / 9 * 9 + 8) }

/-- The compute-cell index of a column, counted eastward without memory cells (R290). -/
def CellId.index (c : CellId) : Nat := c.col.val - c.col.val / 9

/-- The first SCRATCH address of a cell (R311). -/
def CellId.scratchBase (c : CellId) : Nat :=
  c.die.val * 2 ^ 30 + c.row.val * 2 ^ 24 + c.col.val * 2 ^ 18

/-- The row of a cell. -/
def CellId.rowId (c : CellId) : RowId := ⟨c.die, c.row⟩

end Sys2Proof

namespace Sys2Proof.Machine
open Sys2Proof

/-- What a step answers. -/
abbrev Res := Host.Outcome State Fault Refusal

/-! ### Bits -/

/-- Bits [hi:lo] of a number. -/
def field (n hi lo : Nat) : Nat := n / 2 ^ lo % 2 ^ (hi + 1 - lo)

/-- Bit i of a number. -/
def bitAt (n i : Nat) : Bool := n / 2 ^ i % 2 == 1

/-- The signed value of the n-bitAt number x. -/
def signed (x n : Nat) : Int := if x < 2 ^ (n - 1) then x else (x : Int) - 2 ^ n

/-- A signed value as a w-bitAt number. -/
def wrap (v : Int) (w : Nat) : Nat := (v % 2 ^ w).toNat

/-- The value at a key of a list of pairs. -/
def alGet [DecidableEq α] (l : List (α × β)) (k : α) (dflt : β) : β :=
  match l with
  | [] => dflt
  | (k', v) :: t => if k' = k then v else alGet t k dflt

/-- The list with the value at a key set. -/
def alSet [DecidableEq α] (l : List (α × β)) (k : α) (v : β) : List (α × β) :=
  match l with
  | [] => [(k, v)]
  | (k', v') :: t => if k' = k then (k, v) :: t else (k', v') :: alSet t k v

/-- The list without its n-th element. -/
def dropNth : List α → Nat → List α
  | [], _ => []
  | _ :: t, 0 => t
  | x :: t, n + 1 => x :: dropNth t n

/-- The list with its n-th element replaced. -/
def setNth : List α → Nat → α → List α
  | [], _, _ => []
  | _ :: t, 0, y => y :: t
  | x :: t, n + 1, y => x :: setNth t n y

/-! ### Capabilities (R68) -/

def Cap.base (c : Cap) : Nat := field c.bits.toNat 56 0
def Cap.length (c : Cap) : Nat := field c.bits.toNat 103 64
def Cap.perms (c : Cap) : Nat := field c.bits.toNat 111 104
def Cap.tenant (c : Cap) : BitVec 8 := BitVec.ofNat 8 (field c.bits.toNat 119 112)
def Cap.otype (c : Cap) : Nat := field c.bits.toNat 127 120
def Cap.space (c : Cap) : Space :=
  match field c.bits.toNat 58 57 with
  | 0 => .dense | 1 => .fibre | 2 => .scratch | _ => .sys
def Space.code : Space → Nat
  | .dense => 0 | .fibre => 1 | .scratch => 2 | .sys => 3
def Cap.pR (c : Cap) : Bool := bitAt c.bits.toNat 104
def Cap.pW (c : Cap) : Bool := bitAt c.bits.toNat 105
def Cap.pX (c : Cap) : Bool := bitAt c.bits.toNat 106
def Cap.pA (c : Cap) : Bool := bitAt c.bits.toNat 107
def Cap.pM (c : Cap) : Bool := bitAt c.bits.toNat 108
def Cap.pS (c : Cap) : Bool := bitAt c.bits.toNat 109
def Cap.pC (c : Cap) : Bool := bitAt c.bits.toNat 110
def Cap.pG (c : Cap) : Bool := bitAt c.bits.toNat 111

/-- A capability from its fields (R68). `perms` holds R in bitAt 0 up to G in bitAt 7. [DESIGN CHOICE, log 90] -/
def Cap.make (base : Nat) (sp : Space) (length perms : Nat) (tenant : BitVec 8) (otype : Nat)
    (tag : Bool) : Cap :=
  ⟨BitVec.ofNat 128 (base % 2 ^ 57 + sp.code * 2 ^ 57 + length % 2 ^ 40 * 2 ^ 64 +
    perms % 256 * 2 ^ 104 + tenant.toNat * 2 ^ 112 + otype % 256 * 2 ^ 120), tag⟩

/-- The range that a tagged capability keeps to (R68). [DESIGN CHOICE, log 90] -/
def Cap.inRange (c : Cap) : Bool := decide (c.base + c.length ≤ 2 ^ 57)

/-- A tagged capability that another module sends: untagged here where its range is not that of R68.
[DESIGN CHOICE, log 90] -/
def Cap.arrived (bits : BitVec 128) : Cap := ⟨bits, (⟨bits, true⟩ : Cap).inRange⟩

/-- The capability with another base and length; every other field is kept (R71). -/
def Cap.withRange (c : Cap) (base length : Nat) : Cap :=
  Cap.make base c.space length c.perms c.tenant c.otype c.tag

/-! ### Names and codes -/

/-- The trap causes' codes (R367). -/
def Cause.code : Cause → Nat
  | .illegal => 1 | .bounds => 2 | .perm => 3 | .tag => 4 | .page => 5 | .wprot => 6
  | .misalign => 7 | .ecc => 8 | .cfgReject => 9 | .rowBusy => 10 | .remoteFault => 11
  | .remoteBudget => 12 | .nonlocal => 13 | .deadlock => 14 | .spillFull => 15
  | .doubleOperand => 16 | .exitCount => 17 | .trapInstruction => 18 | .watchdog => 19
  | .unpaired => 20

/-- The status codes (R47). -/
def Status.code : Status → Nat
  | .ok => 0 | .busyPower => 1 | .poolEmpty => 2 | .lost => 3 | .remoteFault => 4 | .bounds => 5
  | .perm => 6 | .notFound => 7 | .rejected => 8 | .timeout => 9 | .peerReset => 10
  | .replayed => 11 | .rowBusy => 12 | .noBand => 13 | .badDesc => 14 | .retired => 15
  | .eccDropped => 16

/-- The statuses in the order of their codes. -/
def Status.all : List Status :=
  [.ok, .busyPower, .poolEmpty, .lost, .remoteFault, .bounds, .perm, .notFound, .rejected, .timeout, .peerReset,
    .replayed, .rowBusy, .noBand, .badDesc, .retired, .eccDropped]

/-- The status of a code (R47). -/
def Status.ofCode (n : Nat) : Option Status := Status.all[n]?

/-- The token kinds' codes (R135). -/
def Kind.code : Kind → Nat
  | .data => 0 | .eot => 1 | .eor => 2 | .eow => 3 | .pre => 4 | .rcf => 5 | .nul => 6 | .spc => 7
  | .pmt => 8 | .ord => 9 | .err => 10 | .hdr => 11 | .scl => 12

/-- The kind of a code; 13 to 15 are reserved. -/
def Kind.ofCode : Nat → Option Kind
  | 0 => some .data | 1 => some .eot | 2 => some .eor | 3 => some .eow | 4 => some .pre
  | 5 => some .rcf | 6 => some .nul | 7 => some .spc | 8 => some .pmt | 9 => some .ord
  | 10 => some .err | 11 => some .hdr | 12 => some .scl | _ => none

/-- A word with a status in [63:48] and a value in [31:0] (R110, R238). -/
def resultWord (value : Nat) (st : Status) : Word :=
  BitVec.ofNat 64 (value % 2 ^ 32 + st.code * 2 ^ 48)

/-- The die of a control core and its number there (R3). -/
def coreDie (k : CoreId) : Fin 2 := Fin.ofNat 2 (k.val / 16)
def coreNum (k : CoreId) : Nat := k.val % 16

/-- Control core n of a die. -/
def coreOf (die : Fin 2) (n : Nat) : CoreId := Fin.ofNat 32 (16 * die.val + n % 16)

/-- The source of a control core: column 63 of the first row of its row group. -/
def coreSrc (k : CoreId) : Nat := srcWord (coreDie k) (4 * coreNum k) 63 0 0

/-- The column of compute cell k of a row (R193). -/
def colOfIndex (k : Nat) : Fin 36 := Fin.ofNat 36 (k + k / 8)

/-! ### Accessors -/

def State.core (s : State) (k : CoreId) : Core := s.cores[k]
def State.setCore (s : State) (k : CoreId) (c : Core) : State :=
  { s with cores := s.cores.set k c }
def State.unit (s : State) (u : UnitId) : Unit := alGet s.units u .empty
def State.setUnit (s : State) (u : UnitId) (x : Unit) : State :=
  { s with units := alSet s.units u x }
def State.cell (s : State) (c : CellId) : Cell := alGet s.cells c .reset
def State.setCell (s : State) (c : CellId) (x : Cell) : State :=
  { s with cells := alSet s.cells c x }
def State.row (s : State) (r : RowId) : Row := alGet s.rows r .reset
def State.setRow (s : State) (r : RowId) (x : Row) : State := { s with rows := alSet s.rows r x }
def State.vp (s : State) (v : VpId) : Vp := alGet s.vps v .free
def State.setVp (s : State) (v : VpId) (x : Vp) : State := { s with vps := alSet s.vps v x }
def State.memQueue (s : State) (c : CellId) : List CellReq := alGet s.memQueues c []
def State.setMemQueue (s : State) (c : CellId) (q : List CellReq) : State :=
  { s with memQueues := alSet s.memQueues c q }
def State.sched (s : State) (d : Fin 2) : Scheduler := s.scheds[d]

/-- The pointer and the candidate of a scheduler: in strict mode those of a partition (R231, R385). -/
def Scheduler.turn (d : Scheduler) (t : Option (BitVec 8)) : Fin 16 × Option (Fin 16) :=
  match t with
  | none => (d.pointer, d.candidate)
  | some t => alGet d.turns t (0, none)
def Scheduler.setTurn (d : Scheduler) (t : Option (BitVec 8)) (x : Fin 16 × Option (Fin 16)) : Scheduler :=
  match t with
  | none => { d with pointer := x.1, candidate := x.2 }
  | some t => { d with turns := alSet d.turns t x }

/-- A queue whose head is none any more is no candidate. -/
def Scheduler.dropCandidate (d : Scheduler) (q : Fin 16) : Scheduler :=
  { d with
    candidate := d.candidate.filter fun x => x != q
    turns := d.turns.map fun t => (t.1, t.2.1, t.2.2.filter fun x => x != q) }

/-- In strict mode, the tenant of the partition whose slot of the schedulers this is (R385).
[DESIGN CHOICE, log 86] -/
def State.slotTenant (s : State) : Option (BitVec 8) := if s.kstrict then some (Config.strictSlot s.cycle) else none
def State.setSched (s : State) (d : Fin 2) (x : Scheduler) : State :=
  { s with scheds := s.scheds.set d x }

/-- The arithmetic-cycle counter of a die (R171). -/
def State.dieCycle (s : State) (d : Fin 2) : Nat := s.cycle - s.dieStart[d]

/-- A fresh number, and the state that has used it. [DESIGN CHOICE, log 80] -/
def State.draw (s : State) : Nat × State := (s.fresh, { s with fresh := s.fresh + 1 })

/-- The thread with this name. A remote context that runs nothing has the zero thread. -/
def State.thread (s : State) (t : ThreadId) : Thread :=
  match t with
  | .core k => (s.core k).thread
  | .remote r => match (s.unit r.unit).ctx[r.ctx] with
    | some x => x.thread
    | none => .zero

/-- The thread's registers replaced. -/
def State.setThread (s : State) (t : ThreadId) (x : Thread) : State :=
  match t with
  | .core k => s.setCore k { s.core k with thread := x }
  | .remote r =>
    let u := s.unit r.unit
    match u.ctx[r.ctx] with
    | some y => s.setUnit r.unit { u with ctx := u.ctx.set r.ctx (some { y with thread := x }) }
    | none => s

/-- x[r] as an instruction reads it; x0 reads zero (R48). -/
def Thread.get (t : Thread) (r : XReg) : Word := if r = 0 then 0 else t.x[r]

/-- The thread after a write of x[r]; a write of x0 is discarded (R30). -/
def Thread.set (t : Thread) (r : XReg) (v : Word) : Thread :=
  if r = 0 then t else { t with x := t.x.set r v }

/-- c[r] and its write. -/
def Thread.cap (t : Thread) (r : CReg) : Cap := t.c[r]
def Thread.setCap (t : Thread) (r : CReg) (v : Cap) : Thread := { t with c := t.c.set r v }

/-- x[r] of a thread of the state, and its write. -/
def State.getX (s : State) (t : ThreadId) (r : XReg) : Word := (s.thread t).get r
def State.setX (s : State) (t : ThreadId) (r : XReg) (v : Word) : State :=
  s.setThread t ((s.thread t).set r v)
def State.getC (s : State) (t : ThreadId) (r : CReg) : Cap := (s.thread t).cap r
def State.setC (s : State) (t : ThreadId) (r : CReg) (v : Cap) : State :=
  s.setThread t ((s.thread t).setCap r v)

/-- The instruction retires and the next pc is p: KINSTR of a control core counts it (R389), the budget
of a remote context falls by one (R340). -/
def State.retireTo (s : State) (t : ThreadId) (p : Word) : State :=
  match t with
  | .core k =>
    let c := s.core k
    s.setCore k { c with thread := { c.thread with pc := p }, kinstr := c.kinstr + 1 }
  | .remote r =>
    let u := s.unit r.unit
    match u.ctx[r.ctx] with
    | some y =>
      let y' := { y with thread := { y.thread with pc := p }, budget := y.budget - 1 }
      s.setUnit r.unit { u with ctx := u.ctx.set r.ctx (some y') }
    | none => s

/-- The instruction retires and the next one in order follows. -/
def State.retire (s : State) (t : ThreadId) : State := s.retireTo t ((s.thread t).pc + 4)

/-! ### Event records and error counts -/

/-- An event record (R246). -/
def record (kind cause status source payload : Nat) : BitVec 128 :=
  BitVec.ofNat 128 (kind % 256 + cause % 256 * 2 ^ 8 + status % 2 ^ 16 * 2 ^ 16 +
    source % 2 ^ 32 * 2 ^ 32 + payload % 2 ^ 64 * 2 ^ 64)

/-- A record on its way to a control core's event queue. -/
def State.post (s : State) (k : CoreId) (r : BitVec 128) : State :=
  { s with records := s.records ++ [(k, r)] }

/-- A WFE that waits goes on: the event flag is clear and the instruction has retired (R395). -/
def Core.wake (c : Core) : Core :=
  match c.wfeSince with
  | none => c
  | some _ =>
    { c with
      wfeSince := none
      event := false
      thread := { c.thread with pc := c.thread.pc + 4 }
      kinstr := c.kinstr + 1 }

/-- One more dropped record is counted in the payload of an ERROR_COUNT record, which saturates (R247).
[DEDUCED, log 83] -/
def countDrop (r : BitVec 128) : BitVec 128 :=
  let n := field r.toNat 127 64
  BitVec.ofNat 128 (field r.toNat 63 0 + (if n = 2 ^ 64 - 1 then n else n + 1) * 2 ^ 64)

/-- A record enters a queue (R247): with 1,023 held it is dropped, and an ERROR_COUNT record is filled in as the
last entry, or counts it where one of these still stands in the queue. A WFE that waits goes on where a record enters
(R395). [DEDUCED, log 83] -/
def Core.enqueue (k : CoreId) (c : Core) (r : BitVec 128) : Core :=
  if c.events.length < 1023 then { c with events := c.events ++ [r] }.wake
  else match c.overAt with
    | some n => { c with events := c.events.modify n countDrop }
    | none => { c with
        events := c.events ++ [record 9 0 0 (coreSrc k) 1]
        overAt := some c.events.length }.wake

/-- The oldest record leaves the queue (R248, R389). [DEDUCED, log 83] -/
def Core.dequeue (c : Core) : Core :=
  { c with
    events := c.events.tail
    evHead := (c.evHead + 1) % 1024
    overAt := match c.overAt with
      | some (n + 1) => some n
      | _ => none }

/-- The die of a unit that counts errors; the Spire's link unit counts with die 0. [DEDUCED, log 13] -/
def ErrorSite.die : ErrorSite → Fin 2
  | .cell c => c.die
  | .grotto g => Fin.ofNat 2 (g.val / 128)
  | .row r => r.die
  | .core k => coreDie k
  | .link => 0

/-- The source word of a unit that counts errors (R391). [DEDUCED, log 13; DEDUCED, log 74] -/
def ErrorSite.src : ErrorSite → Nat
  | .cell c => c.src 0 0
  | .grotto g => srcWord (g.val / 128) (g.val % 64) (60 + g.val / 64 % 2) 0 0
  | .row r => srcWord r.die r.row 62 0 0
  | .core k => coreSrc k
  | .link => srcWord 0 0 48 0 0

/-- A count after one more error; it saturates (R377). -/
def bump (n : BitVec 32) : BitVec 32 := if n = BitVec.allOnes 32 then n else n + 1

/-- A count has reached a multiple of a threshold other than 0 (R377). -/
def reached (n thr : BitVec 32) : Bool := thr != 0 && n.toNat % thr.toNat == 0

/-- A unit counts an error; at a multiple of its threshold an ERROR_COUNT record goes to the die's
error core (R377, R391). -/
def State.countError (s : State) (site : ErrorSite) (uncorrectable : Bool) : State :=
  let u := alGet s.errors site .zero
  let u' : ErrorUnit :=
    if uncorrectable then { u with uncorrectable := bump u.uncorrectable }
    else { u with correctable := bump u.correctable }
  let n := if uncorrectable then u'.uncorrectable else u'.correctable
  let old := if uncorrectable then u.uncorrectable else u.correctable
  let thr := if uncorrectable then u'.thrUncorrectable else u'.thrCorrectable
  let s := { s with errors := alSet s.errors site u' }
  let ec := s.errorCore[site.die]
  if reached n thr && n != old && bitAt ec.toNat 4 then
    s.post (coreOf site.die (ec.toNat % 16)) (record 9 0 0 site.src n.toNat)
  else s

/-! ### Where memory lives (R316, R317) -/

/-- A local address that is vault SRAM or populated GDDR. [DEDUCED, log 73] -/
def State.populated (s : State) (a : Nat) : Bool :=
  decide (a < 0x40000000) ||
    (decide (0x8000000000 ≤ a) && decide (a < 0x8000000000 + s.gddrMiB * 2 ^ 20))

/-- The grotto that holds a vault address or homes a GDDR page. -/
def homeGrotto (a : Nat) : GrottoId :=
  if a < 0x40000000 then Fin.ofNat 256 (a / 0x400000)
  else
    let n := (a - 0x8000000000) / 4096
    let ch := n % 24
    Fin.ofNat 256 (ch / 12 * 128 + (n / 24 + 5 * (ch % 12)) % 64)

/-- The GDDR channel of a local address. -/
def gddrChannel (a : Nat) : Nat := (a - 0x8000000000) / 4096 % 24

/-- A physical address of this device (R318). -/
def State.isLocal (s : State) (pa : Nat) : Bool := pa / 2 ^ 40 % 4096 == s.kdevno.toNat

/-- The bytes of a local address. -/
def localAddr (pa : Nat) : Nat := pa % 2 ^ 40

/-- A cell that the part record names as retired (R4). -/
def State.isRetired (s : State) (c : CellId) : Bool := s.retired.contains c

/-- A VP may use the device's cells as far as the part record says: while none is verified, only static images may (R424).
[DEDUCED, log 61] -/
def State.cellsOpen (s : State) (x : Vp) : Bool := x.static || s.recordOk

/-! ### Partitions (R384) -/

def PartitionEntry.tenant (p : PartitionEntry) : BitVec 8 := BitVec.ofNat 8 p[0].toNat
def PartitionEntry.enabled (p : PartitionEntry) : Bool := bitAt p[0].toNat 8
def PartitionEntry.cores (p : PartitionEntry) : Nat := field p[0].toNat 63 32
def PartitionEntry.queues (p : PartitionEntry) : Nat := field p[1].toNat 31 0
def PartitionEntry.channels (p : PartitionEntry) : Nat := field p[1].toNat 55 32
def PartitionEntry.groups (p : PartitionEntry) : Nat := field p[2].toNat 31 0
def PartitionEntry.vf (p : PartitionEntry) : Option (Fin 16) :=
  if bitAt p[2].toNat 36 then some (Fin.ofNat 16 (field p[2].toNat 35 32)) else none
/-- The partition's share of a vault die's power, in 1/256. -/
def PartitionEntry.powerShare (p : PartitionEntry) (die : Fin 4) : Nat :=
  field p[5].toNat (8 * die.val + 7) (8 * die.val)
def PartitionEntry.root (p : PartitionEntry) : Nat := p[3].toNat
def PartitionEntry.table (p : PartitionEntry) : Nat := p[4].toNat

/-- The enabled partition that holds a tenant, once a table has been committed. -/
def State.partitionOf (s : State) (tenant : BitVec 8) : Option PartitionEntry :=
  match s.partitions with
  | none => none
  | some ps => ps.toList.find? fun p => p.enabled && p.tenant == tenant

/-- The enabled partition that names a control core. -/
def State.partitionOfCore (s : State) (k : CoreId) : Option PartitionEntry :=
  match s.partitions with
  | none => none
  | some ps => ps.toList.find? fun p => p.enabled && bitAt p.cores k.val

/-- A local address in the memory of a partition: its grotto groups and its GDDR channels (R384). -/
def PartitionEntry.holds (p : PartitionEntry) (a : Nat) : Bool :=
  if a < 0x40000000 then bitAt p.groups (a / 0x400000 / 8) else bitAt p.channels (gddrChannel a)

/-- A page of `size` bytes lies whole in the memory of a partition (R384, R386). Its 4 KiB pages are on as many
channels as there are pages, up to all 24; a page of vault SRAM spans groups of 32 MiB. [DEDUCED, log 10] -/
def PartitionEntry.holdsPage (p : PartitionEntry) (a size : Nat) : Bool :=
  (List.range (min 24 (size / 4096))).all (fun i => p.holds (a + 4096 * i)) &&
    (List.range (size / 0x2000000)).all (fun i => p.holds (a + 0x2000000 * i))

/-- Root of the walks of cells, engines and grottos for a tenant (R378). [DESIGN CHOICE, log 11] -/
def State.rootOf (s : State) (tenant : BitVec 8) : Nat :=
  match s.partitionOf tenant with
  | some p => p.root
  | none => Config.orphanRoot tenant.toNat

/-! ### Translation (R378 to R382) -/

/-- What a walk needs of a page-table entry at a level (R379): its next table, its leaf, or PAGE. -/
inductive Entry where
  | table (pa : Nat)
  | leaf (e : TlbEntry)
  | bad
  deriving DecidableEq, Repr

/-- The frame of a leaf lies in memory that exists (R316, R379). Of another module the spec gives the map and not the
populated length of its GDDR. [DEDUCED, log 10] -/
def State.framePopulated (s : State) (frame size : Nat) : Bool :=
  let a := localAddr frame
  if s.isLocal frame then s.populated a && s.populated (a + size - 1)
  else decide (a < 0x40000000) || decide (0x8000000000 ≤ a)

/-- One page-table entry at a level, judged in the order of R379. [DEDUCED, log 10] -/
def State.readEntry (s : State) (cache : CacheId) (tenant : BitVec 8) (va level shift pa ent : Nat) :
    Entry :=
  let leaf := bitAt ent 4
  let span := bitAt ent 3
  let frame := field ent 51 12 * 4096
  if !bitAt ent 0 || field ent 11 8 != 0 || (leaf && level == 1) || (!leaf && level == 4) ||
      (span && (!leaf || level == 2)) then .bad
  else if !leaf then
    if s.isLocal frame && s.populated (localAddr frame) then .table frame else .bad
  else
    let size := 2 ^ shift * (if span then 16 else 1)
    let e (frame : Nat) (fill : Option (BitVec 32)) : Entry := .leaf
      { cache := cache, tenant := tenant, page := va / size * size, size := size, frame := frame,
        write := bitAt ent 1, exec := bitAt ent 2, fill := fill, entryPa := pa, dirty := bitAt ent 7 }
    if bitAt ent 5 then
      if field ent 19 12 != 0 then .bad else e 0 (some (BitVec.ofNat 32 (field ent 51 20)))
    else
      let base := frame / size * size
      if frame % 2 ^ shift != 0 || !s.framePopulated base size then .bad
      else match s.partitionOf tenant with
        | some p => if s.isLocal base && p.holdsPage (localAddr base) size then e base none else .bad
        | none => e base none

/-- A walk from a table through the levels left, each with the shift of its index. PAGE or, where an
entry has an uncorrectable error, ECC (R376); beside the cause stands the entry's address. -/
def State.walk (s : State) (cache : CacheId) (tenant : BitVec 8) (va : Nat) :
    List (Nat × Nat) → Nat → Except (Cause × Nat) TlbEntry
  | [], _ => .error (.page, 0)
  | (level, shift) :: rest, table =>
    let pa := localAddr table + 8 * (va / 2 ^ shift % 512)
    if s.mem.bad pa 8 then .error (.ecc, pa)
    else match s.readEntry cache tenant va level shift pa (s.mem.readNat pa 8) with
      | .bad => .error (.page, pa)
      | .leaf e => .ok e
      | .table t => s.walk cache tenant va rest t

/-- The four levels of R378. -/
def levels : List (Nat × Nat) := [(1, 39), (2, 30), (3, 21), (4, 12)]

/-- A cached translation that holds an address of a tenant. [DESIGN CHOICE, log 21] -/
def State.cached (s : State) (cache : CacheId) (tenant : BitVec 8) (va : Nat) : Option TlbEntry :=
  s.tlb.find? fun e =>
    e.cache == cache && e.tenant == tenant && decide (e.page ≤ va) && decide (va < e.page + e.size)

/-- Bytes written to memory of this device by any agent: the owner applies them, the tags of their
granules are cleared (R315), a partial write of a damaged unit is counted once more (R376), and harts
that hold a reservation on a line lose it (R329). -/
def State.memWrite (s : State) (a : Nat) (bs : List Byte) : State :=
  let s := if s.mem.partialBad a bs.length then s.countError (.grotto (homeGrotto a)) true else s
  { s with
    mem := s.mem.write a bs
    harts := Vector.ofFn fun i => match s.harts[i].reserved with
      | some l => if a / 64 ≤ l ∧ l * 64 < a + bs.length then { s.harts[i] with reserved := none } else s.harts[i]
      | none => s.harts[i] }

/-- Bits of the first byte of a leaf set by an atomic OR at its owner (R381). -/
def State.mark (s : State) (e : TlbEntry) (bits : Nat) : State :=
  let old := (s.mem.byte e.entryPa).toNat
  let new := old ||| bits
  if new = old then s else s.memWrite e.entryPa [BitVec.ofNat 8 new]

/-- The accessed bit of a leaf's first byte, and the dirty bit. -/
def accessedBit : Nat := 64
def dirtyBit : Nat := 128

/-- Entries of a translation cache; those of the Spire the spec does not number (R382). -/
def CacheId.size : CacheId → Option Nat
  | .edge _ => some 256
  | .memCell _ => some 64
  | .die _ => some 16384
  | .spire => none

/-- The list without its last element of a kind, and that element. -/
def takeLast (f : α → Bool) : List α → Option (α × List α)
  | [] => none
  | x :: xs => match takeLast f xs with
    | some (y, ys) => some (y, x :: ys)
    | none => if f x then some (x, xs) else none

/-- A translation enters its cache; from a full cache the one that entered first leaves. [DESIGN CHOICE, log 21] -/
def State.fillTlb (s : State) (e : TlbEntry) : State :=
  let own (x : TlbEntry) : Bool := x.cache == e.cache
  let full := match e.cache.size with
    | some n => decide (n ≤ (s.tlb.filter own).length)
    | none => false
  match full, takeLast own s.tlb with
  | true, some (x, rest) => { s with tlb := e :: rest, spent := x :: s.spent }
  | _, _ => { s with tlb := e :: s.tlb }

/-- A translated address: physical, or a page of a constant pattern. -/
structure Phys where
  pa   : Nat
  fill : Option (BitVec 32)
  exec : Bool
  deriving DecidableEq, Repr

/-- Translation of an access by a tenant's page tables from a root (R378 to R382). A cached translation
is used as it is; a miss walks, marks the leaf and fills the cache; an uncorrectable error in an entry
is counted at its grotto (R376). A write to a page without write or
with a pattern raises WPROT (R380). [DEDUCED, log 12] -/
def State.translate (s : State) (cache : CacheId) (tenant : BitVec 8) (root va : Nat)
    (write : Bool) : State × Except Cause Phys :=
  let phys (e : TlbEntry) : Phys := ⟨e.frame + va % e.size, e.fill, e.exec⟩
  let denied (e : TlbEntry) : Bool := write && (!e.write || e.fill.isSome)
  if va / 2 ^ 48 != 0 then (s, .error .page)
  else match s.cached cache tenant va with
    | some e =>
      if denied e then (s, .error .wprot)
      else if write && !e.dirty then
        let s := s.mark e dirtyBit
        ({ s with tlb := s.tlb.map fun x => if x = e then { x with dirty := true } else x },
          .ok (phys e))
      else (s, .ok (phys e))
    | none =>
      let s : State := { s with misses := s.misses ++ [⟨cache, tenant, va, write, .unit root⟩] }
      match s.walk cache tenant va levels root with
      | .error (.ecc, pa) => (s.countError (.grotto (homeGrotto pa)) true, .error .ecc)
      | .error (c, _) => (s, .error c)
      | .ok e =>
        if denied e then (s, .error .wprot)
        else
          let s := s.mark e (if write then accessedBit + dirtyBit else accessedBit)
          (s.fillTlb { e with dirty := e.dirty || write }, .ok (phys e))

/-- A state that is taken up again after walks, with those walks noted (R382). -/
def State.withMisses (s t : State) : State := { s with misses := t.misses }

/-- The translation cache and the root of a thread's accesses (R378, R382): a control core walks from
KPTBASE, a remote context from the root of the caller's tenant. -/
def ThreadId.cache : ThreadId → CacheId
  | .core k => .die (coreDie k)
  | .remote r => match r.unit with
    | .core k => .die (coreDie k)
    | .grotto g => .die (Fin.ofNat 2 (g.val / 128))

def State.threadRoot (s : State) (t : ThreadId) : Nat :=
  match t with
  | .core k => (s.core k).kptbase.toNat
  | .remote _ => s.rootOf (s.thread t).tenant

/-! ### Traps (R367 to R369, R341) -/

/-- A trap: its cause and KTVAL. -/
structure Trap where
  cause : Cause
  tval  : Word
  deriving DecidableEq, Repr

/-- A reply on its way: to a caller of this device, or to another module (R421). -/
def State.sendReply (s : State) (r : CallReply) : State :=
  match r.caller with
  | .module _ _ tenant => { s with outbox := s.outbox ++ [⟨none, ⟨tenant, .other⟩, .reply r, false⟩] }
  | _ => { s with callBack := s.callBack ++ [r] }

/-- Calls of one caller: a core, a cell whatever its VP, slot and block, or a caller of another module (R333, R348). -/
def Caller.same : Caller → Caller → Bool
  | .cell c _ _ _, .cell d _ _ _ => c == d
  | a, b => a == b

/-- The caller's unit is on another module. -/
def Caller.isFar : Caller → Bool
  | .module _ _ _ => true
  | _ => false

/-- A kept number is that of a caller's call (R348). -/
def KeptCall.is (q : KeptCall) (c : Caller) (num : BitVec 32) : Bool := q.caller.same c && q.num == num

/-- A unit's kept number takes the reply (R348). -/
def Unit.keep (u : Unit) (r : CallReply) : Unit :=
  { u with kept := u.kept.map fun q => if q.is r.caller r.num then { q with reply := some r } else q }

/-- A remote function ends: its context is freed, its kept number takes the reply, and the reply goes
to its caller (R342, R348). [DEDUCED, log 91] -/
def State.endRemote (s : State) (t : RemoteId) (status : BitVec 16) (r0 r1 : Word) : State :=
  let u := s.unit t.unit
  match u.ctx[t.ctx] with
  | none => s
  | some x =>
    let r : CallReply := ⟨x.call.caller, x.call.num, x.call.entry, status, r0, r1⟩
    (s.setUnit t.unit ({ u with ctx := u.ctx.set t.ctx none }.keep r)).sendReply r

/-- Taking a trap on a control core: KEPC, KCAUSE and KTVAL are saved, the mode becomes privileged, the
old mode is kept, and the pc goes to KTVEC within pcc (R368). -/
def Core.takeTrap (c : Core) (x : Trap) : Core :=
  { c with
    kepc := c.thread.pc
    kcause := BitVec.ofNat 8 x.cause.code
    ktval := x.tval
    prevPriv := c.thread.priv
    thread := { c.thread with priv := true, pc := c.ktvec } }

/-- An instruction traps: on a control core by R368, in a remote function it ends the function with
REMOTE_FAULT, the pc and the cause with KTVAL[31:0] (R341). [DEDUCED, log 14] -/
def State.trap (s : State) (t : ThreadId) (x : Trap) : State :=
  match t with
  | .core k => s.setCore k ((s.core k).takeTrap x)
  | .remote r =>
    s.endRemote r (BitVec.ofNat 16 Status.remoteFault.code) (s.thread t).pc
      (BitVec.ofNat 64 (x.cause.code + x.tval.toNat % 2 ^ 32 * 2 ^ 32))

/-- A failing fetch check at KTVEC halts the core, and a FAULT record goes to the next core of the die
(R369); elsewhere it is a trap with KTVAL = pc (R52). -/
def State.fetchTrap (s : State) (t : ThreadId) (cause : Cause) : State :=
  match t with
  | .core k =>
    let c := s.core k
    if c.thread.pc = c.ktvec then
      (s.setCore k { c with halted := true }).post (coreOf (coreDie k) (coreNum k + 1))
        (record 3 cause.code 0 (coreSrc k) 0)
    else s.trap t ⟨cause, c.thread.pc⟩
  | .remote _ => s.trap t ⟨cause, (s.thread t).pc⟩

/-- Return from a trap: the pc is KEPC and the mode the previous mode; everything else stays (R368). -/
def Core.eret (c : Core) : Core :=
  { c with thread := { c.thread with pc := c.kepc, priv := c.prevPriv }, kinstr := c.kinstr + 1 }

/-- ILLEGAL with KTVAL the word of the instruction (R367). [DEDUCED, log 16] -/
def State.illegal (s : State) (t : ThreadId) (i : Instr) : State :=
  s.trap t ⟨.illegal, BitVec.ofNat 64 ((encode i).getD 0)⟩

end Sys2Proof.Machine
end

