-- ==== Sys2Proof/Machine/Shape.lean ====
section
/-!
DEFINITION. What each cell instruction waits for and sends to: its predicate mode, its targets, the operand
positions of the reference tables (R116, R165, R168, R173 to R175, R180, R187 to R190, R280, R298, R337) and
its issue class (R249).
-/

namespace Sys2Proof.Machine
open Sys2Proof

/-- The issue classes of R249. -/
inductive IssueClass where
  | v | m | x
  deriving DecidableEq, Repr

/-- The operand positions and targets of a cell instruction. `third` says that P is a data operand under
pm 11 (R165); elsewhere pm 11 is the order input of R142. -/
structure Shape where
  pm : Pm
  t0 : Target
  t1 : Target
  l : Bool
  r : Bool
  third : Bool
  cls : IssueClass
  deriving DecidableEq, Repr

/-- The shape of a cell instruction; NOP, which never fires, and everything else has none. -/
def instrShape : Instr → Option Shape
  | .bx f => some ⟨f.pm, f.t0, f.t1, true, false, false, .v⟩
  | .bxi f => some ⟨f.pm, Target.none, Target.none, false, false, false, .v⟩
  | .bend f => some ⟨f.pm, Target.none, Target.none, false, false, false, .v⟩
  | .mov f => some ⟨f.pm, f.t0, f.t1, true, false, false, .v⟩
  | .movi f => some ⟨f.pm, f.t0, Target.none, false, false, false, .v⟩
  | .movh f => some ⟨f.pm, f.t0, Target.none, true, false, false, .v⟩
  | .null f => some ⟨f.pm, f.t0, f.t1, false, false, false, .v⟩
  | .iota f => some ⟨f.pm, f.t0, f.t1, false, false, false, .v⟩
  | .cid f => some ⟨f.pm, f.t0, f.t1, false, false, false, .v⟩
  | .cellCyc f => some ⟨f.pm, f.t0, f.t1, false, false, false, .v⟩
  | .cellTrap f => some ⟨f.pm, f.t0, f.t1, false, false, false, .v⟩
  | .testk f => some ⟨f.pm, f.t0, f.t1, true, false, false, .v⟩
  | .sel f => some ⟨f.pm, f.t0, f.t1, true, true, true, .v⟩
  | .setv f => some ⟨f.pm, f.t0, f.t1, true, true, false, .v⟩
  | .getv f => some ⟨f.pm, f.t0, f.t1, true, false, false, .v⟩
  | .cellAdd f => some ⟨f.pm, f.t0, f.t1, true, true, false, .v⟩
  | .cellSub f => some ⟨f.pm, f.t0, f.t1, true, true, false, .v⟩
  | .cellMul f => some ⟨f.pm, f.t0, f.t1, true, true, false, .v⟩
  | .cellMulh f => some ⟨f.pm, f.t0, f.t1, true, true, false, .v⟩
  | .cellMin f => some ⟨f.pm, f.t0, f.t1, true, true, false, .v⟩
  | .cellMax f => some ⟨f.pm, f.t0, f.t1, true, true, false, .v⟩
  | .cellAnd f => some ⟨f.pm, f.t0, f.t1, true, true, false, .v⟩
  | .cellOr f => some ⟨f.pm, f.t0, f.t1, true, true, false, .v⟩
  | .cellXor f => some ⟨f.pm, f.t0, f.t1, true, true, false, .v⟩
  | .cellShl f => some ⟨f.pm, f.t0, f.t1, true, true, false, .v⟩
  | .cellShr f => some ⟨f.pm, f.t0, f.t1, true, true, false, .v⟩
  | .cellSar f => some ⟨f.pm, f.t0, f.t1, true, true, false, .v⟩
  | .cellClz f => some ⟨f.pm, f.t0, f.t1, true, false, false, .v⟩
  | .cellPopc f => some ⟨f.pm, f.t0, f.t1, true, false, false, .v⟩
  | .cmp f => some ⟨f.pm, f.t0, f.t1, true, true, false, .v⟩
  | .cellAddi f => some ⟨f.pm, f.t0, Target.none, true, false, false, .v⟩
  | .cellAndi f => some ⟨f.pm, f.t0, Target.none, true, false, false, .v⟩
  | .cellOri f => some ⟨f.pm, f.t0, Target.none, true, false, false, .v⟩
  | .cellShli f => some ⟨f.pm, f.t0, Target.none, true, false, false, .v⟩
  | .cellShri f => some ⟨f.pm, f.t0, Target.none, true, false, false, .v⟩
  | .cellSari f => some ⟨f.pm, f.t0, Target.none, true, false, false, .v⟩
  | .fadd f => some ⟨f.pm, f.t0, f.t1, true, true, false, .v⟩
  | .fsub f => some ⟨f.pm, f.t0, f.t1, true, true, false, .v⟩
  | .fmul f => some ⟨f.pm, f.t0, f.t1, true, true, false, .v⟩
  | .fma f => some ⟨f.pm, f.t0, f.t1, true, true, true, .v⟩
  | .fmin f => some ⟨f.pm, f.t0, f.t1, true, true, false, .v⟩
  | .fmax f => some ⟨f.pm, f.t0, f.t1, true, true, false, .v⟩
  | .fabs f => some ⟨f.pm, f.t0, f.t1, true, false, false, .v⟩
  | .fcmp f => some ⟨f.pm, f.t0, f.t1, true, true, false, .v⟩
  | .fcvt f => some ⟨f.pm, f.t0, f.t1, true, false, false, .v⟩
  | .unpk f => some ⟨f.pm, f.t0, f.t1, true, false, false, .v⟩
  | .pack f => some ⟨f.pm, f.t0, f.t1, true, true, false, .v⟩
  | .fexp2 f => some ⟨f.pm, f.t0, f.t1, true, false, false, .x⟩
  | .flog2 f => some ⟨f.pm, f.t0, f.t1, true, false, false, .x⟩
  | .frcp f => some ⟨f.pm, f.t0, f.t1, true, false, false, .x⟩
  | .frsq f => some ⟨f.pm, f.t0, f.t1, true, false, false, .x⟩
  | .ftanh f => some ⟨f.pm, f.t0, f.t1, true, false, false, .x⟩
  | .radd f => some ⟨f.pm, f.t0, f.t1, true, false, false, .v⟩
  | .rmax f => some ⟨f.pm, f.t0, f.t1, true, false, false, .v⟩
  | .rmin f => some ⟨f.pm, f.t0, f.t1, true, false, false, .v⟩
  | .psum f => some ⟨f.pm, f.t0, f.t1, true, false, false, .v⟩
  | .perm f => some ⟨f.pm, f.t0, f.t1, true, true, false, .v⟩
  | .bcst f => some ⟨f.pm, f.t0, f.t1, true, false, false, .v⟩
  | .lsh f => some ⟨f.pm, f.t0, f.t1, true, false, false, .v⟩
  | .cmpk f => some ⟨f.pm, f.t0, f.t1, true, true, false, .v⟩
  | .expd f => some ⟨f.pm, f.t0, f.t1, true, true, false, .v⟩
  | .nzscan f => some ⟨f.pm, f.t0, f.t1, true, true, false, .v⟩
  | .join f => some ⟨f.pm, f.t0, f.t1, true, true, false, .v⟩
  | .ld f => some ⟨f.pm, f.t0, f.t1, true, false, false, .m⟩
  | .ldc f => some ⟨f.pm, f.t0, f.t1, true, false, false, .m⟩
  | .st f => some ⟨f.pm, f.t0, f.t1, true, true, false, .m⟩
  | .stc f => some ⟨f.pm, f.t0, f.t1, true, true, false, .m⟩
  | .atadd f => some ⟨f.pm, f.t0, f.t1, true, true, false, .m⟩
  | .atfadd f => some ⟨f.pm, f.t0, f.t1, true, true, false, .m⟩
  | .atmax f => some ⟨f.pm, f.t0, f.t1, true, true, false, .m⟩
  | .lookup f => some ⟨f.pm, f.t0, f.t1, true, false, false, .m⟩
  | .tagset f => some ⟨f.pm, f.t0, f.t1, true, true, false, .m⟩
  | .tagclr f => some ⟨f.pm, f.t0, f.t1, true, false, false, .m⟩
  | .cellFmrg f => some ⟨f.pm, f.t0, f.t1, true, true, false, .m⟩
  | .cellFprobe f => some ⟨f.pm, f.t0, f.t1, true, false, false, .m⟩
  | .cellFscan f => some ⟨f.pm, f.t0, f.t1, true, false, false, .m⟩
  | .rcv f => some ⟨f.pm, f.t0, f.t1, false, false, false, .m⟩
  | .mark f => some ⟨f.pm, f.t0, f.t1, true, false, false, .m⟩
  | .xreq f => some ⟨f.pm, f.t0, f.t1, true, false, false, .m⟩
  | .cellRcall f => some ⟨f.pm, f.t0, f.t1, true, false, false, .m⟩
  | .joinp f => some ⟨f.pm, f.t0, f.t1, true, false, false, .m⟩
  | .mma f => some ⟨f.pm, f.t0, f.t1, true, true, true, .x⟩
  | .mmas f => some ⟨f.pm, f.t0, f.t1, true, true, true, .x⟩
  | .mmap f => some ⟨f.pm, f.t0, f.t1, true, true, true, .x⟩
  | .accrd f => some ⟨f.pm, f.t0, f.t1, true, false, false, .x⟩
  | .accz f => some ⟨f.pm, f.t0, f.t1, false, false, false, .x⟩
  | _ => none

/-- P is waited for (R20). -/
def Shape.p (x : Shape) : Bool := x.pm != .always

/-- The instruction takes an operand position (R26 item 6). -/
def Shape.takes (x : Shape) : Pos → Bool
  | .l => x.l
  | .r => x.r
  | .p => x.p
  | .out => false

end Sys2Proof.Machine
end

