-- ==== Sys2Proof/Machine/Flags.lean ====
section
/-!
DEFINITION. Tokens, and what the kinds of the operands decide before an instruction computes (R133, R138 to
R145).
-/

namespace Sys2Proof.Machine
open Sys2Proof

/-! ### Tokens (R133) -/

/-- Element i of a token. -/
def Token.at (t : Token) (i : Nat) : Elem := t.e.toList.getD i 0

/-- Valid bit i of a token. -/
def Token.ok (t : Token) (i : Nat) : Bool := t.v.getLsbD i

/-- The mask of the lanes that a predicate holds for. -/
def maskOf (p : Nat → Bool) : BitVec 16 :=
  BitVec.ofNat 16 ((List.range 16).foldl (fun n i => if p i then n + 2 ^ i else n) 0)

/-- A token from its valid lanes and elements; an invalid lane holds 0. -/
def Token.lanes (k : Kind) (v : Nat → Bool) (e : Nat → Elem) : Token :=
  { e := Vector.ofFn fun i => if v i.val then e i.val else 0, v := maskOf v, k := k }

/-- A token of a kind from its elements and mask. -/
def Token.ofList (k : Kind) (v : BitVec 16) (l : List Nat) : Token :=
  { e := Vector.ofFn fun i => BitVec.ofNat 32 (l.getD i.val 0), v := v, k := k }

/-- A DATA scalar. -/
def Token.scalar (x : Nat) : Token := Token.ofList .data 1 [x]

/-- A marker made by the hardware, with its sequence number (R136). -/
def Token.marker (k : Kind) (n : Nat) : Token := Token.ofList k 1 [n % 2 ^ 32]

/-- An ERR token with a status. -/
def Token.err (st : Status) : Token := Token.ofList .err 1 [st.code]

/-- The markers that reach operands: EOT, EOR and EOW. -/
def Kind.isMarker : Kind → Bool
  | .eot | .eor | .eow => true
  | _ => false

/-- Kinds that stay at a port's head: PRE and RCF (R137). -/
def Kind.isHeld : Kind → Bool
  | .pre | .rcf => true
  | _ => false

/-! ### Predicates and kinds -/

/-- A predicate is true when it is DATA with v[0] = 1 and a nonzero e0 (R140). -/
def Token.true? (t : Token) : Bool := t.k == .data && t.ok 0 && t.at 0 != 0

/-- A predicate mode suppresses an instruction with this predicate (R140). -/
def pmSuppresses (pm : Pm) (p : Token) : Bool :=
  match pm with
  | .onTrue => !p.true?
  | .onFalse => p.true?
  | .always | .third => false

/-- What the kinds of the operands decide. -/
inductive Verdict where
  /-- NUL or ERR goes to each target (R138, R139). -/
  | propagate (t : Token)
  /-- Nothing happens (R140). -/
  | suppressed
  /-- A marker goes to each target, once the operands given have been discarded (R142, R143). -/
  | marker (t : Token) (discarded : List Operand)
  | compute
  deriving DecidableEq, Repr

/-- The first ERR of the operands, else NUL where one is NUL (R138, R139). -/
def propagated (ops : List Operand) : Option Token :=
  match ops.find? fun o => o.tok.k == .err with
  | some o => some o.tok
  | none => if ops.any fun o => o.tok.k == .nul then some .nul else none

/-- The marker of the highest kind code, the first of them where several share it (R143). -/
def highest : List Token → Option Token
  | [] => none
  | t :: ts => match highest ts with
    | none => some t
    | some u => if t.k.code < u.k.code then some u else some t

/-- The rule for markers among the data operands (R142, R143). -/
def markerVerdict (data : List Operand) : Verdict :=
  match highest ((data.filter fun o => o.tok.k.isMarker).map (·.tok)) with
  | none => .compute
  | some m => .marker m (data.filter fun o => !o.tok.k.isMarker)

/-- What the operands that an instruction has decide, in the order of R138 to R144. TESTK reads any kind
(R172). [DEDUCED, log 33; DEDUCED, log 37; DEDUCED, log 88] -/
def Shape.judge (x : Shape) (testk : Bool) (l r p : Option Operand) : Verdict :=
  let ops := l.toList ++ r.toList ++ p.toList
  match (if testk then none else propagated ops) with
  | some t => .propagate t
  | none =>
    if (match p with
      | some q => pmSuppresses x.pm q.tok
      | none => false) then .suppressed
    else if testk then .compute
    else markerVerdict (l.toList ++ r.toList ++ (if x.third then p.toList else []))

end Sys2Proof.Machine
end

