-- ==== Sys2Proof/Machine/Image.lean ====
section
/-!
DEFINITION. The frame records of a cell program and the image check (R23 to R26, R405 to R407, R409, R410,
R427), and the program that accepted records describe.
-/

namespace Sys2Proof.Machine
open Sys2Proof

/-! ### Records (R405) -/

def FrameRecord.kind (r : FrameRecord) : Nat := field r.tag.toNat 31 28
def FrameRecord.index (r : FrameRecord) : Nat := field r.tag.toNat 15 0
def FrameRecord.block (r : FrameRecord) : Nat := field r.tag.toNat 12 8
def FrameRecord.frame (r : FrameRecord) : Nat := field r.tag.toNat 7 0

/-- Word w of a record. -/
def FrameRecord.word (r : FrameRecord) (w : Nat) : Nat := (r.words.toList.getD w 0).toNat

/-- 36 bytes as a record. -/
def recordOf (bs : List Byte) : FrameRecord :=
  let word (i : Nat) : BitVec 32 := BitVec.ofNat 32 (leNat ((bs.drop (4 * i)).take 4))
  { tag := word 0, words := Vector.ofFn fun i => word (i.val + 1) }

/-- n records from bytes. -/
def recordsOf (bs : List Byte) : Nat → List FrameRecord
  | 0 => []
  | n + 1 => recordOf bs :: recordsOf (bs.drop 36) n

/-- The cell that records are for, and the retired cells of its die: what items 11 and 14 depend on. -/
structure ImageTarget where
  cell    : CellId
  retired : List CellId
  deriving DecidableEq, Repr

/-- The first header record of a block. -/
def headerOf (rs : List FrameRecord) (b : Nat) : Option FrameRecord :=
  rs.find? fun r => r.kind == 0 && r.block == b

/-- The instruction count n of a header. -/
def FrameRecord.count (r : FrameRecord) : Nat := field (r.word 0) 7 0

/-- The first instruction record of a block's frame. -/
def frameOf (rs : List FrameRecord) (b f : Nat) : Option FrameRecord :=
  rs.find? fun r => r.kind == 1 && r.block == b && r.frame == f

/-- The word of a block's slot, zero where no record holds it. [DEDUCED, log 102] -/
def slotWord (rs : List FrameRecord) (b slot : Nat) : Nat :=
  match frameOf rs b (slot / 8 + 1) with
  | some r => r.word (slot % 8)
  | none => 0

/-- A route entry with input 8 for an output port (R406). -/
def hasBlockRoute (rs : List FrameRecord) (port : Nat) : Bool :=
  match rs.find? fun r => r.kind == 2 with
  | none => false
  | some r => r.words.toList.any fun w => field w.toNat 31 28 == 8 && field w.toNat 27 24 == port

/-! ### Instruction words -/

/-- Opcode bytes of format CI and CB (R19, R41). -/
def isCI (op : Nat) : Bool := op == 5 || op == 6 || (decide (0x20 ≤ op) && decide (op ≤ 0x25))
def isCB (op : Nat) : Bool := op == 2 || op == 3

/-- The target fields of a cell word. -/
def wordTargets (w : Nat) : List Target :=
  let op := field w 31 24
  if isCB op then []
  else if isCI op then [Target.ofCode (field w 21 13)]
  else [Target.ofCode (field w 21 13), Target.ofCode (field w 12 4)]

/-- The lowest item below 6 or among 7 and 9 that a word fails on its own. -/
def wordItem (w : Nat) : Option Nat :=
  match decodeCell w with
  | .error (.item n) => some n
  | .error _ => some 4
  | .ok _ => none

/-- Item 9: a BXI or BEND whose blk names a block that the program does not hold. -/
def exitItem (rs : List FrameRecord) (w : Nat) : Bool :=
  isCB (field w 31 24) && (headerOf rs (field w 20 16)).isNone

/-- Item 14: a send to MESH or EDGE without a route entry for it. -/
def sendItem (rs : List FrameRecord) (w : Nat) : Bool :=
  (wordTargets w).any fun t => t.pos == .out &&
    ((t.idx == 68 && !hasBlockRoute rs 4) || (t.idx == 69 && !hasBlockRoute rs 5))

/-- The lowest item but 6 that a word below slot n fails. -/
def ownItem (rs : List FrameRecord) (w : Nat) : Option Nat :=
  match wordItem w with
  | some n => some n
  | none => if exitItem rs w then some 9 else if sendItem rs w then some 14 else none

/-- The operand positions that a word's instruction takes. -/
def wordTakes (w : Nat) (pos : Pos) : Bool :=
  match decodeCell w with
  | .ok i => match instrShape i with
    | some x => x.takes pos
    | none => false
  | .error _ => false

/-- Item 6 of one target: a slot past n − 1, or a position that the slot's instruction does not take. A slot
whose own word is rejected is not judged. [DEDUCED, log 102] -/
def targetItem (rs : List FrameRecord) (b n : Nat) (t : Target) : Bool :=
  t.pos != .out &&
    (decide (n ≤ t.idx.val) ||
      (let w := slotWord rs b t.idx.val
       (ownItem rs w).isNone && !wordTakes w t.pos))

/-- The lowest item that the word of a slot fails. [DEDUCED, log 102] -/
def slotItem (rs : List FrameRecord) (b n w : Nat) : Option Nat :=
  let six := (wordTargets w).any (targetItem rs b n)
  match ownItem rs w with
  | some k => if six && decide (6 < k) then some 6 else some k
  | none => if six then some 6 else none

/-! ### The words of each kind -/

/-- The first item whose condition holds; the list is in ascending order. -/
def firstItem : List (Bool × Nat) → Option Nat
  | [] => none
  | (true, n) :: _ => some n
  | (false, _) :: t => firstItem t

/-- Block-store frames among the first i + 1 records. -/
def storeFrames (rs : List FrameRecord) (i : Nat) : Nat :=
  ((rs.take (i + 1)).filter fun r => r.kind < 2).length

/-- Every instruction frame that a count asks for has a record. -/
def framesPresent (rs : List FrameRecord) (b n : Nat) : Bool :=
  (List.range ((n + 7) / 8)).all fun f => (frameOf rs b (f + 1)).isSome

/-- A read entry (R23): items 4, 5, 6 and 8. -/
def readEntryItem (rs : List FrameRecord) (b n e : Nat) : Option Nat :=
  let t := Target.ofCode (field e 8 0)
  if !bitAt e 15 then if e = 0 then none else some 4
  else firstItem [(t.pos == .out && decide (70 ≤ t.idx.val) && decide (t.idx.val ≤ 126), 5),
    (targetItem rs b n t, 6), (t.pos == .out, 8)]

/-- The lower of two items. -/
def lowerItem : Option Nat → Option Nat → Option Nat
  | some a, some b => some (min a b)
  | some a, none => some a
  | none, b => b

/-- Words of a block header. -/
def headerItem (rs : List FrameRecord) (i : Nat) (r : FrameRecord) (w : Nat) : Option Nat :=
  let x := r.word w
  let n := r.count
  let named := field x 20 16
  if w = 0 then
    firstItem [(field x 31 21 != 0, 4),
      (n == 0 || decide (128 < n) ||
        (rs.take i).any fun q => q.kind == 0 && field (q.word 0) 20 16 == named, 8),
      (!framesPresent rs r.block n || storeFrames rs i == 545, 12)]
  else if w < 3 then none
  else lowerItem (readEntryItem rs r.block n (field x 15 0)) (readEntryItem rs r.block n (field x 31 16))

/-- Words of an instruction frame. [DEDUCED, log 102] -/
def frameItem (rs : List FrameRecord) (i : Nat) (r : FrameRecord) (w : Nat) : Option Nat :=
  let full := if w = 0 && storeFrames rs i == 545 then some 12 else none
  match headerOf rs r.block with
  | none => if w = 0 then some 12 else none
  | some h =>
    let n := h.count
    let slot := 8 * (r.frame - 1) + w
    if slot < n then lowerItem (slotItem rs r.block n (r.word w)) full
    else lowerItem (if r.word w = 0 then none else some 10) full

/-- A destination of a route entry, as row and column. -/
def routeDest (c : CellId) (x : Nat) : Int × Int :=
  if bitAt x 21 then
    ((c.row.val : Int) + signed (field x 19 14) 6, (c.col.val : Int) + signed (field x 13 8) 6)
  else ((field x 19 14 : Int), (field x 13 8 : Int))

/-- A cell of a die by row and column, where there is one. -/
def cellAt (die : Fin 2) (p : Int × Int) : Option CellId :=
  if 0 ≤ p.1 ∧ p.1 < 64 ∧ 0 ≤ p.2 ∧ p.2 < 36 then
    some ⟨die, Fin.ofNat 64 p.1.toNat, Fin.ofNat 36 p.2.toNat⟩
  else none

/-- A route entry that breaks R406 or R409; `next` is the entry after it. -/
def routeBad (t : ImageTarget) (x : Nat) (next : Option Nat) : Bool :=
  let inp := field x 31 28
  let outp := field x 27 24
  if inp = 15 then x != 0xF0000000
  else if 8 < inp || 5 < outp || field x 7 0 != 0 || field x 23 22 != (if outp = 4 then 2 else 0) then true
  else
    (bitAt x 20 && (match next with
      | none => true
      | some y => field y 31 28 != inp)) ||
    (if outp = 4 then
      match cellAt t.cell.die (routeDest t.cell x) with
      | none => true
      | some d => t.retired.contains d
    else field x 21 21 != 0 || field x 19 8 != 0)

/-- The lowest item that word w of record i fails. [DEDUCED, log 35] -/
def placeItem (t : ImageTarget) (rs : List FrameRecord) (i : Nat) (r : FrameRecord) (w : Nat) :
    Option Nat :=
  let x := r.word w
  let zero (b : Bool) : Option Nat := if b then none else some 13
  match r.kind with
  | 0 => headerItem rs i r w
  | 1 => frameItem rs i r w
  | 2 =>
    let next := if w < 7 then some (r.word (w + 1)) else none
    if routeBad t x next then some 14 else none
  | 3 =>
    if w = 0 then zero (field x 3 2 == 0 && field x 31 11 == 0 && decide (field x 10 8 ≤ 5))
    else if w < 6 then none
    else if w = 6 then zero (x / 65536 == 0) else zero (x == 0)
  | 4 => if w = 0 then zero (decide (x ≤ 8)) else zero (x == 0)
  | 5 => if w = 0 then none else if w = 1 then zero (!bitAt x 31) else zero (x == 0)
  | 7 =>
    if w = 0 then none
    else if w = 1 then zero (!bitAt x 31)
    else if w = 2 then if x % 64 = 0 ∧ x ≤ 65536 then none else some 15
    else if w = 3 then zero (decide (x ≤ 1)) else zero (x == 0)
  | _ => none

/-- Item 11 of a record's tag. -/
def tagBad (t : ImageTarget) (rs : List FrameRecord) (i : Nat) (r : FrameRecord) : Bool :=
  let mem := t.cell.isMem
  let kindBad := decide (7 < r.kind) || (if mem then r.kind != 2 && r.kind != 4 else r.kind == 4)
  let indexBad := match r.kind with
    | 0 => field r.index 15 13 != 0 || r.frame != 0
    | 1 => field r.index 15 13 != 0 || r.frame == 0 || (match headerOf rs r.block with
        | some h => decide ((h.count + 7) / 8 < r.frame)
        | none => decide (16 < r.frame))
    | 3 => decide (1 < r.index)
    | 6 => decide (15 < r.index)
    | _ => r.index != 0
  kindBad || indexBad || (rs.take i).any (fun q => q.kind == r.kind && q.index == r.index) ||
    (r.kind == 0 && field (r.word 0) 20 16 != r.block)

/-- The first place that fails: record, word, tag flag and item (R408). -/
structure Failure where
  record : Nat
  word   : Nat
  tag    : Bool
  item   : Nat
  deriving DecidableEq, Repr

/-- The first failing word of a record. -/
def firstWord (t : ImageTarget) (rs : List FrameRecord) (i : Nat) (r : FrameRecord) :
    List Nat → Option Failure
  | [] => none
  | w :: ws => match placeItem t rs i r w with
    | some n => some ⟨i, w, false, n⟩
    | none => firstWord t rs i r ws

/-- The judgement of records from number i on (R427). -/
def judgeFrom (t : ImageTarget) (rs : List FrameRecord) : Nat → List FrameRecord → Option Failure
  | _, [] => none
  | i, r :: rest =>
    if tagBad t rs i r then some ⟨i, 0, true, 11⟩
    else match firstWord t rs i r (List.range 8) with
      | some f => some f
      | none => judgeFrom t rs (i + 1) rest

/-- The image check of R26 and R409 on a cell's records. -/
def judge (t : ImageTarget) (rs : List FrameRecord) : Option Failure := judgeFrom t rs 0 rs

/-- The detail word of R408. -/
def Failure.detail (f : Failure) : Nat :=
  f.record % 2 ^ 16 + f.word % 8 * 2 ^ 16 + f.tag.toNat * 2 ^ 19 + f.item % 16 * 2 ^ 24

/-! ### The program of accepted records -/

/-- A block of a header and its instruction frames (R23, R24). -/
def blockOf (rs : List FrameRecord) (h : FrameRecord) : Block :=
  let entries := (List.range 10).filterMap fun k =>
    let e := field (h.word (3 + k / 2)) (16 * (k % 2) + 15) (16 * (k % 2))
    if bitAt e 15 then some (Fin.ofNat 64 (field e 14 9), Target.ofCode (field e 8 0)) else none
  { num := Fin.ofNat 32 h.block
    outputs := field (h.word 0) 15 8
    mask := BitVec.ofNat 64 (h.word 1 + h.word 2 * 2 ^ 32)
    reads := entries
    words := (List.range h.count).map fun k => BitVec.ofNat 32 (slotWord rs h.block k) }

/-- The capability of a grant frame, tagged by the rules of R40 and R410. Bits with base + length above 2^57 stay
untagged, since no tagged capability has them (R68), and so do bits of a nonzero object type, since a sealed capability
comes into being through VSIG alone (R402). [DESIGN CHOICE, log 90] -/
def grantOf (may : Bool) (tenant : BitVec 8) (r : FrameRecord) : Fin 16 × Cap :=
  let bits := r.word 0 + r.word 1 * 2 ^ 32 + r.word 2 * 2 ^ 64 + r.word 3 * 2 ^ 96
  let c : Cap := ⟨BitVec.ofNat 128 bits, false⟩
  (Fin.ofNat 16 r.index, { c with tag := may && bits != 0 && c.tenant == tenant && c.otype == 0 && c.inRange })

/-- What accepted records describe. `may` says that they are read through permissions X and C. -/
def programOf (rs : List FrameRecord) (may : Bool) (tenant : BitVec 8) : Program :=
  let of (k : Nat) : List FrameRecord := rs.filter fun r => r.kind == k
  let kept := (of 7).head?
  { blocks := (of 0).map (blockOf rs)
    routes := match of 2 with
      | [] => []
      | r :: _ => r.words.toList
    agens := (of 3).map fun r => (Fin.ofNat 2 r.index, r.words)
    reserve := match of 4 with
      | [] => 0
      | r :: _ => r.word 0
    regInit := match of 5 with
      | [] => 0
      | r :: _ => BitVec.ofNat 64 (r.word 0 + r.word 1 * 2 ^ 32)
    grants := (of 6).map (grantOf may tenant)
    keptG := match kept with
      | none => 0
      | some r => BitVec.ofNat 64 (r.word 0 + r.word 1 * 2 ^ 32)
    keptScr := match kept with
      | none => 0
      | some r => r.word 2
    keptAcc := match kept with
      | none => false
      | some r => bitAt (r.word 3) 0
    frames := storeFrames rs rs.length
    records := rs.length }

end Sys2Proof.Machine
end

