-- ==== Sys2Proof/Machine/Windows.lean ====
section
/-!
DEFINITION. The register windows of SYS space as a control core reaches them (R390 to R392): what a
read returns and what a performed write does. The Spire's own windows stand in Package.
-/

namespace Sys2Proof.Machine
open Sys2Proof

/-- A SYS register by its unit (R391). -/
inductive SysReg where
  | faultWord (c : CellId)
  | faultValue (c : CellId)
  | discard (c : CellId)
  | errors (site : ErrorSite)
  | thresholds (site : ErrorSite)
  | stall (r : RowId)
  | staging (k : CoreId)
  | trigger (k : CoreId)
  | errorCore (d : Fin 2)
  | none
  deriving DecidableEq, Repr

/-- The register at a SYS address, with its offset rounded down to 8 bytes (R390, R391). -/
def sysReg (a : Nat) : SysReg :=
  let off := a % 4096 / 8 * 8
  let win := field a 17 12
  let col := field a 23 18
  let row : Fin 64 := Fin.ofNat 64 (field a 29 24)
  let die : Fin 2 := Fin.ofNat 2 (field a 30 30)
  if field a 56 31 != 0 then .none
  else if col < 36 then
    let c : CellId := ⟨die, row, Fin.ofNat 36 col⟩
    if win != 0 then .none
    else if off = 0x18 then .errors (.cell c)
    else if off = 0x20 then .thresholds (.cell c)
    else if c.isMem then .none
    else if off = 0 then .faultWord c
    else if off = 8 then .faultValue c
    else if off = 0x10 then .discard c
    else .none
  else if col = 60 || col = 61 then
    let g : GrottoId := Fin.ofNat 256 (die.val * 128 + (col - 60) * 64 + row.val)
    if win = 0 && off = 0x18 then .errors (.grotto g)
    else if win = 0 && off = 0x20 then .thresholds (.grotto g)
    else .none
  else if col = 62 then
    let r : RowId := ⟨die, row⟩
    if win != 0 then .none
    else if off = 0 then .stall r
    else if off = 0x18 then .errors (.row r)
    else if off = 0x20 then .thresholds (.row r)
    else .none
  else if col = 63 then
    let k := coreOf die (row.val / 4)
    if win = 0 && off = 0 then .staging k
    else if win = 0 && off = 8 then .trigger k
    else if win = 1 && off = 0 then .errorCore die
    else .none
  else .none

/-- The fault word as read (R372). -/
def Cell.faultWord (c : Cell) : Word :=
  match c.cause with
  | .none => 0
  | some q => BitVec.ofNat 64 (q.code + (if c.pending then 2 ^ 8 else 0) + c.srcKind.val * 2 ^ 9 +
      c.lane.val * 2 ^ 12 + c.slot.val * 2 ^ 16 + c.block.val * 2 ^ 23)

/-- The value staged last by an agent for a core's post trigger; zero if none (R392). -/
def State.staged? (s : State) (agent : Nat) (k : CoreId) : Word :=
  match s.staging.find? fun x => x.1 == agent && x.2.1 == k with
  | some x => x.2.2
  | none => 0

/-- A register's value as an agent reads it; a trigger, and an address of no register, reads zero
(R390). -/
def State.sysRead (s : State) (agent : Nat) (r : SysReg) : Word :=
  match r with
  | .faultWord c => (s.cell c).faultWord
  | .faultValue c => (s.cell c).faultVal
  | .discard c => (s.cell c).discard
  | .errors site =>
    let u := alGet s.errors site .zero
    u.uncorrectable ++ u.correctable
  | .thresholds site =>
    let u := alGet s.errors site .zero
    u.thrUncorrectable ++ u.thrCorrectable
  | .stall r => (s.row r).stall
  | .staging k => s.staged? agent k
  | .trigger _ => 0
  | .errorCore d => (s.errorCore[d]).setWidth 64
  | .none => 0

/-- A 64-bit register after a store of 8 bytes, or of 4 bytes to one half (R390). -/
def mergeHalf (old : Word) (a size : Nat) (data : Word) : Word :=
  if size = 8 then data
  else if a % 8 = 0 then BitVec.ofNat 64 (old.toNat / 2 ^ 32 * 2 ^ 32 + data.toNat % 2 ^ 32)
  else BitVec.ofNat 64 (old.toNat % 2 ^ 32 + data.toNat % 2 ^ 32 * 2 ^ 32)

/-! ### The no-movement period (R216, R374) -/

/-- The VPs that splices join, one to the next, as far as n goes. -/
def State.chain (s : State) (next : Vp → Option VpId) : Nat → VpId → List VpId
  | 0, _ => []
  | n + 1, v => match next (s.vp v) with
    | some w => w :: s.chain next n w
    | none => []

/-- A VP with those spliced with it (R218, R225). -/
def State.splicedWith (s : State) (v : VpId) : List VpId :=
  s.chain (·.pred) 1024 v ++ v :: s.chain (·.succ) 1024 v

/-- Those of them that stand on the band. [DEDUCED, log 59] -/
def State.mates (s : State) (v : VpId) : List VpId :=
  (s.splicedWith v).filter fun w => (s.vp w).stage == .live || (s.vp w).stage == .preempting

/-- A cell of the band has a pending fault. -/
def State.faultPending (s : State) (v : VpId) : Bool :=
  let ms := s.mates v
  s.cells.any fun c => c.2.pending && match (s.row c.1.rowId).host with
    | some w => ms.contains w
    | none => false

/-- The no-movement period of a band stands still from now on. -/
def State.pauseBand (s : State) (v : VpId) : State :=
  (s.mates v).foldl (fun s w =>
    let x := s.vp w
    if x.pausedAt.isSome then s else s.setVp w { x with pausedAt := some s.cycle }) s

/-- It goes on where it stood, or anew where something moved meanwhile, once no fault of the band is pending. -/
def State.unpauseBand (s : State) (v : VpId) : State :=
  if s.faultPending v then s
  else (s.mates v).foldl (fun s w =>
    let x := s.vp w
    match x.pausedAt with
    | none => s
    | some t =>
      let moved := if t < x.moved then s.cycle else x.moved + (s.cycle - t)
      s.setVp w { x with moved := moved, pausedAt := none }) s

/-- An action on a cell's pending fault (R372). -/
def State.faultAction (s : State) (c : CellId) (replay : Bool) : State :=
  let s := s.setCell c { s.cell c with pending := false, action := some replay }
  match (s.row c.rowId).host with
  | some v => s.unpauseBand v
  | none => s

/-- A performed store to a SYS register (R390 to R392). The fault word acts only while its fault is
pending, on action 1 or 2, and the first action clears pending (R372). -/
def State.sysWrite (s : State) (agent a size : Nat) (data : Word) : State :=
  let r := sysReg a
  let v := mergeHalf (s.sysRead agent r) a size data
  match r with
  | .faultWord c => match data.toNat % 4, (s.cell c).pending with
    | 1, true => s.faultAction c true
    | 2, true => s.faultAction c false
    | _, _ => s
  | .faultValue _ => s
  | .discard c => s.setCell c { s.cell c with discard := v }
  | .errors site =>
    let u := alGet s.errors site .zero
    let u := { u with correctable := v.setWidth 32, uncorrectable := (v >>> 32).setWidth 32 }
    { s with errors := alSet s.errors site u }
  | .thresholds site =>
    let u := alGet s.errors site .zero
    let u := { u with thrCorrectable := v.setWidth 32, thrUncorrectable := (v >>> 32).setWidth 32 }
    { s with errors := alSet s.errors site u }
  | .stall r => s.setRow r { s.row r with stall := v }
  | .staging k =>
    let rest := s.staging.filter fun x => !(x.1 == agent && x.2.1 == k)
    { s with staging := (agent, k, v) :: rest }
  | .trigger k => s.setCore k ((s.core k).enqueue k (data ++ s.staged? agent k))
  | .errorCore d => { s with errorCore := s.errorCore.set d (v.setWidth 5) }
  | .none => s

/-- A store to a SYS register that raises PERM: a 4-byte store to a trigger register (R390), or a post
trigger whose staged kind is 0 or above 9 (R392). -/
def State.sysStoreDenied (s : State) (agent a size : Nat) : Bool :=
  match sysReg a with
  | .faultWord _ => size != 8
  | .trigger k =>
    size != 8 ||
      (let kind := (s.staged? agent k).toNat % 256
       kind == 0 || decide (9 < kind))
  | _ => false

end Sys2Proof.Machine
end

