-- ==== Sys2Proof/Machine/Operands.lean ====
section
/-!
DEFINITION. The operands of a thread's memory instructions (R60 to R66): the checks of an access in
their order, the location it reaches, reads and writes of a location, and the store queue.
-/

namespace Sys2Proof.Machine
open Sys2Proof

/-- What an access reaches: physical address for DENSE and FIBRE (the virtual address on a page of a
constant pattern), the SCRATCH or SYS address otherwise. -/
structure Loc where
  space : Space
  addr  : Nat
  fill  : Option (BitVec 32)
  deriving DecidableEq, Repr

/-! ### Owners of bytes -/

/-- Which unit counts an error in a location's data (R377). -/
def Loc.site (l : Loc) : ErrorSite :=
  match l.space with
  | .scratch => .cell ⟨Fin.ofNat 2 (field l.addr 30 30), Fin.ofNat 64 (field l.addr 29 24),
      Fin.ofNat 36 (field l.addr 23 18)⟩
  | _ => .grotto (homeGrotto (localAddr l.addr))

/-- The cell of a SCRATCH address (R311). -/
def scratchCell (a : Nat) : CellId :=
  ⟨Fin.ofNat 2 (field a 30 30), Fin.ofNat 64 (field a 29 24), Fin.ofNat 36 (field a 23 18)⟩

/-- The links that lead to another module and work (R417, R421). [DEDUCED, log 74; DESIGN CHOICE, log 79] -/
def State.linksTo (s : State) (device : Nat) : List (Fin 12) :=
  let mask := alGet s.routes device 0
  (List.finRange 12).filter fun i => bitAt mask.toNat i.val && !s.deadLinks.contains i

/-- A link leads to another module. [DEDUCED, log 30] -/
def State.reaches (s : State) (device : Nat) : Bool := !(s.linksTo device).isEmpty

/-- The link that an access to a line of another module takes: one of its mask, by a hash of the line's address, so
that all accesses to a line take one link in order (R421). [DESIGN CHOICE, log 79] -/
def State.linkOf (s : State) (pa : Nat) : Option (Fin 12) :=
  let links := s.linksTo (pa / 2 ^ 40 % 4096)
  links[Config.linkHash (pa / 64) % links.length]?

/-- The sender of what no tenant's unit sends. [DESIGN CHOICE, log 79] -/
def Sender.device : Sender := ⟨0, .other⟩

/-- The address whose acknowledgement a store or a cell's atomic waits for (R321); every other access has a reply.
[DEDUCED, log 17] -/
def Outbound.target : Outbound → Option Nat
  | .write pa _ | .capWrite pa _ | .cellAmo _ pa _ => some pa
  | _ => none

/-- What an access to another module sends leaves on its link (R421). [DESIGN CHOICE, log 79] -/
def State.leave (s : State) (who : Sender) (pa : Nat) (o : Outbound) : State :=
  { s with outbox := s.outbox ++ [⟨s.linkOf pa, who, o, o.target.isSome⟩] }

/-- The read that has just left turns out to be another access to the same line. -/
def State.leaveAs (s : State) (o : Outbound) : State :=
  { s with outbox := s.outbox.dropLast ++ (s.outbox.getLast?.map fun x => { x with body := o, due := o.target.isSome }).toList }

/-- Bytes written to a scratchpad. -/
def State.scratchWrite (s : State) (a : Nat) (bs : List Byte) : State :=
  let s := if s.scratch.partialBad a bs.length then s.countError (.cell (scratchCell a)) true else s
  { s with scratch := s.scratch.write a bs }

/-- Bytes written at a location. A store to another module leaves on a link; with no link left it is
dropped and counted (R421). -/
def State.locWrite (s : State) (who : Sender) (l : Loc) (bs : List Byte) : State :=
  match l.space with
  | .scratch => s.scratchWrite l.addr bs
  | .sys => s
  | _ =>
    if s.isLocal l.addr then s.memWrite (localAddr l.addr) bs
    else if s.reaches (l.addr / 2 ^ 40 % 4096) then
      s.leave who l.addr (.write l.addr bs)
    else s.countError .link true

/-- A location's word in one number for each unit of 8 bytes of this device: its space and address. -/
def State.localWord (s : State) (l : Loc) : Option (Bool × Nat) :=
  if l.fill.isSome then none
  else match l.space with
    | .scratch => some (true, l.addr)
    | .sys => none
    | _ => if s.isLocal l.addr then some (false, localAddr l.addr) else none

/-- The units of which a store writes both 4-byte elements, in the scratchpads or in memory. -/
def wholeUnits (ws : List (Bool × Nat)) (scratch : Bool) : List Nat :=
  (ws.filter fun w => w.1 == scratch && w.2 % 8 == 0 && ws.contains (w.1, w.2 + 4)).map fun w => w.2 / 8

/-- The units that the 4-byte elements of one store cover whole read correctly from then on (R376). -/
def State.healStore (s : State) (ls : List Loc) : State :=
  let ws := ls.filterMap s.localWord
  { s with mem := s.mem.heal (wholeUnits ws false), scratch := s.scratch.heal (wholeUnits ws true) }

/-- n bytes of a 32-bit pattern from an address (R61). -/
def patternBytes (p : BitVec 32) (a : Nat) : Nat → List Byte
  | 0 => []
  | n + 1 => BitVec.ofNat 8 (p.toNat / 2 ^ (8 * (a % 4))) :: patternBytes p (a + 1) n

/-- n bytes of another module's memory: free values (R318). [DESIGN CHOICE, log 81] -/
def remoteBytes (draw a : Nat) : Nat → List Byte
  | 0 => []
  | n + 1 => Config.remoteByte draw a :: remoteBytes draw (a + 1) n

/-- The n bytes at a location as its owner holds them; none is an uncorrectable error, which is counted
(R61, R376). An address of another module that no link reaches ends so too (R421). -/
def State.locRead (s : State) (who : Sender) (l : Loc) (n : Nat) : State × Option (List Byte) :=
  match l.fill with
  | some p => (s, some (patternBytes p l.addr n))
  | none => match l.space with
    | .sys => (s, some (leBytes n 0))
    | .scratch =>
      if s.scratch.bad l.addr n then (s.countError l.site true, none)
      else (s, some (s.scratch.read l.addr n))
    | _ =>
      if s.isLocal l.addr then
        if s.mem.bad (localAddr l.addr) n then (s.countError l.site true, none)
        else (s, some (s.mem.read (localAddr l.addr) n))
      else if s.reaches (l.addr / 2 ^ 40 % 4096) then
        let (d, s) := s.draw
        (s.leave who l.addr (.read l.addr n), some (remoteBytes d l.addr n))
      else (s.countError .link true, none)

/-! ### The checks of an access -/

/-- The checks of R60 before translation, in their order; `none` where all pass. [DEDUCED, log 9] -/
def accessTrap (cap : Cap) (priv : Bool) (tenant : BitVec 8) (off : Word) (size : Nat)
    (write : Bool) : Option Trap :=
  if !cap.tag then some ⟨.tag, off⟩
  else if cap.otype != 0 || cap.tenant != tenant then some ⟨.perm, off⟩
  else if cap.space == .sys && !priv then some ⟨.perm, off⟩
  else if cap.space == .sys && size != 4 && size != 8 then some ⟨.perm, off⟩
  else if !write && !cap.pR then some ⟨.perm, off⟩
  else if write && (!cap.pW || cap.space == .fibre) then some ⟨.perm, off⟩
  else if decide (cap.length ≤ off.toNat) || decide (cap.length < off.toNat + size) then
    some ⟨.bounds, off⟩
  else if (cap.base + off.toNat) % size != 0 then
    some ⟨.misalign, BitVec.ofNat 64 (cap.base + off.toNat)⟩
  else none

/-- The scratchpad size of a cell (R311). -/
def scratchBytes (c : CellId) : Nat := if c.isMem then 262144 else 131072

/-- What the SCRATCH rules refuse of an element at address a through a capability: BOUNDS by R311,
PERM for a retired cell and by the tenant rule of R312. `privCore` says that a privileged control core
accesses. [DEDUCED, log 9; DESIGN CHOICE, log 101] -/
def State.scratchTrap (s : State) (cap : Cap) (a size : Nat) (privCore : Bool) : Option Cause :=
  let c := scratchCell a
  if a / 2 ^ 18 != cap.base / 2 ^ 18 || field cap.base 56 31 != 0 || decide (35 < field a 23 18) ||
      decide (scratchBytes c < a % 2 ^ 18 + size) then some .bounds
  else if s.isRetired c then some .perm
  else match (s.row c.rowId).host with
    | some v => if cap.tenant = (s.vp v).tenant then none else some .perm
    | none => if privCore then none else some .perm

/-- The unit that homes a location's line, for the NONLOCAL check of a remote function (R332). -/
def State.homeUnit (s : State) (l : Loc) : Option UnitId :=
  match l.space with
  | .scratch => some (.core (coreOf (scratchCell l.addr).die ((scratchCell l.addr).row.val / 4)))
  | .sys => none
  | _ =>
    if s.isLocal l.addr then some (.grotto (homeGrotto (localAddr l.addr))) else none

/-- An access in a remote function has to reach a home address of its unit; a page of a constant
pattern reaches no line (R340). -/
def State.nonlocal (s : State) (t : ThreadId) (l : Loc) : Bool :=
  match t with
  | .core _ => false
  | .remote r => l.fill.isNone && s.homeUnit l != some r.unit

/-- NONLOCAL; R367 states no KTVAL for it, so that is a free value. [DEDUCED, log 8] -/
def State.nonlocalTrap (s : State) : State × Except Trap α :=
  let (n, s) := s.draw
  (s, .error ⟨.nonlocal, Config.freeWord n⟩)

/-- The access procedure of R60 with the rules of SCRATCH (R311, R312) and of remote functions (R340):
the location reached, or the first failing check's trap. An access that a check after its translation refuses has
marked no page-table entry (R49). [DEDUCED, log 9; DEDUCED, log 12; DEDUCED, log 15] -/
def State.access (s : State) (t : ThreadId) (cap : Cap) (off : Word) (size : Nat) (write : Bool) :
    State × Except Trap Loc :=
  let th := s.thread t
  match accessTrap cap th.priv th.tenant off size write with
  | some x => (s, .error x)
  | none =>
    let va := cap.base + off.toNat
    match cap.space with
    | .sys => match t with
      | .core _ => (s, .ok ⟨.sys, va, none⟩)
      | .remote _ => (s, .error ⟨.perm, off⟩)
    | .scratch =>
      let privCore := match t with
        | .core _ => th.priv
        | .remote _ => false
      match s.scratchTrap cap va size privCore with
      | some c => (s, .error ⟨c, off⟩)
      | none =>
        let l : Loc := ⟨.scratch, va, none⟩
        if s.nonlocal t l then s.nonlocalTrap else (s, .ok l)
    | sp =>
      match s.translate t.cache th.tenant (s.threadRoot t) va write with
      | (s, .error c) => (s, .error ⟨c, BitVec.ofNat 64 va⟩)
      | (s', .ok p) =>
        let l : Loc := ⟨sp, if p.fill.isSome then va else p.pa, p.fill⟩
        if s.nonlocal t l then (s.withMisses s').nonlocalTrap else (s', .ok l)

/-! ### The store queue (R65, R370) -/

/-- DENSE and FIBRE name the same physical memory. -/
def Space.store : Space → Space
  | .fibre => .dense
  | x => x

/-- One element of an 8-byte store to SCRATCH is performed: a damaged unit reads correctly once both are (R64, R376). The
elements of one address keep their order, so the other element has been performed once no more of its address wait than of
this one's. -/
def State.halfWrite (s : State) (t : ThreadId) (q : QueuedStore) : State :=
  let queue : List QueuedStore := match t with
    | .core k => (s.core k).storeQ
    | .remote _ => []
  let wait (a : Nat) : Nat := (queue.filter fun p => p.half && p.space == q.space && p.addr == a).length
  let other := q.addr / 8 * 8 + (4 - q.addr % 8)
  let m := if wait q.addr < wait other then s.scratch else s.scratch.heal [q.addr / 8]
  { s with scratch := m.write q.addr q.bytes }

/-- One queued store is performed at its owner. -/
def State.performOne (s : State) (t : ThreadId) (q : QueuedStore) : State :=
  match q.space, t with
  | .sys, .core k => s.sysWrite k.val q.addr q.bytes.length (BitVec.ofNat 64 (leNat q.bytes))
  | .sys, .remote _ => s
  | sp, _ =>
    if q.half && sp == .scratch then s.halfWrite t q
    else if !q.tag then s.locWrite ⟨q.tenant, .thread t⟩ ⟨sp, q.addr, none⟩ q.bytes
    else if sp == .scratch then
      let s := s.scratchWrite q.addr q.bytes
      { s with scratch := s.scratch.setTag q.addr }
    else if s.isLocal q.addr then
      let s := s.memWrite (localAddr q.addr) q.bytes
      { s with mem := s.mem.setTag (localAddr q.addr) }
    else if s.reaches (q.addr / 2 ^ 40 % 4096) then
      s.leave ⟨q.tenant, .thread t⟩ q.addr (.capWrite q.addr q.bytes)
    else s.countError .link true

/-- A list of queued stores performed in their order. -/
def State.performList (s : State) (k : CoreId) : List QueuedStore → State
  | [] => s
  | q :: qs => (s.performOne (.core k) q).performList k qs

/-- The store queue of a core drained, oldest first. -/
def State.drain (s : State) (k : CoreId) : State :=
  let q := (s.core k).storeQ
  (s.setCore k { s.core k with storeQ := [] }).performList k q

/-- The register window of a SYS address (R390, R391), by its lowest address over 4096: the four rows of a control core
name its window, and every row of a die that of the error core. -/
def sysWindow (a : Nat) : Nat :=
  let row := if field a 23 18 != 63 then 0 else if field a 17 12 = 1 then field a 29 24 else field a 25 24
  a / 4096 - row * 2 ^ 12

/-- A queued store to the register window of a SYS address. -/
def QueuedStore.sameWindow (q : QueuedStore) (a : Nat) : Bool := q.space == .sys && sysWindow q.addr == sysWindow a

/-- The stores of a core's queue to the window of a SYS address performed in their order; the others stay (R65).
[DEDUCED, log 65] -/
def State.drainSys (s : State) (k : CoreId) (a : Nat) : State :=
  let (x, y) := (s.core k).storeQ.partition fun q => q.sameWindow a
  (s.setCore k { s.core k with storeQ := y }).performList k x

/-- The accesses of a thread performed: a remote context has no store queue. -/
def State.drainThread (s : State) (t : ThreadId) : State :=
  match t with
  | .core k => s.drain k
  | .remote _ => s

/-- A queued store touches the bytes of a range (R65). A CST and a CLD touch all 16 bytes of their granule, of which
the tag is part (R70). -/
def QueuedStore.touches (q : QueuedStore) (space : Space) (a n : Nat) : Bool :=
  q.space.store == space.store && decide (q.addr < a + n) && decide (a < q.addr + q.bytes.length)

/-- A queued store has to be performed before a later one: it touches its bytes (R65), or goes to the same register window
(R392). [DEDUCED, log 65] -/
def QueuedStore.precedes (q p : QueuedStore) : Bool :=
  if p.space == .sys then q.sameWindow p.addr else q.touches p.space p.addr p.bytes.length

/-- A queued store has to be performed before an access to a range (R65): it touches it, or it is an element of an 8-byte
store that touches a unit of it, which reads correctly once the whole store is performed (R376). -/
def QueuedStore.ahead (q : QueuedStore) (space : Space) (a n : Nat) : Bool :=
  q.touches space a n || (q.half && q.space == space && decide (a / 8 ≤ q.addr / 8) &&
    decide (q.addr / 8 ≤ (a + n - 1) / 8))

/-- The queued stores that have to be performed before an access to a range, and those that precede a later one of them
(R65, R392); beside them the rest. -/
def splitTouching (space : Space) (a n : Nat) : List QueuedStore → List QueuedStore × List QueuedStore
  | [] => ([], [])
  | q :: qs =>
    let (x, y) := splitTouching space a n qs
    if q.ahead space a n || x.any q.precedes then (q :: x, y)
    else (x, q :: y)

/-- The thread's own queued stores that touch a range performed first (R65): what follows then meets
memory as the thread's program order has left it. [DEDUCED, log 15] -/
def State.settle (s : State) (t : ThreadId) (space : Space) (a n : Nat) : State :=
  match t with
  | .remote _ => s
  | .core k =>
    let (x, y) := splitTouching space a n (s.core k).storeQ
    (s.setCore k { s.core k with storeQ := y }).performList k x

/-- Depth of a store queue. [DEDUCED, log 18] -/
def storeQueueDepth : Nat := 16

/-- A queue that has no room for `need` entries performs its oldest stores first, n of them at most. -/
def State.makeRoom (s : State) (k : CoreId) (need : Nat) : Nat → State
  | 0 => s
  | n + 1 => match (s.core k).storeQ with
    | [] => s
    | x :: xs =>
      if xs.length + 1 + need ≤ storeQueueDepth then s
      else ((s.setCore k { s.core k with storeQ := xs }).performOne (.core k) x).makeRoom k need n

/-- Entries retire into the queue. -/
def State.enqueueAll (s : State) (k : CoreId) (qs : List QueuedStore) : State :=
  let s := s.makeRoom k qs.length qs.length
  s.setCore k { s.core k with storeQ := (s.core k).storeQ ++ qs }

/-- A store retires into the queue; a full queue performs its oldest store first. An 8-byte store of a core to SCRATCH is
two elements of 4 bytes, each on its own (R64). A remote context's store is performed at once.
[DEDUCED, log 5; DEDUCED, log 18; DEDUCED, log 20] -/
def State.enqueueStore (s : State) (t : ThreadId) (q : QueuedStore) : State :=
  match t with
  | .remote _ => s.performOne t q
  | .core k =>
    if q.space == .scratch && q.bytes.length == 8 then
      s.enqueueAll k [{ q with bytes := q.bytes.take 4, half := true },
        { q with addr := q.addr + 4, bytes := q.bytes.drop 4, half := true }]
    else s.enqueueAll k [q]

/-- Every call of a control core has been accepted by its callee, or has left for its module, as a fence and a release need
(R321). -/
def State.callsAccepted (s : State) (t : ThreadId) : Bool :=
  match t with
  | .remote _ => true
  | .core k => !(s.calls.any fun c => c.caller == .core k)

/-- Something of a unit that has left the module has not been acknowledged (R321). [DEDUCED, log 17] -/
def State.awaits (s : State) (mine : Accessor → Bool) : Bool := s.outbox.any fun x => x.due && mine x.sender.unit

/-- A unit belongs to a cell: one of its instructions, or its engines. -/
def Accessor.ofCell (c : CellId) : Accessor → Bool
  | .cell d _ _ | .engine d => d == c
  | .thread _ | .other => false

/-- A call has been performed as R321 says: its callee on another module has accepted it, or it has ended. A callee of this
device has accepted it once it is on its way no more. [DEDUCED, log 17] -/
def OpenCall.performed (o : OpenCall) : Bool :=
  match o.call.home with
  | .unit _ => true
  | .module _ => o.accepted || o.reply.isSome

/-- Pod scope: what has left for other modules has been acknowledged, and the calls there have been accepted (R321).
[DEDUCED, log 17] -/
def State.podDone (s : State) (t : ThreadId) : Bool :=
  !s.awaits (fun u => u == .thread t) && match t with
    | .core k => (s.core k).slots.toList.all fun o => o.all OpenCall.performed
    | .remote _ => true

/-- Held effects of a cell's instance are not yet performed: they wait at the memory cell, or have left for another module
without an acknowledgement (R322). [DEDUCED, log 42] -/
def State.storesWait (s : State) (c : CellId) (inst : Nat) (slots : List Nat) : Bool :=
  ((s.memQueue c.server).any fun r => r.reply.isNone && r.cell == c && r.inst == inst && slots.contains r.slot) ||
    s.awaits fun u => match u with
      | .cell d n slot => d == c && n == inst && slots.contains slot
      | _ => false

/-! ### Loads and stores of a thread -/

/-- The n bytes that a load of a thread returns: its own queued stores that touch them are performed
first (R65). None is an uncorrectable error. [DEDUCED, log 20] -/
def State.threadRead (s : State) (t : ThreadId) (l : Loc) (n : Nat) : State × Option (List Byte) :=
  let s := if l.fill.isSome then s else s.settle t l.space l.addr n
  match l.space, t with
  | .sys, .core k =>
    let w := s.sysRead k.val (sysReg l.addr)
    (s, some (leBytes n (w.toNat / 2 ^ (8 * (l.addr % 8)))))
  | _, _ => s.locRead ⟨(s.thread t).tenant, .thread t⟩ l n

end Sys2Proof.Machine
end

