-- ==== Sys2Proof/Machine/Band.lean ====
section
/-!
DEFINITION. Virtual pipelines on their bands: positions and cells (R191 to R194), edges (R207 to R209), how
a token leaves a cell (R209, R213, R406, R430), ports (R159, R160), records (R246) and the census (R220).
-/

namespace Sys2Proof

/-- The handle of a VP (R238). -/
def VpId.handle (v : VpId) : Nat := v.die.val * 2 ^ 31 + v.gen.val * 2 ^ 10 + v.num.val

end Sys2Proof

namespace Sys2Proof.Machine
open Sys2Proof

/-! ### Records of a VP -/

/-- A record to the event control core of a VP. -/
def State.postVp (s : State) (v : VpId) (r : BitVec 128) : State := s.post (s.vp v).eventCore r

/-- ITEM_FAILED of a cell's slot and lane (R246). -/
def State.itemFailed (s : State) (v : VpId) (wave : Nat) (c : CellId) (slot lane : Nat) (st : Status) :
    State :=
  s.postVp v (record 4 0 st.code (c.src slot lane) (v.handle + wave % 2 ^ 32 * 2 ^ 32))

/-- ORPHAN at a source (R226, R430). [DEDUCED, log 84] -/
def State.orphan (s : State) (v : VpId) (src : Nat) : State :=
  s.postVp v (record 5 0 0 src v.handle)

/-- Tokens dropped are counted (R216, R226, R373). [DESIGN CHOICE, log 45] -/
def State.drop (s : State) (n : Nat) : State := { s with dropped := s.dropped + n }

/-- A token, reply or completion that reaches no VP is dropped and counted (R226).
[DESIGN CHOICE, log 45; DEDUCED, log 84] -/
def State.dropOrphan (s : State) (v : VpId) (src : Nat) : State := (s.drop 1).orphan v src

/-- Movement in the band of a VP (R216). -/
def State.touch (s : State) (v : VpId) : State := s.setVp v { s.vp v with moved := s.cycle }

/-- PRE of a VP's present pre-emption (R136). -/
def Vp.preToken (x : Vp) : Token := Token.marker .pre x.preempts

/-! ### Positions (R191 to R194) -/

/-- Positions of one wave, and of all. -/
def Vp.perWave (x : Vp) : Nat := if x.turn then 2 * x.d else x.d
def Vp.total (x : Vp) : Nat := x.w * x.perWave
def Vp.waveOf (x : Vp) (p : Nat) : Nat := if x.static then 0 else p / x.perWave

/-- Within-wave position of a forward or backward image of a stage. -/
def Vp.place (x : Vp) (stage : Nat) (back : Bool) : Nat := if back then 2 * x.d - 1 - stage else stage

/-- Image-table entry of a stage's image (R196). -/
def Vp.entry (x : Vp) (stage : Nat) (back : Bool) : Nat := if back then x.d + stage else stage

/-- Image-table entry of a position (R191). -/
def Vp.entryOf (x : Vp) (p : Nat) : Nat :=
  let j := p % x.perWave
  if j < x.d then j else 3 * x.d - 1 - j

/-- Stage of an image-table entry. -/
def Vp.stageOf (x : Vp) (e : Nat) : Nat := if e < x.d then e else e - x.d

/-- Entry e of the image table. -/
def Vp.image (x : Vp) (e : Nat) : ImageEntry := x.images.getD e ⟨.null, 0, 0, false, 1, 0, 0, 1⟩

/-- Die row of a band row. -/
def Vp.dieRow (x : Vp) (i : Nat) : Fin 64 := Fin.ofNat 64 (x.base + i)

/-- The band row of a position (R192). A static VP's rows carry their band row as their position (R194). -/
def Vp.bandRowOf (x : Vp) (p : Nat) : Nat := if x.static then p else (x.origin + p) % x.b

/-- The die row of a position. -/
def Vp.rowOf (x : Vp) (die : Fin 2) (p : Nat) : RowId := ⟨die, x.dieRow (x.bandRowOf p)⟩

/-- The row of an entry's image that stands at a position: 0, or the row of a static rectangle (R194). -/
def Vp.relRow (x : Vp) (e p : Nat) : Nat := if x.static then p - (x.image e).rowOff else 0

/-- The positions of an entry's rectangle. [DEDUCED, log 48] -/
def Vp.rowsOf (x : Vp) (e p : Nat) : List Nat :=
  if x.static then (List.range (x.image e).height).map ((x.image e).rowOff + ·) else [p]

/-- Compute-cell index of the first cell of an image (R193, R194). -/
def Vp.firstIndex (x : Vp) (e : Nat) : Nat :=
  if x.static then (x.image e).baseCol - (x.image e).baseCol / 9 else 0

/-- Cell k of the image of an entry at a position. -/
def Vp.cellOf (x : Vp) (die : Fin 2) (e p k : Nat) : CellId :=
  let r := x.rowOf die p
  ⟨die, r.row, colOfIndex (x.firstIndex e + k)⟩

/-- Where a cell stands in a VP: the entry whose image holds it, its index in the span, its stage, wave and
position. -/
structure Place where
  v     : VpId
  x     : Vp
  entry : Nat
  k     : Nat
  stage : Nat
  wave  : Nat
  pos   : Nat
  deriving DecidableEq, Repr

/-- The images that a row at a position holds: one, or the static rectangles that cover that band row.
[DEDUCED, log 48] -/
def Vp.entriesAt (x : Vp) (p : Nat) : List Nat :=
  if x.static then (List.range x.d).filter fun e =>
    decide ((x.image e).rowOff ≤ p ∧ p < (x.image e).rowOff + (x.image e).height)
  else [x.entryOf p]

/-- The entry at a position whose span holds a compute-cell index. -/
def Vp.entryAt (x : Vp) (p idx : Nat) : Option Nat :=
  (x.entriesAt p).find? fun e =>
    decide (x.firstIndex e ≤ idx) && decide (idx < x.firstIndex e + (x.image e).width)

/-- The place of a compute cell, where its row has a position that covers it. -/
def State.place (s : State) (c : CellId) : Option Place :=
  let r := s.row c.rowId
  match r.host, r.pos with
  | some v, some p =>
    let x := s.vp v
    if c.isMem then none
    else match x.entryAt p c.index with
      | none => none
      | some e => some ⟨v, x, e, c.index - x.firstIndex e, x.stageOf e, x.waveOf p, p⟩
  | _, _ => none

/-- The place of a cell's switch: that of a compute cell, or of a memory cell between two compute cells of an image's span
(R193), which has the index of the one west of it. -/
def State.switchPlace (s : State) (c : CellId) : Option Place :=
  let r := s.row c.rowId
  match r.host, r.pos with
  | some v, some p =>
    let x := s.vp v
    if !c.isMem then s.place c
    else
      let west := c.col.val / 9 * 8 + 7
      (x.entryAt p west).bind fun e =>
        if x.entryAt p (west + 1) = some e then some ⟨v, x, e, west - x.firstIndex e, x.stageOf e, x.waveOf p, p⟩
        else none
  | _, _ => none

/-- The compute cells of a row's position with their entries. -/
def State.spanCells (s : State) (r : RowId) : List CellId :=
  match (s.row r).host, (s.row r).pos with
  | some v, some p =>
    let x := s.vp v
    (x.entriesAt p).flatMap fun e =>
      (List.range (x.image e).width).map fun k => ⟨r.die, r.row, colOfIndex (x.firstIndex e + k)⟩
  | _, _ => []

/-- How far a position is. -/
inductive PosState where
  | notYet | resident | gone
  deriving DecidableEq, Repr

/-- A VP stands before another one in its chain of splices (R218). -/
def State.precedes (s : State) (w v : VpId) : Bool := (s.chain (·.pred) 1024 v).contains w

/-- Band row i of a VP: on the die, or in the context that holds it while the VP is pre-empted (R225). -/
def State.bandRow (s : State) (v : VpId) (i : Nat) : Row :=
  let x := s.vp v
  if x.context then
    let saved (w : VpId) : Option Row := ((s.vp w).positions.find? fun q => q.1 == i).map Prod.snd
    ((s.splicedWith v).findSome? saved).getD Row.reset
  else s.row ⟨v.die, x.dieRow i⟩

/-- A band row that a VP has not taken yet: the VP stands on no band, or an earlier VP of its chain or a VP of another
band still has the row (R218, R225). -/
def State.rowAhead (s : State) (v : VpId) (i : Nat) : Bool :=
  let x := s.vp v
  (!x.context && (x.stage == .queued || x.stage == .preempted)) || x.waits.contains i ||
    (match (s.bandRow v i).host with
      | some w => s.precedes w v
      | none => false)

/-- The state of position p of a VP, judged at its row. -/
def State.posState (s : State) (v : VpId) (p : Nat) : PosState :=
  let i := (s.vp v).bandRowOf p
  let r := s.bandRow v i
  if s.rowAhead v i then .notYet
  else if r.host = some v then match r.pos with
    | none => .notYet
    | some q =>
      if q < p then .notYet
      else if p < q then .gone
      else if r.phase = .left then .gone
      else if r.phase = .empty then .notYet
      else .resident
  else .gone

/-- The row of a position has not completed the wave's markers: it takes the tokens of streams and rings. What comes for
it later belongs to no position (R204, R213). -/
def Phase.running : Phase → Bool
  | .live | .markers => true
  | _ => false

/-- The row of a position has not placed its RCF (R201). -/
def Phase.beforeRcf : Phase → Bool
  | .live | .markers | .draining | .drained => true
  | _ => false

/-! ### Edges (R207 to R209) -/

def Vp.srcEntry (x : Vp) (e : Edge) : Nat := x.entry e.src e.fromBack
def Vp.dstEntry (x : Vp) (e : Edge) : Nat := x.entry e.dst e.toBack

/-- The position of an edge's other end in the same wave. -/
def Vp.consumerPos (x : Vp) (e : Edge) (p : Nat) : Nat :=
  if x.static then (x.image (x.dstEntry e)).rowOff
  else p + x.place e.dst e.toBack - x.place e.src e.fromBack
def Vp.producerPos (x : Vp) (e : Edge) (p : Nat) : Nat :=
  if x.static then (x.image (x.srcEntry e)).rowOff
  else p + x.place e.src e.fromBack - x.place e.dst e.toBack

/-- The number of the edge that leaves an image at a port, and of the one that enters it. -/
def Vp.outEdge (x : Vp) (entry : Nat) (port : Fin 8) : Option Nat :=
  x.edges.findIdx? fun e => x.srcEntry e == entry && e.fromPort == port
def Vp.inEdge (x : Vp) (entry : Nat) (port : Fin 8) : Option Nat :=
  x.edges.findIdx? fun e => x.dstEntry e == entry && e.toPort == port

/-- The binding of a cell's EDGE port in a table. -/
def bindingOf (bs : List Binding) (entry k : Nat) : Option Nat :=
  bs.findIdx? fun b => b.image == entry && b.cell == k

/-- The edges and bindings of an image join the cells of one of its rows: those at S the last row of a static rectangle,
all others its first. -/
def Vp.joins (x : Vp) (entry p : Nat) (port : Fin 8) : Bool :=
  x.relRow entry p == if port = 2 then (x.image entry).height - 1 else 0

/-- The edge that leaves an image's row at a port, the one that enters it, and the binding of a cell there.
[DEDUCED, log 48] -/
def Vp.outAt (x : Vp) (entry p : Nat) (port : Fin 8) : Option Nat :=
  if x.joins entry p port then x.outEdge entry port else none
/-- [DEDUCED, log 48] -/
def Vp.inAt (x : Vp) (entry p : Nat) (port : Fin 8) : Option Nat :=
  if x.joins entry p port then x.inEdge entry port else none
def Vp.boundAt (x : Vp) (bs : List Binding) (entry p k : Nat) : Option Nat :=
  if x.joins entry p 5 then bindingOf bs entry k else none

/-- The cell of an image's next or previous row, inside a static rectangle (R159, R194). -/
def Vp.across (x : Vp) (die : Fin 2) (entry p k : Nat) (port : Fin 8) : Option CellId :=
  let rel := x.relRow entry p
  if !x.static then none
  else if port = 2 ∧ rel + 1 < (x.image entry).height then some (x.cellOf die entry (p + 1) k)
  else if port = 0 ∧ 0 < rel then some (x.cellOf die entry (p - 1) k)
  else none

def edgeAt (x : Vp) (n : Nat) : Edge := x.edges.getD n ⟨0, 0, 0, false, false, 0, 0, 0, [], []⟩

/-! ### Ports (R160) -/

/-- The tokens in place of a damaged one (R134). -/
def damaged : List Token := [Token.ofList .data 0 [], Token.err .eccDropped]

/-- Tokens that a port holds. -/
def portCap (port : Fin 8) : Nat := if port = 6 then 32 else 16

/-- A port has room for n more tokens beside those on their way to it. -/
def State.portRoom (s : State) (c : CellId) (port : Fin 8) (n : Nat) : Bool :=
  let q := (s.cell c).ports[port]
  let f := (s.flights.filter fun f => f.dest == c && f.port == port).length
  decide (q.length + f + n ≤ portCap port)

/-- Tokens put behind a port's last one. -/
def State.putPort (s : State) (c : CellId) (port : Fin 8) (ts : List Token) : State :=
  let x := s.cell c
  let s := s.setCell c { x with ports := x.ports.set port (x.ports[port] ++ ts) }
  match (s.row c.rowId).host with
  | some v => s.touch v
  | none => s

/-! ### What the census counts in the device (R220) -/

/-- A cell that a VP's row holds. -/
def State.hosted (s : State) (v : VpId) (c : CellId) : Bool := (s.row c.rowId).host == some v

/-- Tokens of a VP in streams, rings and at ports, and those on their way into an egress buffer. -/
def State.tokensOf (s : State) (v : VpId) : Nat :=
  let streams := (s.flights.filter fun f => f.vp == v).length
  let rings := ((s.vp v).edges.map fun e => e.ring.length).sum
  let ports := (s.cells.map fun c =>
    if s.hosted v c.1 then
      ((c.2.ports.toList.take 6).map fun q => (q.filter fun t => !t.k.isHeld).length).sum
    else 0).sum
  let sends := (s.cells.map fun c => if s.hosted v c.1 then c.2.sendQ.length else 0).sum
  let outs := ((s.vp v).egress.filter fun b => b.out.isSome).length
  streams + rings + ports + sends + outs

/-- The cell of a fibre request or reply. -/
def agentCell : FibreAgent → Option (CellId × VpId)
  | .thread _ _ _ _ | .module _ _ _ _ => none
  | .cell c v _ _ _ _ => some (c, v)

/-- Requests of a cell of a VP that have no answer yet. -/
def State.requestsOf (s : State) (v : VpId) (c : CellId) : Nat :=
  let mem := (s.memQueues.map fun q =>
    (q.2.filter fun r => r.cell == c && r.vp == v && r.body != .probe).length).sum
  let xfer := (s.transfers.filter fun t => t.cell == c && t.vp == v).length
  let fib := (s.fibreReqs.filter fun q => agentCell q.agent == some (c, v)).length +
    (s.replies.filter fun q => agentCell q.agent == some (c, v)).length
  let calls := ((s.cell c).calls.filter fun o => match o.call.caller with
    | .cell _ w _ _ => w == v
    | _ => false).length
  mem + xfer + fib + calls

/-! ### How a token leaves a cell -/

/-- The chain of route entries that starts at number i: multicast-continue adds the next one (R406). -/
def routeChain (routes : List (BitVec 32)) : Nat → Nat → List Nat
  | 0, _ => []
  | n + 1, i =>
    let w := (routes.getD i 0xF0000000#32).toNat
    w :: (if bitAt w 20 then routeChain routes n (i + 1) else [])

/-- An entry directs the cell's sends to a port. -/
def hasRoute (routes : List (BitVec 32)) (port : Fin 8) : Bool :=
  routes.any fun w => field w.toNat 31 28 == 8 && field w.toNat 27 24 == port.val

/-- The entries for the block's sends to a port, and for the tokens that arrive at a port. -/
def sendRoutes (routes : List (BitVec 32)) (port : Fin 8) : List Nat :=
  match routes.findIdx? fun w => field w.toNat 31 28 == 8 && field w.toNat 27 24 == port.val with
  | some i => routeChain routes 8 i
  | none => [port.val * 2 ^ 24]
def passRoutes (routes : List (BitVec 32)) (port : Fin 8) : List Nat :=
  match routes.findIdx? fun w => field w.toNat 31 28 == port.val with
  | some i => routeChain routes 8 i
  | none => []

/-- The memory cell between compute cells k and k + 1 of an image, where its switch has routes of its own for a stream to
the east or west (R406); any other one forwards the stream across itself (R159), as a retired one does (R4). -/
def State.memSwitch (s : State) (pl : Place) (die : Fin 2) (east : Bool) (k : Nat) : Option CellId :=
  let c := pl.x.cellOf die pl.entry pl.pos k
  if c.col.val % 9 != 7 then none
  else
    let m : CellId := { c with col := c.col + 1 }
    if !s.isRetired m && !(passRoutes (s.cell m).program.routes (if east then 3 else 1)).isEmpty then some m else none

/-- The next cell whose switch takes a stream, east or west of compute cell k of an image: a memory cell that routes it
(R406), or the next compute cell that is not retired, since a retired cell's switch passes the stream on (R159). -/
def State.neighbour (s : State) (pl : Place) (die : Fin 2) (east : Bool) : Nat → Nat → Option CellId
  | 0, _ => none
  | n + 1, k =>
    let onto (j : Nat) : Option CellId :=
      match s.memSwitch pl die east (min k j) with
      | some m => some m
      | none =>
        let c := pl.x.cellOf die pl.entry pl.pos j
        if s.isRetired c then s.neighbour pl die east n j else some c
    if east then if k + 1 < (pl.x.image pl.entry).width then onto (k + 1) else none
    else match k with
      | 0 => none
      | j + 1 => onto j

/-- The cell that a stream to the east or west from a cell meets first: from a memory cell, that beside it (R159). -/
def State.beside (s : State) (pl : Place) (c : CellId) (east : Bool) : Option CellId :=
  if !c.isMem then s.neighbour pl c.die east 36 pl.k
  else
    let k := if east then pl.k + 1 else pl.k
    let d := pl.x.cellOf c.die pl.entry pl.pos k
    if s.isRetired d then s.neighbour pl c.die east 36 k else some d

/-- A token onto a stream towards a port, where there is room. [DEDUCED, log 111] -/
def State.stream (s : State) (pl : Place) (src dest : CellId) (port : Fin 8) (edge : Option Nat)
    (t : Token) : Option State :=
  if s.portRoom dest port 1 then
    let f : Flight := ⟨src, dest, port, pl.v, pl.wave, edge, t⟩
    some ({ s with flights := s.flights ++ [f] }.touch pl.v)
  else none

/-- A token that no declared route takes is dropped at the sending cell (R430). [DEDUCED, log 84] -/
def State.orphanSend (s : State) (pl : Place) (c : CellId) (port : Fin 8) : State :=
  s.orphan pl.v (c.src 0 port.val)

/-- A token sent on edge n (R209, R213): on the stream where the consumer is live, its row has not completed the wave's
markers, the port has room and the ring holds no token for that cell, else into the ring (R204). A full ring holds the
sender back (R215). [DEDUCED, log 50] -/
def State.sendEdge (s : State) (pl : Place) (src : CellId) (n : Nat) (t : Token) : Option State :=
  let x := s.vp pl.v
  let e := edgeAt x n
  let p := x.consumerPos e pl.pos
  let dest := x.cellOf pl.v.die (x.dstEntry e) p pl.k
  let direct := e.kind == 0 && decide (1 < x.b) && s.posState pl.v p == .resident &&
    (s.row dest.rowId).phase.running && s.portRoom dest e.toPort 1 && !(e.ring.any fun q => q.1 == pl.k)
  if direct then s.stream pl src dest e.toPort (some n) t
  else if e.ring.length < e.bytes / 128 then
    let e' : Edge := { e with ring := e.ring ++ [(pl.k, pl.wave, t)] }
    some ((s.setVp pl.v { x with edges := setNth x.edges n e' }).touch pl.v)
  else none

/-- A token sent on an egress binding, which holds one until EGRESS_BINDING_WRITE writes it and holds the
sender back meanwhile. A binding that has stopped takes nothing more (R198). -/
def State.sendEgress (s : State) (v : VpId) (n : Nat) (t : Token) : Option State :=
  let x := s.vp v
  match x.egress[n]? with
  | none => none
  | some b =>
    if b.stopped || b.out.isSome then none
    else
      let b := { b with out := some t }
      some ((s.setVp v { x with egress := setNth x.egress n b }).touch v)

/-- Where a route entry of a cell leads: to a port of a cell on a stream, onto an edge, into an egress binding, or
nowhere. -/
inductive Hop where
  | stream (dest : CellId) (port : Fin 8)
  | edge (n : Nat)
  | egress (n : Nat)
  | nowhere
  deriving DecidableEq, Repr

/-- Where a route entry leads: the mesh, or an output port of the cell (R159, R406). The edges and bindings of an image join
its compute cells. -/
def State.hop (s : State) (pl : Place) (c : CellId) (w : Nat) : Hop :=
  let port : Fin 8 := Fin.ofNat 8 (field w 27 24)
  let onto (d : Option CellId) (q : Fin 8) : Hop := match d with
    | some d => .stream d q
    | none => .nowhere
  match port.val with
  | 4 => onto (cellAt c.die (routeDest c w)) 4
  | 1 => onto (s.beside pl c true) 3
  | 3 => onto (s.beside pl c false) 1
  | _ =>
    match pl.x.across c.die pl.entry pl.pos pl.k port with
    | some d => .stream { d with col := c.col } (if port = 2 then 0 else 2)
    | none =>
      if c.isMem then .nowhere
      else match pl.x.outAt pl.entry pl.pos port with
        | some n => .edge n
        | none =>
          if port != 5 then .nowhere
          else match pl.x.boundAt pl.x.egress pl.entry pl.pos pl.k with
            | some n => .egress n
            | none => .nowhere

/-- A token sent along one route entry; one that leads nowhere drops it (R430). [DEDUCED, log 111] -/
def State.sendHop (s : State) (pl : Place) (c : CellId) (t : Token) (w : Nat) : Option State :=
  match s.hop pl c w with
  | .stream d q => s.stream pl c d q none t
  | .edge n => s.sendEdge pl c n t
  | .egress n => s.sendEgress pl.v n t
  | .nowhere => some (s.orphanSend pl c (Fin.ofNat 8 (field w 27 24)))

/-- The EOW of the wave has left a cell on an output port (R201). -/
def State.noteEow (s : State) (c : CellId) (port : Fin 8) (t : Token) : State :=
  let x := s.cell c
  if t.k == .eow && !x.sentEow.contains port then s.setCell c { x with sentEow := port :: x.sentEow } else s

/-- A token sent along every entry of a chain, or along none. -/
def State.sendHops (s : State) (pl : Place) (c : CellId) (t : Token) : List Nat → Option State
  | [] => some s
  | w :: ws => match s.sendHop pl c t w with
    | none => none
    | some s => (s.noteEow c (Fin.ofNat 8 (field w 27 24)) t).sendHops pl c t ws

/-- A send of a cell to a port (R157, R406). A send to MESH that no route entry directs is dropped (R430). -/
def State.sendPort (s : State) (c : CellId) (port : Fin 8) (t : Token) : Option State :=
  let routes := (s.cell c).program.routes
  match s.place c with
  | none => some s
  | some pl =>
    if port = 4 && !hasRoute routes port then some (s.orphanSend pl c port)
    else s.sendHops pl c t (sendRoutes routes port)

/-! ### Arrival (R159, R160, R406) -/

/-- The routes of the tokens that arrive at a port: a retired cell's switch passes N on to S and S on to N (R4, R159);
otherwise the cell's input entries, which a memory cell's switch frame gives too (R405, R406). -/
def State.inRoutes (s : State) (c : CellId) (port : Fin 8) : List Nat :=
  if s.isRetired c then match port.val with
    | 0 => [2 * 2 ^ 24]
    | 2 => [0]
    | _ => []
  else passRoutes (s.cell c).program.routes port

/-- An EOW that passes through a cell's switch is the wave's at that port (R201). -/
def State.notePassed (s : State) (c : CellId) (port : Fin 8) (t : Token) : State :=
  let x := s.cell c
  if t.k == .eow then s.setCell c { x with gotEow := port :: x.gotEow } else s

/-- Tokens that arrive at a port: sent along its routes, or put behind its last token where it has none; none where a
route is held back. -/
def State.arrive (s : State) (c : CellId) (port : Fin 8) : List Token → Option State
  | [] => some s
  | t :: ts =>
    let routes := s.inRoutes c port
    match s.switchPlace c with
    | some pl =>
      if routes.isEmpty then (s.putPort c port [t]).arrive c port ts
      else match s.sendHops pl c t routes with
        | none => none
        | some s => (s.notePassed c port t).arrive c port ts
    | none => (s.putPort c port [t]).arrive c port ts

/-- A port takes n more tokens: there is room, or its routes pass them on. -/
def State.admits (s : State) (c : CellId) (port : Fin 8) (n : Nat) : Bool :=
  !(s.inRoutes c port).isEmpty || s.portRoom c port n

/-- The port that a target names, if it names one. -/
def Target.port (t : Target) : Option (Fin 8) :=
  if t.pos = .out && decide (64 ≤ t.idx.val) && decide (t.idx.val < 70) then
    some (Fin.ofNat 8 (t.idx.val - 64))
  else none

/-- The commands of the array that may release the tile, for a counter that may stand at any of some values: a command
ahead may complete, release, fail, or be stopped by an error (R282, R289). [DEDUCED, log 44] -/
def mayRelease : List Nat → List MatrixRun → List MatrixCmd
  | _, [] => []
  | ns, r :: rest =>
    if r.cmd.op = 3 then mayRelease [0] rest
    else
      let count := (r.cmd.p.at 3).toNat
      let go := count != 0 && ns.any fun n => decide (count ≤ n + 1)
      (if go then [r.cmd] else []) ++ mayRelease (0 :: ns ++ ns.map (· + 1)) rest

/-- A send committed after a command of the array leaves behind the command's release to the same port
(R283). -/
def Cell.behindRelease (x : Cell) (port : Fin 8) : Bool :=
  (x.release.any fun r => r.port == port && decide (r.inst < x.lastNum)) ||
    (x.due.any fun d => Target.port d.1.t0 == some port && decide (d.1.inst < x.lastNum)) ||
    (mayRelease [x.counter] x.matrix).any fun r => Target.port r.t0 == some port && decide (r.inst < x.lastNum)

/-- The sends that wait at a cell leave in order until one is held back. -/
def State.drainSends (s : State) (c : CellId) : Nat → State
  | 0 => s
  | n + 1 =>
    match (s.cell c).sendQ with
    | [] => s
    | (port, t) :: rest =>
      if (s.cell c).behindRelease port then s
      else match s.sendPort c port t with
        | none => s
        | some s =>
          let x := s.cell c
          let x := { x with sendQ := rest }
          (s.setCell c x).drainSends c n

/-! ### Tokens that leave a port for good -/

/-- The head count of a buffer capability advanced by n, in the VP's tenant (R198). -/
def State.advance (s : State) (v : VpId) (r : RowId) (cap : Cap) (field n : Nat) : State :=
  let tenant := (s.vp v).tenant
  match s.translate (.edge r) tenant (s.rootOf tenant) (cap.base + field) true with
  | (s, .error _) => s
  | (s, .ok p) =>
    let l : Loc := ⟨.dense, p.pa, none⟩
    match s.locRead ⟨tenant, .other⟩ l 8 with
    | (s, none) => s
    | (s, some bs) => s.locWrite ⟨tenant, .other⟩ l (leBytes 8 (leNat bs + n))

/-- The ingress binding of a cell's EDGE port. -/
def State.ingressAt (s : State) (c : CellId) (port : Fin 8) : Option (VpId × Nat × Binding) :=
  if port = 5 then match s.place c with
    | none => none
    | some pl => match pl.x.boundAt pl.x.ingress pl.entry pl.pos pl.k with
      | none => none
      | some i => (pl.x.ingress[i]?).map fun b => (pl.v, i, b)
  else none

/-- An ingress binding replaced. -/
def State.setIngress (s : State) (v : VpId) (i : Nat) (b : Binding) : State :=
  let x := s.vp v
  s.setVp v { x with ingress := setNth x.ingress i b }

/-- Tokens arrive at a port, the n-th of them from so many slots of the port's ingress buffer: those that stay account
for their slots, and the buffer's head moves past those that a route passes on (R198, R406). -/
def State.arriveFrom (s : State) (c : CellId) (port : Fin 8) (ts : List Token) (slots : List Nat) : Option State :=
  (s.arrive c port ts).map fun s => match s.ingressAt c port with
    | none => s
    | some (v, i, b) =>
      if (s.inRoutes c port).isEmpty then s.setIngress v i { b with slots := b.slots ++ slots }
      else if slots.sum = 0 then s else s.advance v c.rowId b.cap 0 slots.sum

/-- A token that comes from no buffer slot arrives at a port. -/
def State.putMarker (s : State) (c : CellId) (port : Fin 8) (t : Token) : Option State := s.arriveFrom c port [t] [0]

/-- The first n tokens of a port removed for good: an EOW among them is the wave's (R201), and an ingress
binding's head moves past them (R198). -/
def State.removeTokens (s : State) (c : CellId) (port : Fin 8) (n : Nat) : State :=
  let x := s.cell c
  let gone := (x.ports[port]).take n
  let got := if gone.any fun t => t.k == .eow then port :: x.gotEow else x.gotEow
  let s := s.setCell c { x with ports := x.ports.set port ((x.ports[port]).drop n), gotEow := got }
  match s.place c with
  | none => s
  | some pl =>
    let s := if n = 0 then s else s.touch pl.v
    match s.ingressAt c port with
    | none => s
    | some (v, i, b) =>
      let m := (b.slots.take n).sum
      let s := s.setIngress v i { b with slots := b.slots.drop n }
      if b.stopped || m = 0 then s else s.advance v c.rowId b.cap 0 m

/-- Tokens that the running instance of a cell holds provisionally at the head of a port (R151). -/
def Cell.heldAt (x : Cell) (port : Fin 8) : Nat :=
  match x.inst with
  | some i => (i.taken.filter fun t => t.1 == port).length
  | none => 0

/-- Tokens that the array has taken go back to the head of their port, behind those that the running instance holds
provisionally (R151, R289). [DEDUCED, log 44] -/
def State.returnTokens (s : State) (c : CellId) (port : Fin 8) (ts : List Token) : State :=
  let x := s.cell c
  let n := x.heldAt port
  let q := x.ports[port]
  let s := s.setCell c { x with ports := x.ports.set port (q.take n ++ ts ++ q.drop n) }
  match s.ingressAt c port with
  | none => s
  | some (v, i, b) =>
    s.setIngress v i { b with slots := b.slots.take n ++ List.replicate ts.length 0 ++ b.slots.drop n }

end Sys2Proof.Machine
end

