-- ==== Sys2Proof/Machine/CellCore.lean ====
section
/-!
DEFINITION. How a block instance runs (R146 to R158): arrivals, firing, outputs and exits, faults (R371), and
the frame in which every cell instruction fires (R138 to R145, R249).
-/

namespace Sys2Proof.Machine
open Sys2Proof

/-! ### Faults (R158, R371, R372) -/

/-- A fault of a cell: cause, slot, lane, the address of the element it names, its source kind. -/
structure CellFault where
  cause : Cause
  slot  : Nat
  lane  : Nat
  value : Nat
  kind  : Fin 4
  deriving DecidableEq, Repr

/-- A fault of a slot at lane 0 that names no element. -/
def slotFault (c : Cause) (slot : Nat) : CellFault := ⟨c, slot, 0, 0, 0⟩

/-- The causes whose fault value is an address (R372). -/
def Cause.hasValue : Cause → Bool
  | .page | .wprot | .bounds | .misalign => true
  | _ => false

/-- The payload of a FAULT record (R371). -/
def faultPayload (handle block kind : Nat) : Nat := handle + block * 2 ^ 32 + kind * 2 ^ 37

/-- A fault of a cell still waits for its handler, or for the handler's answer to take effect: the cell does not fire
(R371). -/
def Cell.stopped (x : Cell) : Bool := x.pending || x.action.isSome

/-- The block of a cell that runs or, after a fault, is to run again. -/
def Cell.blockNum (x : Cell) : Fin 32 :=
  match x.inst with
  | some i => i.block
  | none => match x.next with
    | some b => b
    | none => x.block

/-- A fault of a cell: its block does not commit, what it held is discarded, its provisional tokens stand at
the port heads, and a FAULT record goes to the VP's event control core (R158, R371). `status` is 0 but for a
fault of the position. -/
def State.raiseCell (s : State) (v : VpId) (c : CellId) (f : CellFault) (status : Nat) : State :=
  let x := s.cell c
  let b := if f.kind = 1 || f.kind = 2 then 0 else x.blockNum
  let x' : Cell := { x with
    inst := if f.kind = 1 || f.kind = 2 then x.inst else none
    next := if f.kind = 1 || f.kind = 2 then x.next else some b
    cause := some f.cause
    pending := true
    srcKind := f.kind
    lane := Fin.ofNat 16 f.lane
    slot := Fin.ofNat 128 f.slot
    block := b
    faultVal := if f.cause.hasValue then BitVec.ofNat 64 f.value else 0
    action := none
    faultAt := s.cycle
    reserved := if f.kind = 1 || f.kind = 2 then x.reserved else 0 }
  ((s.setCell c x').pauseBand v).postVp v
    (record 3 f.cause.code status (c.src f.slot f.lane) (faultPayload v.handle b.val f.kind.val))

/-! ### Slots -/

/-- A block of a program by its number. -/
def Program.block (p : Program) (n : Nat) : Option Block := p.blocks.find? fun b => b.num.val == n

/-- The instruction of a slot. -/
def Block.instr (b : Block) (n : Nat) : Option Instr :=
  match b.words[n]? with
  | none => none
  | some w => (decodeCell w.toNat).toOption

/-- Every operand that an instruction waits for has arrived (R147). [DEDUCED, log 33] -/
def Slot.arrived (sl : Slot) (x : Shape) : Bool :=
  (!x.l || sl.l.isSome) && (!x.r || sl.r.isSome) && (!x.p || sl.p.isSome)

/-- TESTK, which reads the kind of any operand (R172). [DEDUCED, log 37] -/
def isTestk : Instr → Bool
  | .testk _ => true
  | _ => false

/-- A slot whose operands have all arrived and whose predicate suppresses it is done without an issue
(R140, R249). [DEDUCED, log 37] -/
def settleSlot (b : Block) (n : Nat) (sl : Slot) : Slot :=
  match b.instr n with
  | none => sl
  | some i => match instrShape i with
    | none => sl
    | some x =>
      if sl.firing = .waiting && sl.arrived x &&
          x.judge (isTestk i) sl.l sl.r sl.p == .suppressed then { sl with firing := .done }
      else sl

/-- An operand position of a slot. -/
def Slot.get (sl : Slot) : Pos → Option Operand
  | .l => sl.l
  | .r => sl.r
  | .p => sl.p
  | .out => none

/-- An operand arrives at a position. -/
def Slot.put (sl : Slot) (o : Operand) : Pos → Slot
  | .l => { sl with l := some o }
  | .r => { sl with r := some o }
  | .p => { sl with p := some o }
  | .out => sl

/-! ### Arrivals and outputs -/

/-- One output; the (O+1)th raises EXIT_COUNT (R154). -/
def countOutput (b : Block) (slot : Nat) (i : Instance) : Except CellFault Instance :=
  if b.outputs < i.outputs + 1 then .error (slotFault .exitCount slot)
  else .ok { i with outputs := i.outputs + 1 }

/-- A token delivered to a target of a slot, or of a read entry (R21, R146, R148, R149, R154, R155). -/
def deliver (b : Block) (writer : Nat) (t : Target) (o : Operand) (i : Instance) :
    Except CellFault Instance :=
  if t.pos != .out then
    let n := t.idx.val
    match i.slots[n]? with
    | none => .ok i
    | some sl =>
      if (sl.get t.pos).isSome then .error (slotFault .doubleOperand n)
      else .ok { i with slots := setNth i.slots n (settleSlot b n (sl.put o t.pos)) }
  else if t.idx.val < 64 then
    let r : Fin 64 := Fin.ofNat 64 t.idx.val
    if !b.mask.getLsbD r.val then .error (slotFault .exitCount writer)
    else if i.writes.any fun w => w.1 == r then .error (slotFault .doubleOperand writer)
    else .ok { i with writes := i.writes ++ [(r, o.tok)] }
  else if t.idx.val < 70 then
    match countOutput b writer i with
    | .error f => .error f
    | .ok i => .ok { i with held := i.held ++ [(writer, .send (Fin.ofNat 8 (t.idx.val - 64)) o.tok)] }
  else .ok i

/-- The RCV ports that a slot's result depends on (R143), and the held stores that its order tokens come
from (R150). -/
def Slot.ports (sl : Slot) : List (Fin 8) :=
  ((sl.l.toList ++ sl.r.toList ++ sl.p.toList).flatMap (·.ports)).eraseDups
def Slot.ords (sl : Slot) : List Nat :=
  ((sl.l.toList ++ sl.r.toList ++ sl.p.toList).flatMap (·.ords)).eraseDups

/-- Results delivered to t0 and t1; a result that is none is not delivered yet. [DEDUCED, log 34] -/
def emit (b : Block) (slot : Nat) (x : Shape) (t0 t1 : Option Token) (ports : List (Fin 8))
    (ords : List Nat) (i : Instance) : Except CellFault Instance :=
  let op (t : Token) : Operand := ⟨t, ports, if t.k == .ord then ords else []⟩
  let first : Except CellFault Instance := match t0 with
    | none => .ok i
    | some t => deliver b slot x.t0 (op t) i
  match first with
  | .error f => .error f
  | .ok i => match t1 with
    | none => .ok i
    | some t => deliver b slot x.t1 (op t) i

/-- A slot's firing state. -/
def Instance.mark (i : Instance) (n : Nat) (f : Firing) : Instance :=
  match i.slots[n]? with
  | none => i
  | some sl => { i with slots := setNth i.slots n { sl with firing := f } }

/-- An exit (R153). -/
def Instance.takeExit (i : Instance) (slot : Nat) (e : Exit) : Except CellFault Instance :=
  if i.exit.isSome then .error (slotFault .exitCount slot) else .ok { i with exit := some e }

/-- An instance replaced in its cell. -/
def State.setInst (s : State) (c : CellId) (i : Instance) : State :=
  s.setCell c { s.cell c with inst := some i }

/-! ### The start of a block (R146) -/

/-- The read entries of a block deliver the registers as the last commit left them. -/
def readEntries (b : Block) (g : Vector Token 64) : List (Fin 64 × Target) → Instance →
    Except CellFault Instance
  | [], i => .ok i
  | (r, t) :: rest, i => match deliver b t.idx.val t ⟨g[r], [], []⟩ i with
    | .error f => .error f
    | .ok i => readEntries b g rest i

/-- An instance that nothing has reached. -/
def freshInstance (b : Block) (num : Nat) : Instance :=
  { block := b.num, num := num, slots := b.words.map fun _ => Slot.empty, writes := [], held := [],
    outputs := 0, exit := none, taken := [], drains := [], discards := 0, join := none }

/-- A block instance starts (R146). A program without such a block starts nothing. A g register that fails its check as
an entry reads it faults the block with ECC at lane 0 (R376). [DESIGN CHOICE, log 85; DESIGN CHOICE, log 93] -/
def State.startBlock (s : State) (v : VpId) (c : CellId) (n : Nat) : State :=
  let x := s.cell c
  match x.program.block n with
  | none => s
  | some b =>
    let i := freshInstance b (x.instNum + 1)
    let x : Cell := { x with inst := some i, next := some b.num, instNum := x.instNum + 1 }
    let s := s.setCell c x
    match b.reads.find? fun q => x.badRegs.contains q.1 with
    | some q => (s.raiseCell v c (slotFault .ecc q.2.idx.val) 0).countError (.cell c) true
    | none => match readEntries b x.g b.reads i with
      | .error f => s.raiseCell v c f 0
      | .ok i => s.setInst c i

/-! ### Readiness (R147, R151, R249) -/

/-- Tokens of a port that the instance holds provisionally. -/
def Instance.takenAt (i : Instance) (port : Fin 8) : Nat := (i.taken.filter fun t => t.1 == port).length

/-- A running command's operand owns a port until its packet's last token has been taken (R287). -/
def MatrixRun.owns (r : MatrixRun) (port : Fin 8) : Bool :=
  r.started &&
    ((!r.aDone && r.cmd.l.at 0 == 0 && (r.cmd.l.at 1).toNat == port.val) ||
      (!r.bDone && r.cmd.r.at 0 == 0 && (r.cmd.r.at 1).toNat == port.val))

/-- The array owns a port: of a running command, or one whose malformed packet it discards (R271, R287). -/
def Cell.arrayOwns (x : Cell) (port : Fin 8) : Bool := x.skip.contains port || x.matrix.any (·.owns port)

/-- The token that an RCV of a slot may take (R151, R187): every RCV of the port in a lower slot has fired
or been suppressed, and a token other than PRE and RCF stands next at the port. -/
def rcvToken (x : Cell) (b : Block) (i : Instance) (n : Nat) (port : Fin 8) : Option Token :=
  let lower := (List.range n).all fun j => match b.instr j, i.slots[j]? with
    | some (.rcv f), some sl => f.m.val % 8 != port.val || sl.firing == .done
    | _, _ => true
  if !lower || x.arrayOwns port then none
  else match (x.ports[port])[i.takenAt port]? with
    | none => none
    | some t => if t.k.isHeld then none else some t

/-- An RCV, whatever its predicate, fires only where a token stands that it may take (R147). -/
def rcvMayTake (x : Cell) (b : Block) (i : Instance) (n : Nat) : Instr → Bool
  | .rcv f => (rcvToken x b i n (Fin.ofNat 8 f.m.val)).isSome
  | _ => true

/-- Requests of a cell in its memory cell's queue. -/
def State.queueUse (s : State) (c : CellId) : Nat :=
  ((s.memQueue c.server).filter fun r => r.cell == c).length

/-- A memory cell's queue has an entry for a cell: one reserved for it, or a shared one (R132, R405).
[DEDUCED, log 40] -/
def State.queueRoom (s : State) (c : CellId) : Bool :=
  let m := c.server
  let q := s.memQueue m
  let res := (s.cell m).program.reserve
  let served := (q.map (·.cell)).eraseDups
  let shared := (served.map fun d => (q.filter fun r => r.cell == d).length - res).sum
  decide (q.length < 64) && (decide (s.queueUse c < res) || decide (shared < 64 - 8 * res))

/-- Calls of a cell without a reply, held ones included (R337). -/
def Cell.openCalls (x : Cell) (i : Instance) : Nat :=
  x.calls.length + (i.held.filter fun h => match h.2 with
    | .call _ _ _ _ _ _ => true
    | _ => false).length

/-- A parked access of a cell. -/
def Parked.ofCell (q : Parked) (c : CellId) : Bool :=
  match q.waiter with
  | .cell d _ _ _ => d == c
  | .unit _ => false

/-- The parked access of a slot of an instance. -/
def Parked.waits (q : Parked) (c : CellId) (n inst : Nat) : Bool :=
  match q.waiter with
  | .cell d slot _ i => d == c && slot == n && i == inst
  | .unit _ => false

/-- An instruction of class M has an entry in its memory cell's queue to go to; whatever comes of it, it waits for that
(R249). -/
def State.hasEntry (s : State) (c : CellId) (sh : Shape) : Bool := sh.cls != .m || s.queueRoom c

/-- The unit of a ready instruction accepts it (R132, R249, R281, R337, R382). -/
def State.accepts (s : State) (c : CellId) (i : Instance) (n : Nat) (ins : Instr) (sh : Shape) : Bool :=
  let x := s.cell c
  s.hasEntry c sh &&
    !(s.parked.any fun q => q.waits c n i.num) &&
    match ins with
    | .mma _ | .mmas _ | .mmap _ | .accz _ => decide (x.matrix.length + x.reserved < 2)
    | .cellRcall _ => decide (x.openCalls i < 16)
    | _ => true

/-- The operands of a slot have arrived, it is to fire, its unit accepts it, and no fault holds the cell (R371).
[DEDUCED, log 19] -/
def State.slotReady (s : State) (c : CellId) (b : Block) (i : Instance) (n : Nat) (ins : Instr)
    (sh : Shape) : Bool :=
  match i.slots[n]? with
  | none => false
  | some sl =>
    !(s.cell c).stopped && sl.firing == .waiting && sl.arrived sh && rcvMayTake (s.cell c) b i n ins &&
      match sh.judge (isTestk ins) sl.l sl.r sl.p with
      | .suppressed => false
      | .compute => s.accepts c i n ins sh
      | .propagate _ => s.hasEntry c sh
      | .marker _ _ => s.hasEntry c sh && !(i.drains.any fun d => d.slot == n)

/-- A ready slot of the same class below slot n goes first (R249). [DEDUCED, log 19] -/
def State.lowerReady (s : State) (c : CellId) (b : Block) (i : Instance) (n : Nat) (cls : IssueClass) :
    Bool :=
  (List.range n).any fun j => match b.instr j with
    | none => false
    | some ins => match instrShape ins with
      | none => false
      | some sh => sh.cls == cls && s.slotReady c b i j ins sh

/-! ### Firing -/

/-- What a body has of the firing instruction: its place, block, instance, shape and operands. -/
structure Ctx where
  c    : CellId
  pl   : Place
  blk  : Block
  inst : Instance
  slot : Nat
  sh   : Shape
  l    : Token
  r    : Token
  p    : Token
  ports : List (Fin 8)
  ords  : List Nat

/-- What a body does. -/
inductive Fired where
  /-- The instruction has fired, and its instance is as given. -/
  | done (s : State) (i : Instance)
  /-- It waits, and will fire later. -/
  | wait (s : State)
  | fault (s : State) (f : CellFault)

/-- Results sent at once; the slot is done. -/
def Ctx.results (x : Ctx) (t0 t1 : Token) (s : State) : Fired :=
  match emit x.blk x.slot x.sh (some t0) (some t1) x.ports x.ords (x.inst.mark x.slot .done) with
  | .error f => .fault s f
  | .ok i => .done s i

/-- The same result to both targets. -/
def Ctx.result (x : Ctx) (t : Token) (s : State) : Fired := x.results t t s

/-- Exits, which send nothing (R141), and the instructions whose firing counts one output (R154). -/
def isExit : Instr → Bool
  | .bx _ | .bxi _ | .bend _ => true
  | _ => false
def isOutput : Instr → Bool
  | .st _ | .stc _ | .atadd _ | .atfadd _ | .atmax _ | .tagset _ | .tagclr _ | .cellFmrg _
  | .cellFscan _ | .cellRcall _ | .xreq _ => true
  | _ => false

/-- A token sent to each target in place of a result, with the output that R138 and R142 still count.
[DEDUCED, log 34] -/
def Ctx.forward (x : Ctx) (ins : Instr) (t : Token) (s : State) : Fired :=
  if isExit ins then .done s (x.inst.mark x.slot .done)
  else
    let i := x.inst.mark x.slot .done
    match (if isOutput ins then countOutput x.blk x.slot i else .ok i) with
    | .error f => .fault s f
    | .ok i => match emit x.blk x.slot x.sh (some t) (some t) x.ports x.ords i with
      | .error f => .fault s f
      | .ok i => .done s i

/-- A marker met operands that are discarded: in strict-marker mode UNPAIRED (R144), else their ports are
drained first where they depend on RCVs (R143). -/
def Ctx.meetMarker (x : Ctx) (ins : Instr) (m : Token) (ds : List Operand) (s : State) : Fired :=
  if ds.isEmpty then x.forward ins m s
  else if x.pl.x.strict then .fault s (slotFault .unpaired x.slot)
  else
    let ports := (ds.flatMap (·.ports)).eraseDups
    let i := { x.inst with discards := x.inst.discards + ds.length }
    if ports.isEmpty then ({ x with inst := i } : Ctx).forward ins m s
    else
      let drains := ports.map fun p => (⟨x.slot, p, m.k, false, none⟩ : Drain)
      .done s { i with drains := i.drains ++ drains }

/-- The running block of a cell. -/
def Cell.running (x : Cell) : Option (Block × Instance) :=
  match x.inst with
  | none => none
  | some i => match x.program.block i.block.val with
    | none => none
    | some b => some (b, i)

/-- The context of a slot. -/
def Ctx.of (c : CellId) (pl : Place) (b : Block) (i : Instance) (n : Nat) (sh : Shape) (sl : Slot) : Ctx :=
  let tok (o : Option Operand) : Token := match o with
    | some q => q.tok
    | none => .nul
  { c := c, pl := pl, blk := b, inst := i, slot := n, sh := sh, l := tok sl.l, r := tok sl.r,
    p := tok sl.p, ports := sl.ports, ords := sl.ords }

/-- The machine after a body (R158). -/
def Fired.finish (x : Ctx) : Fired → State
  | .done s i => s.setInst x.c i
  | .wait s => s
  | .fault s f => s.raiseCell x.pl.v x.c f 0

/-- A cell instruction fires at the slot of the focus: where it is ready and no ready slot of its class
stands below it, the kinds of its operands decide (R138 to R144) and `body` computes. Otherwise nothing
happens. [DEDUCED, log 19; DEDUCED, log 33; DEDUCED, log 88] -/
def fireCell (ins : Instr) (body : Ctx → State → Fired) (s : State) : Res :=
  let c := s.focus.cell
  let n := s.focus.slot
  match instrShape ins, (s.cell c).running, s.place c with
  | some sh, some (b, i), some pl => match i.slots[n]? with
    | none => .next s
    | some sl =>
      if !s.slotReady c b i n ins sh || s.lowerReady c b i n sh.cls then .next s
      else
        let x := Ctx.of c pl b i n sh sl
        match sh.judge (isTestk ins) sl.l sl.r sl.p with
        | .suppressed => .next s
        | .propagate t => .next ((x.forward ins t s).finish x)
        | .marker m ds => .next ((x.meetMarker ins m ds s).finish x)
        | .compute => .next ((body x s).finish x)
  | _, _, _ => .next s

/-! ### Results that arrive later -/

/-- Results for a slot of the instance that issued them; a later instance discards them (R155). -/
def State.deliverResult (s : State) (v : VpId) (c : CellId) (num slot : Nat) (t0 t1 : Token) : State :=
  match (s.cell c).running with
  | none => s
  | some (b, i) =>
    if i.num != num then s
    else match b.instr slot, i.slots[slot]? with
      | some ins, some sl => match instrShape ins with
        | none => s
        | some sh =>
          match emit b slot sh (some t0) (some t1) sl.ports sl.ords (i.mark slot .done) with
          | .error f => s.raiseCell v c f 0
          | .ok i => s.setInst c i
      | _, _ => s

end Sys2Proof.Machine
end

