-- ==== Sys2Proof/Machine/Float.lean ====
section
/-!
DEFINITION. Floating-point arithmetic (R259 to R264): each operation computes its exact result and
rounds once. Numbers are bits held as Nat; a finite value is a sign, a magnitude and an exponent of 2.
-/

namespace Sys2Proof.Machine
open Sys2Proof

/-! ### Formats (R259) -/

/-- A binary format: bits of the exponent and of the fraction. -/
structure Fmt where
  exp  : Nat
  frac : Nat
  deriving DecidableEq, Repr

def Fmt.f32 : Fmt := ⟨8, 23⟩
def Fmt.f16 : Fmt := ⟨5, 10⟩
def Fmt.bf16 : Fmt := ⟨8, 7⟩

/-- Bits of +∞, of the sign, and of the canonical NaN. -/
def Fmt.inf (f : Fmt) : Nat := (2 ^ f.exp - 1) * 2 ^ f.frac
def Fmt.sign (f : Fmt) (s : Bool) : Nat := if s then 2 ^ (f.exp + f.frac) else 0
def Fmt.nan (f : Fmt) : Nat := f.inf + 2 ^ (f.frac - 1)

/-- Exponent of the subnormal spacing. -/
def Fmt.low (f : Fmt) : Int := 2 - (2 : Int) ^ (f.exp - 1) - f.frac

/-- A value: NaN, an infinity, or (−1)^s · m · 2^e. -/
inductive Fp where
  | nan
  | inf (s : Bool)
  | fin (s : Bool) (m : Nat) (e : Int)
  deriving DecidableEq, Repr

/-- The value of bits; subnormals are read at their value (R262). -/
def Fmt.decode (f : Fmt) (x : Nat) : Fp :=
  let s := bitAt x (f.exp + f.frac)
  let m := x % 2 ^ f.frac
  let e := x / 2 ^ f.frac % 2 ^ f.exp
  if e = 2 ^ f.exp - 1 then (if m = 0 then .inf s else .nan)
  else if e = 0 then .fin s m f.low
  else .fin s (2 ^ f.frac + m) (f.low + (e - 1))

/-- Rounding modes: nearest with ties to even, toward zero (R261). -/
inductive Mode where
  | rne | rtz
  deriving DecidableEq, Repr

/-- x / 2^n rounded to an integer. -/
def shiftRound (mode : Mode) (x n : Nat) : Nat :=
  let q := x / 2 ^ n
  let r := x % 2 ^ n
  match mode with
  | .rtz => q
  | .rne => if 2 ^ n < 2 * r ∨ (2 ^ n = 2 * r ∧ q % 2 = 1) then q + 1 else q

/-- Bits of (−1)^s · m · 2^e rounded once (R261): toward zero an overflow gives the largest finite. -/
def Fmt.round (f : Fmt) (mode : Mode) (s : Bool) (m : Nat) (e : Int) : Nat :=
  if m = 0 then f.sign s
  else
    let t := max (e + m.log2 - f.frac) f.low
    let q := if t ≤ e then m * 2 ^ (e - t).toNat else shiftRound mode m (t - e).toNat
    let bits := (t - f.low).toNat * 2 ^ f.frac + q
    f.sign s + (if bits < f.inf then bits else match mode with
      | .rne => f.inf
      | .rtz => f.inf - 1)

/-- Bits of a value. -/
def Fmt.encode (f : Fmt) (mode : Mode) : Fp → Nat
  | .nan => f.nan
  | .inf s => f.sign s + f.inf
  | .fin s m e => f.round mode s m e

/-! ### Exact operations -/

/-- The other sign; a NaN stays. -/
def Fp.neg : Fp → Fp
  | .nan => .nan
  | .inf s => .inf !s
  | .fin s m e => .fin (!s) m e

/-- The exact sum. An exact zero is −0 only of two −0 (R261). -/
def Fp.add : Fp → Fp → Fp
  | .nan, _ => .nan
  | _, .nan => .nan
  | .inf s, .inf t => if s = t then .inf s else .nan
  | .inf s, .fin _ _ _ => .inf s
  | .fin _ _ _, .inf t => .inf t
  | .fin s m e, .fin t n g =>
    let h := min e g
    let x : Int := m * 2 ^ (e - h).toNat
    let y : Int := n * 2 ^ (g - h).toNat
    let v := (if s then -x else x) + (if t then -y else y)
    if v = 0 then .fin (s && t) 0 h else .fin (v < 0) v.natAbs h

/-- The exact product. -/
def Fp.mul : Fp → Fp → Fp
  | .nan, _ => .nan
  | _, .nan => .nan
  | .inf s, .inf t => .inf (s != t)
  | .inf s, .fin t n _ => if n = 0 then .nan else .inf (s != t)
  | .fin s m _, .inf t => if m = 0 then .nan else .inf (s != t)
  | .fin s m e, .fin t n g => .fin (s != t) (m * n) (e + g)

/-- The quotient to 64 bits beyond the divisor's, with a last bit that says whether more follows: it
rounds as the exact quotient does. -/
def Fp.div : Fp → Fp → Fp
  | .nan, _ => .nan
  | _, .nan => .nan
  | .inf _, .inf _ => .nan
  | .inf s, .fin t _ _ => .inf (s != t)
  | .fin s _ _, .inf t => .fin (s != t) 0 0
  | .fin s m e, .fin t n g =>
    if n = 0 then (if m = 0 then .nan else .inf (s != t))
    else
      let k := 64 + n.log2
      let q := m * 2 ^ k / n
      .fin (s != t) (2 * q + (if m * 2 ^ k % n = 0 then 0 else 1)) (e - g - k - 1)

/-- The integer square root's bits from bit n down. -/
def sqrtBits (x : Nat) : Nat → Nat → Nat
  | 0, r => if (r + 1) * (r + 1) ≤ x then r + 1 else r
  | n + 1, r =>
    let r' := r + 2 ^ (n + 1)
    if r' * r' ≤ x then sqrtBits x n r' else sqrtBits x n r

/-- The integer square root. -/
def isqrt (x : Nat) : Nat := sqrtBits x (x.log2 / 2 + 1) 0

/-- The square root of m · 2^e to 64 bits and a last bit that says whether more follows. -/
def sqrtExact (m : Nat) (e : Int) : Nat × Int :=
  let k : Nat := if e % 2 = 0 then 128 else 129
  let x := m * 2 ^ k
  let r := isqrt x
  (2 * r + (if r * r = x then 0 else 1), (e - k) / 2 - 1)

/-- The square root: NaN of a negative number, a zero of a zero. -/
def Fp.sqrt : Fp → Fp
  | .nan => .nan
  | .inf s => if s then .nan else .inf false
  | .fin s m e =>
    if m = 0 then .fin s 0 0
    else if s then .nan
    else
      let (r, g) := sqrtExact m e
      .fin false r g

/-- The order of two values where neither is a NaN; −0 = +0. -/
def Fp.compare : Fp → Fp → Option Ordering
  | .nan, _ => none
  | _, .nan => none
  | .inf s, .inf t => some (if s = t then .eq else if s then .lt else .gt)
  | .inf s, .fin _ _ _ => some (if s then .lt else .gt)
  | .fin _ _ _, .inf t => some (if t then .gt else .lt)
  | .fin s m e, .fin t n g =>
    let h := min e g
    let x : Int := m * 2 ^ (e - h).toNat
    let y : Int := n * 2 ^ (g - h).toNat
    some (Ord.compare (if s then -x else x) (if t then -y else y))

/-! ### f32 operations on bits -/

/-- The value of f32 bits and the bits of a value. -/
def f32 (x : Nat) : Fp := Fmt.f32.decode x
def toF32 (v : Fp) : Nat := Fmt.f32.encode .rne v

def f32Add (x y : Nat) : Nat := toF32 ((f32 x).add (f32 y))
def f32Sub (x y : Nat) : Nat := toF32 ((f32 x).add (f32 y).neg)
def f32Mul (x y : Nat) : Nat := toF32 ((f32 x).mul (f32 y))
def f32Div (x y : Nat) : Nat := toF32 ((f32 x).div (f32 y))
def f32Sqrt (x : Nat) : Nat := toF32 (f32 x).sqrt
/-- x · y + z with one rounding. -/
def f32Fma (x y z : Nat) : Nat := toF32 (((f32 x).mul (f32 y)).add (f32 z))

/-- The larger, −0 below +0; of one NaN the other operand, of two the canonical NaN (R85, R263). -/
def f32Max (x y : Nat) : Nat :=
  match (f32 x).compare (f32 y) with
  | none => match f32 x, f32 y with
    | .nan, .nan => Fmt.f32.nan
    | .nan, _ => y
    | _, _ => x
  | some .lt => y
  | some .gt => x
  | some .eq => if bitAt x 31 then y else x

/-- The smaller by the same rule. -/
def f32Min (x y : Nat) : Nat :=
  match (f32 x).compare (f32 y) with
  | none => match f32 x, f32 y with
    | .nan, .nan => Fmt.f32.nan
    | .nan, _ => y
    | _, _ => x
  | some .lt => x
  | some .gt => y
  | some .eq => if bitAt x 31 then x else y

/-! ### Conversions (R264) -/

/-- A value rounded to an integer. -/
def Fp.toInt (mode : Mode) (s : Bool) (m : Nat) (e : Int) : Int :=
  let q : Int := if 0 ≤ e then (m : Int) * 2 ^ e.toNat else shiftRound mode m (-e).toNat
  if s then -q else q

/-- f32 to a clamped integer between lo and hi; a NaN gives 0. -/
def f32ToInt (mode : Mode) (lo hi : Int) (x : Nat) : Int :=
  match f32 x with
  | .nan => 0
  | .inf s => if s then lo else hi
  | .fin s m e => max lo (min hi (Fp.toInt mode s m e))

/-- An integer to f32. -/
def intToF32 (v : Int) : Nat := Fmt.f32.round .rne (v < 0) v.natAbs 0

/-- Between formats. Toward zero ±∞ stays ±∞ (R264). -/
def convert (src dst : Fmt) (mode : Mode) (x : Nat) : Nat := dst.encode mode (src.decode x)

end Sys2Proof.Machine
end

