-- ==== Sys2Proof/Machine/Range.lean ====
section
/-!
DEFINITION. Ranges of a tenant's memory as an engine, a row or the band scheduler reaches them, page by page (R189,
R200, R380, R429).
-/

namespace Sys2Proof.Machine
open Sys2Proof

/-- A range cut at page boundaries: address and length of each piece. -/
def cutPages : Nat → Nat → Nat → List (Nat × Nat)
  | 0, _, _ => []
  | f + 1, va, n =>
    if n = 0 then []
    else
      let m := min n (4096 - va % 4096)
      (va, m) :: cutPages f (va + m) (n - m)

/-- The pieces of a range. -/
def pagesOf (va n : Nat) : List (Nat × Nat) := cutPages (n / 4096 + 2) va n

/-- Who reaches a range: its translation cache, tenant and root page table. -/
structure Reach where
  cache  : CacheId
  tenant : BitVec 8
  root   : Nat
  deriving DecidableEq, Repr

/-- How a row reaches the memory of a tenant. -/
def State.edgeReach (s : State) (r : RowId) (tenant : BitVec 8) : Reach := ⟨.edge r, tenant, s.rootOf tenant⟩

/-- What a range is reached for: to be read, written, or loaded as a tile image, whose pages have to be
executable and hold no constant pattern (R380, R409). -/
inductive AreaUse where
  | read | write | image
  deriving DecidableEq, Repr

/-- For whom a range is reached, where nothing waits for the acknowledgement of what is written. -/
def Reach.sender (x : Reach) : Sender := ⟨x.tenant, .other⟩

/-- The status of a failed translation (R239, R409, R429). [DEDUCED, log 89] -/
def areaStatus : Cause → Status
  | .ecc => .eccDropped
  | _ => .badDesc

/-- A piece cut at the lines of an address: each with its length. -/
def cutLines (fill : Option (BitVec 32)) : Nat → Nat → Nat → List (Loc × Nat)
  | 0, _, _ => []
  | f + 1, pa, n =>
    if n = 0 then []
    else
      let m := min n (64 - pa % 64)
      (⟨.dense, pa, fill⟩, m) :: cutLines fill f (pa + m) (n - m)

/-- A located piece: in one where it lies in this device or in a constant page, else line by line, since each line of
another module has a link of its own (R421). [DESIGN CHOICE, log 79] -/
def State.piece (s : State) (l : Loc) (n : Nat) : List (Loc × Nat) :=
  if l.fill.isSome || s.isLocal l.addr then [(l, n)] else cutLines none (n / 64 + 2) l.addr n

/-- Where the pieces of a range lie. -/
def State.areaLocs (s : State) (x : Reach) (use : AreaUse) :
    List (Nat × Nat) → State × Except Status (List (Loc × Nat))
  | [] => (s, .ok [])
  | (va, n) :: rest =>
    match s.translate x.cache x.tenant x.root va (use == .write) with
    | (s, .error c) => (s, .error (areaStatus c))
    | (s, .ok p) =>
      if use == .image && (!p.exec || p.fill.isSome) then (s, .error .perm)
      else
        let l : Loc := ⟨.dense, if p.fill.isSome then va else p.pa, p.fill⟩
        match s.areaLocs x use rest with
        | (s, .error e) => (s, .error e)
        | (s, .ok ls) => (s, .ok (s.piece l n ++ ls))

/-- The bytes of located pieces. [DESIGN CHOICE, log 81] -/
def State.areaBytes (s : State) (who : Sender) : List (Loc × Nat) → State × Except Status (List Byte)
  | [] => (s, .ok [])
  | (l, n) :: rest => match s.locRead who l n with
    | (s, none) => (s, .error .eccDropped)
    | (s, some bs) => match s.areaBytes who rest with
      | (s, .error e) => (s, .error e)
      | (s, .ok cs) => (s, .ok (bs ++ cs))

/-- A range read: every piece is translated before any is read. -/
def State.areaRead (s : State) (x : Reach) (use : AreaUse) (va n : Nat) : State × Except Status (List Byte) :=
  match s.areaLocs x use (pagesOf va n) with
  | (s, .error e) => (s, .error e)
  | (s, .ok ls) => s.areaBytes x.sender ls

/-- Bytes written over located pieces. -/
def State.areaPut (s : State) (who : Sender) : List (Loc × Nat) → List Byte → State
  | [], _ => s
  | (l, n) :: rest, bs => (s.locWrite who l (bs.take n)).areaPut who rest (bs.drop n)

/-- A range written: where a translation fails, nothing is. -/
def State.areaWrite (s : State) (x : Reach) (va : Nat) (bs : List Byte) : State × Option Status :=
  match s.areaLocs x .write (pagesOf va bs.length) with
  | (s, .error e) => (s, some e)
  | (s, .ok ls) => (s.areaPut x.sender ls bs, none)

end Sys2Proof.Machine
end

