-- ==== Sys2Proof/Machine/CellMem.lean ====
section
/-!
DEFINITION. The memory group of a cell, XREQ, and their performance at the memory cells (R131, R132, R150,
R161, R162, R180 to R186, R189).
-/

namespace Sys2Proof.Machine
open Sys2Proof

/-! ### The checks of R182 -/

/-- The access kinds of R182. -/
inductive AccessKind where
  | read | write | atomic
  deriving DecidableEq, Repr

/-- The check of the capability; a failure names lane 0. -/
def cellCapCause (cap : Cap) (kind : AccessKind) (table : Bool) (tenant : BitVec 8) : Option Cause :=
  if !cap.tag then some .tag
  else if cap.otype != 0 || cap.tenant != tenant || cap.space == .sys then some .perm
  else if kind == .read && !cap.pR then some .perm
  else if kind == .write && (!cap.pW || cap.space == .fibre) then some .perm
  else if kind == .atomic && (!cap.pA || cap.space == .fibre) then some .perm
  else if table && cap.space != .scratch then some .perm
  else none

/-- What the check of elements answers. -/
inductive Checked where
  | ok (s : State) (lanes : List LaneAccess)
  | fault (s : State) (f : CellFault)
  /-- A translation misses: the instruction parks (R382). -/
  | miss (s : State) (va lane : Nat)

/-- A lane that acts: its number, its element offset, the data that it carries. -/
structure Acting where
  lane : Nat
  off  : Nat
  data : Elem
  deriving DecidableEq, Repr

/-- The element checks of the acting lanes, ascending (R182). [DEDUCED, log 38] -/
def State.checkLanes (s : State) (x : Ctx) (cap : Cap) (write : Bool) (done : List LaneAccess) :
    List Acting → Checked
  | [] => .ok s done
  | a :: rest =>
    let va := cap.base + 4 * a.off
    let fault (s : State) (c : Cause) : Checked := .fault s ⟨c, x.slot, a.lane, va, 0⟩
    let next (s : State) (l : LaneAccess) : Checked := s.checkLanes x cap write (done ++ [l]) rest
    let tenant := x.pl.x.tenant
    let cache := CacheId.memCell x.c.server
    if cap.length < 4 * a.off + 4 then fault s .bounds
    else if va % 4 != 0 then fault s .misalign
    else if cap.space == .scratch then
      match s.scratchTrap cap va 4 false with
      | some c => fault s c
      | none => next s ⟨a.lane, va, a.data, none⟩
    else if va / 2 ^ 48 != 0 then fault s .page
    else if (s.cached cache tenant va).isNone then .miss s va a.lane
    else match s.translate cache tenant (s.rootOf tenant) va write with
      | (s, .error c) => fault s c
      | (s, .ok p) => next s ⟨a.lane, p.pa, a.data, p.fill⟩

/-- The instruction parks until a walker has taken its access. [DEDUCED, log 38] -/
def State.park (s : State) (x : Ctx) (va lane : Nat) (write : Bool) : State :=
  { s with parked := s.parked ++
      [⟨.memCell x.c.server, x.pl.x.tenant, va, write, .cell x.c x.slot lane x.inst.num⟩] }

/-- The checks of a memory instruction; `go` has the lanes. -/
def checkedLanes (kind : AccessKind) (m : Fin 16) (acting : Ctx → List Acting)
    (go : Ctx → List LaneAccess → Space → State → Fired) (x : Ctx) (s : State) : Fired :=
  let cap := (s.cell x.c).c[m]
  match cellCapCause cap kind false x.pl.x.tenant with
  | some c => .fault s (slotFault c x.slot)
  | none => match s.checkLanes x cap (kind != .read) [] (acting x) with
    | .ok s ls => go x ls cap.space s
    | .fault s f => .fault s f
    | .miss s va lane => .wait (s.park x va lane (kind != .read))

/-! ### Acting lanes (R181) -/

def actLoad (x : Ctx) : List Acting :=
  ((List.range 16).filter x.l.ok).map fun i => ⟨i, (x.l.at i).toNat, 0⟩
def actBoth (x : Ctx) : List Acting :=
  ((List.range 16).filter fun i => x.l.ok i && x.r.ok i).map fun i => ⟨i, (x.l.at i).toNat, x.r.at i⟩
def actLdc (x : Ctx) : List Acting :=
  let on (i : Nat) : Bool := x.l.ok 0 && (!x.l.ok 1 || (x.l.at 1).getLsbD i)
  ((List.range 16).filter on).map fun i => ⟨i, (x.l.at 0).toNat + i, 0⟩
def actStc (x : Ctx) : List Acting :=
  ((List.range 16).filter fun i => x.l.ok 0 && x.r.ok i).map fun i =>
    ⟨i, (x.l.at 0).toNat + i, x.r.at i⟩

/-! ### Issue (R149, R150, R152) -/

/-- Order input of pm 11: the held stores that it comes from. -/
def Ctx.after (x : Ctx) : List Nat := if x.sh.pm = .third then x.ords else []

/-- A request joins the queue of the cell's memory cell, and its results arrive later. [DESIGN CHOICE, log 101] -/
def Ctx.issue (x : Ctx) (b : CellReqBody) (i : Instance) (s : State) : Fired :=
  let q : CellReq := ⟨x.c, x.pl.v, x.blk.num.val, x.slot, x.inst.num, b, none⟩
  .done (s.setMemQueue x.c.server (s.memQueue x.c.server ++ [q])) (i.mark x.slot .issued)

/-- A store or table write is held; its ORD goes at once to its targets, ports and registers holding it to
commit (R150, R184). It counts one output (R154). -/
def Ctx.hold (x : Ctx) (h : Held) (n : Nat) (s : State) : Fired :=
  match countOutput x.blk x.slot x.inst with
  | .error f => .fault s f
  | .ok i =>
    let i := { i with held := i.held ++ [(x.slot, h)] }
    let t := Token.ofList .ord 0x0003 [0, n]
    let ords := x.slot :: x.after
    match emit x.blk x.slot x.sh (some t) (some t) x.ports ords (i.mark x.slot .done) with
    | .error f => .fault s f
    | .ok i => .done s i

/-- A load issues when it fires. -/
def issueLoad (x : Ctx) (ls : List LaneAccess) (sp : Space) (s : State) : Fired :=
  x.issue (.lanes .load sp ls x.after) x.inst s

/-- A store is held. -/
def holdStore (x : Ctx) (ls : List LaneAccess) (sp : Space) (s : State) : Fired :=
  x.hold (.store x.slot .store sp ls x.after) ls.length s

/-- An atomic issues when it fires if t0 is a target, and is held otherwise (R152, R185). -/
def issueAtomic (op : CellOp) (x : Ctx) (ls : List LaneAccess) (sp : Space) (s : State) : Fired :=
  if x.sh.t0 = Target.none then
    match countOutput x.blk x.slot x.inst with
    | .error f => .fault s f
    | .ok i =>
      let h : Held := .store x.slot op sp ls x.after
      .done s ({ i with held := i.held ++ [(x.slot, h)] }.mark x.slot .done)
  else match countOutput x.blk x.slot x.inst with
    | .error f => .fault s f
    | .ok i => x.issue (.lanes op sp ls x.after) i s

def execLd (f : C3) (s : State) : Res := fireCell (.ld f) (checkedLanes .read f.m actLoad issueLoad) s
def execLdc (f : C3) (s : State) : Res := fireCell (.ldc f) (checkedLanes .read f.m actLdc issueLoad) s
def execSt (f : C3) (s : State) : Res := fireCell (.st f) (checkedLanes .write f.m actBoth holdStore) s
def execStc (f : C3) (s : State) : Res := fireCell (.stc f) (checkedLanes .write f.m actStc holdStore) s
def execAtadd (f : C3) (s : State) : Res :=
  fireCell (.atadd f) (checkedLanes .atomic f.m actBoth (issueAtomic .atadd)) s
def execAtfadd (f : C3) (s : State) : Res :=
  fireCell (.atfadd f) (checkedLanes .atomic f.m actBoth (issueAtomic .atfadd)) s
def execAtmax (f : C3) (s : State) : Res :=
  fireCell (.atmax f) (checkedLanes .atomic f.m actBoth (issueAtomic .atmax)) s

/-! ### Table instructions (R186) -/

/-- The checks of a table instruction: the capability, and a base in a compute cell of the same die that is not retired:
the table belongs to its scratchpad, which cannot be used (R4, R162). [DEDUCED, log 105] -/
def checkedTable (kind : AccessKind) (m : Fin 16) (go : Ctx → CellId → State → Fired) (x : Ctx)
    (s : State) : Fired :=
  let cap := (s.cell x.c).c[m]
  match cellCapCause cap kind true x.pl.x.tenant with
  | some c => .fault s (slotFault c x.slot)
  | none =>
    let t := scratchCell cap.base
    if t.isMem || t.die != x.c.die || field cap.base 56 31 != 0 || decide (35 < field cap.base 23 18) ||
        s.isRetired t then
      .fault s (slotFault .perm x.slot)
    else go x t s

/-- Keys and entries of the acting lanes. -/
def tableLanes (x : Ctx) (both : Bool) : List (Nat × Elem × Elem) :=
  ((List.range 16).filter fun i => x.l.ok i && (!both || x.r.ok i)).map fun i =>
    (i, x.l.at i, x.r.at i)

/-- TAGSET's check of an entry (R186). -/
def entryBad (e : Elem) : Bool :=
  let off := field e.toNat 14 0
  let len := field e.toNat 23 16
  e.getLsbD 15 || field e.toNat 31 24 != 0 || len == 0 || decide (32768 < off + 16 * len)

def execLookup (f : C3) (s : State) : Res :=
  fireCell (.lookup f) (checkedTable .read f.m fun x t s =>
    x.issue (.table .lookup t (tableLanes x false) x.after) x.inst s) s
def execTagset (f : C3) (s : State) : Res :=
  fireCell (.tagset f) (checkedTable .write f.m fun x t s =>
    let ls := tableLanes x true
    match ls.find? fun l => entryBad l.2.2 with
    | some l => .fault s ⟨.bounds, x.slot, l.1, 0, 0⟩
    | none => x.hold (.table x.slot .set t ls x.after) ls.length s) s
def execTagclr (f : C3) (s : State) : Res :=
  fireCell (.tagclr f) (checkedTable .write f.m fun x t s =>
    let ls := tableLanes x false
    x.hold (.table x.slot .clear t ls x.after) ls.length s) s

/-- A tag table after one write of a lane: its key and entry (R162, R186). -/
def tableStep (op : TableOp) (t : Vector (BitVec 64) 64) (key e : Elem) : Vector (BitVec 64) 64 :=
  let n : Fin 64 := Fin.ofNat 64 key.toNat
  let old := t[n]
  match op with
  | .lookup => t
  | .set => t.set n (BitVec.ofNat 64 (key.toNat + field e.toNat 14 0 * 2 ^ 32 +
      field e.toNat 23 16 * 2 ^ 48 + 2 ^ 63))
  | .clear => if old.setWidth 32 = key then t.set n (old &&& 0x7FFFFFFFFFFFFFFF) else t

/-- The entry that a key finds: offset in [14:0], length in [23:16]. -/
def tableFind (t : Vector (BitVec 64) 64) (key : Elem) : Option Elem :=
  let x := t[(Fin.ofNat 64 key.toNat : Fin 64)]
  if x.getLsbD 63 && x.setWidth 32 == key then
    some (BitVec.ofNat 32 (field x.toNat 46 32 + field x.toNat 55 48 * 2 ^ 16))
  else none

/-! ### Performance at a memory cell (R132, R150, R183 to R186) -/

/-- The held effects of an instance that a request is ordered after, in the order they fired. -/
def State.heldOf (s : State) (r : CellReq) (ords : List Nat) : List Held :=
  match (s.cell r.cell).inst with
  | none => []
  | some i =>
    if i.num != r.inst then []
    else (i.held.map (·.2)).filter fun h => match h with
      | .store n _ _ _ _ => ords.contains n
      | .table n _ _ _ _ => ords.contains n
      | _ => false

/-- The value that held stores leave in an element, the latest of them and its highest lane last. -/
def forwarded (hs : List Held) (sp : Space) (addr : Nat) : Option Elem :=
  hs.foldl (fun v h => match h with
    | .store _ .store hsp ls _ =>
      if hsp.store == sp.store then
        ls.foldl (fun v l => if l.addr == addr && l.fill.isNone then some l.data else v) v
      else v
    | _ => v) none

/-- Lanes read at their owner: (lane, value), none where an uncorrectable error drops it. -/
def State.readLanes (s : State) (who : Sender) (hs : List Held) (sp : Space) :
    List LaneAccess → State × List (Nat × Option Elem)
  | [] => (s, [])
  | l :: rest =>
    let (s, v) : State × Option Elem := match (if l.fill.isSome then none else forwarded hs sp l.addr) with
      | some e => (s, some e)
      | none => match l.fill with
        | some p => (s, some p)
        | none => match s.locRead who ⟨sp, l.addr, none⟩ 4 with
          | (s, some bs) => (s, some (BitVec.ofNat 32 (leNat bs)))
          | (s, none) => (s, none)
    let (s, vs) := s.readLanes who hs sp rest
    (s, (l.lane, v) :: vs)

/-- The new value of an atomic (R185). -/
def cellAtomic (op : CellOp) (old opd : Elem) : Elem :=
  match op with
  | .atfadd => BitVec.ofNat 32 (f32Add old.toNat opd.toNat)
  | .atmax => if old.toInt < opd.toInt then opd else old
  | _ => old + opd

/-- One lane of an atomic applied at its owner; `seen` is the value of a held store that it is ordered after (R322). -/
def State.atomicLane (s : State) (who : Sender) (op : CellOp) (sp : Space) (l : LaneAccess) (seen : Option Elem) :
    State × Option Elem :=
  let loc : Loc := ⟨sp, l.addr, none⟩
  match s.locRead who loc 4 with
  | (s, none) => (s, none)
  | (s, some bs) =>
    let old := seen.getD (BitVec.ofNat 32 (leNat bs))
    if sp != .scratch && !s.isLocal l.addr then
      (s.leaveAs (.cellAmo op l.addr l.data), some old)
    else (s.locWrite who loc (leBytes 4 (cellAtomic op old l.data).toNat), some old)

/-- The lanes of an atomic, ascending, each against what the earlier ones left (R185); the first on an element reads the
value that held stores give it. [DEDUCED, log 39; DEDUCED, log 42] -/
def State.atomicLanes (s : State) (who : Sender) (hs : List Held) (op : CellOp) (sp : Space) :
    List Nat → List LaneAccess → State × List (Nat × Option Elem)
  | _, [] => (s, [])
  | met, l :: rest =>
    let (s, v) := s.atomicLane who op sp l (if met.contains l.addr then none else forwarded hs sp l.addr)
    let (s, vs) := s.atomicLanes who hs op sp (l.addr :: met) rest
    (s, (l.lane, v) :: vs)

/-- The lanes of a store, ascending: the highest lane of an element remains (R184). A unit
of which the store writes both elements reads correctly from then on (R376). -/
def State.storeLanes (s : State) (who : Sender) (sp : Space) (ls : List LaneAccess) : State :=
  ls.foldl (fun s l => s.locWrite who ⟨sp, l.addr, none⟩ (leBytes 4 l.data.toNat))
    (s.healStore (ls.map fun l => ⟨sp, l.addr, none⟩))

/-- The value that a list gives a lane. -/
def laneValue (vs : List (Nat × Option Elem)) (i : Nat) : Option Elem :=
  match vs.find? fun v => v.1 == i with
  | some v => v.2
  | none => none

/-- The lanes that were dropped. -/
def droppedLanes (vs : List (Nat × Option Elem)) : List Nat :=
  (vs.filter fun v => v.2.isNone).map (·.1)

/-- t0 and t1 of lanes read: the values, and ORD or, where lanes were dropped, ERR (R183). -/
def laneReply (vs : List (Nat × Option Elem)) : Token × Token :=
  let t0 := Token.lanes .data (fun i => (laneValue vs i).isSome) fun i => (laneValue vs i).getD 0
  let bad := droppedLanes vs
  if bad.isEmpty then (t0, Token.ofList .ord 0x0003 [0, vs.length])
  else (t0, Token.ofList .err 0x0003 [Status.eccDropped.code, (maskOf bad.contains).toNat])

/-- ITEM_FAILED of a request with dropped lanes names the lowest (R183); of a VP that has left the row, ORPHAN is the
report (R226, R375). [DEDUCED, log 39] -/
def State.reportDropped (s : State) (r : CellReq) (bad : List Nat) : State :=
  match bad with
  | [] => s
  | lane :: _ =>
    if s.hosted r.vp r.cell then
      let wave := match s.place r.cell with
        | some pl => pl.wave
        | none => 0
      s.itemFailed r.vp wave r.cell r.slot lane .eccDropped
    else s.orphan r.vp (r.cell.src 0 0)

/-- The lanes that a reply says were dropped (R183). -/
def replyDropped (t1 : Token) : List Nat :=
  if t1.k = .err then (List.range 16).filter fun i => (t1.at 1).getLsbD i else []

/-- A tag table and the entries that fail their check. -/
structure TagTable where
  entries : Vector (BitVec 64) 64
  bad     : List (Fin 64)
  deriving DecidableEq, Repr

/-- The entry of a key. -/
def keyEntry (key : Elem) : Fin 64 := Fin.ofNat 64 key.toNat

/-- A cell's tag table. -/
def Cell.table (x : Cell) : TagTable := ⟨x.tags, x.tagBad⟩

/-- A table after one write: TAGSET writes its entry whole, and TAGCLR leaves one that it cannot read (R376). -/
def TagTable.step (t : TagTable) (op : TableOp) (key e : Elem) : TagTable :=
  let n := keyEntry key
  if op == .clear && t.bad.contains n then t
  else ⟨tableStep op t.entries key e, if op == .set then t.bad.filter (· != n) else t.bad⟩

/-- A table after the lanes of a write, ascending. -/
def TagTable.write (t : TagTable) (op : TableOp) (ls : List (Nat × Elem × Elem)) : TagTable :=
  ls.foldl (fun t l => t.step op l.2.1 l.2.2) t

/-- The lanes whose entry fails its check where it is read. -/
def TagTable.lost (t : TagTable) : TableOp → List (Nat × Elem × Elem) → List Nat
  | _, [] => []
  | op, l :: rest =>
    let more := (t.step op l.2.1 l.2.2).lost op rest
    if op != .set && t.bad.contains (keyEntry l.2.1) then l.1 :: more else more

/-- The errors of dropped table lanes counted at the table's cell (R377). -/
def State.countLost (s : State) (t : CellId) (lost : List Nat) : State :=
  lost.foldl (fun s _ => s.countError (.cell t) true) s

/-- t0 and t1 of a LOOKUP (R186): the entries found, and ORD with the number of hits, or ERR where an error drops lanes
(R376). -/
def lookupReply (vs : List (Nat × Option Elem)) (lost : List Nat) : Token × Token :=
  let hits := (vs.filter fun v => v.2.isSome).length
  let t0 := Token.lanes .data (fun i => (laneValue vs i).isSome) fun i => (laneValue vs i).getD 0
  if lost.isEmpty then (t0, Token.ofList .ord 0x0003 [0, hits])
  else (t0, Token.ofList .err 0x0003 [Status.eccDropped.code, (maskOf lost.contains).toNat])

/-- For whom a cell's request is made; the reply of an atomic with a target is its acknowledgement (R321).
[DESIGN CHOICE, log 79] -/
def State.senderOf (s : State) (r : CellReq) (held : Bool) : Sender :=
  ⟨(s.vp r.vp).tenant, if held then .cell r.cell r.inst r.slot else .other⟩

/-- A request performed, with the report of lanes that a held one drops: its reply, or none for a store, a table write and an atomic without a target. -/
def State.performReq (s : State) (r : CellReq) (held : Bool) : State × Option (Token × Token) :=
  match r.body with
  | .lanes .load sp ls ords =>
    let (s, vs) := s.readLanes (s.senderOf r true) (s.heldOf r ords) sp ls
    (s, some (laneReply vs))
  | .lanes .store sp ls _ => (s.storeLanes (s.senderOf r true) sp ls, none)
  | .lanes op sp ls ords =>
    let (s, vs) := s.atomicLanes (s.senderOf r held) (s.heldOf r ords) op sp [] ls
    if held then
      let local' := (droppedLanes vs).filter fun i => match ls.find? fun l => l.lane == i with
        | some l => sp == .scratch || s.isLocal l.addr
        | none => false
      (s.reportDropped r local', none)
    else (s, some (laneReply vs))
  | .table .lookup t ls ords =>
    let table := (s.heldOf r ords).foldl (fun tb h => match h with
      | .table _ op u ls _ => if u = t then tb.write op ls else tb
      | _ => tb) (s.cell t).table
    let lost := table.lost .lookup ls
    let vs := ls.map fun l => (l.1, if lost.contains l.1 then none else tableFind table.entries l.2.1)
    (s.countLost t lost, some (lookupReply vs lost))
  | .table op t ls _ =>
    let old := (s.cell t).table
    let new := old.write op ls
    let s := s.setCell t { s.cell t with tags := new.entries, tagBad := new.bad }
    ((s.countLost t (old.lost op ls)).reportDropped r (old.lost op ls), none)
  | .probe => (s, none)

/-- A request whose result no slot waits for: it was sent at a commit. -/
def CellReq.isHeld (r : CellReq) (s : State) : Bool :=
  match (s.cell r.cell).running with
  | none => true
  | some (_, i) => i.num != r.inst || match i.slots[r.slot]? with
    | some sl => sl.firing != .issued
    | none => true

/-- The elements that a request touches. -/
def CellReq.addrs (r : CellReq) : List (Space × Nat) :=
  match r.body with
  | .lanes _ sp ls _ => ls.map fun l => (sp.store, l.addr)
  | .table _ _ _ _ => []
  | .probe => []

/-- An atomic. -/
def CellReq.isAtomic (r : CellReq) : Bool :=
  match r.body with
  | .lanes .load _ _ _ => false
  | .lanes .store _ _ _ => false
  | .lanes _ _ _ _ => true
  | _ => false

/-- The order input of a request. -/
def CellReq.ords (r : CellReq) : List Nat :=
  match r.body with
  | .lanes _ _ _ o => o
  | .table _ _ _ o => o
  | .probe => []

/-- A request is ordered after a held store of its instance (R322). -/
def CellReq.orderedAfter (r a : CellReq) : Bool :=
  r.cell == a.cell && r.inst == a.inst && r.ords.contains a.slot

/-- Two requests that a memory cell performs in the order it received them: they touch one element or one table (R132),
or are atomics on scratchpads that it owns (R161). -/
def conflicting (a b : CellReq) : Bool :=
  (a.addrs.any fun e => b.addrs.contains e) ||
    (match a.body, b.body with
      | .table _ t _ _, .table _ u _ _ => t == u
      | _, _ => false) ||
    (a.isAtomic && b.isAtomic &&
      let owned (r : CellReq) : Bool := r.addrs.any fun e =>
        e.1 == Space.scratch && (scratchCell e.2).server == r.cell.server
      owned a && owned b)

/-- Request a has to be performed before b: b is ordered after it, even where it was received later (R322), or they
conflict and a was received first. [DEDUCED, log 42] -/
def mustPrecede (a b : CellReq) (first : Bool) : Bool :=
  a.reply.isNone && (b.orderedAfter a || (first && conflicting a b && !a.orderedAfter b))

/-- Request n of a list has to wait for another. [DEDUCED, log 42] -/
def mustWait (q : List CellReq) (n : Nat) (r : CellReq) : Bool :=
  q.zipIdx.any fun a => a.2 != n && mustPrecede a.1 r (decide (a.2 < n))

/-- A held store that a request is ordered after has left for another module, which has not acknowledged it (R322).
[DEDUCED, log 42] -/
def State.storesFar (s : State) (r : CellReq) : Bool :=
  s.awaits fun u => match u with
    | .cell d n slot => d == r.cell && n == r.inst && r.ords.contains slot
    | _ => false

/-- Request n of a memory cell's queue performed: its reply is kept, or it leaves the queue. -/
def State.performQueued (s : State) (m : CellId) (n : Nat) (r : CellReq) : State :=
  let (s, reply) := s.performReq r (r.isHeld s)
  match reply with
  | some t => s.setMemQueue m (setNth (s.memQueue m) n { r with reply := some t })
  | none => s.setMemQueue m (dropNth (s.memQueue m) n)

/-- Request n of a memory cell's queue performed, where it may go now. `atomic` says which requests the step
is for. A probe is its owner's to perform. -/
def State.performAt (s : State) (m : CellId) (n : Nat) (atomic : Bool) : State :=
  let q := s.memQueue m
  match q[n]? with
  | none => s
  | some r =>
    if r.reply.isSome || r.body == .probe || r.isAtomic != atomic || mustWait q n r || s.storesFar r then s
    else s.performQueued m n r

/-- The numbers of a queue's requests that some others need performed first, and theirs, n times over. -/
def neededFirst (q : List CellReq) : Nat → List Nat → List Nat
  | 0, ks => ks
  | n + 1, ks => neededFirst q n ((List.range q.length).filter fun k => ks.contains k ||
      match q[k]? with
      | some a => ks.any fun j => j != k && (match q[j]? with
          | some b => mustPrecede a b (decide (k < j))
          | none => false)
      | none => false)

/-- The requests of a queue that `need` names performed, each behind those that have to precede it (R132, R322); n bounds
them. [DEDUCED, log 42] -/
def State.performNeeded (s : State) (m : CellId) (need : CellReq → Bool) : Nat → State
  | 0 => s
  | n + 1 =>
    let q := s.memQueue m
    let ks := neededFirst q q.length ((List.range q.length).filter fun k => match q[k]? with
      | some r => r.reply.isNone && r.body != .probe && need r
      | none => false)
    let free (k : Nat) : Bool := match q[k]? with
      | some r => !mustWait q k r
      | none => false
    match (ks.find? free).orElse fun _ => ks.head? with
    | none => s
    | some k => match q[k]? with
      | none => s
      | some r => (s.performQueued m k r).performNeeded m need n

/-- A memory cell performs a queued load, store or table request (R132). -/
def execMemoryCellRequest (c : CellId) (n : Nat) (s : State) : Res := .next (s.performAt c n false)

/-- The owner applies a cell's atomic whole (R185, R330). -/
def execAtomicAtOwner (c : CellId) (n : Nat) (s : State) : Res := .next (s.performAt c n true)

/-- The oldest request of a cell, and its number in the queue. -/
def oldestOf (c : CellId) : List CellReq → Nat → Option (Nat × CellReq)
  | [], _ => none
  | r :: rest, n => if r.cell = c then some (n, r) else oldestOf c rest (n + 1)

/-- A reply for a cell whose running instance a fault holds waits until the fault has been answered (R371).
[DEDUCED, log 43] -/
def Cell.holdsReply (x : Cell) : Bool := x.stopped && x.inst.isSome

/-- A cell receives its next reply, in the order it issued its requests (R132, R183), and dropped lanes are reported; a
VP that has left the row gives ORPHAN in their stead (R226, R375). [DESIGN CHOICE, log 103] -/
def execMemoryCellReply (c : CellId) (s : State) : Res :=
  if (s.cell c).holdsReply then .next s else
  match oldestOf c (s.memQueue c.server) 0 with
  | none => .next s
  | some (n, r) => match r.reply with
    | none => .next s
    | some (t0, t1) =>
      let s := s.setMemQueue c.server (dropNth (s.memQueue c.server) n)
      if s.hosted r.vp c then
        .next ((s.reportDropped r (replyDropped t1)).deliverResult r.vp c r.inst r.slot t0 t1)
      else .next (s.dropOrphan r.vp (c.src 0 0))

/-! ### Page walks for parked accesses (R376, R379 to R382) -/

/-- The die whose walkers serve a translation cache; none where the Spire's do. [DEDUCED, log 110] -/
def CacheId.walkers : CacheId → Option (Fin 2)
  | .edge r => some r.die
  | .memCell c => some c.die
  | .die d => some d
  | .spire => none

/-- The walkers of a compute die, and of the Spire (R382). [DEDUCED, log 110] -/
def walkerCount : Option (Fin 2) → Nat
  | some _ => 128
  | none => 32

/-- A walker is free for a miss that i parked accesses have arrived before: fewer of them than there are walkers share its
die's, or the Spire's (R382). [DEDUCED, log 110] -/
def State.walkerFree (s : State) (p : Parked) (i : Nat) : Bool :=
  decide (((s.parked.take i).filter fun q => q.cache.walkers == p.cache.walkers).length < walkerCount p.cache.walkers)

/-- The walk of parked access i, which leaves the queue. [DEDUCED, log 110] -/
def State.parkedWalk (s : State) (i : Nat) (p : Parked) : State × Except Cause Phys :=
  let u := { s with parked := dropNth s.parked i }
  let root := match p.waiter with
    | .cell _ _ _ _ => u.rootOf p.tenant
    | .unit root => root
  let (t, r) := u.translate p.cache p.tenant root p.va p.write
  (t.withMisses s, r)

/-- A walker takes parked access i: the cache is filled, or the block of a cell's access faults at its lane; any other unit
meets the failure of its walk itself. Misses beyond the walkers wait in arrival order.
[DEDUCED, log 38; DEDUCED, log 110] -/
def execPageWalk (i : Nat) (s : State) : Res :=
  match s.parked[i]? with
  | none => .next s
  | some p =>
    if !s.walkerFree p i then .next s else
    let (s, r) := s.parkedWalk i p
    match r, p.waiter with
    | .error e, .cell c slot lane inst => match (s.cell c).inst, (s.row c.rowId).host with
      | some x, some v => if x.num = inst then .next (s.raiseCell v c ⟨e, slot, lane, p.va, 0⟩ 0) else .next s
      | _, _ => .next s
    | _, _ => .next s

/-! ### XREQ (R189) -/

/-- The descriptor's own checks. -/
def xreqFieldsOk (l : Token) : Bool :=
  let e (i : Nat) : Nat := (l.at i).toNat
  l.v.toNat % 32 == 31 && decide (e 0 ≤ 1) && e 1 % 64 == 0 && e 2 % 64 == 0 && e 3 % 64 == 0 &&
    decide (64 ≤ e 3) && decide (e 3 ≤ 65536)

/-- [DEDUCED, log 40] -/
def execXreq (f : C3) (s : State) : Res :=
  fireCell (.xreq f) (fun x s =>
    let e (i : Nat) : Nat := (x.l.at i).toNat
    let cap := (s.cell x.c).c[f.m]
    let into := e 0 == 0
    if !xreqFieldsOk x.l then .fault s (slotFault .bounds x.slot)
    else match cellCapCause cap (if into then .read else .write) false x.pl.x.tenant with
      | some c => .fault s (slotFault c x.slot)
      | none =>
        let scr := if cap.space == .scratch then s.scratchTrap cap (cap.base + e 1) (e 3) false else none
        if decide (cap.length < e 1 + e 3) || decide (131072 < e 2 + e 3) then
          .fault s (slotFault .bounds x.slot)
        else match scr with
          | some c => .fault s (slotFault c x.slot)
          | none => match countOutput x.blk x.slot x.inst with
            | .error g => .fault s g
            | .ok i =>
              let h : Held := .xfer x.slot into cap (e 1) (e 2) (e 3) (x.l.at 4) x.after
              .done s ({ i with held := i.held ++ [(x.slot, h)] }.mark x.slot .done)) s

/-- Where the far side of a transfer's next line lies: the pieces of its pages. -/
def State.farLine (s : State) (t : Transfer) : State × Except Status (List (Loc × Nat)) :=
  let tenant := (s.vp t.vp).tenant
  let va := t.cap.base + t.off + t.moved
  if t.cap.space == .scratch then (s, .ok [(⟨.scratch, va, none⟩, 64)])
  else s.areaLocs ⟨.memCell t.cell.server, tenant, s.rootOf tenant⟩ (if t.toScratch then .read else .write) (pagesOf va 64)

/-- One line of a transfer moved: BAD_DESC where its translation fails, ECC_DROPPED where a line holds an
uncorrectable error. [DEDUCED, log 89] -/
def State.moveLine (s : State) (t : Transfer) : State × Status :=
  let own : List (Loc × Nat) := [(⟨.scratch, t.cell.scratchBase + t.scratch + t.moved, none⟩, 64)]
  match s.farLine t with
  | (s, .error st) => (s, st)
  | (s, .ok far) =>
    let who : Sender := ⟨(s.vp t.vp).tenant, .cell t.cell t.inst t.slot⟩
    match s.areaBytes who (if t.toScratch then far else own) with
    | (s, .error st) => (s, st)
    | (s, .ok bs) => (s.areaPut who (if t.toScratch then own else far) bs, .ok)

/-- A transfer ends: its completion arrives at XFER, and a failure is reported; none where a route of XFER holds the
completion back (R406). [DEDUCED, log 89] -/
def State.endTransfer (s : State) (i : Nat) (t : Transfer) (st : Status) : Option State :=
  let s := { s with transfers := dropNth s.transfers i }
  let tok := Token.ofList .ord 0x0013 [st.code, t.moved, 0, 0, t.tag.toNat]
  if s.hosted t.vp t.cell then
    (s.arrive t.cell 7 [tok]).map fun s =>
      let wave := match s.place t.cell with
        | some pl => pl.wave
        | none => 0
      if st = .ok then s else s.itemFailed t.vp wave t.cell t.slot 0 st
  else some (s.dropOrphan t.vp (t.cell.src 0 0))

/-- A memory cell moves the next line of a cell's oldest transfer. A completion waits for room at XFER.
[DEDUCED, log 113] -/
def execTransferLine (c : CellId) (s : State) : Res :=
  match s.transfers.findIdx? fun t => t.cell == c with
  | none => .next s
  | some i => match s.transfers[i]? with
    | none => .next s
    | some t =>
      if !s.admits c 7 1 || s.storesWait c t.inst t.after then .next s
      else match s.moveLine t with
        | (u, .ok) =>
          let t := { t with moved := t.moved + 64 }
          if t.len ≤ t.moved then .next ((u.endTransfer i t .ok).getD s)
          else .next { u with transfers := setNth u.transfers i t }
        | (u, st) => .next ((u.endTransfer i t st).getD s)

end Sys2Proof.Machine
end

