-- ==== Sys2Proof/Machine/FibreRows.lean ====
section
/-!
DEFINITION. What a fibre unit does to the rows of a region (R74 to R108, R426). An operation runs in a
session that reads each row once, in the order of R426, checks it, and stages what it will write; a
failure leaves the rows unchanged (R102).
-/

namespace Sys2Proof.Machine
open Sys2Proof

/-! ### Sessions -/

/-- "No row", and "no coordinate" (R74, R84). -/
def noRow : Nat := 0xFFFFFFFF

/-- An operation at work: the region once the head is known, the rows whose read was tried, the words
of the rows read, the rows to write. -/
structure Session where
  s     : State
  cache : CacheId
  root  : Nat
  req   : FibreReq
  base  : Nat
  code  : Nat
  head  : Nat
  tried : List Nat
  rows  : List (Nat × List Nat)
  out   : List (Nat × List Nat)
  deriving Repr

/-- Part of an operation: it may fail with a status. -/
abbrev Own := EStateM Status Session

/-- Rows of the region. -/
def Session.count (x : Session) : Nat := 2 ^ (x.code + 3)

/-- A row index inside the region other than 0 (R106). -/
def Session.inside (x : Session) (row : Nat) : Bool := row != 0 && decide (row < x.count)

/-- An index or "no row". -/
def Session.insideOrNone (x : Session) (row : Nat) : Bool := row == noRow || x.inside row

/-- Fails with BAD_DESC unless a check holds. -/
def require (b : Bool) : Own PUnit := if b then pure ⟨⟩ else throw .badDesc

/-- A row's address (R78): an uncorrectable error in a page-table entry is ECC_DROPPED, and so is a row on a module that
no link reaches (R421); any other failure, a page of a constant pattern among them, is BAD_DESC. -/
def rowAddr (va : Nat) (write : Bool) : Own Nat := do
  let x ← get
  let (s, r) := x.s.translate x.cache x.req.tenant x.root va write
  set { x with s := s }
  match r with
  | .error .ecc => throw .eccDropped
  | .error _ => throw .badDesc
  | .ok p =>
    if p.fill.isSome then throw .badDesc
    else if !s.isLocal p.pa && !s.reaches (p.pa / 2 ^ 40 % 4096) then
      set { x with s := s.countError .link true }
      throw .eccDropped
    else pure p.pa

/-- The sixteen words of 64 bytes. -/
def wordsOf (bs : List Byte) : List Nat := (List.range 16).map fun i => leNat ((bs.drop (4 * i)).take 4)

/-- The 64 bytes of sixteen words. -/
def bytesOf (ws : List Nat) : List Byte := ws.flatMap fun w => leBytes 4 w

/-- Word i of a row. -/
def word (ws : List Nat) (i : Nat) : Nat := ws.getD i 0

/-- The 64 bytes at a row's address; an uncorrectable error is ECC_DROPPED (R106). -/
def readAt (va : Nat) : Own (List Nat) := do
  let pa ← rowAddr va false
  let x ← get
  let (s, r) := x.s.locRead .device ⟨.fibre, pa, none⟩ 64
  set { x with s := s }
  match r with
  | none => throw .eccDropped
  | some bs => pure (wordsOf bs)

/-- A row's words, read once (R426). -/
def readRow (row : Nat) : Own (List Nat) := do
  let x ← get
  match x.rows.find? fun r => r.1 == row with
  | some r => pure r.2
  | none =>
    set { x with tried := row :: x.tried }
    let ws ← readAt (x.base + 64 * row)
    modify fun x => { x with rows := (row, ws) :: x.rows }
    pure ws

/-- A row to be written. -/
def stage (row : Nat) (ws : List Nat) : Own PUnit := modify fun x => { x with out := x.out ++ [(row, ws)] }

/-! ### Row formats (R79 to R83) -/

/-- A pool head. -/
def poolWords (code first count : Nat) : List Nat :=
  [code * 64, first, count % 2 ^ 32] ++ List.replicate 13 0

/-- A free row. -/
def freeWords (next : Nat) : List Nat := [0, next] ++ List.replicate 14 0

/-- A leaf or interior row. -/
structure TreeRow where
  leaf   : Bool
  items  : List (Nat × Nat)
  next   : Nat
  fence  : Nat
  parent : Nat
  ver    : Nat
  deriving DecidableEq, Repr

/-- Its words; unused slots hold "no coordinate" and 0. -/
def TreeRow.words (r : TreeRow) : List Nat :=
  [(if r.leaf then 1 else 2) + r.items.length * 4 + r.ver * 64, r.next, r.fence, r.parent] ++
    (r.items.flatMap fun i => [i.1, i.2]) ++
    (List.replicate (6 - r.items.length) [noRow, 0]).flatten

/-- The version after one more write (R83). -/
def nextVersion (v : Nat) : Nat := if v = 2 ^ 26 - 1 then 1 else v + 1

/-- Strictly rising first parts. -/
def rising : List (Nat × Nat) → Bool
  | [] => true
  | [_] => true
  | a :: b :: t => decide (a.1 < b.1) && rising (b :: t)

/-- A leaf or interior row with its checks (R106). -/
def readTree (leaf : Bool) (row : Nat) : Own TreeRow := do
  let x ← get
  require (x.inside row)
  let ws ← readRow row
  let n := field (word ws 0) 5 2
  let items := (List.range n).map fun j => (word ws (4 + 2 * j), word ws (5 + 2 * j))
  require (word ws 0 % 4 == (if leaf then 1 else 2) && decide (n ≤ 6) && (leaf || n != 0) &&
    x.insideOrNone (word ws 1) && x.inside (word ws 3) && rising items &&
    (leaf || items.all fun i => x.inside i.2))
  pure ⟨leaf, items, word ws 1, word ws 2, word ws 3, word ws 0 / 64⟩

/-- The pool head with its checks (R106): first free row and count. -/
def readPool : Own (Nat × Nat) := do
  let ws ← readRow 0
  let x ← get
  require (word ws 0 % 4 == 0 && field (word ws 0) 11 6 == x.code && x.insideOrNone (word ws 1))
  pure (word ws 1, word ws 2)

/-- The head row (R76, R80, R85, R106): it names the region through its size code. Depth, root, words.
-/
def openHead : Own (List Nat) := do
  let x ← get
  set { x with tried := [noRow] }
  require (x.req.va % 64 == 0)
  let ws ← readAt x.req.va
  let code := field (word ws 0) 11 6
  require (decide (code ≤ 28))
  let base := x.req.va / (64 * 2 ^ (code + 3)) * (64 * 2 ^ (code + 3))
  let head := (x.req.va - base) / 64
  modify fun y =>
    { y with base := base, code := code, head := head, tried := [head], rows := [(head, ws)] }
  let y ← get
  let depth := field (word ws 0) 5 2
  require (word ws 0 % 4 == 3 && decide (1 ≤ depth) && decide (depth ≤ 8) &&
    decide (word ws 4 % 16 ≤ 6) && y.inside (word ws 1) && y.inside (word ws 6))
  pure ws

/-- Depth of a head. [DEDUCED, log 25] -/
def headDepth (ws : List Nat) : Nat := field (word ws 0) 5 2

/-- The region that a capability covers exactly (R112). [DEDUCED, log 25] -/
def openRegion (ok : Bool) : Own PUnit := do
  let x ← get
  let n := x.req.length
  require (ok && decide (512 ≤ n) && decide (n ≤ 2 ^ 37) && n == 2 ^ n.log2 && x.req.va % n == 0)
  set { x with base := x.req.va, code := n.log2 - 9 }

/-- `need` rows taken from the pool in the order of its free list (R94, R105, R426). [DEDUCED, log 25] -/
def takeFree : Nat → Nat → List Nat → Own (List Nat × Nat)
  | 0, cur, got => pure (got, cur)
  | n + 1, cur, got => do
    let x ← get
    require (x.inside cur && !got.contains cur)
    let ws ← readRow cur
    require (word ws 0 % 4 == 0 && x.insideOrNone (word ws 1))
    takeFree n (word ws 1) (got ++ [cur])

/-- The pool's first rows taken, or POOL_EMPTY; the pool head is staged. -/
def takeRows (need : Nat) : Own (List Nat) := do
  let (first, count) ← readPool
  if count < need then throw .poolEmpty
  let (rows, next) ← takeFree need first []
  let x ← get
  stage 0 (poolWords x.code next (count - need))
  pure rows

/-- Rows pushed onto the front of the free list, the first of them first. -/
def pushFree : List Nat → Nat → Own Nat
  | [], first => pure first
  | r :: rs, first => do
    stage r (freeWords first)
    pushFree rs r

/-- Rows returned to the pool. -/
def returnRows (rows : List Nat) : Own PUnit := do
  let (first, count) ← readPool
  let first ← pushFree rows first
  let x ← get
  stage 0 (poolWords x.code first (count + rows.length))

/-! ### Descent (R87) -/

/-- From a row with n interior levels at and below it to the leaf whose range holds c: the interior rows
passed, nearest first, and the leaf. [DEDUCED, log 25] -/
def descendFrom (c : Nat) : Nat → Nat → List Nat → Own (List Nat × Nat × TreeRow)
  | 0, row, path => do
    let r ← readTree true row
    pure (path, row, r)
  | n + 1, row, path => do
    let r ← readTree false row
    match (r.items.filter fun i => decide (i.1 ≤ c)).getLast? with
    | none => throw .badDesc
    | some i => descendFrom c n i.2 (row :: path)

/-- Descent to coordinate c from a head. -/
def descend (ws : List Nat) (c : Nat) : Own (List Nat × Nat × TreeRow) :=
  descendFrom c (headDepth ws - 1) (word ws 1) []

/-! ### Pairs -/

/-- A pair put into its place in rising order, before equal ones. -/
def insertPair (p : Nat × Nat) : List (Nat × Nat) → List (Nat × Nat)
  | [] => [p]
  | q :: t => if p.1 ≤ q.1 then p :: q :: t else q :: insertPair p t

/-- Pairs sorted stably by coordinate, without those of "no coordinate" (R84, R92). -/
def sortPairs (ps : List (Nat × Nat)) : List (Nat × Nat) :=
  (ps.filter fun p => p.1 != noRow).foldr insertPair []

/-- The distinct coordinates of a list, rising. -/
def sortCoords (cs : List Nat) : List Nat :=
  ((cs.filter fun c => c != noRow).map fun c => (c, 0)).foldr insertPair [] |>.map (·.1) |>.eraseDups

/-- Sorted pairs as runs of one coordinate. -/
def runs : List (Nat × Nat) → List (Nat × List Nat)
  | [] => []
  | (c, v) :: t =>
    match runs t with
    | [] => [(c, [v])]
    | (c', vs) :: rest => if c = c' then (c, v :: vs) :: rest else (c, [v]) :: (c', vs) :: rest

/-- The combine operators of R85, held value first. -/
def combine (code o n : Nat) : Nat :=
  match code with
  | 0 => n
  | 1 => (o + n) % 2 ^ 32
  | 2 => f32Add o n
  | 3 => if signed o 32 < signed n 32 then n else o
  | 4 => f32Max o n
  | 5 => o
  | _ => if signed n 32 < signed o 32 then n else o

/-- A run combined into a leaf's pairs (R92). -/
def applyRun (code : Nat) (c : Nat) (vs : List Nat) : List (Nat × Nat) → List (Nat × Nat)
  | [] => match vs with
    | [] => []
    | v :: rest => [(c, rest.foldl (combine code) v)]
  | (c', o) :: t =>
    if c' < c then (c', o) :: applyRun code c vs t
    else if c' = c then (c, vs.foldl (combine code) o) :: t
    else match vs with
      | [] => (c', o) :: t
      | v :: rest => (c, rest.foldl (combine code) v) :: (c', o) :: t

/-! ### Merge (R92 to R95) -/

/-- A row that a merge writes: an old one, or, from 2^32 up, the n-th that it takes. -/
structure Planned where
  ref : Nat
  row : TreeRow
  deriving DecidableEq, Repr

/-- The number by which a plan names the n-th row taken. -/
def freshRef (n : Nat) : Nat := 2 ^ 32 + n

/-- A row that gains items, with the interior rows above it, nearest first. -/
structure Touched where
  path : List Nat
  ref  : Nat
  row  : TreeRow
  deriving DecidableEq, Repr

/-- A merge as planned so far: rows written, splits, rows taken, children with a new parent (child,
whether it is a leaf, parent), the parts of a split root. -/
structure Plan where
  written : List Planned
  splits  : Nat
  taken   : Nat
  leaves  : Nat
  moves   : List (Nat × Bool × Nat)
  root    : List (Nat × Nat)
  deriving DecidableEq, Repr

/-- Items cut into k parts, the first rr of them of q + 1 (R93). -/
def cut (items : List (Nat × Nat)) (q : Nat) : Nat → Nat → List (List (Nat × Nat))
  | 0, _ => []
  | k + 1, rr =>
    let n := if 0 < rr then q + 1 else q
    items.take n :: cut (items.drop n) q k (rr - 1)

/-- The parts of a row's items (R93). -/
def parts (items : List (Nat × Nat)) : List (List (Nat × Nat)) :=
  let n := items.length
  let k := (n + 5) / 6
  cut items (n / k) k (n % k)

/-- Parts 1 to k − 1 as new rows, each leaf linked to the next and the last to the old next. -/
def newParts (r : TreeRow) : Nat → List (List (Nat × Nat)) → List Planned
  | _, [] => []
  | n, p :: ps =>
    let next := if !r.leaf then noRow else match ps with
      | [] => r.next
      | _ :: _ => freshRef (n + 1)
    ⟨freshRef n, ⟨r.leaf, p, next, ((p.head?).map (·.1)).getD 0, r.parent, 0⟩⟩ :: newParts r (n + 1) ps

/-- One touched row split if it has to be (R93): the plan and the entries for its parent. -/
def splitRow (height : Nat) (t : Touched) (pl : Plan) : Plan × List (Nat × Nat) :=
  if t.row.items.length ≤ 6 then ({ pl with written := pl.written ++ [⟨t.ref, t.row⟩] }, [])
  else
    match parts t.row.items with
    | [] => (pl, [])
    | p :: ps =>
      let news := newParts t.row pl.taken ps
      let old := { t.row with
        items := p
        next := if t.row.leaf then freshRef pl.taken else t.row.next }
      let moves := if t.row.leaf then [] else
        news.flatMap fun n => n.row.items.map fun i => (i.2, height == 1, n.ref)
      let entries := news.map fun n => (n.row.fence, n.ref)
      ({ pl with
          written := pl.written ++ ⟨t.ref, old⟩ :: news
          splits := pl.splits + 1
          taken := pl.taken + news.length
          leaves := pl.leaves + (if t.row.leaf then news.length else 0)
          moves := pl.moves ++ moves
          root := if t.path.isEmpty then entries else pl.root }, entries)

/-- The entries of a level's splits added to their parents, in rising order of the parents. -/
def addEntries (path : List Nat) (entries : List (Nat × Nat)) (ts : List Touched) : Own (List Touched) :=
  match path, entries with
  | [], _ => pure ts
  | _, [] => pure ts
  | p :: rest, _ => do
    let into (r : TreeRow) : TreeRow := { r with items := entries.foldr insertPair r.items }
    if ts.any fun t => t.ref == p then
      pure (ts.map fun t => if t.ref = p then { t with row := into t.row } else t)
    else
      let r ← readTree false p
      pure (ts ++ [⟨rest, p, into r⟩])

/-- One level of rows split, and the rows above that gain entries. -/
def splitLevel (height : Nat) : List Touched → Plan → List Touched → Own (Plan × List Touched)
  | [], pl, above => pure (pl, above)
  | t :: ts, pl, above => do
    let (pl, entries) := splitRow height t pl
    let above ← addEntries t.path entries above
    splitLevel height ts pl above

/-- The levels from height up. -/
def splitLevels : Nat → Nat → List Touched → Plan → Own Plan
  | 0, _, _, pl => pure pl
  | n + 1, height, ts, pl => do
    let (pl, above) ← splitLevel height ts pl []
    splitLevels n (height + 1) above pl

/-- The runs placed into the leaves that receive them; the number of new coordinates. -/
def placeRuns (ws : List Nat) (code : Nat) : List (Nat × List Nat) → List Touched → Nat →
    Own (List Touched × Nat)
  | [], ts, added => pure (ts, added)
  | (c, vs) :: rest, ts, added => do
    let (path, row, leaf) ← descend ws c
    let fresh := if leaf.items.any fun i => i.1 == c then 0 else 1
    let ts' :=
      if ts.any fun t => t.ref == row then
        ts.map fun t =>
          if t.ref = row then { t with row := { t.row with items := applyRun code c vs t.row.items } }
          else t
      else ts ++ [⟨path, row, { leaf with items := applyRun code c vs leaf.items }⟩]
    placeRuns ws code rest ts' (added + fresh)

/-- Children with a new parent that the plan does not write already: read and written (R108). -/
def moveChildren : List (Nat × Bool × Nat) → List Planned → Own (List Planned)
  | [], w => pure w
  | (child, leaf, parent) :: rest, w => do
    if w.any fun p => p.ref == child then
      moveChildren rest (w.map fun p =>
        if p.ref = child then { p with row := { p.row with parent := parent } } else p)
    else
      let r ← readTree leaf child
      moveChildren rest (w ++ [⟨child, { r with parent := parent }⟩])

/-- The row that a plan's number names. -/
def real (taken : List Nat) (ref : Nat) : Nat :=
  if ref < 2 ^ 32 then ref else taken.getD (ref - 2 ^ 32) 0

/-- A planned row staged with its next version and the rows taken in place. -/
def stagePlanned (taken : List Nat) (p : Planned) : Own PUnit :=
  let link (n : Nat) : Nat := if n = noRow then noRow else real taken n
  let r : TreeRow := { p.row with
    items := if p.row.leaf then p.row.items else p.row.items.map fun i => (i.1, real taken i.2)
    next := link p.row.next
    parent := real taken p.row.parent
    ver := if p.ref < 2 ^ 32 then nextVersion p.row.ver else 1 }
  stage (real taken p.ref) r.words

/-- What an operation answers beside its rows. -/
structure FibreResult where
  status  : Status
  splits  : Nat
  deeper  : Nat
  value   : Nat
  pairs   : List (Nat × Nat)
  found   : List (Option Nat)
  cursor  : Nat
  endFlag : Bool
  deriving DecidableEq, Repr

/-- OK and nothing else. -/
def FibreResult.ok : FibreResult := ⟨.ok, 0, 0, 0, [], [], 0, false⟩

/-- MERGE (R92 to R95). -/
def ownMerge (pairs : List (Nat × Nat)) : Own FibreResult := do
  let ws ← openHead
  let sorted := sortPairs pairs
  if sorted.isEmpty then pure .ok
  else
    let (ts, added) ← placeRuns ws (word ws 4 % 16) (runs sorted) [] 0
    let x ← get
    let pl ← splitLevels (headDepth ws) 0 ts ⟨[], 0, 0, 0, [], []⟩
    let deeper := !pl.root.isEmpty
    if deeper && decide (8 ≤ headDepth ws) then throw .rejected
    let top := freshRef pl.taken
    let root := word ws 1
    let pl := if !deeper then pl else
      { pl with
        written := pl.written ++ [⟨top, ⟨false, (0, root) :: pl.root, noRow, 0, x.head, 0⟩⟩]
        taken := pl.taken + 1
        moves := pl.moves ++ (root :: pl.root.map (·.2)).map fun r => (r, headDepth ws == 1, top) }
    let taken : List Nat ← if pl.taken = 0 then pure [] else takeRows pl.taken
    let written ← moveChildren pl.moves pl.written
    for p in written do stagePlanned taken p
    let depth := headDepth ws + deeper.toNat
    stage x.head (
      [word ws 0 - headDepth ws * 4 + depth * 4, if deeper then real taken top else root,
        (word ws 2 + added) % 2 ^ 32, (word ws 3 + pl.leaves) % 2 ^ 32, word ws 4,
        (word ws 5 + 1) % 2 ^ 32] ++ ws.drop 6)
    pure { FibreResult.ok with splits := pl.splits, deeper := deeper.toNat }

/-! ### The other operations -/

/-- FORMAT (R89). [DESIGN CHOICE, log 92] -/
def ownFormat (ok : Bool) : Own FibreResult := do
  openRegion ok
  let x ← get
  let n := x.count
  modify fun x => { x with
    out := (0, poolWords x.code 1 (n - 1)) :: (List.range (n - 1)).map fun i =>
      (i + 1, freeWords (if i + 2 < n then i + 2 else noRow)) }
  pure .ok

/-- NEW (R90, R112). -/
def ownNew (code flags : Nat) (ok : Bool) : Own FibreResult := do
  openRegion (ok && decide (code ≤ 6))
  let rows ← takeRows 2
  let x ← get
  let head := rows.getD 0 0
  let leaf := rows.getD 1 0
  stage head ([3 + 4 + x.code * 64, leaf, 0, 1, code + flags * 256, 0, leaf] ++ List.replicate 9 0)
  stage leaf (TreeRow.words ⟨true, [], noRow, 0, head, 1⟩)
  pure { FibreResult.ok with value := head }

/-- The rows of one level read, and the children of an interior level. -/
def readLevel (leaf : Bool) : List Nat → List Nat → Own (List Nat)
  | [], acc => pure acc
  | r :: rs, acc => do
    let x ← readTree leaf r
    readLevel leaf rs (acc ++ (if leaf then [] else x.items.map (·.2)))

/-- The levels of a fibre from the root down, the lowest first in the answer. [DEDUCED, log 25] -/
def readLevels : Nat → List Nat → List (List Nat) → Own (List (List Nat))
  | 0, level, acc => do
    let _ ← readLevel true level []
    pure (level :: acc)
  | n + 1, level, acc => do
    let below ← readLevel false level []
    readLevels n below (level :: acc)

/-- FREE (R91): leaves, interior levels upward, head. [DEDUCED, log 25] -/
def ownFree : Own FibreResult := do
  let ws ← openHead
  let x ← get
  let levels ← readLevels (headDepth ws - 1) [word ws 1] []
  let rows := levels.flatten ++ [x.head]
  require (rows.eraseDups.length == rows.length)
  returnRows rows
  pure .ok

/-- Rows being changed by a delete: row, its path, its content. -/
def removeCoords (ws : List Nat) : List Nat → List Touched → Nat → Own (List Touched × Nat)
  | [], ts, n => pure (ts, n)
  | c :: cs, ts, n => do
    let (path, row, leaf) ← descend ws c
    if leaf.items.any fun i => i.1 == c then
      let out (r : TreeRow) : TreeRow := { r with items := r.items.filter fun i => i.1 != c }
      let ts' :=
        if ts.any fun t => t.ref == row then
          ts.map fun t => if t.ref = row then { t with row := out t.row } else t
        else ts ++ [⟨path, row, out leaf⟩]
      removeCoords ws cs ts' (n + 1)
    else removeCoords ws cs ts n

/-- A row's content as a delete has left it so far. -/
def current (leaf : Bool) (row : Nat) (ts : List Touched) : Own TreeRow :=
  match ts.find? fun t => t.ref == row with
  | some t => pure t.row
  | none => readTree leaf row

/-- A row's content replaced. -/
def putRow (row : Nat) (r : TreeRow) (ts : List Touched) : List Touched :=
  if ts.any fun t => t.ref == row then ts.map fun t => if t.ref = row then { t with row := r } else t
  else ts ++ [⟨[], row, r⟩]

/-- The item before the one that names a row; none where that is entry 0. -/
def before (row : Nat) : List (Nat × Nat) → Option Nat
  | a :: b :: t => if b.2 = row then some a.2 else before row (b :: t)
  | _ => none

/-- Emptied leaves that are not entry 0 of their parent unlinked (R96); the rows freed. -/
def unlinkEmpty : List Touched → List Touched → List Nat → Own (List Touched × List Nat)
  | [], ts, freed => pure (ts, freed)
  | t :: rest, ts, freed => do
    match t.row.items, t.path with
    | [], p :: _ =>
      let parent ← current false p ts
      match before t.ref parent.items with
      | none => unlinkEmpty rest ts freed
      | some sib =>
        let leaf ← current true t.ref ts
        let left ← current true sib ts
        let ts := putRow sib { left with next := leaf.next } ts
        let ts := putRow p { parent with items := parent.items.filter fun i => i.2 != t.ref } ts
        unlinkEmpty rest ts (freed ++ [t.ref])
    | _, _ => unlinkEmpty rest ts freed

/-- DELETE (R96). -/
def ownDelete (coords : List Nat) : Own FibreResult := do
  let ws ← openHead
  let (ts, removed) ← removeCoords ws (sortCoords coords) [] 0
  let (ts, freed) ← unlinkEmpty ts ts []
  if !freed.isEmpty then returnRows freed
  for t in ts do
    if !freed.contains t.ref then stage t.ref { t.row with ver := nextVersion t.row.ver }.words
  if removed ≠ 0 then
    let x ← get
    stage x.head ([word ws 0, word ws 1, wrap (word ws 2 - removed) 32,
      wrap (word ws 3 - freed.length) 32, word ws 4, (word ws 5 + 1) % 2 ^ 32] ++ ws.drop 6)
  pure .ok

/-- Pairs above the cursor from a leaf on, until n are held or the list ends. A list that does not end
within the region's rows is damaged. [DEDUCED, log 25] -/
def scanFrom (n : Nat) (above : Nat → Bool) : Nat → TreeRow → List (Nat × Nat) → Own (List (Nat × Nat))
  | 0, _, _ => throw .badDesc
  | fuel + 1, r, got => do
    let got := got ++ r.items.filter fun i => above i.1
    if n ≤ got.length ∨ r.next = noRow then pure (got.take n)
    else
      let r ← readTree true r.next
      scanFrom n above fuel r got

/-- SCAN step (R97). -/
def ownScan (cursor n : Nat) : Own FibreResult := do
  let ws ← openHead
  let pairs ← if cursor = 0xFFFFFFFE then pure [] else do
    let start := cursor == noRow
    let (_, _, leaf) ← descend ws (if start then 0 else cursor + 1)
    let x ← get
    scanFrom n (fun (c : Nat) => start || decide (cursor < c)) x.count leaf []
  pure { FibreResult.ok with
    pairs := pairs
    cursor := ((pairs.getLast?).map (·.1)).getD cursor
    endFlag := decide (pairs.length < n) }

/-- The values of distinct coordinates. -/
def lookups (ws : List Nat) : List Nat → List (Nat × Option Nat) → Own (List (Nat × Option Nat))
  | [], acc => pure acc
  | c :: cs, acc => do
    let (_, _, leaf) ← descend ws c
    lookups ws cs (acc ++ [(c, (leaf.items.find? fun i => i.1 == c).map (·.2))])

/-- PROBE (R99, R113). -/
def ownProbe (coords : List Nat) : Own FibreResult := do
  let ws ← openHead
  let ans ← lookups ws (sortCoords coords) []
  pure { FibreResult.ok with
    status := if ans.any fun a => a.2.isNone then .notFound else .ok
    found := coords.map fun c => ((ans.find? fun a => a.1 == c).map (·.2)).getD none }

/-- INFO (R99, R111). -/
def ownInfo (selector : Nat) : Own FibreResult := do
  let ws ← openHead
  match selector with
  | 0 => pure { FibreResult.ok with
      value := headDepth ws + word ws 4 % 16 * 16 + field (word ws 4) 15 8 * 256 +
        field (word ws 0) 11 6 * 2 ^ 16 }
  | 1 => pure { FibreResult.ok with value := word ws 2 }
  | 2 => pure { FibreResult.ok with value := word ws 3 }
  | 3 => pure { FibreResult.ok with value := word ws 5 }
  | 4 => pure { FibreResult.ok with value := word ws 1 }
  | 5 => pure { FibreResult.ok with value := word ws 6 }
  | _ => throw .badDesc

/-- An operation (R88). -/
def FibreOp.run : FibreOp → Own FibreResult
  | .format ok => ownFormat ok
  | .new code flags ok => ownNew code flags ok
  | .free => ownFree
  | .merge pairs => ownMerge pairs
  | .delete coords => ownDelete coords
  | .scan cursor n _ => ownScan cursor n
  | .probe coords => ownProbe coords
  | .info selector => ownInfo selector

/-! ### Whole operations -/

/-- The physical addresses of the rows to write: every row is translated before any is written.
[DESIGN CHOICE, log 92] -/
def writeAddrs : List (Nat × List Nat) → List (Nat × List Byte) → Own (List (Nat × List Byte))
  | [], acc => pure acc
  | (row, ws) :: rest, acc => do
    let x ← get
    let pa ← rowAddr (x.base + 64 * row) true
    writeAddrs rest (acc ++ [(pa, bytesOf ws)])

/-- The rows written at their physical addresses. -/
def State.writeRows (s : State) (rows : List (Nat × List Byte)) : State :=
  rows.foldl (fun s r => s.locWrite .device ⟨.fibre, r.1, none⟩ r.2) s

/-- The value that a failed operation returns (R112). -/
def FibreOp.failValue : FibreOp → Nat
  | .new _ _ _ => noRow
  | _ => 0

/-- The cursor that a failed scan step returns (R113). -/
def FibreOp.cursor : FibreOp → Nat
  | .scan c _ _ => c
  | _ => 0

/-- An operation read and checked, nothing of it written yet: the state with what reading marked, the
rows to write, the rows' numbers, and the reply (R102, R107, R108). [DESIGN CHOICE, log 92] -/
def State.fibrePlan (s : State) (q : FibreReq) : State × List (Nat × Nat × List Byte) × FibreReply :=
  let start : Session :=
    { s := s, cache := .die (Fin.ofNat 2 (q.owner.val / 128)), root := s.rootOf q.tenant, req := q,
      base := q.va, code := 0, head := 0, tried := [], rows := [], out := [] }
  let wait := s.cycle - q.arrived
  let op : Own (FibreResult × List (Nat × List Byte)) := do
    let r ← q.op.run
    let x ← get
    let rows ← writeAddrs x.out []
    pure (r, rows)
  match op start with
  | .ok (r, rows) x =>
    let work := x.tried.length + x.out.length + r.splits + 2 * r.deeper
    (x.s, (x.out.zip rows).map fun z => (z.1.1, z.2),
      ⟨q.agent, q.op, r.status, min work 0xFFFF, min r.splits 0xFFFF, min wait 0xFFFF, r.value, r.pairs,
        r.found, r.cursor, r.endFlag, q.owner⟩)
  | .error st x =>
    (x.s, [], ⟨q.agent, q.op, st, min x.tried.length 0xFFFF, 0, min wait 0xFFFF, q.op.failValue, [], [],
      q.op.cursor, true, q.owner⟩)

/-- The cost word (R107). -/
def FibreReply.cost (r : FibreReply) : Word :=
  BitVec.ofNat 64 (r.work + r.splits * 2 ^ 16 + r.wait * 2 ^ 32 + r.status.code * 2 ^ 48)

/-- The result word (R110). -/
def FibreReply.result (r : FibreReply) : Word :=
  BitVec.ofNat 64 (r.value % 2 ^ 32 + r.work * 2 ^ 32 + r.status.code * 2 ^ 48)

end Sys2Proof.Machine
end

