-- ==== Sys2Proof/Machine/Fibre.lean ====
section
/-!
DEFINITION. Fibre units as device steps: arrival, holds, whole operations, reservations (R98, R100,
R101, R105), and replies to control instructions (R110, R113, R115).
-/

namespace Sys2Proof.Machine
open Sys2Proof

/-! ### Arrival and holds (R98, R100) -/

/-- The issuer as a holder. [DEDUCED, log 23] -/
def FibreAgent.holder : FibreAgent → HoldAgent
  | .thread t _ _ _ => .thread t
  | .cell c _ _ _ _ _ => .cell c
  | .module d n _ _ => .module d n

/-- A hold has gone 65,536 cycles without a step. [DEDUCED, log 23] -/
def State.expired (s : State) (h : Hold) : Bool := h.lapsed || decide (65536 ≤ s.cycle - h.last)

/-- Operations that wait behind another agent's hold. -/
def FibreOp.waits : FibreOp → Bool
  | .merge _ | .delete _ | .free => true
  | .scan _ _ x => x
  | _ => false

/-- A request waits behind a hold. [DEDUCED, log 23] -/
def State.heldBack (s : State) (q : FibreReq) : Bool :=
  q.op.waits && s.holds.any fun h => h.pa == q.pa && !s.expired h && h.holder != q.agent.holder

/-- A request waits behind a hold, or behind its own agent's earlier request on the fibre that does (R98, R100). -/
def State.blocked (s : State) (q : FibreReq) (n : Nat) : Bool :=
  s.heldBack q || s.fibreReqs.any fun r => r.pa == q.pa && r.agent.holder == q.agent.holder && s.heldBack r &&
    match r.ticket with
    | none => false
    | some m => decide (m < n)

/-- Two requests of one agent to one owner: they arrive in issue order. -/
def FibreReq.sameRoute (q r : FibreReq) : Bool :=
  q.agent.holder == r.agent.holder && q.owner == r.owner

/-- Request i with another content. -/
def State.setReq (s : State) (i : Nat) (q : FibreReq) : State :=
  { s with fibreReqs := setNth s.fibreReqs i q }

/-- Request i is refused back to its issuer, over a link where that is on another module; it keeps its place among its
agent's requests until it is resent (R98). [DEDUCED, log 100] -/
def State.refuseFibre (s : State) (i : Nat) (q : FibreReq) : State :=
  let s := s.setReq i { q with refused := true }
  match q.agent with
  | .module d _ id tenant => { s with outbox := s.outbox ++ [⟨none, ⟨tenant, .other⟩, .fibreRefusal d id, false⟩] }
  | _ => s

/-- Request i arrives at its owner after its agent's earlier ones; behind a hold with 64 requests
waiting it is refused back. -/
def State.fibreArrive (s : State) (i : Nat) (q : FibreReq) : State :=
  if q.refused || (s.fibreReqs.take i).any fun r => r.sameRoute q && r.ticket.isNone then s
  else if s.heldBack q &&
      decide (64 ≤ (s.fibreReqs.filter fun r => r.pa == q.pa && r.ticket.isSome && s.heldBack r).length)
    then s.refuseFibre i q
  else
    let (n, s) := s.draw
    s.setReq i { q with ticket := some n, arrived := s.cycle }

/-- A request that has arrived with ticket n is the next on its fibre (R100). It overtakes those that wait behind a hold
and what their agents have sent after them (R98), but none of its own agent (R118). -/
def State.fibreNext (s : State) (q : FibreReq) (n : Nat) : Bool :=
  !s.blocked q n && s.fibreReqs.all fun r =>
    r.pa != q.pa || r == q || match r.ticket with
      | none => true
      | some m => r.reserved.isNone && (decide (n < m) || s.blocked r m)

/-- The holds after an operation of an agent on a fibre (R98). A fibre that is freed has none. [DEDUCED, log 23] -/
def State.updateHolds (s : State) (q : FibreReq) (r : FibreReply) : State :=
  let mine (h : Hold) : Bool := h.pa == q.pa && h.holder == q.agent.holder && !s.expired h
  let others := s.holds.filter fun h => !mine h
  match q.op with
  | .free =>
    if r.status == .ok then { s with holds := s.holds.filter fun h => h.pa != q.pa } else { s with holds := others }
  | .scan _ _ x =>
    if x && r.status == .ok && !r.endFlag then
      { s with holds := ⟨q.pa, q.agent.holder, s.cycle, false⟩ :: others }
    else { s with holds := others }
  | _ => s

/-- An agent's hold on the fibre has lapsed: its step answers TIMEOUT (R98). [DEDUCED, log 23] -/
def State.lapsedFor (s : State) (q : FibreReq) : Bool :=
  match q.op with
  | .scan _ _ _ => s.holds.any fun h => h.pa == q.pa && h.holder == q.agent.holder && s.expired h
  | _ => false

/-- Request i leaves with its reply; the reply of a reserved merge has been listed (R119). -/
def State.fibreEnd (s : State) (i : Nat) : State := { s with fibreReqs := dropNth s.fibreReqs i }

/-- Request i leaves with its reply. -/
def State.fibreDone (s : State) (i : Nat) (q : FibreReq) (r : FibreReply) : State :=
  let s := s.updateHolds q r
  { s with fibreReqs := dropNth s.fibreReqs i, replies := s.replies ++ [r] }

/-- Request i performed whole (R101). [DESIGN CHOICE, log 92] -/
def State.fibrePerform (s : State) (i : Nat) (q : FibreReq) : State :=
  match q.reserved with
  | some _ => s.fibreEnd i
  | none =>
    if s.lapsedFor q then
      let s := { s with holds := s.holds.filter fun h =>
        !(h.pa == q.pa && h.holder == q.agent.holder && s.expired h) }
      s.fibreDone i q ⟨q.agent, q.op, .timeout, 0, 0, min (s.cycle - q.arrived) 0xFFFF, 0, [], [],
        q.op.cursor, true, q.owner⟩
    else
      let (s, rows, r) := s.fibrePlan q
      (s.writeRows (rows.map (·.2))).fibreDone i q r

/-- The reply of a request whose owner no link reaches (R421). -/
def FibreReq.unreachable (q : FibreReq) : FibreReply :=
  ⟨q.agent, q.op, .eccDropped, 0, 0, 0, q.op.failValue, [], [], q.op.cursor, true, q.owner⟩

/-- Request i leaves on a link under number n; where no link reaches its module it is answered ECC_DROPPED and counted
(R318, R421). [DEDUCED, log 24] -/
def State.fibreOut (s : State) (i : Nat) (q : FibreReq) (n : Nat) : State :=
  if s.reaches (q.pa / 2 ^ 40 % 4096) then
    (s.setReq i { q with ticket := some n, arrived := s.cycle }).leave ⟨q.tenant, .other⟩ q.pa (.fibreRequest n q)
  else
    let s := s.countError .link true
    { s with fibreReqs := dropNth s.fibreReqs i, replies := s.replies ++ [q.unreachable] }

/-- Request i, whose head row lies on another module, leaves on a link after its agent's earlier ones and waits for the
reply (R100, R318). [DEDUCED, log 24] -/
def State.fibreSend (s : State) (i : Nat) (q : FibreReq) : State :=
  if q.ticket.isSome || (s.fibreReqs.take i).any fun r => r.sameRoute q && (r.ticket.isNone || r.refused) then s
  else
    let (n, s) := s.draw
    s.fibreOut i q n

/-- A cell's request is ordered after held effects that are not yet performed (R322). -/
def State.orderedBehind (s : State) (q : FibreReq) : Bool :=
  match q.agent with
  | .cell c _ _ _ inst _ => s.storesWait c inst q.after
  | _ => false

/-- A device step on request i of a kind: it arrives, or is performed once it is the next; one for another module
leaves. [DEDUCED, log 24] -/
def State.fibreStep (s : State) (i : Nat) (kind : FibreOp → Bool) : State :=
  match s.fibreReqs[i]? with
  | none => s
  | some q =>
    if !kind q.op || s.orderedBehind q then s
    else if !s.isLocal q.pa then s.fibreSend i q
    else match q.ticket with
      | none => s.fibreArrive i q
      | some n => if s.fibreNext q n then s.fibrePerform i q else s

def execFibreFormat (i : Nat) (s : State) : Res :=
  .next (s.fibreStep i fun | .format _ => true | _ => false)
def execFibreNew (i : Nat) (s : State) : Res :=
  .next (s.fibreStep i fun | .new _ _ _ => true | _ => false)
def execFibreFree (i : Nat) (s : State) : Res :=
  .next (s.fibreStep i fun | .free => true | _ => false)
def execFibreMerge (i : Nat) (s : State) : Res :=
  .next (s.fibreStep i fun | .merge _ => true | _ => false)
def execFibreDelete (i : Nat) (s : State) : Res :=
  .next (s.fibreStep i fun | .delete _ => true | _ => false)
def execFibreScanStep (i : Nat) (s : State) : Res :=
  .next (s.fibreStep i fun | .scan _ _ _ => true | _ => false)
def execFibreProbe (i : Nat) (s : State) : Res :=
  .next (s.fibreStep i fun | .probe _ => true | _ => false)
def execFibreInfo (i : Nat) (s : State) : Res :=
  .next (s.fibreStep i fun | .info _ => true | _ => false)

/-- A merge that needs pool rows reserves them at row 0's home, all or none (R94, R105). In the same step its rows are
written, so that no load sees a part of the merge (R101), and its reply takes its place among the owner's replies
(R119); it leaves with the merge's own step, and until then the fibre is held for it. -/
def execPoolReservation (i : Nat) (s : State) : Res :=
  match s.fibreReqs[i]? with
  | none => .next s
  | some q => match q.op, q.ticket, q.reserved with
    | .merge _, some n, none =>
      if !s.isLocal q.pa || !s.fibreNext q n then .next s
      else
        let (s', rows, r) := s.fibrePlan q
        if r.status != .ok then .next (s'.fibreDone i q r)
        else match rows.find? fun x => x.1 == 0 with
          | none => .next s
          | some _ =>
            let s := (s'.writeRows (rows.map (·.2))).setReq i { q with reserved := some r }
            .next { s with replies := s.replies ++ [r] }
    | _, _, _ => .next s

/-- A hold that has gone 65,536 cycles without a step is released (R98, R121). -/
def execHoldLapse (i : Nat) (s : State) : Res :=
  match s.holds[i]? with
  | none => .next s
  | some h =>
    if s.expired h then .next { s with holds := setNth s.holds i { h with lapsed := true } } else .next s

/-- An issuer resends a refused request, its earlier refused ones to that owner first (R98): to another module under the
number that the request has. An issuer of another module resends from there. [DEDUCED, log 100] -/
def execFibreRefusedResend (i : Nat) (s : State) : Res :=
  match s.fibreReqs[i]? with
  | none => .next s
  | some q =>
    if q.refused && !((s.fibreReqs.take i).any fun r => r.sameRoute q && r.refused) then
      match q.agent, q.ticket with
      | .module _ _ _ _, _ => .next s
      | _, some n => .next (s.fibreOut i { q with refused := false } n)
      | _, none => .next (s.setReq i { q with refused := false })
    else .next s

/-- A fibre reply may leave its owner: a merge that has reserved its rows has ended (R105, R119). -/
def State.replyReady (s : State) (r : FibreReply) : Bool := s.fibreReqs.all fun q => q.reserved != some r

/-- Two replies of one owner to one issuer of another module. -/
def FibreReply.sameLink (q r : FibreReply) : Bool :=
  q.owner == r.owner && match q.agent, r.agent with
    | .module d n _ _, .module e m _ _ => d == e && n == m
    | _, _ => false

/-! ### Replies to control instructions (R110, R113) -/

/-- A pair in a register, and the register past the last pair. -/
def pairWord (p : Nat × Nat) : Word := BitVec.ofNat 64 (p.1 % 2 ^ 32 * 2 ^ 32 + p.2 % 2 ^ 32)
def noPair : Word := 0xFFFFFFFF00000000

/-- Registers from r upward. -/
def Thread.setFrom (t : Thread) (r : XReg) : List Word → Thread
  | [] => t
  | v :: vs => (t.set r v).setFrom (r + 1) vs

/-- The pairs that a scan step or a probe writes, n + 1 of them. -/
def FibreReply.pairWords (r : FibreReply) (n : Nat) : List Word :=
  match r.op with
  | .scan _ _ _ => (List.range (n + 1)).map fun i => match r.pairs[i]? with
    | some p => pairWord p
    | none => noPair
  | .probe coords => (List.range (n + 1)).map fun i => match r.found.getD i none with
    | some v => pairWord (coords.getD i 0, v)
    | none => noPair
  | _ => []

/-- The registers that a reply writes, x[d] first (R110). -/
def Thread.takeReply (t : Thread) (r : FibreReply) (d b : XReg) (n : Nat) : Thread :=
  match r.op with
  | .format _ | .new _ _ _ | .info _ => t.set d r.result
  | .scan _ _ _ =>
    let v := r.cursor % 2 ^ 32 + r.pairs.length * 2 ^ 32 + r.endFlag.toNat * 2 ^ 40
    (t.set d (BitVec.ofNat 64 v)).setFrom b (r.pairWords n ++ [r.cost])
  | .probe _ => (t.set d r.cost).setFrom b (r.pairWords n)
  | .free | .merge _ | .delete _ => t.set d r.cost

/-- A thread waits for a fibre reply, and starts or ends to. -/
def State.fibreWaits (s : State) (t : ThreadId) : Bool :=
  match t with
  | .core k => (s.core k).fibre
  | .remote r => match (s.unit r.unit).ctx[r.ctx] with
    | some x => x.fibre
    | none => false
def State.setFibreWait (s : State) (t : ThreadId) (b : Bool) : State :=
  match t with
  | .core k => s.setCore k { s.core k with fibre := b }
  | .remote r =>
    let u := s.unit r.unit
    match u.ctx[r.ctx] with
    | some x => s.setUnit r.unit { u with ctx := u.ctx.set r.ctx (some { x with fibre := b }) }
    | none => s

/-- The reply to a control instruction arrives: it writes its registers and retires (R115). The reply to another module
leaves after its owner's earlier ones to the issuer. -/
def execFibreReply (i : Nat) (s : State) : Res :=
  match s.replies[i]? with
  | none => .next s
  | some r => match r.agent with
    | .cell _ _ _ _ _ _ => .next s
    | .module _ _ _ tenant =>
      if !s.replyReady r || (s.replies.take i).any (fun q => q.sameLink r) then .next s
      else .next { s with replies := dropNth s.replies i, outbox := s.outbox ++ [⟨none, ⟨tenant, .other⟩, .fibreReply r, false⟩] }
    | .thread t d b n =>
      if !s.replyReady r then .next s
      else
      let s := { s with replies := dropNth s.replies i }
      if s.fibreWaits t then
        let s := s.setFibreWait t false
        .next ((s.setThread t ((s.thread t).takeReply r d b n)).retire t)
      else .next s

end Sys2Proof.Machine
end

