-- ==== Sys2Proof/Machine/ControlFibre.lean ====
section
/-!
DEFINITION. The control fibre instructions (R110 to R115).
-/

namespace Sys2Proof.Machine
open Sys2Proof

/-- The capability checks of R114 before translation. -/
def fibreCapTrap (cap : Cap) (n : Nat) (tenant : BitVec 8) (allowed : Bool) : Option Trap :=
  if !cap.tag then some ⟨.tag, BitVec.ofNat 64 n⟩
  else if cap.otype != 0 || cap.tenant != tenant || cap.space != .fibre || !allowed then
    some ⟨.perm, BitVec.ofNat 64 n⟩
  else none

/-- Permissions of R88. -/
def needsMW (c : Cap) : Bool := c.pM && c.pW
def needsM (c : Cap) : Bool := c.pM
def needsS (c : Cap) : Bool := c.pS

/-- The issue of R114: the checks in their order, then the request goes to the owner and the thread
waits for its reply (R115). `head` is the head index and its high bits' value, `none` for FNEW. A remote
function reaches the fibres homed at its own grotto (R340). [DEDUCED, log 5] -/
def fibreIssue (needs : Cap → Bool) (op : FibreOp) (head : Option (Nat × Nat)) (d : XReg) (c : CReg)
    (b : XReg) (n : Nat) (s : State) : Res :=
  let t := s.focus.thread
  let th := s.thread t
  let cap := s.getC t c
  match fibreCapTrap cap c.val th.tenant (needs cap) with
  | some x => .next (s.trap t x)
  | none =>
    let off := match head with
      | some (h, _) => 64 * h
      | none => 0
    let outside := match head with
      | some (_, hi) => hi != 0 || decide (cap.length < off + 64)
      | none => false
    if outside then .next (s.trap t ⟨.bounds, BitVec.ofNat 64 off⟩)
    else
      let va := cap.base + off
      match s.translate t.cache th.tenant (s.threadRoot t) va false with
      | (s, .error e) => .next (s.trap t ⟨e, BitVec.ofNat 64 va⟩)
      | (s', .ok p) =>
        if p.fill.isSome then .next ((s.withMisses s').trap t ⟨.perm, BitVec.ofNat 64 va⟩)
        else if s.nonlocal t ⟨.fibre, p.pa, none⟩ then
          let (n, s) := (s.withMisses s').draw
          .next (s.trap t ⟨.nonlocal, Config.freeWord n⟩)
        else
          let q : FibreReq :=
            { agent := .thread t d b n, op := op, va := va, pa := p.pa, tenant := th.tenant,
              length := cap.length, owner := homeGrotto (localAddr p.pa), ticket := none, arrived := 0,
              refused := false, reserved := none, after := [] }
          .next ({ s' with fibreReqs := s'.fibreReqs ++ [q] }.setFibreWait t true)

/-- Registers x[r] to x[r+n]. -/
def Thread.getFrom (t : Thread) (r : XReg) (n : Nat) : List Word :=
  (List.range (n + 1)).map fun i => t.get (r + Fin.ofNat 64 i)

/-- The coordinate of a register, and its pair. -/
def coordOf (w : Word) : Nat := field w.toNat 63 32
def pairOf (w : Word) : Nat × Nat := (coordOf w, field w.toNat 31 0)

/-- The head index of x[a] and what stands above it. -/
def headOf (w : Word) : Nat × Nat := (field w.toNat 31 0, field w.toNat 63 32)

/-- NEW, or FORMAT where x[a][63] is 1 (R112). -/
def execFnew (d : XReg) (c : CReg) (a : XReg) (s : State) : Res :=
  let x := (s.getX s.focus.thread a).toNat
  let op : FibreOp :=
    if bitAt x 63 then .format (field x 62 0 == 0)
    else .new (field x 3 0) (field x 15 8) (field x 7 4 == 0 && field x 62 16 == 0)
  fibreIssue needsMW op none d c 0 0 s

def execFfree (d : XReg) (c : CReg) (a : XReg) (s : State) : Res :=
  fibreIssue needsMW .free (some (headOf (s.getX s.focus.thread a))) d c 0 0 s

def execFmrg (d : XReg) (c : CReg) (a b : XReg) (n : Fin 4) (s : State) : Res :=
  let th := s.thread s.focus.thread
  fibreIssue needsM (.merge ((th.getFrom b n).map pairOf)) (some (headOf (th.get a))) d c b n s

/-- x[d][31:0] is the cursor and x[d][62] the exclusive flag. -/
def execFscan (d : XReg) (c : CReg) (a b : XReg) (n : Fin 4) (s : State) : Res :=
  let th := s.thread s.focus.thread
  let x := (th.get d).toNat
  fibreIssue needsS (.scan (field x 31 0) (n.val + 1) (bitAt x 62)) (some (headOf (th.get a))) d c b n s

def execFprobe (d : XReg) (c : CReg) (a b : XReg) (n : Fin 4) (s : State) : Res :=
  let th := s.thread s.focus.thread
  fibreIssue needsS (.probe ((th.getFrom b n).map coordOf)) (some (headOf (th.get a))) d c b n s

def execFdel (d : XReg) (c : CReg) (a b : XReg) (n : Fin 4) (s : State) : Res :=
  let th := s.thread s.focus.thread
  fibreIssue needsM (.delete ((th.getFrom b n).map coordOf)) (some (headOf (th.get a))) d c b n s

/-- x[a][34:32] is the selector (R111). -/
def execFinfo (d : XReg) (c : CReg) (a : XReg) (s : State) : Res :=
  let x := (s.getX s.focus.thread a).toNat
  fibreIssue needsS (.info (field x 34 32)) (some (field x 31 0, field x 63 35)) d c 0 0 s

end Sys2Proof.Machine
end

