-- ==== Sys2Proof/Machine/ControlAlu.lean ====
section
/-!
DEFINITION. Integer arithmetic, branches and jumps of a control thread (R53 to R59). They run in both
modes, in control threads and in remote functions (R340).
-/

namespace Sys2Proof.Machine
open Sys2Proof

/-! ### What the operations compute (R53, R54) -/

/-- Bits [127:64] of the signed product. -/
def mulHigh (a b : Word) : Word := BitVec.ofInt 64 (a.toInt * b.toInt / 2 ^ 64)
/-- Bits [127:64] of the unsigned product. -/
def mulHighU (a b : Word) : Word := BitVec.ofNat 64 (a.toNat * b.toNat / 2 ^ 64)
/-- Signed quotient truncated toward zero; −1 for a divisor of 0 (R54). -/
def divS (a b : Word) : Word := if b = 0 then -1 else BitVec.ofInt 64 (a.toInt.tdiv b.toInt)
def divU (a b : Word) : Word := if b = 0 then -1 else BitVec.ofNat 64 (a.toNat / b.toNat)
/-- Signed remainder with the sign of the dividend; the dividend for a divisor of 0 (R54). -/
def remS (a b : Word) : Word := if b = 0 then a else BitVec.ofInt 64 (a.toInt.tmod b.toInt)
def remU (a b : Word) : Word := if b = 0 then a else BitVec.ofNat 64 (a.toNat % b.toNat)
def shiftL (a b : Word) : Word := a <<< (b.toNat % 64)
def shiftR (a b : Word) : Word := a >>> (b.toNat % 64)
def shiftA (a b : Word) : Word := a.sshiftRight (b.toNat % 64)
def setLt (a b : Word) : Word := if a.toInt < b.toInt then 1 else 0
def setLtU (a b : Word) : Word := if a.toNat < b.toNat then 1 else 0
def minS (a b : Word) : Word := if b.toInt < a.toInt then b else a
def maxS (a b : Word) : Word := if a.toInt < b.toInt then b else a
def minU (a b : Word) : Word := if b.toNat < a.toNat then b else a
def maxU (a b : Word) : Word := if a.toNat < b.toNat then b else a

/-- Leading zero bits of a w-bit number. -/
def leadingZeros (x : Nat) : Nat → Nat
  | 0 => 0
  | w + 1 => if bitAt x w then 0 else leadingZeros x w + 1

/-- One bits of a w-bit number. -/
def oneBits (x : Nat) : Nat → Nat
  | 0 => 0
  | w + 1 => (if bitAt x w then 1 else 0) + oneBits x w

/-- A signed 12-bit immediate (R55). -/
def imm12 (i : BitVec 12) : Word := i.signExtend 64

/-! ### The shapes -/

/-- x[d] := f(x[a], x[b]). -/
def aluRR (f : Word → Word → Word) (d a b : XReg) (s : State) : Res :=
  let t := s.focus.thread
  .next ((s.setX t d (f (s.getX t a) (s.getX t b))).retire t)

/-- x[d] := f(x[a]). -/
def aluR (f : Word → Word) (d a : XReg) (s : State) : Res :=
  let t := s.focus.thread
  .next ((s.setX t d (f (s.getX t a))).retire t)

/-- pc + 4 · sext(off) (R29). -/
def branchTarget (pc : Word) (off : Word) : Word := pc + off <<< 2

/-- A conditional branch (R57). -/
def branch (f : Word → Word → Bool) (a b : XReg) (off : BitVec 12) (s : State) : Res :=
  let t := s.focus.thread
  let pc := (s.thread t).pc
  .next (s.retireTo t (if f (s.getX t a) (s.getX t b) then branchTarget pc (imm12 off) else pc + 4))

/-! ### The instructions -/

def execAdd (d a b : XReg) (s : State) : Res := aluRR (· + ·) d a b s
def execSub (d a b : XReg) (s : State) : Res := aluRR (· - ·) d a b s
def execMul (d a b : XReg) (s : State) : Res := aluRR (· * ·) d a b s
def execMulh (d a b : XReg) (s : State) : Res := aluRR mulHigh d a b s
def execMulhu (d a b : XReg) (s : State) : Res := aluRR mulHighU d a b s
def execDiv (d a b : XReg) (s : State) : Res := aluRR divS d a b s
def execDivu (d a b : XReg) (s : State) : Res := aluRR divU d a b s
def execRem (d a b : XReg) (s : State) : Res := aluRR remS d a b s
def execRemu (d a b : XReg) (s : State) : Res := aluRR remU d a b s
def execAnd (d a b : XReg) (s : State) : Res := aluRR (· &&& ·) d a b s
def execOr (d a b : XReg) (s : State) : Res := aluRR (· ||| ·) d a b s
def execXor (d a b : XReg) (s : State) : Res := aluRR (· ^^^ ·) d a b s
def execShl (d a b : XReg) (s : State) : Res := aluRR shiftL d a b s
def execShr (d a b : XReg) (s : State) : Res := aluRR shiftR d a b s
def execSar (d a b : XReg) (s : State) : Res := aluRR shiftA d a b s
def execSlt (d a b : XReg) (s : State) : Res := aluRR setLt d a b s
def execSltu (d a b : XReg) (s : State) : Res := aluRR setLtU d a b s
def execMin (d a b : XReg) (s : State) : Res := aluRR minS d a b s
def execMax (d a b : XReg) (s : State) : Res := aluRR maxS d a b s
def execMinu (d a b : XReg) (s : State) : Res := aluRR minU d a b s
def execMaxu (d a b : XReg) (s : State) : Res := aluRR maxU d a b s
def execClz (d a : XReg) (s : State) : Res :=
  aluR (fun x => BitVec.ofNat 64 (leadingZeros x.toNat 64)) d a s
def execPopc (d a : XReg) (s : State) : Res :=
  aluR (fun x => BitVec.ofNat 64 (oneBits x.toNat 64)) d a s

def execAddi (d a : XReg) (imm : BitVec 12) (s : State) : Res := aluR (· + imm12 imm) d a s
def execAndi (d a : XReg) (imm : BitVec 12) (s : State) : Res := aluR (· &&& imm12 imm) d a s
def execOri (d a : XReg) (imm : BitVec 12) (s : State) : Res := aluR (· ||| imm12 imm) d a s
def execXori (d a : XReg) (imm : BitVec 12) (s : State) : Res := aluR (· ^^^ imm12 imm) d a s
def execShli (d a : XReg) (imm : BitVec 6) (s : State) : Res := aluR (· <<< imm.toNat) d a s
def execShri (d a : XReg) (imm : BitVec 6) (s : State) : Res := aluR (· >>> imm.toNat) d a s
def execSari (d a : XReg) (imm : BitVec 6) (s : State) : Res :=
  aluR (·.sshiftRight imm.toNat) d a s
def execSlti (d a : XReg) (imm : BitVec 12) (s : State) : Res := aluR (setLt · (imm12 imm)) d a s
def execSltiu (d a : XReg) (imm : BitVec 12) (s : State) : Res := aluR (setLtU · (imm12 imm)) d a s

/-- x[d] := sext(imm18 << 14, 32) (R56). -/
def execLui (d : XReg) (imm : BitVec 18) (s : State) : Res :=
  let t := s.focus.thread
  .next ((s.setX t d ((imm ++ (0 : BitVec 14)).signExtend 64)).retire t)

def execBeq (a b : XReg) (off : BitVec 12) (s : State) : Res := branch (· == ·) a b off s
def execBne (a b : XReg) (off : BitVec 12) (s : State) : Res := branch (· != ·) a b off s
def execBlt (a b : XReg) (off : BitVec 12) (s : State) : Res :=
  branch (fun x y => decide (x.toInt < y.toInt)) a b off s
def execBge (a b : XReg) (off : BitVec 12) (s : State) : Res :=
  branch (fun x y => decide (y.toInt ≤ x.toInt)) a b off s
def execBltu (a b : XReg) (off : BitVec 12) (s : State) : Res :=
  branch (fun x y => decide (x.toNat < y.toNat)) a b off s
def execBgeu (a b : XReg) (off : BitVec 12) (s : State) : Res :=
  branch (fun x y => decide (y.toNat ≤ x.toNat)) a b off s

/-- x[d] := pc + 4, next pc := pc + 4 · sext(off18) (R58). -/
def execJal (d : XReg) (off : BitVec 18) (s : State) : Res :=
  let t := s.focus.thread
  let pc := (s.thread t).pc
  .next ((s.setX t d (pc + 4)).retireTo t (branchTarget pc (off.signExtend 64)))

/-- Next pc := x[a] + 4 · sext(imm12), x[d] := pc + 4; an unaligned target raises MISALIGN with the
target and writes nothing (R59). -/
def execJalr (d a : XReg) (imm : BitVec 12) (s : State) : Res :=
  let t := s.focus.thread
  let target := s.getX t a + imm12 imm <<< 2
  if target.toNat % 4 != 0 then .next (s.trap t ⟨.misalign, target⟩)
  else .next ((s.setX t d ((s.thread t).pc + 4)).retireTo t target)

end Sys2Proof.Machine
end

