-- ==== Sys2Proof/Machine/ControlMem.lean ====
section
/-!
DEFINITION. Loads, stores, atomics, LDSC and STSC of a thread (R60 to R66, R328, R357, R359), and the
fence (R358).
-/

namespace Sys2Proof.Machine
open Sys2Proof

/-- off := x[a] + sext(imm8) · size, wrapping (R28, R60). -/
def memOffset (s : State) (t : ThreadId) (a : XReg) (imm : BitVec 8) (size : Nat) : Word :=
  s.getX t a + imm.signExtend 64 * BitVec.ofNat 64 size

/-- A load: the checks of R60, then x[d] := f of the bytes. Data with an uncorrectable error raise ECC
with the virtual address (R61), in the state without the marks of this access (R49). [DEDUCED, log 12] -/
def loadFrom (f : Nat → Word) (size : Nat) (d : XReg) (cap : Cap) (off : Word) (s : State) : Res :=
  let t := s.focus.thread
  match s.access t cap off size false with
  | (s, .error x) => .next (s.trap t x)
  | (s', .ok l) =>
    match s'.threadRead t l size with
    | (_, none) => .next (((s.withMisses s').threadRead t l size).1.trap t ⟨.ecc, BitVec.ofNat 64 (cap.base + off.toNat)⟩)
    | (s, some bs) => .next ((s.setX t d (f (leNat bs))).retire t)

/-- A load of format XM. [DEDUCED, log 20] -/
def load (f : Nat → Word) (size : Nat) (d : XReg) (c : CReg) (a : XReg) (imm : BitVec 8) (s : State) :
    Res :=
  let t := s.focus.thread
  loadFrom f size d (s.getC t c) (memOffset s t a imm size) s

/-- A value sign-extended from n bits. -/
def sextWord (n : Nat) (v : Nat) : Word := (BitVec.ofNat n v).signExtend 64

/-- A release (R66): the thread's earlier stores are performed and its calls accepted before `k` goes
on. Until its calls are accepted the instruction waits. -/
def release (k : State → Res) (s : State) : Res :=
  let t := s.focus.thread
  if s.callsAccepted t then k (s.drainThread t) else .next s

/-- A store at the location that its checks have given retires into the store queue (R370). A store to a trigger
register that R390 or R392 refuses raises PERM with the offset; the thread's earlier stores to the window are performed before
that check of a post trigger, so that the staged value is known. An action on a fault word is a release (R372). -/
def storeAt (size : Nat) (data : Word) (l : Loc) (off : Word) (s : State) : Res :=
  let t := s.focus.thread
  let q : QueuedStore := ⟨l.space, l.addr, leBytes size data.toNat, false, false, (s.thread t).tenant⟩
  match l.space, t with
  | .sys, .core k =>
    let s' := match sysReg l.addr with
      | .trigger _ => s.drainSys k l.addr
      | _ => s
    if s'.sysStoreDenied k.val l.addr size then .next (s'.trap t ⟨.perm, off⟩)
    else match sysReg l.addr with
      | .faultWord _ =>
        if data.toNat % 4 == 0 then .next ((s'.enqueueStore t q).retire t)
        else release (fun s => .next ((s.enqueueStore t q).retire t)) s'
      | _ => .next ((s'.enqueueStore t q).retire t)
  | _, _ => .next ((s.enqueueStore t q).retire t)

/-- A store: the checks of R60, then the store at the location reached. -/
def storeTo (size : Nat) (data : Word) (cap : Cap) (off : Word) (s : State) : Res :=
  let t := s.focus.thread
  match s.access t cap off size true with
  | (s, .error x) => .next (s.trap t x)
  | (s', .ok l) => storeAt size data l off s'

/-- A store of format XM. [DEDUCED, log 15] -/
def store (size : Nat) (d : XReg) (c : CReg) (a : XReg) (imm : BitVec 8) (s : State) : Res :=
  let t := s.focus.thread
  storeTo size (s.getX t d) (s.getC t c) (memOffset s t a imm size) s

def execLdb (d : XReg) (c : CReg) (a : XReg) (imm : BitVec 8) (s : State) : Res :=
  load (sextWord 8) 1 d c a imm s
def execLdh (d : XReg) (c : CReg) (a : XReg) (imm : BitVec 8) (s : State) : Res :=
  load (sextWord 16) 2 d c a imm s
def execLdw (d : XReg) (c : CReg) (a : XReg) (imm : BitVec 8) (s : State) : Res :=
  load (sextWord 32) 4 d c a imm s
def execLdd (d : XReg) (c : CReg) (a : XReg) (imm : BitVec 8) (s : State) : Res :=
  load (BitVec.ofNat 64) 8 d c a imm s
def execLdbu (d : XReg) (c : CReg) (a : XReg) (imm : BitVec 8) (s : State) : Res :=
  load (BitVec.ofNat 64) 1 d c a imm s
def execLdhu (d : XReg) (c : CReg) (a : XReg) (imm : BitVec 8) (s : State) : Res :=
  load (BitVec.ofNat 64) 2 d c a imm s
def execLdwu (d : XReg) (c : CReg) (a : XReg) (imm : BitVec 8) (s : State) : Res :=
  load (BitVec.ofNat 64) 4 d c a imm s
def execStb (d : XReg) (c : CReg) (a : XReg) (imm : BitVec 8) (s : State) : Res := store 1 d c a imm s
def execSth (d : XReg) (c : CReg) (a : XReg) (imm : BitVec 8) (s : State) : Res := store 2 d c a imm s
def execStw (d : XReg) (c : CReg) (a : XReg) (imm : BitVec 8) (s : State) : Res := store 4 d c a imm s
def execStd (d : XReg) (c : CReg) (a : XReg) (imm : BitVec 8) (s : State) : Res := store 8 d c a imm s

/-- LDD that is an acquire: the thread's loads are performed in program order, so what follows it is
performed after it (R66). -/
def execLda (d : XReg) (c : CReg) (a : XReg) (imm : BitVec 8) (s : State) : Res :=
  load (BitVec.ofNat 64) 8 d c a imm s

/-- STD that is a release (R66). An access that traps performs nothing. -/
def execStl (d : XReg) (c : CReg) (a : XReg) (imm : BitVec 8) (s : State) : Res :=
  let t := s.focus.thread
  match s.access t (s.getC t c) (memOffset s t a imm 8) 8 true with
  | (s, .error x) => .next (s.trap t x)
  | (_, .ok _) => release (store 8 d c a imm) s

/-! ### Atomic memory operations (R330, R357) -/

/-- The new value of a read-modify-write of `size` bytes; `cmp` is AMOCAS's compare value. -/
def amoValue (op : AmoOp) (size old opd cmp : Nat) : Nat :=
  let n := 8 * size
  match op with
  | .add => (old + opd) % 2 ^ n
  | .swap => opd
  | .cas => if old = cmp then opd else old
  | .min => if signed opd n < signed old n then opd else old
  | .max => if signed old n < signed opd n then opd else old
  | .and => old &&& opd
  | .or => old ||| opd
  | .xor => old ^^^ opd

/-- AMOCAS writes nothing where the compare fails; every other operation writes. -/
def amoWrites (op : AmoOp) (old cmp : Nat) : Bool := op != .cas || old == cmp

/-- The read-modify-write applied at the owner, whole (R330); another module's owner applies it there. -/
def amoAt (op : AmoOp) (size : Nat) (who : Sender) (l : Loc) (opd cmp : Nat) (s : State) :
    State × Option Nat :=
  match s.locRead who l size with
  | (s, none) => (s, none)
  | (s, some bs) =>
    let old := leNat bs
    if l.space != .scratch && !s.isLocal l.addr then
      let out : Outbound := .amo op l.addr size (BitVec.ofNat 64 opd) (BitVec.ofNat 64 cmp)
      (s.leaveAs out, some old)
    else if amoWrites op old cmp then
      (s.locWrite who l (leBytes size (amoValue op size old opd cmp)), some old)
    else (s, some old)

/-- The AMO group: x[d] := the old value, sign-extended for `.w`; `.ar` is an acquire and a release
(R357). An ECC trap leaves the state without the marks of this access (R49). [DEDUCED, log 12] -/
def amo (op : AmoOp) (d : XReg) (c : CReg) (a b : XReg) (w ar : Bool) (s : State) : Res :=
  let t := s.focus.thread
  let th := s.thread t
  let cap := s.getC t c
  let off := s.getX t a
  let size := if w then 8 else 4
  let opd := (s.getX t b).toNat % 2 ^ (8 * size)
  let cmp := (s.getX t d).toNat % 2 ^ (8 * size)
  if !cap.tag then .next (s.trap t ⟨.tag, off⟩)
  else if cap.otype != 0 || cap.tenant != th.tenant then .next (s.trap t ⟨.perm, off⟩)
  else if cap.space == .sys || cap.space == .fibre || !cap.pR || !cap.pA then
    .next (s.trap t ⟨.perm, off⟩)
  else match s.access t cap off size true with
    | (s, .error x) => .next (s.trap t x)
    | (s1, .ok l) =>
      let at' (s : State) : State × Option Nat :=
        amoAt op size ⟨th.tenant, .thread t⟩ l opd cmp ((if ar then s.drainThread t else s).settle t l.space l.addr size)
      if ar && !s.callsAccepted t then .next s
      else match at' s1 with
        | (_, none) => .next ((at' (s.withMisses s1)).1.trap t ⟨.ecc, BitVec.ofNat 64 (cap.base + off.toNat)⟩)
        | (s, some old) =>
          let v := if w then BitVec.ofNat 64 old else sextWord 32 old
          .next ((s.setX t d v).retire t)

def execAmoadd (d : XReg) (c : CReg) (a b : XReg) (w ar : Bool) (s : State) : Res :=
  amo .add d c a b w ar s
def execAmoswp (d : XReg) (c : CReg) (a b : XReg) (w ar : Bool) (s : State) : Res :=
  amo .swap d c a b w ar s
def execAmocas (d : XReg) (c : CReg) (a b : XReg) (w ar : Bool) (s : State) : Res :=
  amo .cas d c a b w ar s
def execAmomin (d : XReg) (c : CReg) (a b : XReg) (w ar : Bool) (s : State) : Res :=
  amo .min d c a b w ar s
def execAmomax (d : XReg) (c : CReg) (a b : XReg) (w ar : Bool) (s : State) : Res :=
  amo .max d c a b w ar s
def execAmoand (d : XReg) (c : CReg) (a b : XReg) (w ar : Bool) (s : State) : Res :=
  amo .and d c a b w ar s
def execAmoor (d : XReg) (c : CReg) (a b : XReg) (w ar : Bool) (s : State) : Res :=
  amo .or d c a b w ar s
def execAmoxor (d : XReg) (c : CReg) (a b : XReg) (w ar : Bool) (s : State) : Res :=
  amo .xor d c a b w ar s

/-! ### LDSC, STSC and FENCE -/

/-- The node of the serialising token at which a thread's SC accesses are performed: the 32 control
cores, then the 256 grottos (R328). A remote context of a control core shares that core's node. [DEDUCED, log 65] -/
def scNodeOf : ThreadId → Nat
  | .core k => k.val
  | .remote r => match r.unit with
    | .core k => k.val
    | .grotto g => 32 + g.val

/-- An SC access performed: the node has used one of the four accesses of its visit (R328). -/
def State.countSc (s : State) : State := { s with scCount := s.scCount + 1 }

/-- The checks of LDSC and STSC: R60 with size 8, DENSE or SCRATCH only, and this device only (R359).
[DEDUCED, log 5; DEDUCED, log 12] -/
def scAccess (cap : Cap) (off : Word) (write : Bool) (s : State) : State × Except Trap Loc :=
  let t := s.focus.thread
  match accessTrap cap (s.thread t).priv (s.thread t).tenant off 8 write with
  | some x => (s, .error x)
  | none =>
    if cap.space == .sys || cap.space == .fibre then (s, .error ⟨.perm, off⟩)
    else match s.access t cap off 8 write with
      | (s, .error x) => (s, .error x)
      | (s', .ok l) =>
        if l.space == .dense && l.fill.isNone && !s.isLocal l.addr then (s.withMisses s', .error ⟨.perm, off⟩)
        else (s', .ok l)

/-- The token is at the thread's node and the visit has an access left; until then the thread waits
(R328). -/
def State.holdsToken (s : State) (t : ThreadId) : Bool :=
  s.scNode == scNodeOf t && decide (s.scCount < 4)

/-- x[d] := mem64 in the order S; an acquire (R328, R359). -/
def execLdsc (d : XReg) (ca : CReg) (b : XReg) (s : State) : Res :=
  let t := s.focus.thread
  let cap := s.getC t ca
  let off := s.getX t b
  match scAccess cap off false s with
  | (s, .error x) => .next (s.trap t x)
  | (_, .ok _) =>
    if s.holdsToken t then loadFrom (BitVec.ofNat 64) 8 d cap off s.countSc else .next s

/-- mem64 := x[d] in the order S, performed at once; a release (R328, R359). -/
def execStsc (d : XReg) (ca : CReg) (b : XReg) (s : State) : Res :=
  let t := s.focus.thread
  let cap := s.getC t ca
  let off := s.getX t b
  match scAccess cap off true s with
  | (s, .error x) => .next (s.trap t x)
  | (s', .ok l) =>
    if s.holdsToken t && s.callsAccepted t then
      let s := (s'.drainThread t).countSc
      .next ((s.locWrite ⟨(s.thread t).tenant, .thread t⟩ l (leBytes 8 (s.getX t d).toNat)).retire t)
    else .next s

/-- Everything of the thread before the fence is performed before anything after it (R321, R358). Every
scope up to device gives device scope; pod scope waits for the acknowledgements of other modules too.
[DEDUCED, log 17] -/
def execFence (scope : Scope) (s : State) : Res :=
  release (fun s =>
    let t := s.focus.thread
    .next (if scope = .pod && !s.podDone t then s else s.retire t)) s

end Sys2Proof.Machine
end

