-- ==== Sys2Proof/Machine/ControlCap.lean ====
section
/-!
DEFINITION. The capability instructions (R69 to R73). The remote subset has CLD and CST of them (R340).
-/

namespace Sys2Proof.Machine
open Sys2Proof

/-- An instruction that only a control thread executes; in a remote function it raises ILLEGAL with the
word (R340). -/
def onCore (i : Instr) (s : State) (k : CoreId → Res) : Res :=
  match s.focus.thread with
  | .core c => k c
  | t => .next (s.illegal t i)

/-- `tagcheck` and `unsealed`: KTVAL holds the capability number (R69). -/
def capTrap (cap : Cap) (n : CReg) : Option Trap :=
  if !cap.tag then some ⟨.tag, BitVec.ofNat 64 n.val⟩
  else if cap.otype != 0 then some ⟨.perm, BitVec.ofNat 64 n.val⟩
  else none

/-- The tag of a granule at a location, whose bits are given: one with an uncorrectable error reads 0 and is counted (R315), a constant page
has none, another module's is a free value, where the bits keep the range of R68.
[DESIGN CHOICE, log 81; DESIGN CHOICE, log 90] -/
def State.locTag (s : State) (l : Loc) (bits : BitVec 128) : State × Bool :=
  if l.fill.isSome then (s, false)
  else match l.space with
    | .scratch =>
      (if s.scratch.badTag l.addr then s.countError l.site true else s, s.scratch.tagAt l.addr)
    | .sys => (s, false)
    | _ =>
      let a := localAddr l.addr
      if s.isLocal l.addr then (if s.mem.badTag a then s.countError l.site true else s, s.mem.tagAt a)
      else
        let (d, s) := s.draw
        (s, Config.remoteTag d l.addr && (⟨bits, true⟩ : Cap).inRange)

/-- c[d] := the granule, with tag AND cC.C (R70). [DEDUCED, log 9; DEDUCED, log 12] -/
def execCld (cd c : CReg) (a : XReg) (imm : BitVec 8) (s : State) : Res :=
  let t := s.focus.thread
  let cap := s.getC t c
  let off := memOffset s t a imm 16
  match s.access t cap off 16 false with
  | (s, .error x) => .next (s.trap t x)
  | (s', .ok l) =>
    if cap.space == .fibre || cap.space == .sys then .next ((s.withMisses s').trap t ⟨.perm, off⟩)
    else match s'.threadRead t l 16 with
      | (_, none) => .next (((s.withMisses s').threadRead t l 16).1.trap t ⟨.ecc, BitVec.ofNat 64 (cap.base + off.toNat)⟩)
      | (s, some bs) =>
        let v := BitVec.ofNat 128 (leNat bs)
        let (s, tag) := s.locTag l v
        .next ((s.setC t cd ⟨v, tag && cap.pC⟩).retire t)

/-- The granule := c[d] with its tag (R70). A tagged capability needs cC.C, and without G it may be
stored into SCRATCH only. [DEDUCED, log 9] -/
def execCst (cd c : CReg) (a : XReg) (imm : BitVec 8) (s : State) : Res :=
  let t := s.focus.thread
  let cap := s.getC t c
  let v := s.getC t cd
  let off := memOffset s t a imm 16
  match s.access t cap off 16 true with
  | (s, .error x) => .next (s.trap t x)
  | (s', .ok l) =>
    if cap.space == .sys || (v.tag && !cap.pC) || (v.tag && !v.pG && cap.space != .scratch) then
      .next ((s.withMisses s').trap t ⟨.perm, off⟩)
    else
      let q : QueuedStore := ⟨l.space, l.addr, leBytes 16 v.bits.toNat, v.tag, false, (s.thread t).tenant⟩
      .next ((s'.enqueueStore t q).retire t)

/-- The narrowed capability of CSETB, or BOUNDS (R71). -/
def narrow (cap : Cap) (v : Word) : Except Trap Cap :=
  let n := field v.toNat 39 0
  if field v.toNat 62 40 != 0 || decide (cap.length < n) then .error ⟨.bounds, v⟩
  else if !bitAt v.toNat 63 then .ok (cap.withRange cap.base n)
  else .ok (cap.withRange (cap.base + n) (cap.length - n))

/-- CSETB: the length set or the base advanced (R71). -/
def execCsetb (cd ca : CReg) (b : XReg) (s : State) : Res :=
  onCore (.csetb cd ca b) s fun k =>
    let t := ThreadId.core k
    let cap := s.getC t ca
    match capTrap cap ca with
    | some x => .next (s.trap t x)
    | none => match narrow cap (s.getX t b) with
      | .error x => .next (s.trap t x)
      | .ok c => .next ((s.setC t cd c).retire t)

/-- CANDP: permissions ANDed with x[b][7:0] (R72). -/
def execCandp (cd ca : CReg) (b : XReg) (s : State) : Res :=
  onCore (.candp cd ca b) s fun k =>
    let t := ThreadId.core k
    let cap := s.getC t ca
    match capTrap cap ca with
    | some x => .next (s.trap t x)
    | none =>
      let c := Cap.make cap.base cap.space cap.length
        (cap.perms &&& field (s.getX t b).toNat 7 0) cap.tenant cap.otype cap.tag
      .next ((s.setC t cd c).retire t)

/-- The field that CGET reads, tagged or not (R73). -/
def capField (cap : Cap) : CapField → Nat
  | .base => cap.base
  | .length => cap.length
  | .space => cap.space.code
  | .perms => cap.perms
  | .tenant => cap.tenant.toNat
  | .otype => cap.otype
  | .tag => cap.tag.toNat
  | .limit => cap.base + cap.length

/-- CGET: x[d] := the field, zero-extended (R73). -/
def execCget (d : XReg) (ca : CReg) (f : CapField) (s : State) : Res :=
  onCore (.cget d ca f) s fun k =>
    let t := ThreadId.core k
    .next ((s.setX t d (BitVec.ofNat 64 (capField (s.getC t ca) f))).retire t)

/-- CMOV: c[d] := c[a], tag included (R69). -/
def execCmov (cd ca : CReg) (s : State) : Res :=
  onCore (.cmov cd ca) s fun k =>
    let t := ThreadId.core k
    .next ((s.setC t cd (s.getC t ca)).retire t)

end Sys2Proof.Machine
end

