-- ==== Sys2Proof/Machine/ControlSys.lean ====
section
/-!
DEFINITION. System registers and the SYS functions of a control core (R388 to R402), and EVPOP (R248).
In a remote function each of them raises ILLEGAL (R340).
-/

namespace Sys2Proof.Machine
open Sys2Proof

/-- A privileged instruction of a control thread: ILLEGAL in unprivileged mode (R393). -/
def onPrivCore (i : Instr) (s : State) (k : CoreId → Res) : Res :=
  onCore i s fun c =>
    if (s.core c).thread.priv then k c else .next (s.illegal (.core c) i)

/-- The system registers of R389. -/
inductive SReg where
  | kstat | kcause | kepc | ktval | ktvec | kscratch | ktenant | kptbase | kevq | kevhead | kevtail
  | kcycle | kinstr | kcid | kdevno | krtime | kstrict
  | kidle (n : Fin 16)
  deriving DecidableEq, Repr

/-- The register of a number; a number outside the map is none (R388). -/
def sregOf (n : Nat) : Option SReg :=
  match n with
  | 0x000 => some .kstat | 0x001 => some .kcause | 0x002 => some .kepc | 0x003 => some .ktval
  | 0x004 => some .ktvec | 0x005 => some .kscratch | 0x010 => some .ktenant
  | 0x011 => some .kptbase | 0x020 => some .kevq | 0x021 => some .kevhead | 0x022 => some .kevtail
  | 0x030 => some .kcycle | 0x031 => some .kinstr | 0x040 => some .kcid | 0x041 => some .kdevno
  | 0x050 => some .krtime | 0x060 => some .kstrict
  | n => if 0x070 ≤ n ∧ n < 0x080 then some (.kidle (Fin.ofNat 16 n)) else none

/-- Registers that SYSRD may read in unprivileged mode (R388). -/
def SReg.open : SReg → Bool
  | .kcycle | .kinstr | .kcid | .kdevno => true
  | _ => false

/-- Registers that SYSWR may not name (R389). -/
def SReg.readOnly : SReg → Bool
  | .kevhead | .kevtail | .kcycle | .kinstr | .kcid => true
  | _ => false

/-- A system register's value (R389). -/
def State.sreg (s : State) (k : CoreId) (r : SReg) : Word :=
  let c := s.core k
  match r with
  | .kstat => BitVec.ofNat 64 (c.thread.priv.toNat + 2 * c.prevPriv.toNat + 4 * c.event.toNat)
  | .kcause => c.kcause.setWidth 64
  | .kepc => c.kepc
  | .ktval => c.ktval
  | .ktvec => c.ktvec
  | .kscratch => c.kscratch
  | .ktenant => c.thread.tenant.setWidth 64
  | .kptbase => c.kptbase
  | .kevq => BitVec.ofNat 64 c.events.length
  | .kevhead => BitVec.ofNat 64 c.evHead
  | .kevtail => BitVec.ofNat 64 ((c.evHead + c.events.length) % 1024)
  | .kcycle => BitVec.ofNat 64 (2 * s.dieCycle (coreDie k))
  | .kinstr => c.kinstr
  | .kcid => BitVec.ofNat 64 (coreNum k + 16 * (coreDie k).val)
  | .kdevno => s.kdevno.setWidth 64
  | .krtime => c.krtime.setWidth 64
  | .kstrict => BitVec.ofNat 64 s.kstrict.toNat
  | .kidle n => c.kidle[n]

/-- A core may write this tenant to KTENANT (R384): its partition's tenant, any before the first
commit, and any on a core that no enabled partition names. -/
def State.tenantAllowed (s : State) (k : CoreId) (v : BitVec 8) : Bool :=
  match s.partitionOfCore k with
  | none => true
  | some p => p.tenant == v

/-- A write of a system register (R389); none where it raises PERM. Fields marked zero ignore the
write. [DEDUCED, log 7; DEDUCED, log 8] -/
def State.setSreg (s : State) (k : CoreId) (r : SReg) (v : Word) : Option State :=
  let c := s.core k
  let set (c : Core) : Option State := some (s.setCore k c)
  match r with
  | .kstat => set { c with
      thread := { c.thread with priv := bitAt v.toNat 0 }
      prevPriv := bitAt v.toNat 1
      event := bitAt v.toNat 2 }
  | .kcause => set { c with kcause := v.setWidth 8 }
  | .kepc => set { c with kepc := v &&& ~~~3 }
  | .ktval => set { c with ktval := v }
  | .ktvec => set { c with ktvec := v &&& ~~~3 }
  | .kscratch => set { c with kscratch := v }
  | .ktenant =>
    if s.tenantAllowed k (v.setWidth 8) then
      set { c with thread := { c.thread with tenant := v.setWidth 8 } }
    else none
  | .kptbase => set { c with kptbase := BitVec.ofNat 64 (field v.toNat 51 12 * 4096) }
  | .kevq => if bitAt v.toNat 0 then set { c with kevqPending := true } else some s
  | .kdevno => some { s with kdevno := v.setWidth 12 }
  | .krtime => set { c with krtime := if v.setWidth 16 = (0 : BitVec 16) then 1 else v.setWidth 16 }
  | .kstrict => if s.partitions.isSome then none else some { s with kstrict := bitAt v.toNat 0 }
  | .kidle n => set { c with kidle := c.kidle.set n v }
  | .kevhead | .kevtail | .kcycle | .kinstr | .kcid => some s

/-- x[d] := the register numbered [17:6] (R388). -/
def execSysrd (d : XReg) (num : BitVec 12) (s : State) : Res :=
  onCore (.sysrd d num) s fun k =>
    match sregOf num.toNat with
    | none => .next (s.illegal (.core k) (.sysrd d num))
    | some r =>
      if (s.core k).thread.priv || r.open then
        .next ((s.setX (.core k) d (s.sreg k r)).retire (.core k))
      else .next (s.illegal (.core k) (.sysrd d num))

/-- The register numbered [17:6] := x[d] (R388). A refused tenant, and KSTRICT after the first commit,
raise PERM; R384 and R389 state no KTVAL for it, so that is a free value. -/
def execSyswr (d : XReg) (num : BitVec 12) (s : State) : Res :=
  onPrivCore (.syswr d num) s fun k =>
    match sregOf num.toNat with
    | none => .next (s.illegal (.core k) (.syswr d num))
    | some r =>
      if r.readOnly then .next (s.illegal (.core k) (.syswr d num))
      else match s.setSreg k r (s.getX (.core k) d) with
        | some s => .next (s.retire (.core k))
        | none =>
          let (n, s) := s.draw
          .next (s.trap (.core k) ⟨.perm, Config.freeWord n⟩)

/-- TRAP raises cause 18 with the code (R394). [DEDUCED, log 14] -/
def execTrap (code : BitVec 12) (s : State) : Res :=
  onCore (.trap code) s fun k =>
    .next (s.trap (.core k) ⟨.trapInstruction, code.setWidth 64⟩)

/-- Return from a trap (R368). -/
def execEret (s : State) : Res :=
  onPrivCore .eret s fun k => .next (s.setCore k (s.core k).eret)

/-- WFE goes on at once where the event flag is set, and clears it; otherwise it waits (R395). [DEDUCED, log 5] -/
def execWfe (s : State) : Res :=
  onCore .wfe s fun k =>
    let c := s.core k
    if c.event then .next ((s.setCore k { c with event := false }).retire (.core k))
    else .next (s.setCore k { c with wfeSince := some s.cycle })

/-- The event flag of a core set; a WFE that waits goes on and clears it (R395). -/
def Core.signal (c : Core) : Core := { c with event := true }.wake

/-- SEV, a release, sets the event flag of every control core of its die (R395). -/
def execSev (s : State) : Res :=
  onCore .sev s fun k =>
    release (fun s =>
      let cores := Vector.ofFn fun i =>
        if coreDie i = coreDie k then (s.core i).signal else s.core i
      .next ({ s with cores := cores }.retire (.core k))) s

/-- HALT: the core stops once its store queue has drained; its pc stays (R396). [DEDUCED, log 14] -/
def execHalt (s : State) : Res :=
  onCore .halt s fun k =>
    let s := s.drain k
    let c := s.core k
    .next (s.setCore k { c with halted := true, kinstr := c.kinstr + 1 })

/-! ### TLBI (R383, R399) -/

/-- A cached page overlaps the range that TLBI names; a count of 0 is every page of the tenant. -/
def tlbiHits (first count : Nat) (tenant : BitVec 8) (e : TlbEntry) : Bool :=
  e.tenant == tenant &&
    (count == 0 || (decide (e.page < first + count * 4096) && decide (first < e.page + e.size)))

/-- A physical address inside a cached page's frame. -/
def TlbEntry.covers (e : TlbEntry) (pa : Nat) : Bool :=
  e.fill.isNone && decide (e.frame ≤ pa) && decide (pa < e.frame + e.size)

/-- Physical addresses of the dense and fibre stores and of the fibre operations that a cell's running block holds. -/
def Cell.heldAddrs (c : Cell) : List Nat :=
  match c.inst with
  | none => []
  | some i => i.held.flatMap fun h => match h.2 with
    | .store _ _ sp lanes _ => if sp == .scratch then [] else lanes.map (·.addr)
    | .fibre _ _ _ pa _ _ => [pa]
    | _ => []

/-- Physical addresses of the dense and fibre requests that wait in memory cells. -/
def State.queuedAddrs (s : State) : List Nat :=
  s.memQueues.flatMap fun q => q.2.flatMap fun r => match r.body, r.reply with
    | .lanes _ sp lanes _, none => if sp == .scratch then [] else lanes.map (·.addr)
    | _, _ => []

/-- Physical addresses of the head rows of fibre requests that have not been performed. -/
def State.fibreAddrs (s : State) : List Nat := (s.fibreReqs.filter fun q => q.reserved.isNone).map (·.pa)

/-- An access is outstanding that was translated through one of these entries (R383). -/
def State.translatedPending (s : State) (es : List TlbEntry) : Bool :=
  let as := s.queuedAddrs ++ s.fibreAddrs ++ s.cells.flatMap fun c => c.2.heldAddrs
  as.any fun a => es.any fun e => e.covers a

/-- Every control core's store queue drained. -/
def State.drainAll (s : State) : State := (List.finRange 32).foldl (fun s k => s.drain k) s

/-- TLBI removes the cached translations of a range. It retires once every access translated through
one of them, or through one that has left its cache since, has been performed, held cell stores included (R383,
R399). [DESIGN CHOICE, log 21] -/
def execTlbi (a b : XReg) (s : State) : Res :=
  onPrivCore (.tlbi a b) s fun k =>
    let t := ThreadId.core k
    let x := (s.getX t a).toNat
    let y := (s.getX t b).toNat
    if field x 63 48 != 0 || field y 15 8 != 0 || field y 63 48 != 0 then
      .next (s.illegal t (.tlbi a b))
    else
      let hits := tlbiHits (field x 47 12 * 4096) (field y 47 16) (BitVec.ofNat 8 y)
      if s.translatedPending ((s.tlb ++ s.spent).filter hits) then .next s
      else
        let s := s.drainAll
        .next ({ s with
          tlb := s.tlb.filter fun e => !hits e
          spent := s.spent.filter fun e => !hits e }.retire t)

/-! ### CRC, CYC, IFENCE, EVPOP -/

/-- One step of the CRC's inner loop, n times (R400). -/
def crcBits (c : BitVec 32) : Nat → BitVec 32
  | 0 => c
  | n + 1 => crcBits ((c >>> 1) ^^^ (if c.getLsbD 0 then 0x82F63B78 else 0)) n

/-- The CRC32C register after bytes, lowest first (R400). -/
def crcBytes (c : BitVec 32) : List Byte → BitVec 32
  | [] => c
  | b :: bs => crcBytes (crcBits (c ^^^ b.setWidth 32) 8) bs

/-- CRC over the four bytes of x[b][31:0] (R400). -/
def execCrc (d a b : XReg) (s : State) : Res :=
  onCore (.crc d a b) s fun k =>
    let t := ThreadId.core k
    let c := crcBytes ((s.getX t a).setWidth 32) (leBytes 4 (s.getX t b).toNat)
    .next ((s.setX t d (c.setWidth 64)).retire t)

/-- x[d] := the arithmetic-cycle counter of the core's die (R397). -/
def execCyc (d : XReg) (s : State) : Res :=
  onCore (.cyc d) s fun k =>
    .next ((s.setX (.core k) d (BitVec.ofNat 64 (s.dieCycle (coreDie k)))).retire (.core k))

/-- IFENCE discards every fetched word (R398). [DESIGN CHOICE, log 21] -/
def execIfence (s : State) : Res :=
  onCore .ifence s fun k =>
    .next ((s.setCore k { s.core k with icache := [] }).retire (.core k))

/-- The oldest record taken into x[d] and x[d+1] (R248). -/
def popEvent (k : CoreId) (d : XReg) (r : BitVec 128) (s : State) : State :=
  let s := s.setCore k (s.core k).dequeue
  let t := ThreadId.core k
  ((s.setX t d (r.setWidth 64)).setX t (d + 1) ((r >>> 64).setWidth 64)).retire t

/-- EVPOP.poll: zeros from an empty queue (R248). -/
def execEvpopPoll (d : XReg) (s : State) : Res :=
  onCore (.evpopPoll d) s fun k =>
    match (s.core k).events with
    | [] => .next (((s.setX (.core k) d 0).setX (.core k) (d + 1) 0).retire (.core k))
    | r :: _ => .next (popEvent k d r s)

/-- EVPOP.wait waits for a record (R248). [DEDUCED, log 5] -/
def execEvpopWait (d : XReg) (s : State) : Res :=
  onCore (.evpopWait d) s fun k =>
    match (s.core k).events with
    | [] => .next s
    | r :: _ => .next (popEvent k d r s)

/-! ### VSIG (R401, R402) -/

/-- n units of `step` bytes through a capability, each checked and read as a load of that size; the
first failure's trap. -/
def State.capBytes (s : State) (t : ThreadId) (cap : Cap) (off step : Nat) :
    Nat → State × Except Trap (List Byte)
  | 0 => (s, .ok [])
  | n + 1 =>
    match s.access t cap (BitVec.ofNat 64 off) step false with
    | (s, .error x) => (s, .error x)
    | (s, .ok l) => match s.threadRead t l step with
      | (s, none) => (s, .error ⟨.ecc, BitVec.ofNat 64 (cap.base + off)⟩)
      | (s, some bs) => match s.capBytes t cap (off + step) step n with
        | (s, .error x) => (s, .error x)
        | (s, .ok rest) => (s, .ok (bs ++ rest))

/-- The state with page tables, translation caches and reservations as another state has them. -/
def State.unmarked (s u : State) : State :=
  { s with mem := u.mem, harts := u.harts, tlb := u.tlb, spent := u.spent }

/-- The state after the reads of `capBytes`, or up to the failing one, without what the walks have marked: the
instruction may still trap, and a trap changes no memory (R49). `u` is the state without earlier marks.
[DEDUCED, log 12] -/
def State.capUnmarked (s u : State) (t : ThreadId) (cap : Cap) (off step : Nat) : Nat → State
  | 0 => s.unmarked u
  | n + 1 =>
    match s.access t cap (BitVec.ofNat 64 off) step false with
    | (s, .error _) => s.unmarked u
    | (s, .ok l) =>
      let u := (u.threadRead t l step).1
      match s.threadRead t l step with
      | (s, none) => s.unmarked u
      | (s, some _) => s.capUnmarked u t cap (off + step) step n

/-- Length of a signature block (R403). -/
def signatureBytes : Nat := 8240

/-- The 32-bit word i of a list of bytes. -/
def wordAt (bs : List Byte) (i : Nat) : Nat := leNat ((bs.drop (4 * i)).take 4)

/-- The header checks of VSIG (R401). -/
def vsigHeaderOk (hdr : List Byte) (cap : Cap) (slot : Nat) : Bool :=
  let sig := wordAt hdr 7
  wordAt hdr 0 == 0x4B54494D && decide (0x40 ≤ sig) && sig % 4 == 0 &&
    wordAt hdr 6 == sig - 0x40 && decide (sig + signatureBytes ≤ cap.length) &&
    Config.keySlotHeld slot

/-- The sealed remote-entry capability that VSIG stores (R402). -/
def sealedEntry (cap : Cap) (sig : Nat) (tenant : BitVec 8) : Cap :=
  Cap.make (cap.base + 0x40) .dense (sig - 0x40) 0x85 tenant 1 true

/-- VSIG: x[d] := S and the status; with x[b][4] and a cell count of 0 the sealed entry is stored (R401,
R402). The image is read in words of four bytes. [DESIGN CHOICE, log 76] -/
def execVsig (d : XReg) (ca : CReg) (b : XReg) (s : State) : Res :=
  onPrivCore (.vsig d ca b) s fun k =>
    let t := ThreadId.core k
    let cap := s.getC t ca
    let xb := (s.getX t b).toNat
    let done (s : State) (sig : Nat) (st : Status) : Res :=
      .next ((s.setX t d (resultWord sig st)).retire t)
    if field xb 63 5 != 0 then .next (s.illegal t (.vsig d ca b))
    else match s.access t cap 0 64 false with
      | (s, .error x) => .next (s.trap t x)
      | (s', .ok _) =>
        let u := s'.capUnmarked s t cap 0 4 16
        match s'.capBytes t cap 0 4 16 with
        | (_, .error x) => .next (u.trap t x)
        | (s, .ok hdr) =>
          let sig := wordAt hdr 7
          if !vsigHeaderOk hdr cap (xb % 16) then done s sig .rejected
          else
            let n := (sig - 0x40 + signatureBytes) / 4
            match s.capBytes t cap 0x40 4 n with
            | (_, .error x) => .next ((s.capUnmarked u t cap 0x40 4 n).trap t x)
            | (s', .ok body) =>
              let image := hdr ++ body.take (sig - 0x40)
              if !Config.signaturesVerify (xb % 16) image (body.drop (sig - 0x40)) then
                done s' sig .rejected
              else if bitAt xb 4 && wordAt hdr 4 == 0 then
                if !cap.pW || !cap.pC || decide (cap.length < sig + signatureBytes + 16) then
                  done s' sig .badDesc
                else match s'.access t cap (BitVec.ofNat 64 (sig + signatureBytes)) 16 true with
                  | (_, .error x) => .next ((s.capUnmarked u t cap 0x40 4 n).trap t x)
                  | (s, .ok l) =>
                    let v := sealedEntry cap sig (s.thread t).tenant
                    done (s.enqueueStore t ⟨l.space, l.addr, leBytes 16 v.bits.toNat, true, false,
                      (s.thread t).tenant⟩) sig .ok
              else done s' sig .ok

end Sys2Proof.Machine
end

