-- ==== Sys2Proof/Machine/Remote.lean ====
section
/-!
DEFINITION. Remote calls (R331 to R355): sending, arrival and acceptance, the start of a function, replies,
resends, and the built-in functions of the grottos.
-/

namespace Sys2Proof.Machine
open Sys2Proof

/-! ### Homes and sending (R331, R336) -/

/-- The unit of this device that owns a local physical address. -/
def grottoUnit (pa : Nat) : UnitId := .grotto (homeGrotto (localAddr pa))

/-- The checks of RCALL's capability, beside the translation (R336). -/
def callCapTrap (cap : Cap) (n : Nat) (tenant : BitVec 8) : Option Trap :=
  if !cap.tag then some ⟨.tag, BitVec.ofNat 64 n⟩
  else if cap.otype != 0 || cap.tenant != tenant || cap.space == .sys then
    some ⟨.perm, BitVec.ofNat 64 n⟩
  else if cap.length = 0 then some ⟨.bounds, 0⟩
  else none

/-- The home of a target: the scratchpad's control core, a grotto of this device, or another module; a
page of a constant pattern has none. Beside it stands where the base lies. -/
def State.targetHome (s : State) (cache : CacheId) (tenant : BitVec 8) (root : Nat) (cap : Cap) :
    State × Except Cause (Home × Loc) :=
  match cap.space with
  | .scratch =>
    let c := scratchCell cap.base
    (s, .ok (.unit (.core (coreOf c.die (c.row.val / 4))), ⟨.scratch, cap.base, none⟩))
  | sp =>
    match s.translate cache tenant root cap.base false with
    | (s, .error e) => (s, .error e)
    | (s', .ok p) =>
      if p.fill.isSome then (s.withMisses s', .error .perm)
      else
        (s', .ok (if s.isLocal p.pa then .unit (grottoUnit p.pa) else .module p.pa, ⟨sp, p.pa, none⟩))

/-- A call for another module leaves. A module that no link reaches ends it LOST (R421). -/
def State.leaveCall (s : State) (c : Call) : State :=
  match c.home with
  | .unit _ => s
  | .module pa =>
    if s.reaches (pa / 2 ^ 40 % 4096) then s.leave ⟨c.tenant, .other⟩ pa (.call pa c)
    else (s.countError .link true).sendReply
      ⟨c.caller, c.num, c.entry, BitVec.ofNat 16 Status.lost.code, 0, 0⟩

/-- The unit is on another module. -/
def Home.isFar : Home → Bool
  | .unit _ => false
  | .module _ => true

/-- Two calls go to one unit, as far as this device knows: the units of one other module are told apart there. -/
def Home.mayBe : Home → Home → Bool
  | .module a, .module b => a / 2 ^ 40 == b / 2 ^ 40
  | a, b => a == b

/-- A call comes behind an earlier one of its caller: one to its unit, or with the release flag any (R333, R344). -/
def Call.behind (c d : Call) : Bool := d.caller.same c.caller && (c.rel || d.home.mayBe c.home)

/-- A call sent toward its home. A cell's call for another module waits on this device for what R344 wants performed
before it, and any call waits behind its caller's earlier ones that its unit has refused (R333). [DEDUCED, log 30] -/
def State.sendCall (s : State) (c : Call) : State :=
  match c.home, c.caller with
  | .module _, .core _ | .module _, .module _ _ _ =>
    if s.calls.any c.behind then { s with calls := s.calls ++ [c] } else s.leaveCall c
  | _, _ => { s with calls := s.calls ++ [c] }

/-- The next call number: from 2^32 − 1 it wraps to 1 (R336). -/
def nextNum (n : BitVec 32) : BitVec 32 := if n = BitVec.allOnes 32 then 1 else n + 1

/-! ### Arrival (R333, R348, R349) -/

/-- Contexts and waiting calls of a unit (R331). -/
def unitContexts : UnitId → Nat
  | .core _ => 2
  | .grotto _ => 8
def unitWaiting : UnitId → Nat
  | .core _ => 8
  | .grotto _ => 32

/-- The contexts of a unit that run nothing, lowest first. -/
def State.freeContexts (s : State) (u : UnitId) : List (Fin 8) :=
  (List.finRange 8).filter fun i => decide (i.val < unitContexts u) && ((s.unit u).ctx[i]).isNone

/-- A call number is lower than another by signed 32-bit difference. [DEDUCED, log 28] -/
def numBelow (a b : BitVec 32) : Bool := decide ((a - b).toInt < 0)

/-- The lowest number of a list. [DEDUCED, log 28] -/
def lowestNum : List (BitVec 32) → Option (BitVec 32)
  | [] => none
  | n :: t => match lowestNum t with
    | none => some n
    | some m => some (if numBelow n m then n else m)

/-- What an executing unit makes of an arriving call (R348). -/
inductive Arrival where
  | repeat (r : CallReply)
  | running
  | tooOld
  | new (kept : List KeptCall)
  deriving DecidableEq, Repr

/-- The judgement of R348. A forwarded call carries the number of the call it continues, and is no
repeat of it. [DEDUCED, log 27] -/
def Unit.judge (u : Unit) (c : Call) : Arrival :=
  match u.kept.find? fun q => q.is c.caller c.num with
  | some q =>
    if c.forwarded then .new (u.kept.map fun q => if q.is c.caller c.num then { q with reply := none } else q)
    else match q.reply with
      | some r => .repeat r
      | none => .running
  | none =>
    let nums := (u.kept.filter fun q => q.caller.same c.caller).map (·.num)
    if nums.length < 256 then .new (⟨c.caller, c.num, none⟩ :: u.kept)
    else match lowestNum nums with
      | none => .new (⟨c.caller, c.num, none⟩ :: u.kept)
      | some low =>
        if numBelow low c.num then
          .new (⟨c.caller, c.num, none⟩ ::
            u.kept.filter fun q => !q.is c.caller low)
        else .tooOld

/-- The budget that a call homed at a grotto is charged against: its vault die's, in strict mode its partition's share
of that (R349, R385). [DESIGN CHOICE, log 78] -/
def State.budgetOf (s : State) (g : GrottoId) (tenant : BitVec 8) : Budget :=
  ⟨Fin.ofNat 4 (g.val / 64), if s.kstrict then some tenant else none⟩

/-- What a budget allows: a partition's share is its part of the die's, in 1/256 (R384, R385).
[DESIGN CHOICE, log 78] -/
def State.budgetLimit (s : State) (b : Budget) : Nat :=
  match b.share with
  | none => Config.budgetSize b.die
  | some t => match s.partitionOf t with
    | none => 0
    | some p => Config.budgetSize b.die * p.powerShare b.die / 256

/-- A call refused at a grotto for power (R349): the module is held at its limit, or the budget of the die would be
exceeded; a call that is not refused is charged. [DESIGN CHOICE, log 78] -/
def State.busyPower (s : State) (u : UnitId) (tenant : BitVec 8) : State × Bool :=
  match u with
  | .core _ => (s, false)
  | .grotto g =>
    if s.held then (s, true)
    else
      let b := s.budgetOf g tenant
      let (n, s) := s.draw
      let used := Config.activityNow n (alGet s.activity b 0) + Config.callCharge n
      if s.budgetLimit b < used then (s, true)
      else ({ s with activity := alSet s.activity b used }, false)

/-- The calls that a cell has made before one of its own have been accepted, and what it has stored on other modules has
been acknowledged: pod scope for a cell (R321, R344). [DEDUCED, log 17] -/
def State.cellPodDone (s : State) (c : CellId) (k : Call) : Bool :=
  !s.awaits (Accessor.ofCell c) && ((s.cell c).calls.takeWhile fun o => o.call.num != k.num).all OpenCall.performed

/-- What R344 wants performed before a cell's function starts: with the release flag everything that the cell
has outstanding, at pod scope where the function runs on another module, else its stores to the page of the capability's
base. -/
def State.callCovered (s : State) (k : Call) : Bool :=
  match k.caller with
  | .cell c _ _ _ =>
    let q := (alGet s.memQueues c.server []).filter fun r => r.cell == c && r.reply.isNone
    let stores := q.filter fun r => match r.body with
      | .lanes .load _ _ _ => false
      | .lanes _ sp ls _ => ls.any fun l => sp.store == k.cap.space.store && l.addr / 4096 == k.base / 4096
      | .table _ _ _ _ => false
      | .probe => false
    let fibre := s.fibreReqs.any fun r => match r.agent with
      | .cell d _ _ _ _ _ => d == c
      | _ => false
    if k.rel then q.isEmpty && !fibre && !(s.transfers.any fun x => x.cell == c) &&
      (!k.home.isFar || s.cellPodDone c k)
    else stores.isEmpty
  | _ => true

/-- Call i is refused back to its caller's unit, over a link where that is on another module; it keeps its place among
its caller's calls until it is resent (R333). [DEDUCED, log 100] -/
def State.refuseCall (s : State) (i : Nat) (c : Call) : State :=
  let s := { s with calls := setNth s.calls i { c with refused := true } }
  match c.caller with
  | .module _ _ _ => { s with outbox := s.outbox ++ [⟨none, ⟨c.tenant, .other⟩, .callRefusal c, false⟩] }
  | _ => s

/-- A cell's call waits for the held effects that it is ordered after (R322). -/
def State.callOrdered (s : State) (c : Call) : Bool :=
  match c.caller with
  | .cell d _ _ _ => c.after.all fun p => !s.storesWait d p.1 [p.2]
  | _ => true

/-- The acceptance of a call of another module leaves on a link (R321). [DEDUCED, log 17] -/
def State.tellAccepted (s : State) (c : Call) : State :=
  match c.caller with
  | .module _ _ tenant => { s with outbox := s.outbox ++ [⟨none, ⟨tenant, .other⟩, .callAccepted c, false⟩] }
  | _ => s

/-- Call i arrives at its unit after its caller's earlier calls to that unit (R333), a cell's once what it
covers and what it is ordered after has been performed (R322, R344); one for another module leaves then.
[DEDUCED, log 27] -/
def execRemoteCallArrival (i : Nat) (s : State) : Res :=
  match s.calls[i]? with
  | none => .next s
  | some c =>
    if c.refused || !s.callCovered c || !s.callOrdered c || (s.calls.take i).any c.behind then .next s
    else match c.home with
    | .module _ => .next ({ s with calls := dropNth s.calls i }.leaveCall c)
    | .unit u =>
        let out (s : State) : State := { s with calls := dropNth s.calls i }
        let answer (s : State) (st : Status) : State :=
          (out s).sendReply ⟨c.caller, c.num, c.entry, BitVec.ofNat 16 st.code, 0, 0⟩
        match (s.unit u).judge c with
        | .repeat r =>
          let st := if r.status = 0 then BitVec.ofNat 16 Status.replayed.code else r.status
          .next ((out s).sendReply { r with status := st })
        | .running => .next (out s)
        | .tooOld => .next (answer s .lost)
        | .new kept =>
          let (s, busy) := s.busyPower u c.tenant
          if busy then .next (answer s .busyPower)
          else
            let x := s.unit u
            if x.waiting.length < unitWaiting u + (s.freeContexts u).length then
              .next (((out s).setUnit u { x with waiting := x.waiting ++ [c], kept := kept }).tellAccepted c)
            else .next (s.refuseCall i c)

/-- A refused call resent, its caller's earlier refused ones to that unit first (R333). A caller's unit on another module
resends from there. [DEDUCED, log 100] -/
def execCallRefusalResend (i : Nat) (s : State) : Res :=
  match s.calls[i]? with
  | none => .next s
  | some c =>
    if c.refused && !c.caller.isFar &&
        !((s.calls.take i).any fun d => d.refused && d.caller.same c.caller && d.home.mayBe c.home) then
      .next { s with calls := setNth s.calls i { c with refused := false } }
    else .next s

/-! ### Start of a function (R335, R339) -/

/-- The caller id of x6 (R339). -/
def State.callerId (s : State) (c : Caller) : Nat :=
  match c with
  | .core k => s.kdevno.toNat * 2 ^ 32 + coreSrc k + coreNum k
  | .cell c _ _ _ => s.kdevno.toNat * 2 ^ 32 + c.src 0 0
  | .module d src _ => d % 2 ^ 12 * 2 ^ 32 + src.toNat

/-- The translation cache of a unit's accesses. -/
def unitCache : UnitId → CacheId
  | .core k => .die (coreDie k)
  | .grotto g => .die (Fin.ofNat 2 (g.val / 128))

/-- A remote-entry capability as R334 wants it. [DEDUCED, log 29] -/
def entryOk (cap : Cap) (tenant : BitVec 8) : Bool :=
  cap.tag && cap.otype == 1 && cap.space == .dense && cap.pX && cap.pG && cap.tenant == tenant

/-- The table entry of a call, read with its tag (R335). A tenant that no partition holds has no table.
[DEDUCED, log 29] -/
def State.readTable (s : State) (u : UnitId) (c : Call) : State × Except Status Cap :=
  match s.partitionOf c.tenant with
  | none => (s, .error .rejected)
  | some p =>
    match s.translate (unitCache u) c.tenant (s.rootOf c.tenant) (p.table + 16 * c.entry) false with
    | (s, .error .ecc) => (s, .error .eccDropped)
    | (s, .error _) => (s, .error .rejected)
    | (s, .ok a) =>
      if a.fill.isSome then (s, .error .rejected)
      else
        let l : Loc := ⟨.dense, a.pa, none⟩
        match s.locRead ⟨c.tenant, .other⟩ l 16 with
        | (s, none) => (s, .error .eccDropped)
        | (s, some bs) =>
          let bits := BitVec.ofNat 128 (leNat bs)
          let (s, tag) := s.locTag l bits
          let cap : Cap := ⟨bits, tag⟩
          if entryOk cap c.tenant then (s, .ok cap) else (s, .error .rejected)

/-- The thread that a function starts with (R339). -/
def State.functionThread (s : State) (c : Call) (entry : Cap) : Thread :=
  let x : Vector Word 64 := ((((Vector.replicate 64 (0 : Word)).set 1 c.payload[0]).set 2 c.payload[1]).set 3 c.payload[2]).set 4
    c.payload[3]
  let x := ((x.set 5 (BitVec.ofNat 64 c.entry)).set 6 (BitVec.ofNat 64 (s.callerId c.caller))).set 7
    (c.num.setWidth 64)
  { x := x
    c := ((Vector.replicate 16 Cap.null).set 0 c.cap).set 1 c.cap
    pcc := Cap.make entry.base entry.space entry.length entry.perms entry.tenant 0 entry.tag
    pc := 0
    priv := false
    tenant := c.tenant }

/-- Instructions that a function may execute (R340). -/
def remoteBudget : Nat := 4096

/-- A free context takes the unit's oldest waiting call (R333, R335, R339). Entries 4 to 63, and
built-ins at a control core, are REJECTED. [DEDUCED, log 29] -/
def execRemoteContextStart (u : UnitId) (s : State) : Res :=
  let x := s.unit u
  match x.waiting, s.freeContexts u with
  | c :: rest, i :: _ =>
    let s := s.setUnit u { x with waiting := rest }
    let answer (s : State) (st : Status) : State :=
      let r : CallReply := ⟨c.caller, c.num, c.entry, BitVec.ofNat 16 st.code, 0, 0⟩
      (s.setUnit u ((s.unit u).keep r)).sendReply r
    let start (s : State) (t : Thread) : State :=
      let y := s.unit u
      s.setUnit u { y with ctx := y.ctx.set i (some ⟨c, t, remoteBudget, false, none, 0⟩) }
    if c.entry < 4 then match u with
      | .core _ => .next (answer s .rejected)
      | .grotto _ => .next (start s .zero)
    else if c.entry < 64 then .next (answer s .rejected)
    else match s.readTable u c with
      | (s, .error st) => .next (answer s st)
      | (s, .ok entry) => .next (start s (s.functionThread c entry))
  | _, _ => .next s

/-- The 4,097th instruction of a function raises REMOTE_BUDGET instead of executing (R340). R367 states no
KTVAL for it, so that is a free value. [DEDUCED, log 8] -/
def execRemoteBudgetExhausted (t : RemoteId) (s : State) : Res :=
  match (s.unit t.unit).ctx[t.ctx] with
  | none => .next s
  | some x =>
    if x.budget = 0 && decide (64 ≤ x.call.entry) then
      let (n, s) := s.draw
      .next (s.trap (.remote t) ⟨.remoteBudget, Config.freeWord n⟩)
    else .next s

/-! ### The caller's side (R336, R346, R348) -/

/-- KRTIME in arithmetic cycles. -/
def krtimeCycles (t : BitVec 16) : Nat := t.toNat * 800

/-- A call of a control core's slot or of a cell's list, with its caller's KRTIME in cycles. -/
def State.openCall (s : State) (c : CallerId) (slot : Fin 16) : Option (OpenCall × Nat) :=
  match c with
  | .core k => (s.core k).slots[slot].map fun o => (o, krtimeCycles (s.core k).krtime)
  | .cell c => ((s.cell c).calls[slot.val]?).map fun o =>
      (o, match o.call.caller with
        | .cell _ v _ _ => krtimeCycles (s.vp v).krtime
        | _ => 0)

/-- The same call replaced. -/
def State.setOpenCall (s : State) (c : CallerId) (slot : Fin 16) (o : OpenCall) : State :=
  match c with
  | .core k => s.setCore k { s.core k with slots := (s.core k).slots.set slot (some o) }
  | .cell c => s.setCell c { s.cell c with calls := setNth (s.cell c).calls slot.val o }

/-- A call without a reply is resent at ¼, ½ and ¾ of KRTIME (R348). -/
def execCallResend (c : CallerId) (slot : Fin 16) (s : State) : Res :=
  match s.openCall c slot with
  | none => .next s
  | some (o, time) =>
    if o.reply.isNone && decide (o.resends < 3) &&
        decide ((o.resends + 1) * time ≤ 4 * (s.cycle - o.sentAt)) then
      .next ((s.setOpenCall c slot { o with resends := o.resends + 1 }).sendCall o.call)
    else .next s

/-- A call without a reply is LOST once KRTIME has passed (R348). -/
def OpenCall.expired (o : OpenCall) (time now : Nat) : Bool := o.reply.isNone && decide (time ≤ now - o.sentAt)

/-- A call declared LOST (R348). [DEDUCED, log 31] -/
def State.declareLost (s : State) (c : CallerId) (slot : Fin 16) (o : OpenCall) : State :=
  let r : CallReply := ⟨o.call.caller, o.call.num, o.call.entry, BitVec.ofNat 16 Status.lost.code, 0, 0⟩
  let s := s.setOpenCall c slot { o with reply := some r }
  { s with lost := (o.call.caller, o.call.num) :: s.lost }

/-- At KRTIME a call without a reply is LOST (R348). -/
def execCallLostTimeout (c : CallerId) (slot : Fin 16) (s : State) : Res :=
  match s.openCall c slot with
  | none => .next s
  | some (o, time) =>
    if o.expired time s.cycle then .next (s.declareLost c slot o) else .next s

/-- The control core of a caller of this device: the core itself, or that of the cell's row group (R246). -/
def Caller.homeCore : Caller → Option CoreId
  | .core k => some k
  | .cell c _ _ _ => some (coreOf c.die (c.row.val / 4))
  | .module _ _ _ => none

/-- The record of a reply that came after its call was LOST (R348): to the calling core, or to the event
core of the cell's VP, with the caller's control core as its source (R246). [DEDUCED, log 31] -/
def State.remoteLate (s : State) (r : CallReply) : State :=
  let late (k : CoreId) : BitVec 128 :=
    record 6 0 r.status.toNat (coreSrc k) (r.num.toNat + r.entry % 2 ^ 12 * 2 ^ 32)
  match r.caller, r.caller.homeCore with
  | .core k, _ => s.post k (late k)
  | .cell _ v _ _, some k => s.post (s.vp v).eventCore (late k)
  | _, _ => s

/-- The unit of this device that holds a caller's open calls. -/
def Caller.holder : Caller → Option CallerId
  | .core k => some (.core k)
  | .cell c _ _ _ => some (.cell c)
  | .module _ _ _ => none

/-- The open call that a reply is too late for: KRTIME has passed without one (R348). [DEDUCED, log 31] -/
def State.tooLate (s : State) (r : CallReply) : Option (CallerId × Fin 16 × OpenCall) :=
  r.caller.holder.bind fun c => (List.finRange 16).findSome? fun i =>
    ((s.openCall c i).filter fun x => x.1.call.num == r.num && x.1.call.caller == r.caller &&
      x.1.expired x.2 s.cycle).map fun x => (c, i, x.1)

/-- The reply put into the slot of its call; a call that has its reply keeps it. -/
def takeReply (r : CallReply) (o : OpenCall) : OpenCall :=
  if o.call.num = r.num ∧ o.call.caller = r.caller ∧ o.reply = none then { o with reply := some r } else o

/-- The unit of a caller of this device that counts what it drops. [DEDUCED, log 31] -/
def callerSite : Caller → ErrorSite
  | .core k => .core k
  | .cell c _ _ _ => .cell c
  | .module _ _ _ => .link

/-- Reply i arrives at its caller's unit (R346); one that comes after KRTIME finds its call LOST (R348). A WFE that waits goes on (R395). A reply for a slot that a start
or a reset has cleared is dropped and counted (R387, R419); one that no call waits for is dropped. -/
def execCallReplyArrival (i : Nat) (s : State) : Res :=
  match s.callBack[i]? with
  | none => .next s
  | some r =>
    let s := { s with callBack := dropNth s.callBack i }
    if s.cleared.contains (r.caller, r.num) then .next (s.countError (callerSite r.caller) true)
    else if s.lost.contains (r.caller, r.num) then .next (s.remoteLate r)
    else match s.tooLate r with
    | some (c, slot, o) => .next ((s.declareLost c slot o).remoteLate r)
    | none => match r.caller with
      | .core k =>
        let c := s.core k
        let waits := c.slots.toList.any fun o => o.any fun o =>
          o.call.num == r.num && o.call.caller == r.caller && o.reply.isNone
        let c' : Core := { c with slots := Vector.ofFn fun i => c.slots[i].map (takeReply r) }
        .next (s.setCore k (if waits then c'.wake else c'))
      | .cell c _ _ _ =>
        let x := s.cell c
        .next (s.setCell c { x with calls := x.calls.map (takeReply r) })
      | .module _ _ _ => .next s

/-! ### Built-in functions (R351 to R355) -/

/-- How a unit reaches the memory of a tenant. -/
def State.unitReach (s : State) (u : UnitId) (tenant : BitVec 8) : Reach := ⟨unitCache u, tenant, s.rootOf tenant⟩

/-- Bytes at a virtual address for a built-in. [DEDUCED, log 89] -/
def State.builtinRead (s : State) (u : UnitId) (tenant : BitVec 8) (va n : Nat) :
    State × Except Status (List Byte) := s.areaRead (s.unitReach u tenant) .read va n

/-- n words from a virtual address, each of four bytes. -/
def State.builtinWords (s : State) (u : UnitId) (tenant : BitVec 8) (va : Nat) :
    Nat → State × Except Status (List Nat)
  | 0 => (s, .ok [])
  | n + 1 => match s.builtinRead u tenant va 4 with
    | (s, .error e) => (s, .error e)
    | (s, .ok bs) => match s.builtinWords u tenant (va + 4) n with
      | (s, .error e) => (s, .error e)
      | (s, .ok ws) => (s, .ok (leNat bs :: ws))

/-- The status of a write's failed translation. `denied` is that of a page that cannot be written. -/
def writeStatus (denied : Status) : Cause → Status
  | .ecc => .eccDropped
  | .wprot => denied
  | _ => .badDesc

/-- Where the pieces of a unit that is to be written lie. -/
def State.builtinPieces (s : State) (x : Reach) (denied : Status) :
    List (Nat × Nat) → State × Except Status (List (Loc × Nat))
  | [] => (s, .ok [])
  | (va, n) :: rest => match s.translate x.cache x.tenant x.root va true with
    | (s, .error c) => (s, .error (writeStatus denied c))
    | (s, .ok p) => match s.builtinPieces x denied rest with
      | (s, .error e) => (s, .error e)
      | (s, .ok ls) => (s, .ok ((⟨.dense, p.pa, none⟩, n) :: ls))

/-- Where a built-in writes units of n bytes: all of a group's addresses are found before any is written.
[DEDUCED, log 89] -/
def State.builtinTargets (s : State) (u : UnitId) (tenant : BitVec 8) (denied : Status) (n : Nat) :
    List Nat → State × Except Status (List (List (Loc × Nat)))
  | [] => (s, .ok [])
  | va :: rest => match s.builtinPieces (s.unitReach u tenant) denied (pagesOf va n) with
    | (s, .error e) => (s, .error e)
    | (s, .ok p) => match s.builtinTargets u tenant denied n rest with
      | (s, .error e) => (s, .error e)
      | (s, .ok ps) => (s, .ok (p :: ps))

/-- Values written at located units, n bytes each. -/
def State.builtinPut (s : State) (t : RemoteId) (tenant : BitVec 8) (n : Nat) (xs : List (List (Loc × Nat) × Nat)) : State :=
  xs.foldl (fun s x => s.areaPut ⟨tenant, .thread (.remote t)⟩ x.1 (leBytes n x.2)) s

/-- A context of a grotto that runs a built-in. -/
def State.builtin (s : State) (t : RemoteId) (entry : Nat) : Option RemoteCtx :=
  match t.unit with
  | .core _ => none
  | .grotto _ => ((s.unit t.unit).ctx[t.ctx]).filter fun x => x.call.entry == entry

/-- The context replaced. -/
def State.setCtx (s : State) (t : RemoteId) (x : RemoteCtx) : State :=
  let u := s.unit t.unit
  s.setUnit t.unit { u with ctx := u.ctx.set t.ctx (some x) }

/-- The function ends with a status and results. -/
def State.builtinEnd (s : State) (t : RemoteId) (st : Status) (r0 r1 : Nat) : State :=
  s.endRemote t (BitVec.ofNat 16 st.code) (BitVec.ofNat 64 r0) (BitVec.ofNat 64 r1)

/-- A range of a virtual address lies within a capability. -/
def Cap.covers (c : Cap) (va n : Nat) : Bool :=
  decide (c.base ≤ va) && decide (va + n ≤ c.base + c.length)

/-- Word i and doubleword i of a parameter block. -/
def blockWord (ws : List Nat) (i : Nat) : Nat := ws.getD i 0
def blockDouble (ws : List Nat) (i : Nat) : Nat := blockWord ws i + blockWord ws (i + 1) * 2 ^ 32

/-- An array of count words that a block may name. -/
def arrayOk (cap : Cap) (count va : Nat) : Bool := va % 4 == 0 && cap.covers va (4 * count)

/-- The checks that REDUCE and ADAMW share (R352). -/
def blockOk (cap : Cap) (ws : List Nat) : Bool :=
  let count := blockWord ws 0
  let flags := blockWord ws 3
  decide (1 ≤ count) && decide (count ≤ 2 ^ 24) && blockWord ws 2 == 0 && decide (flags ≤ 1) &&
    arrayOk cap count (blockDouble ws 4) &&
    (flags == 1 || (blockDouble ws 6 % 8 == 0 && cap.covers (blockDouble ws 6) 8))

/-- Source VAs of REDUCE. -/
def reduceSources (ws : List Nat) : List Nat :=
  (List.range (blockWord ws 1)).map fun i => blockDouble ws (16 + 2 * i)

/-- REDUCE's own checks. -/
def reduceOk (cap : Cap) (ws : List Nat) : Bool :=
  let n := blockWord ws 1
  blockOk cap ws && decide (2 ≤ n) && decide (n ≤ 8) && ((ws.drop 10).take 6).all (· == 0) &&
    (ws.drop (16 + 2 * n)).all (· == 0) && (reduceSources ws).all (arrayOk cap (blockWord ws 0))

/-- ADAMW's own checks. -/
def adamwOk (cap : Cap) (ws : List Nat) : Bool :=
  blockOk cap ws && blockWord ws 1 == 0 && (ws.drop 25).all (· == 0) &&
    [10, 12, 14].all fun i => arrayOk cap (blockWord ws 0) (blockDouble ws i)

/-- The first step of REDUCE or ADAMW: space, permissions, block and its checks (R351, R352). -/
def State.blockStart (s : State) (t : RemoteId) (x : RemoteCtx) (ok : Cap → List Nat → Bool) : State :=
  let cap := x.call.cap
  let off := x.call.payload[0].toNat
  if cap.space != .dense || !cap.pR || !cap.pW then s.builtinEnd t .perm 0 0
  else if off % 8 != 0 || decide (cap.length < off + 128) then s.builtinEnd t .badDesc 0 0
  else match s.builtinWords t.unit x.call.tenant (cap.base + off) 32 with
    | (s, .error e) => s.builtinEnd t e 0 0
    | (s, .ok ws) =>
      if ok cap ws then s.setCtx t { x with params := some ws } else s.builtinEnd t .badDesc 0 0

/-- The flag stored after the last group, and the end (R352). What lies on other modules is performed there first.
[DEDUCED, log 17] -/
def State.blockEnd (s : State) (t : RemoteId) (x : RemoteCtx) (ws : List Nat) : State :=
  let count := blockWord ws 0
  let flag := blockDouble ws 8
  if !s.podDone (.remote t) then s
  else if blockWord ws 3 = 1 ∨ count < x.done then s.builtinEnd t .ok count flag
  else match s.builtinTargets t.unit x.call.tenant .badDesc 8 [blockDouble ws 6] with
    | (s, .error e) => s.builtinEnd t e count 0
    | (s, .ok ps) =>
      let s := s.builtinPut t x.call.tenant 8 (ps.map fun p => (p, flag))
      if s.podDone (.remote t) then s.builtinEnd t .ok count flag else s.setCtx t { x with done := count + 1 }

/-- n elements of each of several arrays, from the same element on. -/
def State.builtinCols (s : State) (u : UnitId) (tenant : BitVec 8) (first n : Nat) :
    List Nat → State × Except Status (List (List Nat))
  | [] => (s, .ok [])
  | va :: rest => match s.builtinWords u tenant (va + 4 * first) n with
    | (s, .error e) => (s, .error e)
    | (s, .ok w) => match s.builtinCols u tenant first n rest with
      | (s, .error e) => (s, .error e)
      | (s, .ok r) => (s, .ok (w :: r))

/-- One group of a built-in over arrays: `inputs` are the arrays read, `outputs` the arrays written,
`f` gives the outputs' elements from the inputs' (R352). -/
def State.blockGroup (s : State) (t : RemoteId) (x : RemoteCtx) (ws : List Nat) (inputs outputs : List Nat)
    (f : List (List Nat) → List (List Nat)) : State :=
  let n := min 16 (blockWord ws 0 - x.done)
  match s.builtinCols t.unit x.call.tenant x.done n inputs with
  | (s, .error e) => s.builtinEnd t e x.done 0
  | (s, .ok cols) =>
    let vas := outputs.flatMap fun va => (List.range n).map fun i => va + 4 * (x.done + i)
    match s.builtinTargets t.unit x.call.tenant .badDesc 4 vas with
    | (s, .error e) => s.builtinEnd t e x.done 0
    | (s, .ok ps) => (s.builtinPut t x.call.tenant 4 (ps.zip (f cols).flatten)).setCtx t { x with done := x.done + n }

/-- One round of REDUCE's tree: neighbours added, an odd last value carried (R353). -/
def treeRound : List Nat → List Nat
  | a :: b :: t => f32Add a b :: treeRound t
  | l => l

/-- The tree sum of up to 8 values. -/
def treeSum (l : List Nat) : Nat := (treeRound (treeRound (treeRound l))).headD 0

/-- The i-th elements of several columns. -/
def rowOf (cols : List (List Nat)) (i : Nat) : List Nat := cols.map fun c => c.getD i 0

/-- REDUCE (R353): its checks, then one group a step, then the flag. -/
def execBuiltinReduce (t : RemoteId) (s : State) : Res :=
  match s.builtin t 0 with
  | none => .next s
  | some x => match x.params with
    | none => .next (s.blockStart t x reduceOk)
    | some ws =>
      if blockWord ws 0 ≤ x.done then .next (s.blockEnd t x ws)
      else .next (s.blockGroup t x ws (reduceSources ws) [blockDouble ws 4] fun cols =>
        [(List.range ((cols.headD []).length)).map fun i => treeSum (rowOf cols i)])

/-- One element of ADAMW: p, m and v after the update (R354). -/
def adamwElem (ws : List Nat) (p g m v : Nat) : Nat × Nat × Nat :=
  let k (i : Nat) : Nat := blockWord ws (16 + i)
  let m := f32Add (f32Mul (k 0) m) (f32Mul (k 1) g)
  let v := f32Add (f32Mul (k 2) v) (f32Mul (k 3) (f32Mul g g))
  let den := f32Add (f32Sqrt (f32Mul v (k 5))) (k 6)
  let u := f32Div (f32Mul m (k 4)) den
  (f32Sub p (f32Mul (k 7) (f32Add u (f32Mul (k 8) p))), m, v)

/-- ADAMW (R354). -/
def execBuiltinAdamw (t : RemoteId) (s : State) : Res :=
  match s.builtin t 1 with
  | none => .next s
  | some x => match x.params with
    | none => .next (s.blockStart t x adamwOk)
    | some ws =>
      if blockWord ws 0 ≤ x.done then .next (s.blockEnd t x ws)
      else
        let p := blockDouble ws 4
        let g := blockDouble ws 10
        let m := blockDouble ws 12
        let v := blockDouble ws 14
        .next (s.blockGroup t x ws [p, g, m, v] [p, m, v] fun cols =>
          let rows := (List.range ((cols.headD []).length)).map fun i =>
            let r := rowOf cols i
            adamwElem ws (r.getD 0 0) (r.getD 1 0) (r.getD 2 0) (r.getD 3 0)
          [rows.map (·.1), rows.map (·.2.1), rows.map (·.2.2)])

/-- One 8-byte unit written by FILL or COPY; at the end OK (R355). [DEDUCED, log 17] -/
def State.unitStep (s : State) (t : RemoteId) (x : RemoteCtx) (count dst : Nat)
    (data : State → State × Except Status Nat) : State :=
  if count ≤ x.done then (if s.podDone (.remote t) then s.builtinEnd t .ok count 0 else s)
  else match data s with
    | (s, .error e) => s.builtinEnd t e x.done 0
    | (s, .ok v) =>
      match s.builtinTargets t.unit x.call.tenant .perm 8 [x.call.cap.base + dst + x.done] with
      | (s, .error e) => s.builtinEnd t e x.done 0
      | (s, .ok ps) =>
        (s.builtinPut t x.call.tenant 8 (ps.map fun p => (p, v))).setCtx t { x with done := x.done + 8 }

/-- FILL (R355). -/
def execBuiltinFill (t : RemoteId) (s : State) : Res :=
  match s.builtin t 2 with
  | none => .next s
  | some x =>
    let cap := x.call.cap
    let off := x.call.payload[0].toNat
    let count := x.call.payload[1].toNat
    match x.params with
    | some _ => .next (s.unitStep t x count off fun s => (s, .ok x.call.payload[2].toNat))
    | none =>
      if cap.space != .dense || !cap.pW then .next (s.builtinEnd t .perm 0 0)
      else if off % 8 != 0 || count % 8 != 0 || decide (cap.length < off + count) then
        .next (s.builtinEnd t .badDesc 0 0)
      else .next (s.setCtx t { x with params := some [] })

/-- COPY (R355). -/
def execBuiltinCopy (t : RemoteId) (s : State) : Res :=
  match s.builtin t 3 with
  | none => .next s
  | some x =>
    let cap := x.call.cap
    let dst := x.call.payload[0].toNat
    let src := x.call.payload[1].toNat
    let count := x.call.payload[2].toNat
    match x.params with
    | some _ => .next (s.unitStep t x count dst fun s =>
        match s.builtinRead t.unit x.call.tenant (cap.base + src + x.done) 8 with
        | (s, .error e) => (s, .error e)
        | (s, .ok bs) => (s, .ok (leNat bs)))
    | none =>
      if cap.space != .dense || !cap.pR || !cap.pW then .next (s.builtinEnd t .perm 0 0)
      else if dst % 8 != 0 || src % 8 != 0 || count % 8 != 0 || decide (cap.length < dst + count) ||
          decide (cap.length < src + count) || (decide (dst < src + count) && decide (src < dst + count))
        then .next (s.builtinEnd t .badDesc 0 0)
      else .next (s.setCtx t { x with params := some [] })

end Sys2Proof.Machine
end

