-- ==== Sys2Proof/Machine/ControlRemote.lean ====
section
/-!
DEFINITION. RCALL and RWAIT of a control core (R336, R344, R346), RRET and RFWD of a remote function (R342,
R343).
-/

namespace Sys2Proof.Machine
open Sys2Proof

/-- The lowest free call slot of a core. [DESIGN CHOICE, log 26] -/
def Core.freeSlot (c : Core) : Option (Fin 16) :=
  (List.finRange 16).find? fun i => (c.slots[i]).isNone

/-- The payloads: x[b] to x[b+n], zero beyond (R336). -/
def Thread.payloads (t : Thread) (b : XReg) (n : Fin 4) : Vector Word 4 :=
  Vector.ofFn fun i => if i.val ≤ n.val then t.get (b + Fin.ofNat 64 i.val) else 0

/-- The caller's earlier stores to the page of the target performed before the call leaves (R344). -/
def State.settlePage (s : State) (t : ThreadId) (l : Loc) : State :=
  s.settle t l.space (l.addr / 4096 * 4096) 4096

/-- RCALL (R336): the checks, a free slot, with the release flag everything earlier performed, at pod scope where the home
lies on another module (R344), then the call is sent and x[d] holds its handle.
[DEDUCED, log 5; DEDUCED, log 17; DESIGN CHOICE, log 26] -/
def execRcall (d : XReg) (c : CReg) (rel : Bool) (e : Fin 32) (b : XReg) (n : Fin 4) (s : State) : Res :=
  onCore (.rcall d c rel e b n) s fun k =>
    let t := ThreadId.core k
    let th := s.thread t
    let cap := s.getC t c
    match callCapTrap cap c.val th.tenant with
    | some x => .next (s.trap t x)
    | none => match s.targetHome t.cache th.tenant (s.threadRoot t) cap with
      | (s, .error q) => .next (s.trap t ⟨q, BitVec.ofNat 64 cap.base⟩)
      | (s1, .ok (home, l)) => match (s1.core k).freeSlot with
        | none => .next s
        | some slot =>
          if rel && !s.callsAccepted t then .next s
          else if rel && home.isFar && !(s.drainThread t).podDone t then .next (s.drainThread t)
          else
            let s := if rel then s1.drainThread t else s1.settlePage t l
            let num := (s.core k).callNum
            let call : Call :=
              { entry := field (th.get (Fin.ofNat 64 e.val)).toNat 11 0, payload := th.payloads b n,
                cap := cap, tenant := th.tenant, num := num, caller := .core k, home := home,
                forwarded := false, refused := false, rel := rel, base := l.addr, after := [] }
            let core := s.core k
            let s := s.setCore k { core with
              callNum := nextNum num
              slots := core.slots.set slot (some ⟨call, s.cycle, 0, none, false⟩) }
            let handle := BitVec.ofNat 64 (num.toNat + slot.val * 2 ^ 32)
            .next (((s.sendCall call).setX t d handle).retire t)

/-- RWAIT (R346): the status and the results once the reply is there; BAD_DESC for a handle of no held
slot. [DEDUCED, log 5] -/
def execRwait (d a b : XReg) (s : State) : Res :=
  onCore (.rwait d a b) s fun k =>
    let t := ThreadId.core k
    let h := (s.getX t a).toNat
    let slot : Fin 16 := Fin.ofNat 16 (field h 35 32)
    let write (s : State) (st : Nat) (r0 r1 : Word) : Res :=
      .next ((((s.setX t d (BitVec.ofNat 64 (st * 2 ^ 48))).setX t b r0).setX t (b + 1) r1).retire t)
    match (s.core k).slots[slot] with
    | none => write s Status.badDesc.code 0 0
    | some o =>
      if field h 63 36 != 0 || o.call.num.toNat != field h 31 0 then write s Status.badDesc.code 0 0
      else match o.reply with
        | none => .next s
        | some r =>
          let c := s.core k
          write (s.setCore k { c with slots := c.slots.set slot none }) r.status.toNat r.r0 r.r1

/-- An instruction that only a remote function executes; in a control thread it raises ILLEGAL (R342). -/
def onRemote (i : Instr) (s : State) (k : RemoteId → RemoteCtx → Res) : Res :=
  match s.focus.thread with
  | .core c => .next (s.illegal (.core c) i)
  | .remote t => match (s.unit t.unit).ctx[t.ctx] with
    | none => .next s
    | some x => k t x

/-- RRET ends the function (R342), a release: a remote context has no store queue, and it waits for the acknowledgements of
what it has done on other modules (R343). [DEDUCED, log 17; DEDUCED, log 91] -/
def execRret (d a b : XReg) (s : State) : Res :=
  onRemote (.rret d a b) s fun t x =>
    let st := field (x.thread.get d).toNat 15 0
    if st = Status.lost.code ∨ st = Status.remoteFault.code ∨ st = Status.replayed.code then
      .next (s.illegal (.remote t) (.rret d a b))
    else if !s.podDone (.remote t) then .next s
    else .next (s.endRemote t (BitVec.ofNat 16 st) (x.thread.get a) (x.thread.get b))

/-- RFWD ends the function and passes its call on (R343), a release as RRET is. [DEDUCED, log 17; DEDUCED, log 27] -/
def execRfwd (ca : CReg) (b : XReg) (s : State) : Res :=
  onRemote (.rfwd ca b) s fun t x =>
    let id := ThreadId.remote t
    let cap := x.thread.cap ca
    if x.call.forwarded then .next (s.illegal id (.rfwd ca b))
    else match callCapTrap cap ca.val x.thread.tenant with
      | some q => .next (s.trap id q)
      | none => match s.targetHome id.cache x.thread.tenant (s.threadRoot id) cap with
        | (s, .error q) => .next (s.trap id ⟨q, BitVec.ofNat 64 cap.base⟩)
        | (u, .ok (home, _)) =>
          if !s.podDone id then .next s
          else
          let s := u
          let th := x.thread
          let call : Call :=
            { x.call with
              entry := field (th.get b).toNat 11 0
              payload := #v[th.get 1, th.get 2, th.get 3, th.get 4]
              cap := cap
              home := home
              forwarded := true
              refused := false
              after := [] }
          let u := s.unit t.unit
          .next ((s.setUnit t.unit { u with ctx := u.ctx.set t.ctx none }).sendCall call)

end Sys2Proof.Machine
end

