-- ==== Sys2Proof/Machine/CellPost.lean ====
section
/-!
DEFINITION. The fibre forms of a cell (R116 to R120), the cell RCALL (R337, R338), and their replies.
-/

namespace Sys2Proof.Machine
open Sys2Proof

/-! ### Fibre forms -/

/-- The checks of R114 on c[m] with h = 0, as a cell makes them when the instruction fires (R118); `go` has
the head row's physical address. -/
def cellFibre (needs : Cap → Bool) (m : Fin 16) (go : Ctx → Cap → Nat → State → Fired) (x : Ctx)
    (s : State) : Fired :=
  let cap := (s.cell x.c).c[m]
  let tenant := x.pl.x.tenant
  let cache := CacheId.memCell x.c.server
  let fault (s : State) (c : Cause) : Fired := .fault s ⟨c, x.slot, 0, cap.base, 0⟩
  match fibreCapTrap cap m.val tenant (needs cap) with
  | some e => fault s e.cause
  | none =>
    if cap.length < 64 then fault s .bounds
    else if cap.base / 2 ^ 48 != 0 then fault s .page
    else if (s.cached cache tenant cap.base).isNone then .wait (s.park x cap.base 0 false)
    else match s.translate cache tenant (s.rootOf tenant) cap.base false with
      | (s, .error c) => fault s c
      | (s, .ok p) => if p.fill.isSome then fault s .perm else go x cap p.pa s

/-- A request of a cell to the owner of a fibre. -/
def fibreRequest (c : CellId) (v : VpId) (tenant : BitVec 8) (block slot inst : Nat) (op : FibreOp)
    (va pa length : Nat) (lanes after : List Nat) : FibreReq :=
  { agent := .cell c v block slot inst lanes, op := op, va := va, pa := pa, tenant := tenant,
    length := length, owner := homeGrotto (localAddr pa), ticket := none, arrived := 0, refused := false,
    reserved := none, after := after }

/-- A posted form is held to commit and counts one output (R116, R149, R154). -/
def postFibre (op : FibreOp) (x : Ctx) (cap : Cap) (pa : Nat) (s : State) : Fired :=
  match countOutput x.blk x.slot x.inst with
  | .error f => .fault s f
  | .ok i =>
    let h : Held := .fibre x.slot op cap.base pa cap.length x.after
    .done s ({ i with held := i.held ++ [(x.slot, h)] }.mark x.slot .done)

/-- The pairs of an FMRG, lane 0 first (R117). -/
def mergePairs (x : Ctx) : List (Nat × Nat) :=
  ((List.range 16).filter fun i => x.l.ok i && x.r.ok i).map fun i =>
    ((x.l.at i).toNat, (x.r.at i).toNat)

/-- [DEDUCED, log 88] -/
def execCellFmrg (f : C3) (s : State) : Res :=
  fireCell (.cellFmrg f) (cellFibre needsM f.m fun x cap pa s =>
    postFibre (.merge (mergePairs x)) x cap pa s) s

/-- The step of an FSCAN: cursor, 16 pairs, exclusive flag (R117). -/
def scanOp (l : Token) : FibreOp :=
  .scan (if l.ok 0 then (l.at 0).toNat else 0xFFFFFFFF) 16 (l.ok 1 && (l.at 1).getLsbD 0)

/-- [DEDUCED, log 88] -/
def execCellFscan (f : C3) (s : State) : Res :=
  fireCell (.cellFscan f) (cellFibre needsS f.m fun x cap pa s => postFibre (scanOp x.l) x cap pa s) s

/-- FPROBE sends its request when it fires (R118), and takes an entry of its memory cell's queue, so that its reply keeps
its place among the cell's replies (R131, R132). [DEDUCED, log 88] -/
def execCellFprobe (f : C3) (s : State) : Res :=
  fireCell (.cellFprobe f) (cellFibre needsS f.m fun x cap pa s =>
    let lanes := (List.range 16).filter x.l.ok
    let op : FibreOp := .probe (lanes.map fun i => (x.l.at i).toNat)
    let q := fibreRequest x.c x.pl.v x.pl.x.tenant x.blk.num.val x.slot x.inst.num op cap.base pa
      cap.length lanes x.after
    x.issue .probe x.inst { s with fibreReqs := s.fibreReqs ++ [q] }) s

/-- An element 0 to 15 list with e14 and e15 set (R119, R338). -/
def headToken (v : BitVec 16) (l : List Nat) (slot block : Nat) : Token :=
  Token.ofList .ord v (l ++ List.replicate (14 - l.length) 0 ++ [slot, block])

/-- The tokens of a posted form's reply (R119). -/
def FibreReply.postedTokens (r : FibreReply) (slot block : Nat) : List Token :=
  let lo := r.cost.toNat % 2 ^ 32
  let hi := r.cost.toNat / 2 ^ 32
  match r.op with
  | .scan _ _ _ =>
    let on (i : Nat) : Bool := decide (i < r.pairs.length)
    let pair (i : Nat) : Nat × Nat := r.pairs.getD i (0, 0)
    [headToken 0xC03F [r.status.code, lo, hi, r.cursor, r.pairs.length, r.endFlag.toNat] slot block,
      Token.lanes .data on fun i => BitVec.ofNat 32 (pair i).1,
      Token.lanes .data on fun i => BitVec.ofNat 32 (pair i).2]
  | _ => [headToken 0xC007 [r.status.code, lo, hi] slot block]

/-- Two replies of one owner to posted forms of one cell. -/
def FibreReply.sameStream (q r : FibreReply) : Bool :=
  q.owner == r.owner && match q.agent, q.op, r.agent with
    | .cell _ _ _ _ _ _, .probe _, _ => false
    | .cell c _ _ _ _ _, _, .cell d _ _ _ _ _ => c == d
    | _, _, _ => false

/-- Reply tokens of a posted FMRG or FSCAN arrive at REPLY, after the owner's earlier ones to the cell and as there is
room (R119, R160); a VP that has left
the row gives ORPHAN (R226). -/
def execFibrePostedReply (i : Nat) (s : State) : Res :=
  match s.replies[i]? with
  | none => .next s
  | some r => match r.agent, r.op with
    | .cell _ _ _ _ _ _, .probe _ => .next s
    | .cell c v block slot _ _, _ =>
      let out (s : State) : State := { s with replies := dropNth s.replies i }
      if !s.hosted v c then .next ((out s).dropOrphan v (c.src 0 0))
      else
        let ts := r.postedTokens slot block
        if !s.replyReady r || (s.replies.take i).any (fun q => q.sameStream r) then .next s
        else if s.admits c 6 ts.length then .next (((out s).arrive c 6 ts).getD s) else .next s
    | _, _ => .next s

/-- t0 and t1 of a probe's reply (R120). -/
def FibreReply.probeTokens (r : FibreReply) (lanes : List Nat) : Token × Token :=
  let lo := r.cost.toNat % 2 ^ 32
  let hi := r.cost.toNat / 2 ^ 32
  if r.status = .badDesc ∨ r.status = .eccDropped then
    (Token.ofList .data 0 [], Token.ofList .err 0x0001 [r.status.code])
  else
    let value (i : Nat) : Option Nat := match lanes.findIdx? (· == i) with
      | none => none
      | some j => r.found.getD j none
    (Token.lanes .data (fun i => (value i).isSome) fun i => BitVec.ofNat 32 ((value i).getD 0),
      Token.ofList .ord 0x0007 [r.status.code, lo, hi])

/-- The entry of a probe in its memory cell's queue. -/
def CellReq.probeOf (r : CellReq) (v : VpId) (slot inst : Nat) : Bool :=
  r.body == .probe && r.vp == v && r.slot == slot && r.inst == inst

/-- A probe's reply reaches its slot once the cell's earlier requests have been answered (R120, R132). -/
def execFprobeReply (i : Nat) (s : State) : Res :=
  match s.replies[i]? with
  | none => .next s
  | some r => match r.agent, r.op with
    | .cell c v _ slot inst lanes, .probe _ =>
      let out : State := { s with replies := dropNth s.replies i }
      if !s.hosted v c then .next (out.dropOrphan v (c.src 0 0))
      else match oldestOf c (s.memQueue c.server) 0 with
      | none => .next s
      | some (n, q) =>
        if !q.probeOf v slot inst || (s.cell c).holdsReply then .next s
        else
          let s := out.setMemQueue c.server (dropNth (s.memQueue c.server) n)
          let (t0, t1) := r.probeTokens lanes
          let wave := match s.place c with
            | some pl => pl.wave
            | none => 0
          let s := if t1.k = .err then s.itemFailed v wave c slot 0 r.status else s
          .next (s.deliverResult v c inst slot t0 t1)
    | _, _ => .next s

/-! ### RCALL (R337, R338) -/

/-- The elements of every payload that the descriptor names are valid. -/
def payloadOk (l : Token) (count : Nat) : Bool :=
  (List.range count).all fun i => l.ok (2 + 2 * i) && l.ok (3 + 2 * i)

/-- Payload i of a descriptor. -/
def payloadOf (l : Token) (count i : Nat) : Word :=
  if i < count then (l.at (3 + 2 * i)) ++ (l.at (2 + 2 * i)) else 0

/-- RCALL: the checks, then it is held to commit. -/
def execCellRcall (f : C3) (s : State) : Res :=
  fireCell (.cellRcall f) (fun x s =>
    let cap := (s.cell x.c).c[f.m]
    let e1 := (x.l.at 1).toNat
    let count := field e1 2 1 + 1
    if !cap.tag then .fault s (slotFault .tag x.slot)
    else if cap.otype != 0 || cap.tenant != x.pl.x.tenant || cap.space == .sys then
      .fault s (slotFault .perm x.slot)
    else if !x.l.ok 0 || !x.l.ok 1 || !payloadOk x.l count then .fault s (slotFault .bounds x.slot)
    else match countOutput x.blk x.slot x.inst with
      | .error g => .fault s g
      | .ok i =>
        let payload := Vector.ofFn fun j : Fin 4 => payloadOf x.l count j.val
        let h : Held := .call x.slot (field (x.l.at 0).toNat 11 0) payload (bitAt e1 0) cap x.after
        .done s ({ i with held := i.held ++ [(x.slot, h)] }.mark x.slot .done)) s

/-- A cell's call sent at commit: its memory cell finds the home; a translation that prevents it answers the
call at once (R337). -/
def State.sendCellCall (s : State) (v : VpId) (c : CellId) (block slot entry : Nat)
    (payload : Vector Word 4) (rel : Bool) (cap : Cap) (after : List (Nat × Nat)) : State :=
  let tenant := (s.vp v).tenant
  let x := s.cell c
  let num := x.callNum
  let caller : Caller := .cell c v slot block
  let call (h : Home) (base : Nat) : Call :=
    { entry := entry, payload := payload, cap := cap, tenant := tenant, num := num, caller := caller,
      home := h, forwarded := false, refused := false, rel := rel, base := base, after := after }
  let opened (s : State) (k : Call) (r : Option CallReply) : State :=
    let x := s.cell c
    s.setCell c { x with callNum := nextNum num, calls := x.calls ++ [⟨k, s.cycle, 0, r, false⟩] }
  match s.targetHome (.memCell c.server) tenant (s.rootOf tenant) cap with
  | (s, .ok (h, l)) => (opened s (call h l.addr) none).sendCall (call h l.addr)
  | (s, .error e) =>
    let st : Status := match e with
      | .ecc => .eccDropped
      | .perm => .perm
      | _ => .badDesc
    opened s (call (.module 0) 0) (some ⟨caller, num, entry, BitVec.ofNat 16 st.code, 0, 0⟩)

/-- The first call of a list that has its reply, and the others. -/
def takeAnswered : List OpenCall → Option (OpenCall × CallReply × List OpenCall)
  | [] => none
  | o :: rest => match o.reply with
    | some r => some (o, r, rest)
    | none => match takeAnswered rest with
      | none => none
      | some (p, r, rest) => some (p, r, o :: rest)

/-- A cell call's reply arrives at REPLY as one ORD token (R338); a VP that has left the row gives ORPHAN
(R226). -/
def execCallReplyToken (c : CellId) (s : State) : Res :=
  let x := s.cell c
  match takeAnswered x.calls with
  | none => .next s
  | some (o, r, rest) => match o.call.caller with
    | .cell _ v slot block =>
      let out (s : State) : State := s.setCell c { s.cell c with calls := rest }
      if !s.hosted v c then .next ((out s).dropOrphan v (c.src 0 0))
      else if s.admits c 6 1 then
        let lo (w : Word) : Nat := w.toNat % 2 ^ 32
        let hi (w : Word) : Nat := w.toNat / 2 ^ 32
        let t := headToken 0xC01F [r.status.toNat, lo r.r0, hi r.r0, lo r.r1, hi r.r1] slot block
        .next (((out s).arrive c 6 [t]).getD s)
      else .next s
    | _ => .next s

end Sys2Proof.Machine
end

