-- ==== Sys2Proof/Machine/CellCommit.lean ====
section
/-!
DEFINITION. The commit of a block (R153 to R157), quiescence (R156), marker drains (R143), the sends that follow
a commit (R323), and the arrival of a token (R134, R137, R406).
-/

namespace Sys2Proof.Machine
open Sys2Proof

/-! ### When a block commits (R155) -/

/-- Every register of the write mask is written, O outputs are issued, one exit has fired, and no drain is in
progress. -/
def commitMet (b : Block) (i : Instance) : Bool :=
  ((List.finRange 64).all fun r => !b.mask.getLsbD r.val || i.writes.any fun w => w.1 == r) &&
    i.outputs == b.outputs && i.exit.isSome && i.drains.isEmpty

/-- Held effects in slot order, t0 before t1 (R124, R157, R322). -/
def insertHeld (h : Nat × Held) : List (Nat × Held) → List (Nat × Held)
  | [] => [h]
  | x :: xs => if h.1 < x.1 then h :: x :: xs else x :: insertHeld h xs
def sortHeld (l : List (Nat × Held)) : List (Nat × Held) := l.foldl (fun acc h => insertHeld h acc) []

/-- The request that a held store or table write makes at the commit. -/
def heldReq (c : CellId) (v : VpId) (i : Instance) : Held → Option CellReq
  | .store slot op sp ls ords => some ⟨c, v, i.block.val, slot, i.num, .lanes op sp ls ords, none⟩
  | .table slot op t ls ords => some ⟨c, v, i.block.val, slot, i.num, .table op t ls ords, none⟩
  | _ => none

/-- A store, atomic or table write with a part in the cell's own scratchpad, which the commit performs itself (R157,
R296). -/
def CellReq.own (r : CellReq) : Bool :=
  match r.body with
  | .lanes _ .scratch ls _ => ls.any fun l => scratchCell l.addr == r.cell
  | .table _ t _ _ => t == r.cell
  | _ => false

/-- An effect on the cell's own scratchpad stands behind one elsewhere: the commit then performs them all,
which keeps both their order and the unity of R157. [DEDUCED, log 42] -/
def performAll (rs : List CellReq) : Bool :=
  rs.zipIdx.any fun r => r.1.own && rs.zipIdx.any fun a => !a.1.own && mustPrecede a.1 r.1 (decide (a.2 < r.2))

/-- The requests of a commit that it performs itself, and those that go to the memory cell. -/
def nowReqs (rs : List CellReq) : List CellReq := if performAll rs then rs else rs.filter (·.own)
def laterReqs (rs : List CellReq) : List CellReq := if performAll rs then [] else rs.filter fun r => !r.own

/-- A queued request that a commit has performed first: it goes ahead of what the commit performs itself, or is one of the
instance that takes a held store's value (R132, R150). [DEDUCED, log 42] -/
def CellReq.beforeCommit (a : CellReq) (c : CellId) (i : Instance) (rs : List CellReq) : Bool :=
  (nowReqs rs).any (fun r => mustPrecede a r true) || (a.cell == c && a.inst == i.num && !a.ords.isEmpty)

/-- The memory cell performs what goes ahead of a commit, which waits for none of it (R155). [DEDUCED, log 42] -/
def State.performAhead (s : State) (c : CellId) (i : Instance) (rs : List CellReq) : State :=
  s.performNeeded c.server (fun a => a.beforeCommit c i rs) (s.memQueue c.server).length

/-- The requests that a commit performs itself: the first that need not wait for another, again and again; n bounds
them (R322). [DEDUCED, log 42] -/
def State.performNow (s : State) : Nat → List CellReq → State
  | 0, _ => s
  | _, [] => s
  | n + 1, r :: rs =>
    let q := r :: rs
    let (k, r) := ((q.zipIdx.find? fun x => !mustWait q x.2 x.1).map fun x => (x.2, x.1)).getD (0, r)
    (s.performReq r true).1.performNow n (dropNth q k)

/-! ### What a commit does (R157) -/

/-- One held effect that is no store or table write takes place. -/
def State.applyHeld (s : State) (c : CellId) (pl : Place) (i : Instance) (h : Held) : State :=
  match h with
  | .send port t =>
    let x := s.cell c
    s.setCell c { x with sendQ := x.sendQ ++ [(port, t)] }
  | .fibre slot op va pa length ords =>
    let q := fibreRequest c pl.v pl.x.tenant i.block.val slot i.num op va pa length [] ords
    { s with fibreReqs := s.fibreReqs ++ [q] }
  | .call slot entry payload rel cap ords =>
    s.sendCellCall pl.v c i.block.val slot entry payload rel cap (ords.map fun n => (i.num, n))
  | .xfer slot toScratch cap off scratch len tag ords =>
    let t : Transfer := ⟨c, pl.v, toScratch, cap, off, scratch, len, 0, tag, slot, i.num, ords⟩
    { s with transfers := s.transfers ++ [t] }
  | .matrix slot op l r p t0 =>
    let x := s.cell c
    let cmd : MatrixCmd := ⟨op, l, r, p, t0, slot, pl.wave, i.num⟩
    s.setCell c { x with matrix := x.matrix ++ [⟨cmd, [], [], false, false, false, false, false, false, 0, [], []⟩]
                         reserved := x.reserved - 1 }
  | .store _ _ _ _ _ => s
  | .table _ _ _ _ _ => s

/-- All held effects that are no stores or table writes, in order. -/
def State.applyAll (s : State) (c : CellId) (pl : Place) (i : Instance) : List (Nat × Held) → State
  | [] => s
  | h :: hs => (s.applyHeld c pl i h.2).applyAll c pl i hs

/-- The held stores, atomics and table writes of a commit, issued in slot order (R157, R322). [DEDUCED, log 42] -/
def State.issueHeld (s : State) (c : CellId) (rs : List CellReq) : State :=
  let s := s.performNow rs.length (nowReqs rs)
  s.setMemQueue c.server (s.memQueue c.server ++ laterReqs rs)

/-- The register writes of a commit. -/
def writeRegs (g : Vector Token 64) : List (Fin 64 × Token) → Vector Token 64
  | [] => g
  | w :: ws => writeRegs (g.set w.1 w.2) ws

/-- The tokens that an instance took leave their ports. -/
def State.removeTaken (s : State) (c : CellId) (i : Instance) : State :=
  (List.finRange 8).foldl (fun s p =>
    let n := i.takenAt p
    if n = 0 then s else s.removeTokens c p n) s

/-- A held send of EOT, EOR or EOW (R223). -/
def sendsMarker (hs : List (Nat × Held)) : Bool :=
  hs.any fun h => match h.2 with
    | .send _ t => t.k.isMarker
    | _ => false

/-! ### Sends (R157, R323) -/

/-- A store, atomic, table write, posted FMRG or transfer into memory of a cell that is not yet performed, on another module
until that has acknowledged it (R321). [DEDUCED, log 17] -/
def State.unreleased (s : State) (c : CellId) : Bool :=
  ((s.memQueue c.server).any fun r => r.cell == c && r.reply.isNone && r.isHeld s) ||
    (s.fibreReqs.any fun q => match q.agent, q.op with
      | .cell d _ _ _ _ _, .merge _ => d == c
      | _, _ => false) ||
    (s.transfers.any fun t => t.cell == c && !t.toScratch) ||
    s.awaits fun u => match u with
      | .cell d _ _ => d == c
      | _ => false

/-- The waiting sends of a cell leave as far as they may. -/
def State.resumeSends (s : State) (c : CellId) : State :=
  if s.unreleased c then s else s.drainSends c (s.cell c).sendQ.length

/-! ### Commit -/

/-- The effects of a commit, up to the start of what follows. -/
def State.commit (s : State) (c : CellId) (pl : Place) (i : Instance) : State :=
  let hs := sortHeld i.held
  let rs := hs.filterMap fun h => heldReq c pl.v i h.2
  let s := s.removeTaken c i
  let x := s.cell c
  let join := match i.join with
    | some a => x.join.set i.block a
    | none => x.join
  let s := s.setCell c { x with
    g := writeRegs x.g i.writes
    badRegs := x.badRegs.filter fun r => !(i.writes.any fun w => w.1 == r)
    join := join
    discard := x.discard + BitVec.ofNat 64 i.discards
    lastMark := sendsMarker hs
    lastNum := i.num
    inst := none }
  ((s.issueHeld c rs).applyAll c pl i hs).touch pl.v

/-- What follows a commit: the next block, or the end of the cell's work for the wave (R146, R153). -/
def State.follow (s : State) (v : VpId) (c : CellId) : Exit → State
  | .block n => s.startBlock v c n.val
  | .bend => s.setCell c { s.cell c with bend := true, next := none }

/-- A block instance commits once R155 holds and the sends of the block before have left (R157). It waits for no load. -/
def execBlockCommit (c : CellId) (s : State) : Res :=
  match (s.cell c).running, s.place c with
  | some (b, i), some pl => match i.exit with
    | none => .next s
    | some e =>
      let rs := (sortHeld i.held).filterMap fun h => heldReq c pl.v i h.2
      if (s.cell c).stopped || !commitMet b i || !(s.cell c).sendQ.isEmpty then .next s
      else .next ((((s.performAhead c i rs).commit c pl i).resumeSends c).follow pl.v c e)
  | _, _ => .next s

/-- Sends that waited leave (R157, R323). -/
def execSendResume (c : CellId) (s : State) : Res := .next (s.resumeSends c)

/-! ### Quiescence (R156) -/

/-- A slot can still do something: it is to fire, or its result is to come for a target. An RCV whose other operands have
arrived counts, also where a lower RCV of its port, or the array, keeps the token that stands there from it.
[DEDUCED, log 94] -/
def slotAlive (b : Block) (i : Instance) (n : Nat) : Bool :=
  match b.instr n, i.slots[n]? with
  | some ins, some sl => match instrShape ins with
    | none => false
    | some sh => match sl.firing with
      | .done => false
      | .issued => sh.t0 != Target.none || sh.t1 != Target.none
      | .waiting =>
        sl.arrived sh && sh.judge (isTestk ins) sl.l sl.r sl.p != .suppressed
  | _, _ => false

/-- A quiescent instance that does not commit raises EXIT_COUNT, which names no slot (R156). [DEDUCED, log 94] -/
def execBlockQuiescence (c : CellId) (s : State) : Res :=
  match (s.cell c).running, s.place c with
  | some (b, i), some pl =>
    if (s.cell c).stopped || commitMet b i || !i.drains.isEmpty || (List.range b.words.length).any (slotAlive b i) then .next s
    else .next (s.raiseCell pl.v c ⟨.exitCount, 0, 0, 0, 3⟩ 0)
  | _, _ => .next s

/-! ### Drains (R143) -/

/-- The first unfinished drain of a port takes a token: it stops at a marker of its kind or at EOW. -/
def takeForDrain (port : Fin 8) (t : Token) : List Drain → List Drain
  | [] => []
  | d :: ds =>
    if d.port = port && !d.fin then
      let stop := t.k == d.kind || t.k == .eow
      let eow := if t.k == .eow && d.kind != .eow then some t else none
      { d with fin := stop, eow := eow } :: ds
    else d :: takeForDrain port t ds

/-- The EOW of the drained port with the lowest number. -/
def lowestEow (ds : List Drain) : Option Token :=
  let found := (List.finRange 8).filterMap fun p => match ds.find? fun d => d.port == p && d.eow.isSome with
    | some d => d.eow
    | none => none
  found.head?

/-- A slot whose drains have all stopped fires with its marker. -/
def finishDrain (s : State) (x : Ctx) (ins : Instr) (sl : Slot) : Fired :=
  let mine := x.inst.drains.filter fun d => d.slot == x.slot
  let i := { x.inst with drains := x.inst.drains.filter fun d => d.slot != x.slot }
  match x.sh.judge (isTestk ins) sl.l sl.r sl.p with
  | .marker m _ =>
    let t := (lowestEow mine).getD m
    ({ x with inst := i } : Ctx).forward ins t s
  | _ => .done s i

/-- A drain takes and discards the next token of its port. -/
def execMarkerDrain (c : CellId) (port : Fin 8) (s : State) : Res :=
  let x := s.cell c
  match x.running, s.place c with
  | some (b, i), some pl =>
    match i.drains.find? fun d => d.port == port && !d.fin with
    | none => .next s
    | some d => match (x.ports[port])[i.takenAt port]? with
      | none => .next s
      | some t =>
        if x.stopped || t.k.isHeld || x.arrayOwns port then .next s
        else
          let i : Instance := { i with
            taken := i.taken ++ [(port, t)]
            drains := takeForDrain port t i.drains
            discards := i.discards + if t.k.isMarker then 0 else 1 }
          if i.drains.any fun e => e.slot == d.slot && !e.fin then .next (s.setInst c i)
          else match b.instr d.slot, i.slots[d.slot]? with
            | some ins, some sl => match instrShape ins with
              | none => .next s
              | some sh =>
                let y := Ctx.of c pl b i d.slot sh sl
                .next ((finishDrain s y ins sl).finish y)
            | _, _ => .next s
  | _, _ => .next s

/-! ### Arrival of a token (R134, R137, R160, R406) -/

/-- Flight i reaches its port, in the order of its sending; `codeOk` says that its check code and kind are right.
A token for a row that no longer hosts its VP is dropped (R226), and one on an edge to a row that has placed its RCF is
discarded there (R204, R213). [DEDUCED, log 50] -/
def execTokenReceive (i : Nat) (codeOk : Bool) (s : State) : Res :=
  match s.flights[i]? with
  | none => .next s
  | some f =>
    if (s.flights.take i).any fun g => g.src == f.src && g.dest == f.dest && g.port == f.port then .next s
    else
      let out := { s with flights := dropNth s.flights i }
      if !out.hosted f.vp f.dest then .next (out.dropOrphan f.vp (f.dest.src 0 0))
      else
        let ts := if codeOk then [f.tok] else damaged
        if f.edge.isSome && !(out.row f.dest.rowId).phase.beforeRcf then
          let x := out.cell f.dest
          .next (out.setCell f.dest { x with discard := x.discard + 1 })
        else
        if !out.admits f.dest f.port ts.length then .next s
        else
          let out := if codeOk then out else out.countError (.cell f.dest) true
          match out.arrive f.dest f.port ts with
          | none => .next s
          | some t => .next (t.touch f.vp)

end Sys2Proof.Machine
end

