-- ==== Sys2Proof/Machine/Matrix.lean ====
section
/-!
DEFINITION. The matrix array (R265 to R275, R278 to R296): commands, operands from the scratchpad and from ports,
accumulation, sparsity, releases, and the five matrix instructions.
-/

namespace Sys2Proof.Machine
open Sys2Proof

/-! ### Command and descriptors (R284, R286) -/

def MatrixCmd.e (c : MatrixCmd) (i : Nat) : Nat := (c.p.at i).toNat
def MatrixCmd.rows (c : MatrixCmd) : Nat := if c.e 0 % 4 < 2 then 16 else 8
def MatrixCmd.cols (c : MatrixCmd) : Nat := if c.e 0 % 2 = 0 then 32 else 16
def MatrixCmd.kTotal (c : MatrixCmd) : Nat := c.e 1
def MatrixCmd.accumulate (c : MatrixCmd) : Bool := bitAt (c.e 2) 0
def MatrixCmd.passEast (c : MatrixCmd) : Bool := bitAt (c.e 2) 1
def MatrixCmd.passSouth (c : MatrixCmd) : Bool := bitAt (c.e 2) 2
def MatrixCmd.count (c : MatrixCmd) : Nat := c.e 3

/-- N and M of an MMAS pattern (R286). -/
def MatrixCmd.pattern (c : MatrixCmd) : Option (Nat × Nat) :=
  match field (c.e 2) 23 21 with
  | 1 => some (1, 4) | 2 => some (2, 4) | 3 => some (1, 8) | 4 => some (2, 8) | 5 => some (4, 8)
  | _ => none

/-- Row groups of an MMAS and the rows of each. -/
def MatrixCmd.groups (c : MatrixCmd) : Nat := if bitAt (c.e 2) 20 then 2 else 4
def MatrixCmd.groupRows (c : MatrixCmd) : Nat := if bitAt (c.e 2) 20 then 8 else 4

/-- The descriptor of A or of B. -/
def MatrixCmd.desc (c : MatrixCmd) (isA : Bool) : Token := if isA then c.l else c.r

/-- A descriptor's element; its port, if its source is one. -/
def descE (d : Token) (i : Nat) : Nat := (d.at i).toNat
def descPort (d : Token) : Option (Fin 8) := if descE d 0 = 0 then some (Fin.ofNat 8 (descE d 1)) else none

/-- Formats of matrix operands (R271). -/
inductive MFmt where
  | f16 | bf16 | i8 | bpi (p : Nat)
  deriving DecidableEq, Repr

def MFmt.cls : MFmt → Nat
  | .f16 => 0 | .bf16 => 0 | .i8 => 1 | .bpi _ => 2
/-- Bytes of an element; 8 for bpi (R284). -/
def MFmt.bytes : MFmt → Nat
  | .f16 => 2 | .bf16 => 2 | .i8 => 1 | .bpi _ => 8
def MFmt.code : MFmt → Nat
  | .f16 => 1 | .bf16 => 2 | .i8 => 3 | .bpi p => 16 + p

/-- The format of a packet's code, where it is a matrix operand's. -/
def MFmt.ofCode (n : Nat) : Option MFmt :=
  if n = 1 then some .f16 else if n = 2 then some .bf16 else if n = 3 then some .i8
  else if 18 ≤ n ∧ n ≤ 24 then some (.bpi (n - 16)) else none

/-! ### Packets (R268 to R271, R287) -/

/-- The header of a packet. -/
def headerOk (t : Token) : Bool :=
  let e (i : Nat) : Nat := (t.at i).toNat
  let bpi := decide (18 ≤ e 0) && decide (e 0 ≤ 24)
  t.k == .hdr && t.v == 0x001F && (decide (e 0 ≤ 4) || bpi) && decide (1 ≤ e 1) && decide (e 1 ≤ 1024) &&
    decide (1 ≤ e 2) && decide (e 2 ≤ 65536) && (!bpi || e 2 % 64 == 0) &&
    e 3 == (if bpi then e 1 * e 2 / 64 else 0) && decide (e 4 < 65536) &&
    ((List.range 11).all fun i => e (i + 5) == 0)

/-- SCL tokens and data tokens of a packet. -/
def sclTokens (h : Token) : Nat := ((h.at 3).toNat + 31) / 32
def perToken (f : MFmt) : Nat :=
  match f with
  | .f16 => 32 | .bf16 => 32 | .i8 => 64 | .bpi _ => 64
def dataTokens (h : Token) (f : MFmt) : Nat :=
  (h.at 1).toNat * (((h.at 2).toNat + perToken f - 1) / perToken f)

/-- The dimensions that a command asks of a packet (R287). -/
def dimsOk (c : MatrixCmd) (isA : Bool) (h : Token) (f : MFmt) : Bool :=
  let r := (h.at 1).toNat
  let n := (h.at 2).toNat
  if isA then r == c.rows && n == c.kTotal
  else match f with
    | .bpi _ => r == c.cols && n == c.kTotal
    | _ => r == c.kTotal && n == c.cols

/-- The formats that an instruction takes (R289). -/
def opTakes (op : Fin 4) (f : MFmt) : Bool :=
  match f with
  | .bpi _ => op == 2
  | _ => op != 2

/-- What the array does with the next token of an operand's port: takes it, the last of its packet perhaps, finds a
malformed packet, which is discarded (R271), or finds a sound one that is not the command's, which stays (R287, R289). -/
inductive Take where
  | more | last | bad | wrong
  deriving DecidableEq, Repr

/-- The verdict on a packet's header; `more` where it is the command's. -/
def headTake (c : MatrixCmd) (isA : Bool) (h : Token) : Take :=
  match MFmt.ofCode (h.at 0).toNat with
  | none => .bad
  | some f => if !headerOk h then .bad else if dimsOk c isA h f && opTakes c.op f then .more else .wrong

/-- The next token of a packet whose tokens so far are `ts`, the header first. [DEDUCED, log 44] -/
def packetTake (c : MatrixCmd) (isA : Bool) (ts : List Token) (t : Token) : Take :=
  match ts with
  | [] => headTake c isA t
  | h :: rest => match headTake c isA h, MFmt.ofCode (h.at 0).toNat with
    | .more, some f =>
      let n := rest.length
      if n < sclTokens h then (if t.k = .scl then .more else .bad)
      else if t.k != .data then .bad
      else if n + 1 = sclTokens h + dataTokens h f then .last else .more
    | v, _ => v

/-- Data token i of a packet. -/
def packetData (ts : List Token) (i : Nat) : Token :=
  match ts with
  | [] => .nul
  | h :: rest => rest.getD (sclTokens h + i) .nul

/-- Half or byte `col` of a row of a packet (R257, R260, R269). -/
def packetElem (f : MFmt) (ts : List Token) (row col : Nat) : Nat :=
  match ts with
  | [] => 0
  | h :: _ =>
    let per := perToken f
    let tpr := ((h.at 2).toNat + per - 1) / per
    let t := packetData ts (row * tpr + col / per)
    let parts := per / 16
    let bits := 32 / parts
    let sub := col % per
    (t.at (sub / parts)).toNat / 2 ^ (bits * (sub % parts)) % 2 ^ bits

/-- Plane q of block b of a row of a bpi packet. -/
def packetPlane (ts : List Token) (nb row b q : Nat) : Nat :=
  let t := packetData ts (row * nb + b)
  (t.at (2 * q)).toNat + (t.at (2 * q + 1)).toNat * 2 ^ 32

/-- Scale n of a packet (R270). -/
def packetScale (ts : List Token) (n : Nat) : Nat :=
  match ts with
  | [] => 0
  | _ :: rest =>
    let t := rest.getD (n / 32) .nul
    (t.at (n % 32 / 2)).toNat / 2 ^ (16 * (n % 2)) % 65536

/-! ### Operands -/

/-- An operand: its format, its packet if it came from a port. -/
structure Opnd where
  fmt    : MFmt
  desc   : Token
  packet : Option (List Token)
  deriving DecidableEq, Repr

/-- The format that a command's fields give a scratchpad operand (R286). -/
def fieldFmt (c : MatrixCmd) (isA : Bool) : Option MFmt :=
  let x := c.e 2
  if c.op = 2 then
    let p := if isA then field x 15 12 else field x 19 16
    if (if isA then field x 7 4 else field x 11 8) != 0 then none
    else if 2 ≤ p ∧ p ≤ 8 then some (.bpi p) else none
  else match (if isA then field x 7 4 else field x 11 8) with
    | 1 => some .f16 | 2 => some .bf16 | 3 => some .i8
    | _ => none

/-- B's fields say "the same as A" (R286). -/
def sameAsA (c : MatrixCmd) : Bool :=
  field (c.e 2) 11 8 == 0 && (c.op != 2 || field (c.e 2) 19 16 == 0)

/-- The format of A and of B where they are known: of a port operand once its header has been taken. -/
def MatrixRun.fmtA (r : MatrixRun) : Option MFmt :=
  match descPort r.cmd.l with
  | none => fieldFmt r.cmd true
  | some _ => match r.a with
    | [] => none
    | h :: _ => MFmt.ofCode (h.at 0).toNat
def MatrixRun.fmtB (r : MatrixRun) : Option MFmt :=
  match descPort r.cmd.r with
  | none => if sameAsA r.cmd then r.fmtA else fieldFmt r.cmd false
  | some _ => match r.b with
    | [] => none
    | h :: _ => MFmt.ofCode (h.at 0).toNat

/-- Byte addresses of R285. -/
def aAddr (d : Token) (s i k : Nat) : Nat :=
  let t := if descE d 3 = 0 then 64 * s else descE d 3
  descE d 1 + descE d 2 * i + t * (k / 64) + s * (k % 64)
def bAddr (d : Token) (s k o : Nat) : Nat :=
  let t := if descE d 3 = 0 then 64 * descE d 2 else descE d 3
  descE d 1 + descE d 2 * (k % 64) + t * (k / 64) + s * o
def blockAddr (d : Token) (row j : Nat) : Nat :=
  let t := if descE d 3 = 0 then 64 else descE d 3
  descE d 1 + descE d 2 * row + t * j
def scaleAddr (d : Token) (nb row j : Nat) : Nat := descE d 5 + 2 * (row * nb + j)

/-- n bytes from an address lie in the scratchpad (R285). -/
def inScratch (a n : Nat) : Bool := decide (a + n ≤ 131072)

/-! ### Malformed commands (R289) -/

/-- Rules of the descriptors and the command that no format decides. -/
def fieldsOk (c : MatrixCmd) : Bool :=
  let d (t : Token) : Bool :=
    t.v.toNat % 32 == 31 && decide (descE t 0 ≤ 1) && (descE t 0 != 0 || decide (descE t 1 ≤ 5))
  let m := match c.pattern with
    | some (_, m) => m
    | none => 0
  let x := c.e 2
  d c.l && d c.r && c.p.v.toNat % 16 == 15 && decide (c.e 0 ≤ 3) && decide (1 ≤ c.e 1) &&
    decide (c.e 1 ≤ 65536) && !bitAt x 3 && field x 31 24 == 0 && decide (c.e 3 < 65536) &&
    (match c.op.val with
      | 1 => c.pattern.isSome && c.e 1 % m == 0 && descE c.l 0 == 1
      | 2 => field x 23 20 == 0 && c.e 1 % 64 == 0
      | _ => field x 23 20 == 0) &&
    !(descE c.l 0 == 0 && descE c.r 0 == 0 && descE c.l 1 == descE c.r 1)

/-- Limits of a scratchpad descriptor for an element size (R284). -/
def descOk (c : MatrixCmd) (isA : Bool) (f : MFmt) : Bool :=
  let d := c.desc isA
  let s := f.bytes
  let e5 := c.op == 2 || (c.op == 1 && isA)
  descE d 1 % s == 0 && descE d 2 % s == 0 && decide (descE d 2 ≤ 131072) && descE d 3 % s == 0 &&
    decide (descE d 3 ≤ 131072) && decide (descE d 4 ≤ 7) && (!e5 || (d.ok 5 && descE d 5 % 2 == 0))

/-- The kept (group, slot, index) of a window's metadata, or none where it breaks R291. -/
def windowKept (c : MatrixCmd) (marks : List Nat) (w : Nat) : Option (List (List (Nat × Nat))) :=
  match c.pattern with
  | none => none
  | some (n, m) =>
    (List.range c.groups).mapM fun g =>
      let bytes := (List.range n).map fun t => (t, marks.getD ((w * c.groups + g) * n + t) 0)
      let valid := bytes.filter fun b => bitAt b.2 7
      let first := valid.length
      let ok := (bytes.take first).all (fun b => bitAt b.2 7) &&
        (bytes.all fun b => field b.2 6 3 == 0) && (valid.all fun b => decide (b.2 % 8 < m)) &&
        ((valid.zip (valid.drop 1)).all fun p => decide (p.1.2 % 8 < p.2.2 % 8))
      if ok then some (valid.map fun b => (b.1, b.2 % 8)) else none

/-- Windows of an MMAS. -/
def MatrixCmd.windows (c : MatrixCmd) : Nat :=
  match c.pattern with
  | some (_, m) => c.kTotal / m
  | none => 0

/-- Every byte that is read of a scratchpad operand lies in the scratchpad (R285, R291): an MMAS reads the rows of B at
kept indices, and all of them where it passes B on. -/
def addressesOk (c : MatrixCmd) (isA : Bool) (f : MFmt) (marks : List Nat) : Bool :=
  let d := c.desc isA
  let s := f.bytes
  let nb := c.kTotal / 64
  let lines := if isA then c.rows else c.cols
  match c.op.val, f with
  | 2, .bpi p =>
    (List.range lines).all fun r => (List.range nb).all fun j =>
      inScratch (blockAddr d r j) (8 * p) && inScratch (scaleAddr d nb r j) 2
  | 1, _ =>
    ((List.range c.windows).all fun w => match windowKept c marks w, c.pattern with
      | some gs, some (n, m) => (gs.zipIdx).all fun x => x.1.all fun u =>
        if isA then
          (List.range c.groupRows).all fun i =>
            let row := x.2 * c.groupRows + i
            decide (c.rows ≤ row) || inScratch (aAddr d s row (w * n + u.1)) s
        else inScratch (bAddr d s (w * m + u.2) (c.cols - 1)) s
      | _, _ => false) &&
    (isA || !c.passSouth || (List.range c.kTotal).all fun k => inScratch (bAddr d s k (c.cols - 1)) s)
  | _, _ =>
    (List.range c.kTotal).all fun k =>
      if isA then inScratch (aAddr d s (c.rows - 1) k) s else inScratch (bAddr d s k (c.cols - 1)) s

/-- An operand whose format is known breaks no rule; a port operand's packet has been judged as it was taken. -/
def operandOk (r : MatrixRun) (isA : Bool) (f : MFmt) : Bool :=
  opTakes r.cmd.op f && (descE (r.cmd.desc isA) 0 == 0 ||
    (descOk r.cmd isA f && addressesOk r.cmd isA f r.marks))

/-- The operands whose formats are known are of one class (R271). -/
def MatrixRun.sameClass (r : MatrixRun) : Bool :=
  match r.fmtA, r.fmtB with
  | some f, some g => f.cls == g.cls
  | _, _ => true

/-- The command is well formed as far as is known; with `all`, everything has to be known. -/
def MatrixRun.wellFormed (r : MatrixRun) (all : Bool) : Bool :=
  let c := r.cmd
  let one (isA : Bool) (f : Option MFmt) (unknown : Bool) : Bool := match f with
    | some f => operandOk r isA f
    | none => unknown && !all
  fieldsOk c &&
    (c.op != 1 || ((List.range c.windows).all fun w => (windowKept c r.marks w).isSome)) &&
    one true r.fmtA (descE c.l 0 == 0) &&
    one false r.fmtB (descE c.r 0 == 0 || (sameAsA c && descE c.l 0 == 0)) && r.sameClass

/-! ### Reading operands (R285, R296) -/

/-- n bytes of the cell's own scratchpad as a number; none is an uncorrectable error, which is counted. -/
def State.ownRead (s : State) (c : CellId) (a n : Nat) : State × Option Nat :=
  match s.locRead .device ⟨.scratch, c.scratchBase + a, none⟩ n with
  | (s, none) => (s, none)
  | (s, some bs) => (s, some (leNat bs))

/-- The numbers at a list of addresses. -/
def State.ownReads (s : State) (c : CellId) (n : Nat) : List Nat → State × Option (List Nat)
  | [] => (s, some [])
  | a :: rest => match s.ownRead c a n with
    | (s, none) => (s, none)
    | (s, some x) => match s.ownReads c n rest with
      | (s, none) => (s, none)
      | (s, some xs) => (s, some (x :: xs))

/-- Column k of A: one raw element for each row. `kc` is the index by which a scratchpad A is addressed. -/
def State.columnA (s : State) (c : CellId) (r : MatrixRun) (f : MFmt) (rows : List Nat) (k kc : Nat) :
    State × Option (List Nat) :=
  if descE r.cmd.l 0 = 0 then (s, some (rows.map fun i => packetElem f r.a i k))
  else s.ownReads c f.bytes (rows.map fun i => aAddr r.cmd.l f.bytes i kc)

/-- Row k of B. -/
def State.rowB (s : State) (c : CellId) (r : MatrixRun) (f : MFmt) (k : Nat) : State × Option (List Nat) :=
  let cols := List.range r.cmd.cols
  if descE r.cmd.r 0 = 0 then (s, some (cols.map fun o => packetElem f r.b k o))
  else s.ownReads c f.bytes (cols.map fun o => bAddr r.cmd.r f.bytes k o)

/-- Block j of a line of a bpi operand: its planes and its scale. -/
def State.block (s : State) (c : CellId) (r : MatrixRun) (isA : Bool) (p line j : Nat) :
    State × Option (List Nat × Nat) :=
  let d := r.cmd.desc isA
  let nb := r.cmd.kTotal / 64
  let ts := if isA then r.a else r.b
  if descE d 0 = 0 then
    (s, some ((List.range p).map (packetPlane ts nb line j), packetScale ts (line * nb + j)))
  else match s.ownReads c 8 ((List.range p).map fun q => blockAddr d line j + 8 * q) with
    | (s, none) => (s, none)
    | (s, some ps) => match s.ownRead c (scaleAddr d nb line j) 2 with
      | (s, none) => (s, none)
      | (s, some x) => (s, some (ps, x))

/-- Block j of every line. -/
def State.blocks (s : State) (c : CellId) (r : MatrixRun) (isA : Bool) (p j : Nat) :
    List Nat → State × Option (List (List Nat × Nat))
  | [] => (s, some [])
  | line :: rest => match s.block c r isA p line j with
    | (s, none) => (s, none)
    | (s, some x) => match s.blocks c r isA p j rest with
      | (s, none) => (s, none)
      | (s, some xs) => (s, some (x :: xs))

/-! ### Accumulation (R273 to R275) -/

/-- The tile: its words and its SAT flags. -/
abbrev Tile := Vector Elem 512 × Vector Bool 512

/-- The value of a raw f16 or bf16 element. -/
def MFmt.value (f : MFmt) (x : Nat) : Fp :=
  match f with
  | .f16 => Fmt.f16.decode x
  | _ => Fmt.bf16.decode x

/-- One product added to a word: f16 or bf16 with one rounding, i8 with a clamp that sets SAT. -/
def macWord (fa fb : MFmt) (acc : Elem) (sat : Bool) (a b : Nat) : Elem × Bool :=
  match fa with
  | .i8 =>
    let v := acc.toInt + signed a 8 * signed b 8
    let c := max (-(2 ^ 31)) (min (2 ^ 31 - 1) v)
    (BitVec.ofInt 32 c, sat || c != v)
  | _ => (BitVec.ofNat 32 (toF32 ((f32 acc.toNat).add ((fa.value a).mul (fb.value b)))), sat)

/-- The words of given rows with an update at each. -/
def Tile.over (t : Tile) (rows : List Nat) (cols : Nat) (f : Nat → Nat → Elem → Bool → Elem × Bool) : Tile :=
  let at' (n : Fin 512) : Elem × Bool :=
    let i := n.val / 32
    let o := n.val % 32
    if rows.contains i && decide (o < cols) then f i o t.1[n] t.2[n] else (t.1[n], t.2[n])
  (Vector.ofFn fun n => (at' n).1, Vector.ofFn fun n => (at' n).2)

/-- One k index accumulated over rows of A and a row of B. -/
def Tile.mac (t : Tile) (fa fb : MFmt) (rows : List Nat) (cols : Nat) (as bs : List Nat) : Tile :=
  t.over rows cols fun i o w sat =>
    macWord fa fb w sat (as.getD ((rows.findIdx? (· == i)).getD 0) 0) (bs.getD o 0)

/-- The signed magnitude of element e read from the leading planes (R266). -/
def planeValue (ps : List Nat) (e : Nat) : Int :=
  let m := ((ps.drop 1).zipIdx).foldl (fun m x => if bitAt x.1 e then m + 2 ^ (6 - x.2) else m) 0
  if bitAt (ps.headD 0) e then -(m : Int) else m

/-- A block scale; its sign bit reads as 0 (R267). -/
def scaleValue (x : Nat) : Fp := Fmt.bf16.decode (x % 32768)

/-- The term of a pair of blocks added to a word (R274). -/
def macBlock (acc : Elem) (a b : List Nat × Nat) : Elem :=
  let i : Int := (List.range 64).foldl (fun n e => n + planeValue a.1 e * planeValue b.1 e) 0
  let t := ((Fp.fin (i < 0) i.natAbs 0).mul (scaleValue a.2)).mul (scaleValue b.2)
  let t := match t with
    | .fin s m e => Fp.fin s m (e - 14)
    | x => x
  BitVec.ofNat 32 (toF32 ((f32 acc.toNat).add t))

/-! ### Steps of a command -/

/-- The tile of a cell and its change. -/
def Cell.tile (x : Cell) : Tile := (x.acc, x.sat)
def State.setTile (s : State) (c : CellId) (t : Tile) : State :=
  s.setCell c { s.cell c with acc := t.1, sat := t.2 }

/-- The tile, its flags and the counter cleared (R282, R283, R289). -/
def Cell.clearTile (x : Cell) : Cell :=
  { x with acc := Vector.replicate 512 0, sat := Vector.replicate 512 false, counter := 0 }

/-- Steps that a command takes: k indices, windows or blocks. -/
def MatrixCmd.steps (c : MatrixCmd) : Nat :=
  match c.op.val with
  | 1 => c.windows
  | 2 => c.kTotal / 64
  | _ => c.kTotal

/-- k indices that a running command has accumulated (R294). -/
def MatrixRun.kDone (r : MatrixRun) : Nat :=
  match r.cmd.op.val with
  | 1 => match r.cmd.pattern with
    | some (_, m) => r.k * m
    | none => 0
  | 2 => 64 * r.k
  | _ => r.k

/-- The idle steps of a window by group (R292). -/
def idleSteps (gs : List (List (Nat × Nat))) : List Nat :=
  let most := (gs.map (·.length)).foldl max 0
  gs.map fun g => most - g.length

/-- Idle steps added to the KIDLE counters of the row group's control core (R292). -/
def State.countIdle (s : State) (c : CellId) (idle : List Nat) : State :=
  let k := coreOf c.die (c.row.val / 4)
  let x := s.core k
  let kidle := (idle.zipIdx).foldl (fun (v : Vector Word 16) y =>
    let n : Fin 16 := Fin.ofNat 16 (4 * (c.row.val % 4) + y.2)
    v.set n (v[n] + BitVec.ofNat 64 y.1)) x.kidle
  s.setCore k { x with kidle := kidle }

/-- One kept unit of a group accumulated. -/
def State.macUnit (s : State) (c : CellId) (r : MatrixRun) (fa fb : MFmt) (rows : List Nat) (k kc : Nat) :
    State × Bool :=
  match s.columnA c r fa rows k kc with
  | (s, none) => (s, false)
  | (s, some as) => match s.rowB c r fb k with
    | (s, none) => (s, false)
    | (s, some bs) => (s.setTile c ((s.cell c).tile.mac fa fb rows r.cmd.cols as bs), true)

/-- Kept units in order; false is an uncorrectable error. -/
def State.macUnits (s : State) (c : CellId) (r : MatrixRun) (fa fb : MFmt) :
    List (List Nat × Nat × Nat) → State × Bool
  | [] => (s, true)
  | (rows, k, kc) :: rest => match s.macUnit c r fa fb rows k kc with
    | (s, false) => (s, false)
    | (s, true) => s.macUnits c r fa fb rest

/-- Rows of an MMAS group within the shape. -/
def MatrixCmd.rowsOf (c : MatrixCmd) (g : Nat) : List Nat :=
  ((List.range c.groupRows).map fun i => g * c.groupRows + i).filter fun i => decide (i < c.rows)

/-- The units of step n of an MMA or an MMAS. -/
def stepUnits (r : MatrixRun) (n : Nat) : List (List Nat × Nat × Nat) :=
  let c := r.cmd
  if c.op = 1 then match windowKept c r.marks n, c.pattern with
    | some gs, some (keep, m) => (gs.zipIdx).flatMap fun g =>
      g.1.map fun u => (c.rowsOf g.2, n * m + u.2, n * keep + u.1)
    | _, _ => []
  else [(List.range c.rows, n, n)]

/-- Step n of a command; false is an uncorrectable error. -/
def State.matrixStep (s : State) (c : CellId) (r : MatrixRun) (fa fb : MFmt) (n : Nat) : State × Bool :=
  match fa, fb with
  | .bpi p, .bpi q => match s.blocks c r true p n (List.range r.cmd.rows) with
    | (s, none) => (s, false)
    | (s, some as) => match s.blocks c r false q n (List.range r.cmd.cols) with
      | (s, none) => (s, false)
      | (s, some bs) =>
        let t := (s.cell c).tile.over (List.range r.cmd.rows) r.cmd.cols fun i o w sat =>
          (macBlock w (as.getD i ([], 0)) (bs.getD o ([], 0)), sat)
        (s.setTile c t, true)
  | _, _ => match s.macUnits c r fa fb (stepUnits r n) with
    | (s, false) => (s, false)
    | (s, true) =>
      if r.cmd.op = 1 then match windowKept r.cmd r.marks n with
        | some gs => (s.countIdle c (idleSteps gs), true)
        | none => (s, true)
      else (s, true)

/-! ### Packets that the array builds (R288) -/

/-- A token of 16-bit or 8-bit elements of one row of an operand. -/
def packElems (f : MFmt) (xs : List Nat) : Token :=
  let parts := perToken f / 16
  let bits := 32 / parts
  let elem (i : Nat) : Nat :=
    ((List.range parts).map fun j => xs.getD (i * parts + j) 0 * 2 ^ (bits * j)).sum
  Token.ofList .data (maskOf fun i => decide (i * parts < xs.length)) ((List.range 16).map elem)

/-- The data tokens of a row. -/
def packRow (f : MFmt) : Nat → List Nat → List Token
  | 0, _ => []
  | n + 1, xs => packElems f (xs.take (perToken f)) :: packRow f n (xs.drop (perToken f))

/-- The SCL tokens of scales. -/
def packScales : Nat → List Nat → List Token
  | 0, _ => []
  | n + 1, xs => { packElems .f16 (xs.take 32) with k := .scl } :: packScales n (xs.drop 32)

/-- A token of one bpi block. -/
def packBlock (ps : List Nat) : Token :=
  Token.ofList .data (BitVec.ofNat 16 (2 ^ (2 * ps.length) - 1))
    (ps.flatMap fun p => [p % 2 ^ 32, p / 2 ^ 32 % 2 ^ 32])

/-- The header of a built packet. -/
def packHeader (f : MFmt) (rows cols scales : Nat) : Token :=
  Token.ofList .hdr 0x001F [f.code, rows, cols, scales, 0]

/-- Elements of a packet's row read at their addresses; one that has none is a free value. [DESIGN CHOICE, log 95] -/
def State.packetReads (s : State) (c : CellId) (n : Nat) : List (Option Nat) → State × Option (List Nat)
  | [] => (s, some [])
  | a :: rest =>
    let (s, x) : State × Option Nat := match a with
      | some a => s.ownRead c a n
      | none =>
        let (k, s) := s.draw
        (s, some ((Config.freeWord k).toNat % 2 ^ (8 * n)))
    match x with
    | none => (s, none)
    | some x => match s.packetReads c n rest with
      | (s, none) => (s, none)
      | (s, some xs) => (s, some (x :: xs))

/-- Rows of a scratchpad operand read at lists of addresses. -/
def State.readRows (s : State) (c : CellId) (n : Nat) : List (List (Option Nat)) → State × Option (List (List Nat))
  | [] => (s, some [])
  | as :: rest => match s.packetReads c n as with
    | (s, none) => (s, none)
    | (s, some xs) => match s.readRows c n rest with
      | (s, none) => (s, none)
      | (s, some xss) => (s, some (xs :: xss))

/-- The compressed index of a kept unit of an MMAS: for the group of a row, the slot that holds index k (R291).
[DESIGN CHOICE, log 95] -/
def keptIndex (c : MatrixCmd) (marks : List Nat) (i k : Nat) : Option Nat :=
  match c.pattern with
  | none => none
  | some (n, m) => match windowKept c marks (k / m) with
    | none => none
    | some gs => ((gs.getD (i / c.groupRows) []).find? fun u => u.2 == k % m).map fun u => k / m * n + u.1

/-- The addresses of each row of a dense scratchpad operand's packet. An MMAS's A has its K columns (R287), and only those
of kept units have a value. [DESIGN CHOICE, log 95] -/
def packetRows (r : MatrixRun) (isA : Bool) (f : MFmt) : List (List (Option Nat)) :=
  let c := r.cmd
  if isA then (List.range c.rows).map fun i => (List.range c.kTotal).map fun k =>
    (if c.op = 1 then keptIndex c r.marks i k else some k).map fun j => aAddr c.l f.bytes i j
  else (List.range c.kTotal).map fun k => (List.range c.cols).map fun o => some (bAddr c.r f.bytes k o)

/-- Every block of a bpi operand, line by line. -/
def State.allBlocks (s : State) (c : CellId) (r : MatrixRun) (isA : Bool) (p : Nat) :
    List (Nat × Nat) → State × Option (List (List Nat × Nat))
  | [] => (s, some [])
  | (line, j) :: rest => match s.block c r isA p line j with
    | (s, none) => (s, none)
    | (s, some x) => match s.allBlocks c r isA p rest with
      | (s, none) => (s, none)
      | (s, some xs) => (s, some (x :: xs))

/-- The packet of a scratchpad operand that is passed on. -/
def State.buildPacket (s : State) (c : CellId) (r : MatrixRun) (isA : Bool) (f : MFmt) :
    State × Option (List Token) :=
  let lines := if isA then r.cmd.rows else r.cmd.cols
  let nb := r.cmd.kTotal / 64
  match f with
  | .bpi p =>
    let ids := (List.range lines).flatMap fun i => (List.range nb).map fun j => (i, j)
    match s.allBlocks c r isA p ids with
    | (s, none) => (s, none)
    | (s, some bs) =>
      let scales := packScales ((lines * nb + 31) / 32) (bs.map (·.2))
      (s, some (packHeader f lines r.cmd.kTotal (lines * nb) :: scales ++ bs.map fun b => packBlock b.1))
  | _ => match s.readRows c f.bytes (packetRows r isA f) with
    | (s, none) => (s, none)
    | (s, some rows) =>
      let cols := if isA then r.cmd.kTotal else r.cmd.cols
      let tpr := (cols + perToken f - 1) / perToken f
      (s, some (packHeader f rows.length cols 0 :: rows.flatMap (packRow f tpr)))

/-- The tokens of an operand's packet that its port has given. -/
def MatrixRun.taken (r : MatrixRun) (isA : Bool) : List Token :=
  if isA then r.a.drop r.lentA.toNat else r.b.drop r.lentB.toNat

/-- The packets that the pass flags send on, with their ports: of a port operand as it was taken. -/
def State.buildPasses (s : State) (c : CellId) (r : MatrixRun) (fa fb : MFmt) :
    State × Option (List (Fin 8 × Token)) :=
  let one (s : State) (want isA : Bool) (f : MFmt) (port : Fin 8) : State × Option (List (Fin 8 × Token)) :=
    if !want then (s, some [])
    else if descE (r.cmd.desc isA) 0 == 0 then (s, some ((r.taken isA).map fun t => (port, t)))
    else match s.buildPacket c r isA f with
      | (s, none) => (s, none)
      | (s, some ts) => (s, some (ts.map fun t => (port, t)))
  match one s r.cmd.passEast true fa 1 with
  | (s, none) => (s, none)
  | (s, some x) => match one s r.cmd.passSouth false fb 2 with
    | (s, none) => (s, none)
    | (s, some y) => (s, some (x ++ y))

/-! ### How a command ends -/

/-- The first command of the array replaced, and removed. -/
def State.setRun (s : State) (c : CellId) (r : MatrixRun) : State :=
  let x := s.cell c
  s.setCell c { x with matrix := r :: x.matrix.drop 1 }
def State.popRun (s : State) (c : CellId) : State :=
  let x := s.cell c
  s.setCell c { x with matrix := x.matrix.drop 1 }

/-- A command fails: an ERR token goes to t0, if that is a port, and ITEM_FAILED is posted (R289).
[DEDUCED, log 44] -/
def State.failRun (s : State) (pl : Place) (c : CellId) (r : MatrixRun) (st : Status) : State :=
  let s := s.popRun c
  let s := match Target.port r.cmd.t0 with
    | some p => s.setCell c { s.cell c with release := some ⟨p, r.cmd.inst, [Token.err st], false⟩ }
    | none => s
  s.itemFailed pl.v r.cmd.wave c r.cmd.slot 0 st

/-- An uncorrectable error in a scratchpad operand stops the command (R289). -/
def State.eccRun (s : State) (pl : Place) (c : CellId) (r : MatrixRun) : State :=
  (s.setCell c (s.cell c).clearTile).failRun pl c r .eccDropped

/-- The header of an operand's packet is the last one that its path has received (R271). -/
def Cell.noteHeader (x : Cell) (isA : Bool) (ts : List Token) : Cell :=
  match ts.find? fun t => t.k == .hdr with
  | none => x
  | some h => { x with headers := x.headers.set (if isA then 0 else 1 : Fin 2) (some h) }
def State.noteHeaders (s : State) (c : CellId) (r : MatrixRun) : State :=
  s.setCell c (((s.cell c).noteHeader true r.a).noteHeader false r.b)

/-- What becomes of an operand's packet where its command is malformed: one that R271 discards loses what stands up to
the next header or marker, any other stays at its port, with the tokens that the array has read (R289).
[DEDUCED, log 44] -/
def State.dropOperand (s : State) (c : CellId) (r : MatrixRun) (isA drop : Bool) : State :=
  match descPort (r.cmd.desc isA) with
  | none => s
  | some port =>
    if drop then
      let x := (s.cell c).noteHeader isA (r.taken isA)
      s.setCell c (if (if isA then r.aDone else r.bDone) then x else { x with skip := port :: x.skip })
    else s.returnTokens c port (r.taken isA)

/-- A command that is malformed: which of its packets R271 discards is said for A and for B (R289).
[DEDUCED, log 44] -/
def State.badRun (s : State) (pl : Place) (c : CellId) (r : MatrixRun) (dropA dropB : Bool) : State :=
  ((s.dropOperand c r true dropA).dropOperand c r false dropB).failRun pl c r .badDesc

/-- The SAT word of a row (R279). -/
def satWord (sat : Vector Bool 512) (row : Nat) : Nat :=
  ((List.range 32).map fun o => if sat.toList.getD (32 * row + o) false then 2 ^ o else 0).sum

/-- The tokens of a release (R283). [DESIGN CHOICE, log 103] -/
def releaseTokens (x : Cell) (i8 : Bool) : List Token :=
  let words (row half : Nat) : List Nat :=
    (List.range 16).map fun o => (x.acc.toList.getD (32 * row + 16 * half + o) 0).toNat
  let data := (List.range 16).flatMap fun row =>
    [Token.ofList .data 0xFFFF (words row 0), Token.ofList .data 0xFFFF (words row 1)]
  let flags := if i8 then [Token.ofList .data 0xFFFF ((List.range 16).map (satWord x.sat))] else []
  data ++ flags ++ [Token.marker .eor x.releases]

/-- A release: its tokens are to leave, the tile is cleared, and it counts (R283). -/
def State.releaseTile (s : State) (c : CellId) (cmd : MatrixCmd) (i8 : Bool) : State :=
  let x := s.cell c
  let out := match Target.port cmd.t0 with
    | some p => some ⟨p, cmd.inst, releaseTokens x i8, true⟩
    | none => none
  s.setCell c { x.clearTile with release := out, due := none, releases := x.releases + 1 }

/-- A command completes; where its count says so, its release is due (R282). -/
def State.completeRun (s : State) (c : CellId) (r : MatrixRun) (fa : MFmt) : State :=
  let s := s.popRun c
  let x := s.cell c
  let n := x.counter + 1
  let go := r.cmd.count != 0 && decide (r.cmd.count ≤ n)
  s.setCell c { x with counter := n, due := if go then some (r.cmd, fa == .i8) else x.due }

/-! ### MATRIX_COMMAND_START -/

/-- The metadata bytes of an MMAS read (R291). -/
def State.readMarks (s : State) (c : CellId) (r : MatrixRun) : State × Option (List Nat) :=
  match r.cmd.op.val, r.cmd.pattern with
  | 1, some (n, _) =>
    let total := r.cmd.windows * r.cmd.groups * n
    if !fieldsOk r.cmd || !r.cmd.l.ok 5 || !inScratch (descE r.cmd.l 5) total then (s, some [])
    else s.ownReads c 1 ((List.range total).map fun i => descE r.cmd.l 5 + i)
  | _, _ => (s, some [])

/-- The metadata of an MMAS lies in the scratchpad. -/
def marksOk (c : MatrixCmd) : Bool :=
  match c.op.val, c.pattern with
  | 1, some (n, _) => c.l.ok 5 && inScratch (descE c.l 5) (c.windows * c.groups * n)
  | _, _ => true

/-- A command starts: the rules that need no packet are judged, and its ports belong to the array. -/
def State.startRun (s : State) (pl : Place) (c : CellId) (r : MatrixRun) : State :=
  match s.readMarks c r with
  | (s, none) => s.eccRun pl c r
  | (s, some marks) =>
    let r := { r with
      started := true
      marks := marks
      aDone := descE r.cmd.l 0 == 1
      bDone := descE r.cmd.r 0 == 1 }
    if marksOk r.cmd && r.wellFormed false then s.setRun c r else s.badRun pl c r false false

/-- Its operands are complete: the remaining rules are judged, the packets to pass on are built, and the shape is
cleared where the command does not accumulate (R282). [DEDUCED, log 44] -/
def State.readyRun (s : State) (pl : Place) (c : CellId) (r : MatrixRun) : State :=
  match r.fmtA, r.fmtB with
  | some fa, some fb =>
    if !r.wellFormed true then s.badRun pl c r false false
    else match (s.noteHeaders c r).buildPasses c r fa fb with
      | (s, none) => s.eccRun pl c r
      | (s, some fwd) =>
        let t := (s.cell c).tile
        let t := if r.cmd.accumulate then t
          else t.over (List.range r.cmd.rows) r.cmd.cols fun _ _ _ _ => (0, false)
        (s.setTile c t).setRun c { r with ready := true, fwd := fwd }
  | _, _ => s.badRun pl c r false false

/-- The next token of a port that is passed on, where the port takes it: it leaves, with the others still to go. -/
def State.passOn (s : State) (c : CellId) (r : MatrixRun) (port : Fin 8) : Option State :=
  match r.fwd.findIdx? fun q => q.1 == port with
  | none => none
  | some n => match r.fwd[n]? with
    | none => none
    | some q => (s.sendPort c port q.2).map fun s => s.setRun c { r with fwd := dropNth r.fwd n }

/-- The next step of a command whose checks have passed: a token passed on east or south, a k index, or its end once
nothing is left to pass on. -/
def State.runStep (s : State) (pl : Place) (c : CellId) (r : MatrixRun) : State :=
  match s.passOn c r 1 with
  | some s => s
  | none => match s.passOn c r 2 with
    | some s => s
    | none => match r.fmtA, r.fmtB with
      | some fa, some fb =>
        if r.cmd.steps ≤ r.k then (if r.fwd.isEmpty then s.completeRun c r fa else s)
        else match s.matrixStep c r fa fb r.k with
          | (s, false) => s.eccRun pl c r
          | (s, true) => s.setRun c { r with k := r.k + 1 }
      | _, _ => s

/-- Nothing of an earlier command still has to leave. -/
def Cell.arrayFree (x : Cell) : Bool := x.release.isNone && x.due.isNone

/-- The array starts its next command once the last release has left, and takes it one step further at a time
(R282). [DEDUCED, log 44] -/
def execMatrixCommandStart (c : CellId) (s : State) : Res :=
  match s.place c, (s.cell c).matrix with
  | some pl, r :: _ =>
    if r.cmd.op = 3 || !(s.cell c).arrayFree then .next s
    else if !r.started then .next (s.startRun pl c r)
    else if !r.aDone || !r.bDone then .next s
    else if !r.ready then .next (s.readyRun pl c r)
    else .next (s.runStep pl c r)
  | _, _ => .next s

/-! ### MATRIX_OPERAND_TAKE (R271, R287, R288) -/

/-- The header that a packet without one of its own takes from its path (R271). -/
def pathHeader (x : Cell) (isA : Bool) (ts : List Token) (t : Token) : List Token :=
  if ts.isEmpty && (t.k = .data || t.k = .scl) then (if isA then x.headers[0] else x.headers[1]).toList else []

/-- A command with the next token of an operand's packet, behind the path's header where that is the packet's. -/
def MatrixRun.withToken (r : MatrixRun) (isA : Bool) (lent : List Token) (t : Token) (last : Bool) : MatrixRun :=
  if isA then { r with a := r.a ++ lent ++ [t], aDone := last, lentA := r.lentA || !lent.isEmpty }
  else { r with b := r.b ++ lent ++ [t], bDone := last, lentB := r.lentB || !lent.isEmpty }

/-- What stands next at the port of an operand whose packet has not begun, where it shows a sound header, its own or the
path's (R271), and no instance holds what stands before it. -/
def State.packetHead (s : State) (c : CellId) (r : MatrixRun) (isA : Bool) : Option (Fin 8 × List Token × Token) :=
  let x := s.cell c
  match descPort (r.cmd.desc isA), (if isA then r.a else r.b) with
  | some port, [] => match x.ports[port] with
    | t :: _ =>
      let lent := pathHeader x isA [] t
      if x.heldAt port == 0 && (lent ++ [t]).head?.any headerOk then some (port, lent, t) else none
    | [] => none
  | _, _ => none

/-- The command with what stands next at an operand's port, by which the class of that packet is judged (R271). -/
def State.peek (s : State) (c : CellId) (r : MatrixRun) (isA : Bool) : MatrixRun :=
  match s.packetHead c r isA with
  | some (_, lent, t) => r.withToken isA lent t false
  | none => r

/-- A started command is malformed, and which of its packets are malformed in themselves is said for A and for B; where the
formats of the two operands are seen to be of different classes, both packets are malformed and discarded, with the tokens
that show it (R271, R289). [DEDUCED, log 44] -/
def State.wrongRun (s : State) (pl : Place) (c : CellId) (r : MatrixRun) (dropA dropB : Bool) : State :=
  let r' := s.peek c (s.peek c r true) false
  if r'.sameClass then s.badRun pl c r dropA dropB
  else
    let gone (s : State) (isA : Bool) : State := match s.packetHead c r isA with
      | some (port, _, _) => s.removeTokens c port 1
      | none => s
    (gone (gone s true) false).badRun pl c r' true true

/-- The next token of an operand's port: taken into its packet, or the command is malformed. A packet that R271 calls
malformed is discarded, with its header where that stands there; one that is not the command's stays. Operands of
different classes make both packets malformed, whatever else is wrong with them. [DEDUCED, log 44] -/
def State.takeOperand (s : State) (pl : Place) (c : CellId) (r : MatrixRun) (isA : Bool) (port : Fin 8)
    (t : Token) : State :=
  let ts := if isA then r.a else r.b
  let lent := pathHeader (s.cell c) isA ts t
  match packetTake r.cmd isA (ts ++ lent) t with
  | .wrong => s.wrongRun pl c r false false
  | .bad =>
    if t.k = .hdr && ts.isEmpty then
      (s.removeTokens c port 1).wrongRun pl c (r.withToken isA [] t false) isA (!isA)
    else s.wrongRun pl c r isA (!isA)
  | v =>
    let r' := r.withToken isA lent t (v == .last)
    if !r'.sameClass then (s.removeTokens c port 1).badRun pl c r' true true
    else if !r'.wellFormed false then s.wrongRun pl c r false false
    else (s.removeTokens c port 1).setRun c r'

/-- The array takes the next token of a port that it owns. A port in whose packet it has found a fault loses its
tokens up to the next header or marker. [DEDUCED, log 44] -/
def execMatrixOperandTake (c : CellId) (port : Fin 8) (s : State) : Res :=
  let x := s.cell c
  match s.place c, x.ports[port] with
  | some pl, t :: _ =>
    if x.heldAt port != 0 || t.k.isHeld then .next s
    else if x.skip.contains port then
      if t.k = .hdr || t.k.isMarker then
        .next (s.setCell c { x with skip := x.skip.filter (· != port) })
      else .next (s.removeTokens c port 1)
    else match x.matrix with
      | [] => .next s
      | r :: _ =>
        if !r.started then .next s
        else if !r.aDone && descPort r.cmd.l == some port then .next (s.takeOperand pl c r true port t)
        else if !r.bDone && descPort r.cmd.r == some port then .next (s.takeOperand pl c r false port t)
        else .next s
  | _, _ => .next s

/-! ### ACCZ_COMMAND and TILE_RELEASE -/

/-- ACCZ clears the tile, its flags and the counter (R282). -/
def execAcczCommand (c : CellId) (s : State) : Res :=
  match (s.cell c).matrix with
  | r :: _ =>
    if r.cmd.op != 3 || !(s.cell c).arrayFree then .next s
    else
      let s := s.popRun c
      .next (s.setCell c (s.cell c).clearTile)
  | [] => .next s

/-- What an ACCRD reads: half a row of the tile, the k indices of the running command, the counter and the SAT flags
(R294). -/
def Cell.snapshot (y : Cell) (l : Token) : Token × Token :=
  let at' (o : Nat) : Nat := 32 * (l.at 0).toNat + 16 * (l.at 1).toNat + o
  let words := (List.range 16).map fun o => (y.acc.toList.getD (at' o) 0).toNat
  let sat := maskOf fun o => y.sat.toList.getD (at' o) false
  let k := match y.matrix with
    | r :: _ => if r.ready then r.kDone else 0
    | [] => 0
  (Token.ofList .data 0xFFFF words, Token.ofList .data 0x0007 [k, y.counter % 2 ^ 32, sat.toNat])

/-- The ACCRDs of the running block that have issued during a release, with their operands. -/
def Cell.waitingReads (x : Cell) : List (Nat × Token) :=
  match x.running with
  | none => []
  | some (b, i) => i.slots.zipIdx.filterMap fun q => match b.instr q.2, q.1.firing, q.1.l with
    | some (.accrd _), .issued, some o => some (q.2, o.tok)
    | _, _, _ => none

/-- The snapshots that waited for the end of a release are taken. [DEDUCED, log 44] -/
def State.takeSnapshots (s : State) (c : CellId) : State :=
  match s.place c, (s.cell c).inst with
  | some pl, some i => (s.cell c).waitingReads.foldl (fun s q =>
      let t := (s.cell c).snapshot q.2
      s.deliverResult pl.v c i.num q.1 t.1 t.2) s
  | _, _ => s

/-- A release that is due begins; the next token of one leaves, behind the sends of its block to the same port (R283).
With the last token the snapshots that waited are taken (R294). -/
def execTileRelease (c : CellId) (s : State) : Res :=
  let x := s.cell c
  match x.release with
  | none => match x.due with
    | none => .next s
    | some (cmd, i8) => .next (s.releaseTile c cmd i8)
  | some r => match r.toks with
    | [] => .next ((s.setCell c { x with release := none }).takeSnapshots c)
    | t :: rest =>
      if x.lastNum ≤ r.inst && x.sendQ.any (fun q => q.1 == r.port) then .next s
      else match s.sendPort c r.port t with
        | none => .next s
        | some s =>
          if rest.isEmpty then .next ((s.setCell c { s.cell c with release := none }).takeSnapshots c)
          else .next (s.setCell c { s.cell c with release := some { r with toks := rest } })

/-! ### The instructions (R280, R281, R294) -/

/-- An MMA-family instruction fires: it reserves an entry, and its command is held to commit. -/
def fireMatrix (op : Fin 4) (x : Ctx) (s : State) : Fired :=
  let t := x.sh.t0
  if t != Target.none && (Target.port t).isNone then .fault s (slotFault .illegal x.slot)
  else match (if t = Target.none then .ok x.inst else countOutput x.blk x.slot x.inst) with
    | .error f => .fault s f
    | .ok i =>
      let h : Held := .matrix x.slot op x.l x.r x.p t
      let y := s.cell x.c
      .done (s.setCell x.c { y with reserved := y.reserved + 1 })
        ({ i with held := i.held ++ [(x.slot, h)] }.mark x.slot .done)

def execMma (f : C3) (s : State) : Res := fireCell (.mma f) (fireMatrix 0) s
def execMmas (f : C3) (s : State) : Res := fireCell (.mmas f) (fireMatrix 1) s
def execMmap (f : C3) (s : State) : Res := fireCell (.mmap f) (fireMatrix 2) s
def execAccz (f : C3) (s : State) : Res := fireCell (.accz f) (fireMatrix 3) s

/-- ACCRD takes one snapshot of half a row as it issues, or, where it issues during a release, once that has left
(R294). [DEDUCED, log 44] -/
def execAccrd (f : C3) (s : State) : Res :=
  fireCell (.accrd f) (fun x s =>
    let row := (x.l.at 0).toNat
    let half := (x.l.at 1).toNat
    let y := s.cell x.c
    if !x.l.ok 0 || !x.l.ok 1 || decide (15 < row) || decide (1 < half) then
      .fault s (slotFault .illegal x.slot)
    else if y.release.any (·.tile) then .done s (x.inst.mark x.slot .issued)
    else
      let t := y.snapshot x.l
      x.results t.1 t.2 s) s

end Sys2Proof.Machine
end

