-- ==== Sys2Proof/Machine/Area.lean ====
section
/-!
DEFINITION. How tokens, tiles and tag tables are stored in memory, and the kept state of a cell in the state-save area
(R134, R162, R200, R279, R429).
-/

namespace Sys2Proof.Machine
open Sys2Proof

/-! ### Stored tokens, tiles and tables -/

/-- A token in memory (R134). -/
def Token.toBytes (t : Token) : List Byte :=
  (t.e.toList.flatMap fun e => leBytes 4 e.toNat) ++ leBytes 2 t.v.toNat ++ leBytes 6 t.k.code

/-- A token read from memory; none where its kind is reserved (R137). [DEDUCED, log 51] -/
def Token.ofBytes (bs : List Byte) : Option Token :=
  match Kind.ofCode (leNat ((bs.drop 66).take 1) % 16) with
  | none => none
  | some k => some
    { e := Vector.ofFn fun i => BitVec.ofNat 32 (leNat ((bs.drop (4 * i.val)).take 4))
      v := BitVec.ofNat 16 (leNat ((bs.drop 64).take 2))
      k := k }

/-- An accumulator tile in memory (R279). -/
def Cell.tileBytes (x : Cell) : List Byte :=
  (x.acc.toList.flatMap fun e => leBytes 4 e.toNat) ++
    (List.range 16).flatMap fun i => leBytes 4 (satWord x.sat i)

/-- The tile taken from its bytes. -/
def Cell.setTile (x : Cell) (bs : List Byte) : Cell :=
  let flags := (List.range 16).map fun i => leNat ((bs.drop (2048 + 4 * i)).take 4)
  { x with
    acc := Vector.ofFn fun i => BitVec.ofNat 32 (leNat ((bs.drop (4 * i.val)).take 4))
    sat := Vector.ofFn fun i => bitAt (flags.getD (i.val / 32) 0) (i.val % 32) }

/-- A tag table in memory (R162). -/
def Cell.tagBytes (x : Cell) : List Byte := x.tags.toList.flatMap fun e => leBytes 8 e.toNat
def Cell.setTags (x : Cell) (bs : List Byte) : Cell :=
  { x with
    tags := Vector.ofFn fun i => BitVec.ofNat 64 (leNat ((bs.drop (8 * i.val)).take 8))
    tagBad := [] }

/-! ### Records of the state-save area (R200) -/

/-- The kept g registers of an image, ascending. -/
def ImageEntry.regs (e : ImageEntry) : List Nat := (List.range 63).filter fun i => e.keptG.getLsbD i

/-- C_e before rounding, and rounded. -/
def ImageEntry.rawBytes (e : ImageEntry) : Nat :=
  72 * e.regs.length + (if e.keptAcc then 2112 else 0) + (if e.keptScr = 0 then 0 else e.keptScr + 512)
def ImageEntry.cellBytes (e : ImageEntry) : Nat := (e.rawBytes + 63) / 64 * 64

/-- The length of all records. -/
def recordsLen (l : List ImageEntry) : Nat := (l.map fun e => e.width * e.cellBytes).sum

/-- The address of the part of cell k in the record of entry e. -/
def Vp.partAt (x : Vp) (e k : Nat) : Nat :=
  x.saveCap.base + recordsLen (x.images.take e) + k * (x.image e).cellBytes

/-- A part written; a failure is reported (R429). -/
def State.savePart (s : State) (x : Reach) (v : VpId) (wave : Nat) (c : CellId) (va : Nat) (bs : List Byte) :
    State :=
  match s.areaWrite x va bs with
  | (s, none) => s
  | (s, some st) => s.itemFailed v wave c 0 0 st

/-- A part read; a failure is reported (R429). -/
def State.loadPart (s : State) (x : Reach) (v : VpId) (wave : Nat) (c : CellId) (va n : Nat) :
    State × Except Status (List Byte) :=
  match s.areaRead x .read va n with
  | (s, .ok bs) => (s, .ok bs)
  | (s, .error st) => (s.itemFailed v wave c 0 0 st, .error st)

/-- A cell's tag table saved; one that holds an entry with an uncorrectable error is reported and not saved. -/
def State.saveTags (s : State) (x : Reach) (v : VpId) (wave : Nat) (c : CellId) (va : Nat) : State :=
  if (s.cell c).tagBad.isEmpty then s.savePart x v wave c va (s.cell c).tagBytes
  else (s.countError (.cell c) true).itemFailed v wave c 0 0 .eccDropped

/-- 64-byte lines of a cell's scratchpad saved from line i on. -/
def State.saveLines (s : State) (x : Reach) (v : VpId) (wave : Nat) (c : CellId) (va : Nat) : Nat → Nat → State
  | 0, _ => s
  | n + 1, i =>
    let s := match s.locRead .device ⟨.scratch, c.scratchBase + 64 * i, none⟩ 64 with
      | (s, none) => s.itemFailed v wave c 0 0 .eccDropped
      | (s, some bs) => s.savePart x v wave c (va + 64 * i) bs
    s.saveLines x v wave c va n (i + 1)

/-- Lines restored; a line that fails is zero. -/
def State.loadLines (s : State) (x : Reach) (v : VpId) (wave : Nat) (c : CellId) (va : Nat) : Nat → Nat → State
  | 0, _ => s
  | n + 1, i =>
    let s := match s.loadPart x v wave c (va + 64 * i) 64 with
      | (s, .error _) => s.scratchWrite (c.scratchBase + 64 * i) (leBytes 64 0)
      | (s, .ok bs) => s.scratchWrite (c.scratchBase + 64 * i) bs
    s.loadLines x v wave c va n (i + 1)

/-- Registers saved one after the other; one with an uncorrectable error is reported and not saved (R429). -/
def State.saveRegs (s : State) (x : Reach) (v : VpId) (wave : Nat) (c : CellId) (va : Nat) : List Nat → State
  | [] => s
  | i :: rest =>
    let t := (s.cell c).g.toList.getD i .nul
    let s := if (s.cell c).badRegs.any fun r => r.val == i then
        (s.countError (.cell c) true).itemFailed v wave c 0 0 .eccDropped
      else s.savePart x v wave c va t.toBytes
    s.saveRegs x v wave c (va + 72) rest

/-- Registers restored; one that fails is an ERR token (R429). A reserved kind in memory is an uncorrectable error
(R137). [DEDUCED, log 51] -/
def State.loadRegs (s : State) (x : Reach) (v : VpId) (wave : Nat) (c : CellId) (va : Nat) : List Nat → State
  | [] => s
  | i :: rest =>
    let set (s : State) (t : Token) : State :=
      let y := s.cell c
      s.setCell c { y with g := y.g.set (Fin.ofNat 64 i) t, badRegs := y.badRegs.filter fun r => r.val != i }
    let s := match s.loadPart x v wave c va 72 with
      | (s, .error st) => set s (.err st)
      | (s, .ok bs) => match Token.ofBytes bs with
        | some t => set s t
        | none =>
          let s := s.countError (.row c.rowId) true
          set (s.itemFailed v wave c 0 0 .eccDropped) (.err .eccDropped)
    s.loadRegs x v wave c (va + 72) rest

/-- The kept state of a cell written to its part (R200, R429). -/
def State.saveCell (s : State) (v : VpId) (wave : Nat) (c : CellId) (e : ImageEntry) (va : Nat) : State :=
  let x := s.edgeReach c.rowId (s.vp v).tenant
  let s := s.saveRegs x v wave c va e.regs
  let a := va + 72 * e.regs.length
  let s := if e.keptAcc then s.savePart x v wave c a (s.cell c).tileBytes else s
  let a := if e.keptAcc then a + 2112 else a
  if e.keptScr = 0 then s
  else
    let s := s.saveTags x v wave c a
    s.saveLines x v wave c (a + 512) (e.keptScr / 64) 0

/-- The kept state of a cell restored from its part, over the state of a first go-live (R163, R200, R429).
[DEDUCED, log 51] -/
def State.loadKept (s : State) (v : VpId) (wave : Nat) (c : CellId) (e : ImageEntry) (va : Nat) : State :=
  let x := s.edgeReach c.rowId (s.vp v).tenant
  let s := s.loadRegs x v wave c va e.regs
  let a := va + 72 * e.regs.length
  let s := if e.keptAcc then match s.loadPart x v wave c a 2112 with
      | (s, .error _) => s
      | (s, .ok bs) => s.setCell c ((s.cell c).setTile bs)
    else s
  let a := if e.keptAcc then a + 2112 else a
  if e.keptScr = 0 then s
  else
    let s := match s.loadPart x v wave c a 512 with
      | (s, .error _) => s
      | (s, .ok bs) => s.setCell c ((s.cell c).setTags bs)
    s.loadLines x v wave c (a + 512) (e.keptScr / 64) 0

end Sys2Proof.Machine
end

