-- ==== Sys2Proof/Machine/CellAgen.lean ====
section
/-!
DEFINITION. The address generators of a cell (R136, R407): the tokens that they send and the ones that they
receive.
-/

namespace Sys2Proof.Machine
open Sys2Proof

/-! ### The frame (R407) -/

def Agen.word (a : Agen) (i : Nat) : Nat := (a.words.toList.getD i 0).toNat
def Agen.receives (a : Agen) : Bool := bitAt (a.word 0) 1
def Agen.reg (a : Agen) : Fin 16 := Fin.ofNat 16 (field (a.word 0) 7 4)
def Agen.port (a : Agen) : Fin 8 := Fin.ofNat 8 (field (a.word 0) 10 8)
def Agen.mask (a : Agen) : Nat := field (a.word 6) 15 0

/-- The element of a lane of the next token, as a 32-bit offset (R180). [DEDUCED, log 43] -/
def Agen.elem (a : Agen) (lane : Nat) : Nat :=
  wrap ((a.word 1 : Int) + a.outer * signed (a.word 4) 32 + a.inner * signed (a.word 2) 32 + lane) 32

/-- A generator of a frame with its enable bit, at its start: a receiving one whose counts cover no token is exhausted.
[DEDUCED, log 43] -/
def agenOf (ws : Vector (BitVec 32) 8) : Option Agen :=
  if (ws[0]).getLsbD 0 then
    some { words := ws, outer := 0, inner := 0, eots := 0, done := (ws[0]).getLsbD 1 && (ws[3] == 0 || ws[5] == 0),
           faulted := false, stop := false }
  else none

/-! ### Its accesses (R182) -/

/-- A failed check: cause, lane, address. -/
structure AgenFault where
  cause : Cause
  lane  : Nat
  value : Nat
  deriving DecidableEq, Repr

/-- The locations of lanes through a capability, checked in ascending order; an engine's walk is taken at once. -/
def State.agenLanes (s : State) (c : CellId) (tenant : BitVec 8) (cap : Cap) (write : Bool) (a : Agen) :
    List Nat → State × Except AgenFault (List (Nat × Loc))
  | [] => (s, .ok [])
  | lane :: rest =>
    let off := 4 * a.elem lane
    let va := cap.base + off
    let fail (s : State) (q : Cause) : State × Except AgenFault (List (Nat × Loc)) :=
      (s, .error ⟨q, lane, va⟩)
    let go (s : State) (l : Loc) : State × Except AgenFault (List (Nat × Loc)) :=
      match s.agenLanes c tenant cap write a rest with
      | (s, .error e) => (s, .error e)
      | (s, .ok ls) => (s, .ok ((lane, l) :: ls))
    if cap.length < off + 4 then fail s .bounds
    else if va % 4 != 0 then fail s .misalign
    else if cap.space == .scratch then match s.scratchTrap cap va 4 false with
      | some q => fail s q
      | none => go s ⟨.scratch, va, none⟩
    else match s.translate (.memCell c.server) tenant (s.rootOf tenant) va write with
      | (s, .error q) => fail s q
      | (s, .ok p) => go s ⟨.dense, if p.fill.isSome then va else p.pa, p.fill⟩

/-- The check of the capability, then of the lanes. -/
def State.agenAccess (s : State) (c : CellId) (tenant : BitVec 8) (a : Agen) (write : Bool)
    (lanes : List Nat) : State × Except AgenFault (List (Nat × Loc)) :=
  let cap := (s.cell c).c[a.reg]
  match cellCapCause cap (if write then .write else .read) false tenant with
  | some q => (s, .error ⟨q, 0, 0⟩)
  | none => s.agenLanes c tenant cap write a lanes

/-- The sender of a cell's generator. -/
def engineSender (c : CellId) (tenant : BitVec 8) : Sender := ⟨tenant, .engine c⟩

/-- Elements read; a lane with an uncorrectable error is dropped (R376). -/
def State.agenRead (s : State) (who : Sender) : List (Nat × Loc) → State × List (Nat × Option Elem)
  | [] => (s, [])
  | (lane, l) :: rest =>
    let (s, v) := s.locRead who l 4
    let (s, vs) := s.agenRead who rest
    (s, (lane, v.map fun bs => BitVec.ofNat 32 (leNat bs)) :: vs)

/-- Elements written, ascending; a unit of which both are written reads correctly from then on (R376). -/
def State.agenWrite (s : State) (who : Sender) (t : Token) (ls : List (Nat × Loc)) : State :=
  ls.foldl (fun s x => s.locWrite who x.2 (leBytes 4 (t.at x.1).toNat)) (s.healStore (ls.map Prod.snd))

/-! ### Steps -/

/-- A generator of a cell replaced. -/
def State.setAgen (s : State) (c : CellId) (gen : Fin 2) (a : Agen) : State :=
  let x := s.cell c
  s.setCell c { x with agens := x.agens.set gen (some a) }

/-- A generator's fault names its number as source kind 1 or 2 (R371). While another fault of the cell waits for its
answer, the generator waits with its own. [DEDUCED, log 43] -/
def State.agenFault (s : State) (pl : Place) (c : CellId) (gen : Fin 2) (a : Agen) (e : AgenFault) : State :=
  if (s.cell c).stopped then s else
  let s := s.setAgen c gen { a with faulted := true }
  s.raiseCell pl.v c ⟨e.cause, 0, e.lane, e.value, Fin.ofNat 4 (gen.val + 1)⟩ 0

/-- The generator after a data token. -/
def Agen.advance (a : Agen) : Agen := { a with inner := a.inner + 1 }

/-- The generator after the end of a run, and after its last one. -/
def Agen.endRun (a : Agen) : Agen := { a with outer := a.outer + 1, inner := 0, eots := a.eots + 1 }

/-- A sending generator takes a PRE behind the end of a run (R222): one of a row that has begun the sequence of R201 runs
to its end (R203). [DEDUCED, log 55] -/
def State.agenHalts (s : State) (pl : Place) (c : CellId) : Bool :=
  pl.x.stage == .preempting && (s.row c.rowId).phase == .live

/-- The next token of a sending generator: data, the EOT of a run, or the EOW. [DEDUCED, log 43] -/
def State.agenSend (s : State) (pl : Place) (c : CellId) (gen : Fin 2) (a : Agen) : State :=
  let pre := s.agenHalts pl c
  let marker (t : Token) (b : Agen) : State :=
    match s.sendPort c a.port t with
    | none => s
    | some u =>
      let u := u.setAgen c gen { b with stop := pre }
      if pre then
        let x := u.vp pl.v
        u.setVp pl.v { x with preAt := x.preAt ++ [(c, a.port, true)] }
      else u
  if a.outer < a.word 5 then
    if a.inner < a.word 3 then
      let lanes := (List.range 16).filter fun i => bitAt a.mask i
      match s.agenAccess c pl.x.tenant a false lanes with
      | (u, .error e) => u.agenFault pl c gen a e
      | (u, .ok ls) =>
        let (u, vs) := u.agenRead (engineSender c pl.x.tenant) ls
        let t := Token.lanes .data (fun i => (laneValue vs i).isSome) fun i => (laneValue vs i).getD 0
        match u.sendPort c a.port t with
        | none => s
        | some u =>
          let u := u.setAgen c gen a.advance
          match droppedLanes vs with
          | [] => u
          | lane :: _ => u.itemFailed pl.v pl.wave c 0 lane .eccDropped
    else marker (Token.marker .eot a.eots) a.endRun
  else marker (Token.marker .eow pl.wave) { a with done := true }

/-- A receiving generator takes the next token of its port: it writes the valid lanes of its mask, takes EOT and
EOR without a write, and an EOW ends it. [DEDUCED, log 43] -/
def State.agenReceive (s : State) (pl : Place) (c : CellId) (gen : Fin 2) (a : Agen) : State :=
  let x := s.cell c
  let taken := match x.inst with
    | some i => i.takenAt a.port
    | none => 0
  match x.ports[a.port] with
  | [] => s
  | t :: _ =>
    if taken != 0 || t.k.isHeld || x.arrayOwns a.port then s
    else
      let take (s : State) (b : Agen) : State := (s.removeTokens c a.port 1).setAgen c gen b
      if t.k = .eow then take s { a with done := true }
      else if t.k.isMarker then take s a
      else
        let lanes := (List.range 16).filter fun i => bitAt a.mask i && t.ok i
        match s.agenAccess c pl.x.tenant a true lanes with
        | (s, .error e) => s.agenFault pl c gen a e
        | (s, .ok ls) =>
          let b := a.advance
          let b := if b.inner < b.word 3 then b else b.endRun
          take (s.agenWrite (engineSender c pl.x.tenant) t ls) { b with done := decide (b.word 5 ≤ b.outer) }

/-- A generator of a live position takes its next step, unless a pre-emption has stopped it at the end of a run. -/
def execAddressGeneratorToken (c : CellId) (gen : Fin 2) (s : State) : Res :=
  let x := s.cell c
  match s.place c, x.agens[gen] with
  | some pl, some a =>
    if a.done || a.faulted || (a.stop && s.agenHalts pl c) || x.saved then .next s
    else if a.receives then .next (s.agenReceive pl c gen a)
    else .next (s.agenSend pl c gen a)
  | _, _ => .next s

end Sys2Proof.Machine
end

