-- ==== Sys2Proof/Machine/ControlImage.lean ====
section
/-!
DEFINITION. CFGLD, CFGCHK and CFGCLR (R361, R408 to R412).
-/

namespace Sys2Proof.Machine
open Sys2Proof

/-- A range of a memory cleared: bytes, tags and damaged units. -/
def Memory.clear (m : Memory) (lo hi : Nat) : Memory :=
  { bytes := m.bytes.filter fun e => decide (e.1 < lo) || decide (hi ≤ e.1)
    tags := natsOutside m.tags (lo / 16) (hi / 16)
    poison := natsOutside m.poison (lo / 8) (hi / 8)
    badTags := natsOutside m.badTags (lo / 16) (hi / 16) }

/-- The scratchpad of a cell set to zero. -/
def State.clearScratch (s : State) (c : CellId) : State :=
  { s with scratch := s.scratch.clear c.scratchBase (c.scratchBase + 2 ^ 18) }

/-- A cell in its reset state (R412); its call-number counter starts at 1 at die reset only (R337). -/
def Cell.cleared (c : Cell) : Cell := { Cell.reset with callNum := c.callNum }

/-- The cell and count of a target word (R408). -/
def targetCell (x : Nat) : CellId :=
  ⟨Fin.ofNat 2 (field x 31 31), Fin.ofNat 64 (field x 29 24), Fin.ofNat 36 (field x 21 16)⟩

/-- Records of one loader instruction: 545 frames, the configuration frames and one more (R408). -/
def maxRecords : Nat := 1048

/-- The target word names a cell of the core's die (R408). -/
def targetOk (k : CoreId) (x : Nat) : Bool :=
  field x 63 32 == 0 && !bitAt x 30 && field x 23 22 == 0 && field x 31 31 == (coreDie k).val &&
    decide (field x 21 16 ≤ 35)

/-- A splice holds a row: it lies in the band of a VP that has been joined to another one, whose band returns to the
scheduler as a whole (R219). -/
def State.spliceHolds (s : State) (r : RowId) : Bool := s.vps.any fun y =>
  y.1.die == r.die && y.2.spliced && (y.2.stage == .live || y.2.stage == .preempting || y.2.stage == .ending) &&
    decide ((r.row.val + 64 - y.2.base) % 64 < y.2.b)

/-- The row hosts a VP, or a splice holds it (R428). -/
def State.rowBusy (s : State) (r : RowId) : Bool :=
  (s.row r).host.isSome || (s.row r).heir.isSome || s.spliceHolds r

/-- A cell takes the program of its records, with everything else as CFGCLR leaves it. The write drops the
cell's kept images (R408, R235). -/
def State.loadCell (s : State) (c : CellId) (tenant : BitVec 8) (p : Program) : State :=
  (s.clearScratch c).setCell c { (s.cell c).cleared with program := p, loaded := some (tenant, p) }

/-- What a core is in the middle of (R228, R367). [DEDUCED, log 96] -/
def State.work (s : State) (k : CoreId) : Option CoreWork := (s.works.find? fun w => w.1 == k).map fun w => w.2.2
def State.dropWork (s : State) (k : CoreId) : State := { s with works := s.works.filter fun w => w.1 != k }
/-- [DEDUCED, log 96] -/
def State.setWork (s : State) (k : CoreId) (i : Instr) (w : CoreWork) : State :=
  { s with works := (k, i, w) :: (s.dropWork k).works }

/-- The instruction that a core is in the middle of: its next turn goes on with it and fetches nothing.
[DEDUCED, log 96] -/
def State.midway (s : State) (k : CoreId) : Option Instr := (s.works.find? fun w => w.1 == k).map fun w => w.2.1

/-- The core's CFGLD or CFGCLR holds the row of a cell already. [DEDUCED, log 96] -/
def State.holdsRow (s : State) (k : CoreId) (c : CellId) : Bool := s.work k == some (.config c)

/-- CFGLD and CFGCHK up to the judgement of the records (R408, R411): the target cell and its records go on
to `go`, with the state to trap from, in which nothing is marked (R49). The core's own earlier stores to the records
are performed before they are read (R361). CFGLD is in progress from one turn of its core to the next, and holds the row
meanwhile (R367); the turn that takes the row marks nothing. [DEDUCED, log 12] -/
def loader (i : Instr) (busy : Bool) (d : XReg) (ca : CReg) (b : XReg) (s : State)
    (go : State → State → CoreId → CellId → Cap → List FrameRecord → Res) : Res :=
  onPrivCore i s fun k =>
    let t := ThreadId.core k
    let cap := s.getC t ca
    let x := (s.getX t b).toNat
    let n := field x 15 0
    let held := busy && s.holdsRow k (targetCell x)
    let s := s.dropWork k
    let done (s : State) (st : Status) : Res := .next ((s.setX t d (resultWord 0 st)).retire t)
    match s.access t cap 0 4 false with
    | (s, .error e) => .next (s.trap t e)
    | (s', .ok _) =>
      if cap.length < 36 * n then .next ((s.withMisses s').trap t ⟨.bounds, BitVec.ofNat 64 (36 * n)⟩)
      else if !targetOk k x || n == 0 || decide (maxRecords < n) then done s' .badDesc
      else
        let c := targetCell x
        if busy && !held && s'.rowBusy c.rowId then done s' .rowBusy
        else if s'.isRetired c then done s' .retired
        else if busy && !held then .next (s.setWork k i (.config c))
        else
          let u := s'.capUnmarked s t cap 0 4 (9 * n)
          match s'.capBytes t cap 0 4 (9 * n) with
          | (_, .error e) => .next (u.trap t e)
          | (s, .ok bs) => go s u k c cap (recordsOf bs n)

/-- CFGLD (R408): every record or none. [DEDUCED, log 96] -/
def execCfgld (d : XReg) (ca : CReg) (b : XReg) (s : State) : Res :=
  loader (.cfgld d ca b) true d ca b s fun s u k c cap rs =>
    let t := ThreadId.core k
    match judge ⟨c, s.retired⟩ rs with
    | some f => .next (u.trap t ⟨.cfgReject, BitVec.ofNat 64 f.detail⟩)
    | none =>
      let p := programOf rs (cap.pX && cap.pC) (s.thread t).tenant
      .next (((s.loadCell c (s.thread t).tenant p).setX t d (resultWord rs.length .ok)).retire t)

/-- CFGCHK (R411): the checks of CFGLD without the ROW_BUSY test; it writes nothing but x[d]. -/
def execCfgchk (d : XReg) (ca : CReg) (b : XReg) (s : State) : Res :=
  loader (.cfgchk d ca b) false d ca b s fun s _ k c _ rs =>
    let t := ThreadId.core k
    let v := match judge ⟨c, s.retired⟩ rs with
      | some f => resultWord f.detail .rejected
      | none => resultWord rs.length .ok
    .next ((s.setX t d v).retire t)

/-- CFGCLR (R412), in progress as CFGLD is. [DEDUCED, log 96] -/
def execCfgclr (d a : XReg) (s : State) : Res :=
  onPrivCore (.cfgclr d a) s fun k =>
    let t := ThreadId.core k
    let x := (s.getX t a).toNat
    let c := targetCell x
    let held := s.holdsRow k c
    let s := s.dropWork k
    let done (s : State) (st : Status) : Res := .next ((s.setX t d (resultWord 0 st)).retire t)
    if !targetOk k x then done s .badDesc
    else if !held && s.rowBusy c.rowId then done s .rowBusy
    else if s.isRetired c then done s .retired
    else if !held then .next (s.setWork k (.cfgclr d a) (.config c))
    else done ((s.clearScratch c).setCell c (s.cell c).cleared) .ok

end Sys2Proof.Machine
end

