-- ==== Sys2Proof/Machine/BandRows.lean ====
section
/-!
DEFINITION. How a row hosts a VP and how a position leaves its row (R201, R203, R428, R429).
-/

namespace Sys2Proof.Machine
open Sys2Proof

/-! ### Hosting and release (R203, R218, R219, R235, R428) -/

/-- The first position of a band row (R192, R218); a static VP's row has its own number where a rectangle lies in
it (R194). -/
def Vp.firstPos (x : Vp) (i : Nat) : Option Nat :=
  if x.static then (if (x.entriesAt i).isEmpty then none else some i)
  else
    let p := (i + x.b - x.origin % x.b) % x.b
    if p < x.total then some p else none

/-- The cells of a row. -/
def rowCells (r : RowId) : List CellId := (List.finRange 36).map fun c => ⟨r.die, r.row, c⟩

/-- The band rows of a VP with their numbers. -/
def Vp.bandRows (x : Vp) (die : Fin 2) : List (Nat × RowId) :=
  (List.range x.b).map fun i => (i, ⟨die, x.dieRow i⟩)

/-- A cell of a row that passes to a VP: its scratchpad and its marker-discard counter become zero (R163), and
another tenant's kept images are dropped (R235). [DEDUCED, log 46] -/
def State.hostCell (s : State) (same : Bool) (c : CellId) : State :=
  let s := if c.isMem then s else s.clearScratch c
  let x := s.cell c
  s.setCell c { x with
    discard := 0
    front := if same then x.front else none
    back := if same then x.back else none
    filling := none }

/-- The VP that takes a band row in a VP's stead where that never reaches it (R218): the next spliced one, n
splices on at most. -/
def State.heirOf (s : State) (i : Nat) : Nat → VpId → VpId
  | 0, v => v
  | n + 1, v =>
    let x := s.vp v
    match x.succ with
    | some w => if (x.firstPos i).isNone then s.heirOf i n w else v
    | none => v

/-- A row passes to a VP as its band row i; a successor of the VP is to follow it there. -/
def State.hostAs (s : State) (r : RowId) (v : VpId) (i : Nat) : State :=
  let x := s.vp v
  let old := s.row r
  let s := s.setRow r { old with
    host := some v, heir := x.succ, pos := none, phase := .empty, nextPos := x.firstPos i, tenant := x.tenant }
  (rowCells r).foldl (fun s c => s.hostCell (old.tenant == x.tenant) c) s

def State.hostRow (s : State) (r : RowId) (v : VpId) (i : Nat) : State := s.hostAs r (s.heirOf i 1024 v) i

/-- What stays of a cell when its row is released: what CFGLD has loaded, its kept images, its counters and its
fault word. [DESIGN CHOICE, log 47] -/
def Cell.released (x : Cell) : Cell :=
  { Cell.reset with
    program := match x.loaded with
      | some (_, p) => p
      | none => .empty
    loaded := x.loaded
    badRegs := x.badRegs
    badWords := x.badWords
    instNum := x.instNum
    lastNum := x.lastNum
    callNum := x.callNum
    calls := x.calls
    front := x.front
    back := x.back
    discard := x.discard
    cause := x.cause
    srcKind := x.srcKind
    lane := x.lane
    slot := x.slot
    block := x.block
    faultVal := x.faultVal }

/-- The band row that a die row is for a VP. -/
def Vp.rowIndex (x : Vp) (r : RowId) : Nat := (r.row.val + 64 - x.base) % 64

/-- The VP of another band that waits for a row (R218). -/
def State.waiterOf (s : State) (r : RowId) : Option VpId :=
  (s.vps.find? fun y => y.1.die == r.die && (y.2.stage == .live || y.2.stage == .preempting) &&
    y.2.waits.contains (y.2.rowIndex r)).map Prod.fst

/-- A VP waits for a band row no longer. -/
def State.stopWaiting (s : State) (w : VpId) (i : Nat) : State :=
  let y := s.vp w
  s.setVp w { y with waits := y.waits.filter fun j => j != i }

/-- A row is released to the band scheduler, or to the spliced successor that waits for it (R203, R219); one that a VP
of another band was to take goes there (R218). [DEDUCED, log 58] -/
def State.releaseRow (s : State) (r : RowId) : State :=
  let s := (rowCells r).foldl (fun s c => s.setCell c (s.cell c).released) s
  let x := s.row r
  let s := s.setRow r { x with host := none, heir := none, pos := none, phase := .empty, nextPos := none }
  match x.heir with
  | some w => s.hostRow r w ((s.vp w).rowIndex r)
  | none => match s.waiterOf r with
    | none => s
    | some w =>
      let i := (s.vp w).rowIndex r
      (s.stopWaiting w i).hostRow r w i

/-! ### The cells of a position -/

/-- The cells of an image at a position, with their numbers in the span. -/
def Vp.span (x : Vp) (die : Fin 2) (e p : Nat) : List (Nat × CellId) :=
  (List.range (x.image e).width).map fun k => (k, x.cellOf die e p k)

/-- The output and input ports of a cell that an edge or a binding joins (R197, R198). -/
def Vp.outPorts (x : Vp) (e p k : Nat) : List (Fin 8) :=
  (List.finRange 8).filter fun q =>
    (x.outAt e p q).isSome || (q == 5 && (x.boundAt x.egress e p k).isSome)
def Vp.inPorts (x : Vp) (e p k : Nat) : List (Fin 8) :=
  (List.finRange 8).filter fun q =>
    (x.inAt e p q).isSome || (q == 5 && (x.boundAt x.ingress e p k).isSome)

/-- The array may still send to a port, a tile, an ERR or a packet that it passes on; and an address generator may.
[DEDUCED, log 49] -/
def Cell.releasing (x : Cell) (port : Fin 8) : Bool :=
  (x.release.any fun r => r.port == port) || (x.due.any fun d => Target.port d.1.t0 == some port) ||
    x.matrix.any fun r => r.cmd.op != 3 && (Target.port r.cmd.t0 == some port ||
      (r.cmd.passEast && port == 1) || (r.cmd.passSouth && port == 2))
/-- [DEDUCED, log 49] -/
def Cell.generating (x : Cell) (port : Fin 8) : Bool :=
  x.agens.toList.any fun a => match a with
    | some a => !a.receives && !a.done && a.port == port
    | none => false

/-- The array or a receiving generator still takes tokens from a port. [DEDUCED, log 50] -/
def Cell.engineTakes (x : Cell) (port : Fin 8) : Bool :=
  x.arrayOwns port ||
    (x.matrix.any fun r => r.cmd.op != 3 &&
      ((!r.aDone && r.cmd.l.at 0 == 0 && (r.cmd.l.at 1).toNat == port.val) ||
        (!r.bDone && r.cmd.r.at 0 == 0 && (r.cmd.r.at 1).toNat == port.val))) ||
    x.agens.toList.any fun a => match a with
      | some a => a.receives && !a.done && a.port == port
      | none => false

/-! ### Steps 1 and 2 of R201 -/

/-- The row sends the wave's EOW on an output port on which the cell has sent none. What the cell, its array and
its generators still send there goes first. [DEDUCED, log 49] -/
def State.endOutput (s : State) (pl : Place) (c : CellId) (port : Fin 8) : State :=
  let x := s.cell c
  if x.sentEow.contains port || !x.sendQ.isEmpty || x.releasing port || x.generating port then s
  else
    let t := Token.marker .eow pl.wave
    match s.sendHop pl c t (port.val * 2 ^ 24) with
    | none => s
    | some s => s.noteEow c port t

/-- How many tokens of a port the row takes: those up to its EOW, a PRE that stands before it included. -/
def upToEow (q : List Token) : Nat :=
  match q.findIdx? fun t => t.k == .eow with
  | some i => i + 1
  | none => q.length

/-- The row takes the first n tokens of a port and discards them; each that is no marker counts (R143). -/
def State.discardTokens (s : State) (c : CellId) (port : Fin 8) (n : Nat) : State :=
  let lost := (((s.cell c).ports[port].take n).filter fun t => !t.k.isMarker && !t.k.isHeld).length
  let s := s.removeTokens c port n
  let x := s.cell c
  s.setCell c { x with discard := x.discard + BitVec.ofNat 64 lost }

/-- The row takes and discards the tokens of an input port up to and including the EOW of the wave (R201). A PRE does
not stop a row that has begun (R203), nor an engine of its cells. [DEDUCED, log 50; DEDUCED, log 55] -/
def State.endInput (s : State) (c : CellId) (port : Fin 8) : State :=
  let x := s.cell c
  if x.gotEow.contains port then s
  else if x.engineTakes port then match x.ports[port] with
    | t :: _ => if t.k == .pre then s.discardTokens c port 1 else s
    | [] => s
  else s.discardTokens c port (upToEow x.ports[port])

/-- Every cell of an image's span has executed BEND, and no fault holds it (R371). -/
def State.spanEnded (s : State) (cells : List (Nat × CellId)) : Bool :=
  cells.all fun c =>
    let x := s.cell c.2
    x.bend && !x.pending && !x.rejected && !x.saved

/-- All output ports have sent their EOW, and all input ports have taken theirs. -/
def State.outputsEnded (s : State) (x : Vp) (e p : Nat) (cells : List (Nat × CellId)) : Bool :=
  cells.all fun c => (x.outPorts e p c.1).all fun q => (s.cell c.2).sentEow.contains q
def State.inputsEnded (s : State) (x : Vp) (e p : Nat) (cells : List (Nat × CellId)) : Bool :=
  cells.all fun c => (x.inPorts e p c.1).all fun q => (s.cell c.2).gotEow.contains q

/-- Step 1 of R201 for an image: every cell of its span has executed BEND, in every row of a static rectangle that has
not begun to leave (R194). -/
def State.imageEnded (s : State) (v : VpId) (die : Fin 2) (p e : Nat) : Bool :=
  let x := s.vp v
  s.spanEnded (x.span die e p) && (x.rowsOf e p).all fun q =>
    let row := s.row (x.rowOf die q)
    row.host != some v || (row.phase != .empty && (row.phase != .live || s.spanEnded (x.span die e q)))

/-- The ports of a span, each with its cell. -/
def spanPorts (ports : Nat → List (Fin 8)) (cells : List (Nat × CellId)) : List (CellId × Fin 8) :=
  cells.flatMap fun c => (ports c.1).map fun p => (c.2, p)

/-- Step 2 for one image of the row, as far as it goes. -/
def State.endWave (s : State) (v : VpId) (die : Fin 2) (p e : Nat) : State :=
  let x := s.vp v
  let cells := x.span die e p
  if !s.imageEnded v die p e then s
  else
    let s := (spanPorts (x.outPorts e p) cells).foldl (fun s q => match s.place q.1 with
      | some pl => s.endOutput pl q.1 q.2
      | none => s) s
    if s.outputsEnded x e p cells then
      (spanPorts (x.inPorts e p) cells).foldl (fun s q => s.endInput q.1 q.2) s
    else s

/-- A memory cell of the row has failed to load: the position is faulted (R409). -/
def State.memFaulted (s : State) (r : RowId) : Bool :=
  (rowCells r).any fun c => c.isMem && (s.cell c).rejected

/-- The VP of a row that may move, with the row's position. -/
def State.movingRow (s : State) (r : RowId) : Option (VpId × Nat) :=
  match (s.row r).host, (s.row r).pos with
  | some v, some p =>
    if (s.vp v).stage = .live ∨ (s.vp v).stage = .preempting then some (v, p) else none
  | _, _ => none

/-- A row's phase. -/
def State.setPhase (s : State) (r : RowId) (ph : Phase) : State := s.setRow r { s.row r with phase := ph }

/-- The row completes the wave's markers once every cell has executed BEND: R201 steps 1 to 3. A feedback hold
ends with the EOW on its edge (R211). -/
def execWaveMarkerCompletion (r : RowId) (s : State) : Res :=
  match s.movingRow r with
  | none => .next s
  | some (v, p) =>
    let ph := (s.row r).phase
    if !ph.running || s.memFaulted r then .next s
    else
      let x := s.vp v
      let es := x.entriesAt p
      let ended := es.all fun e => s.imageEnded v r.die p e
      let s := es.foldl (fun s e => s.endWave v r.die p e) s
      let x := s.vp v
      let done := es.all fun e =>
        s.outputsEnded x e p (x.span r.die e p) && s.inputsEnded x e p (x.span r.die e p)
      .next (if !ended then s else s.setPhase r (if done then .draining else .markers))

/-! ### Steps 4 to 6 of R201 -/

/-- The engines of a cell have completed every request, and every request of the cell has been answered, what it has stored
on other modules acknowledged (R326). -/
def State.cellDrained (s : State) (v : VpId) (c : CellId) : Bool :=
  let x := s.cell c
  s.requestsOf v c == 0 && !s.awaits (Accessor.ofCell c) && x.matrix.isEmpty && x.due.isNone && x.release.isNone && x.sendQ.isEmpty &&
    (x.agens.toList.all fun a => match a with
      | some a => a.done
      | none => true) &&
    !(s.parked.any fun q => q.ofCell c) &&
    !((s.vp v).egress.any fun b => b.out.isSome && (match s.place c with
      | some pl => b.image == pl.entry && b.cell == pl.k && pl.x.joins pl.entry pl.pos 5
      | none => false))

/-- The tokens at REPLY and XFER are discarded and counted (R143, R338). -/
def State.dropReplies (s : State) (c : CellId) : State :=
  let x := s.cell c
  let n := (x.ports[(6 : Fin 8)]).length + (x.ports[(7 : Fin 8)]).length
  s.setCell c { x with ports := (x.ports.set (6 : Fin 8) []).set (7 : Fin 8) []
                       discard := x.discard + BitVec.ofNat 64 n }

/-- The row's engines have drained (step 4, R327). -/
def execEngineDrainEnd (r : RowId) (s : State) : Res :=
  match s.movingRow r with
  | none => .next s
  | some (v, _) =>
    let cells := s.spanCells r
    if (s.row r).phase != .draining || !(cells.all fun c => s.cellDrained v c) then .next s
    else .next ((cells.foldl (fun s c => s.dropReplies c) s).setPhase r .drained)

/-- No token stands before the RCF at a cell's input ports but PRE, and none is on its way. [DEDUCED, log 50] -/
def State.portsClear (s : State) (c : CellId) : Bool :=
  ((s.cell c).ports.toList.take 6).all (fun q => q.all fun t => t.k.isHeld) &&
    !(s.flights.any fun f => f.dest == c)

/-- A token is on its way to a memory cell of the row, whose switch is to pass it on (R406). -/
def State.memStreams (s : State) (r : RowId) : Bool := s.flights.any fun f => f.dest.isMem && f.dest.rowId == r

/-- A token of the row's own put behind a port's last one, whatever the cell's routes. -/
def State.placeToken (s : State) (c : CellId) (port : Fin 8) (t : Token) : State :=
  let s := s.putPort c port [t]
  match s.ingressAt c port with
  | none => s
  | some (v, i, b) => s.setIngress v i { b with slots := b.slots ++ [0] }

/-- What a producer has sent on an edge or binding after its EOW of the wave, and no engine takes, is discarded: it belongs
to no position that follows (R204, R213). [DEDUCED, log 50] -/
def State.dropLate (s : State) (c : CellId) : State :=
  match s.place c with
  | none => s
  | some pl => (pl.x.inPorts pl.entry pl.pos pl.k).foldl (fun s port =>
      let x := s.cell c
      let q := x.ports[port]
      if !x.gotEow.contains port || x.engineTakes port || q.all fun t => t.k.isHeld then s
      else
        let s := s.discardTokens c port q.length
        if q.any fun t => t.k == .pre then s.placeToken c port pl.x.preToken else s) s

/-- The other rows of a static rectangle send nothing more into a row (R194). [DEDUCED, log 50] -/
def State.rectangleDrained (s : State) (v : VpId) (die : Fin 2) (p : Nat) : Bool :=
  let x := s.vp v
  !x.static || (x.entriesAt p).all fun e => (x.rowsOf e p).all fun q =>
    let row := s.row (x.rowOf die q)
    row.host != some v || (row.phase != .empty && !row.phase.running && row.phase != .draining)

/-- The ports of a cell that streams, rings and bindings feed. -/
def streamPorts : List (Fin 8) := [0, 1, 2, 3, 4, 5]

/-- The tokens of a kind taken out of a port; the port's binding forgets them. -/
def State.takeKind (s : State) (c : CellId) (port : Fin 8) (k : Kind) : State :=
  let q := (s.cell c).ports[port]
  let s := match s.ingressAt c port with
    | none => s
    | some (v, i, b) =>
      let keep : List (Token × Nat) := (q.zip b.slots).filter fun y => y.1.k != k
      s.setIngress v i { b with slots := keep.map Prod.snd }
  let x := s.cell c
  s.setCell c { x with ports := x.ports.set port (q.filter fun t => t.k != k) }

/-- RCF stands behind the last token of a cell's input ports, with the position (R136); and the cell takes it.
[DEDUCED, log 50] -/
def State.placeRcf (s : State) (p : Nat) (c : CellId) : State :=
  streamPorts.foldl (fun s port => s.placeToken c port (Token.marker .rcf p)) s
/-- [DEDUCED, log 50] -/
def State.takeRcf (s : State) (c : CellId) : State :=
  streamPorts.foldl (fun s port => s.takeKind c port .rcf) s

/-- The row places RCF behind the last token of each port; at its next turn every cell has taken it (step 5, R136,
R137). [DEDUCED, log 50] -/
def execRcfPlacement (r : RowId) (s : State) : Res :=
  match s.movingRow r with
  | none => .next s
  | some (v, p) =>
    let cells := s.spanCells r
    match (s.row r).phase with
    | .drained =>
      let s := cells.foldl State.dropLate s
      if !(cells.all s.portsClear) || s.memStreams r || !s.rectangleDrained v r.die p then .next s
      else .next ((cells.foldl (fun s c => s.placeRcf p c) s).setPhase r .rcf)
    | .rcf => .next ((cells.foldl (fun s c => s.takeRcf c) s).setPhase r .taken)
    | _ => .next s

/-- The kept state of the position's images is written to their records (step 6, R200, R429): that of a static
rectangle's first row. -/
def execStateSave (r : RowId) (s : State) : Res :=
  match s.movingRow r with
  | none => .next s
  | some (v, p) =>
    if (s.row r).phase != .taken then .next s
    else
      let x := s.vp v
      let es := (x.entriesAt p).filter fun e => x.relRow e p == 0
      let s := es.foldl (fun s e => (x.span r.die e p).foldl (fun s c =>
        s.saveCell v (x.waveOf p) c.2 (x.image e) (x.partAt e c.1)) s) s
      let len := (es.map fun e => (x.image e).width * (x.image e).rawBytes).sum
      .next (s.setRow r { s.row r with phase := .saved, saveLen := len })

/-- The position leaves. With no position to follow, the row is released (R203). -/
def execPositionLeave (r : RowId) (s : State) : Res :=
  match s.movingRow r with
  | none => .next s
  | some (v, p) =>
    if (s.row r).phase != .saved then .next s
    else
      let x := s.vp v
      let q := p + x.b
      if x.static || decide (x.total ≤ q) then .next (s.releaseRow r)
      else .next (s.setRow r { s.row r with phase := .left, leftAt := s.cycle, nextPos := some q })

end Sys2Proof.Machine
end

