-- ==== Sys2Proof/Machine/BandEdges.lean ====
section
/-!
DEFINITION. Rings (R204, R210, R213), binding buffers (R198), tokens that have lost their VP (R226), and the PRE
tokens of a pre-emption (R222).
-/

namespace Sys2Proof.Machine
open Sys2Proof

/-! ### PRE (R136, R222) -/

/-- A stream that the band stops holds nothing more for a port: PRE stands there, or is to be put there. -/
def State.preHeld (s : State) (v : VpId) (c : CellId) (port : Fin 8) : Bool :=
  let x := s.vp v
  x.stage == .preempting &&
    ((((s.cell c).ports[port]).any fun t => t.k == .pre) ||
      x.preAt.any fun q => q.1 == c && q.2.1 == port && !q.2.2)

/-- A token delivered by the band into a live position: behind an EOT or EOW, PRE is to follow while the VP is
being pre-empted. -/
def State.notePre (s : State) (v : VpId) (c : CellId) (port : Fin 8) (t : Token) : State :=
  let x := s.vp v
  if x.stage == .preempting && (t.k == .eot || t.k == .eow) then
    s.setVp v { x with preAt := x.preAt ++ [(c, port, false)] }
  else s

/-! ### Rings -/

/-- The position that a ring's token is for. -/
def Vp.ringPos (x : Vp) (e : Edge) (wave : Nat) : Nat :=
  if x.static then (x.image (x.dstEntry e)).rowOff else wave * x.perWave + x.place e.dst e.toBack

/-- What becomes of the first token of a cell in a ring. -/
inductive RingFate where
  | wait | deliver | discard
  deriving DecidableEq, Repr

/-- The port of a cell takes from its edge: the row has not completed the wave's markers, or an engine of the cell still
takes tokens there. What comes for the position later is discarded once it has left (R204, R213). [DEDUCED, log 50] -/
def State.edgeOpen (s : State) (c : CellId) (port : Fin 8) : Bool :=
  let ph := (s.row c.rowId).phase
  ph.running || ((ph == .draining) && (s.cell c).engineTakes port)

/-- A token of edge n's ring judged, which is so many at its port (R204, R213). It waits for the edge's tokens that are still on the stream to its
cell (R210), while the row takes none for the position, and while the VP stands on no band (R225). -/
def State.ringFate (s : State) (v : VpId) (n : Nat) (e : Edge) (size : Nat) (q : Nat × Nat × Token) : RingFate :=
  let x := s.vp v
  let p := x.ringPos e q.2.1
  let c := x.cellOf v.die (x.dstEntry e) p q.1
  let ahead := s.flights.any fun f => f.vp == v && f.edge == some n && f.dest == c
  if x.stage != .live && x.stage != .preempting then .wait
  else match s.posState v p with
  | .gone => .discard
  | .notYet => .wait
  | .resident => if s.edgeOpen c e.toPort && s.admits c e.toPort size && !s.preHeld v c e.toPort && !ahead then .deliver else .wait

/-- What arrives at the port for a token of a ring: in place of a damaged one, what R134 says. -/
def Edge.arriving (e : Edge) (n : Nat) (t : Token) : List Token := if e.bad.contains n then damaged else [t]

/-- A ring without its n-th token. -/
def Edge.without (e : Edge) (n : Nat) : Edge :=
  { e with ring := dropNth e.ring n, bad := (e.bad.filter fun i => i != n).map fun i => if n < i then i - 1 else i }

/-- The first token of a ring that may move, with its number: a cell's tokens keep their order (R210). -/
def State.ringNext (s : State) (v : VpId) (m : Nat) (e : Edge) :
    List Nat → Nat → List (Nat × Nat × Token) → Option (Nat × RingFate × (Nat × Nat × Token))
  | _, _, [] => none
  | held, n, q :: rest =>
    if held.contains q.1 then s.ringNext v m e held (n + 1) rest
    else match s.ringFate v m e (e.arriving n q.2.2).length q with
      | .wait => s.ringNext v m e (q.1 :: held) (n + 1) rest
      | f => some (n, f, q)

/-- A ring delivers its next token, or discards one whose position has left (R213). -/
def execRingDelivery (v : VpId) (edge : Nat) (s : State) : Res :=
  let x := s.vp v
  match x.edges[edge]? with
  | none => .next s
  | some e => match s.ringNext v edge e [] 0 e.ring with
    | none => .next s
    | some (n, f, q) =>
      let ts := e.arriving n q.2.2
      let old := s
      let s := (s.setVp v { x with edges := setNth x.edges edge (e.without n) }).touch v
      let c := x.cellOf v.die (x.dstEntry e) (x.ringPos e q.2.1) q.1
      let s := if f = .deliver && e.bad.contains n then s.countError (.cell c) true else s
      if f = .deliver then match s.arrive c e.toPort ts with
        | none => .next old
        | some s => .next (s.notePre v c e.toPort (ts.headD .nul))
      else if q.2.2.k = .pre then .next s
      else
        let y := s.cell c
        .next (s.setCell c { y with discard := y.discard + 1 })

/-! ### Bindings (R198) -/

/-- The row where the image of an entry is resident, with its position. -/
def State.rowOfEntry (s : State) (v : VpId) (e : Nat) : Option (RowId × Nat) :=
  let x := s.vp v
  let hits := (x.bandRows v.die).filterMap fun r => match (s.row r.2).pos with
    | some p =>
      if (s.row r.2).host = some v && (x.entriesAt p).contains e && s.posState v p == .resident then
        some (r.2, p)
      else none
    | none => none
  hits.head?

/-- The slots of a buffer. -/
def Binding.size (b : Binding) : Nat := (b.cap.length - 64) / 128

/-- The address of the slot of token n. -/
def Binding.slotAt (b : Binding) (n : Nat) : Nat := b.cap.base + 64 + 128 * (n % b.size)

/-- The bound cell at a position. -/
def Vp.boundCell (x : Vp) (die : Fin 2) (b : Binding) (p : Nat) : CellId := x.cellOf die b.image p b.cell

/-- A binding stops: its port receives ERR, where there is room, and the failure is reported. [DEDUCED, log 57] -/
def State.stopBinding (s : State) (v : VpId) (c : CellId) (wave : Nat) (st : Status) : Option State :=
  if !s.admits c 5 1 then none else (s.putMarker c 5 (.err st)).map fun s => s.itemFailed v wave c 0 0 st

/-- Head and tail counts of a buffer. -/
def State.counts (s : State) (x : Reach) (b : Binding) : State × Except Status (Nat × Nat) :=
  match s.areaRead x .read b.cap.base 16 with
  | (s, .error st) => (s, .error st)
  | (s, .ok bs) => (s, .ok (leNat (bs.take 8), leNat (bs.drop 8)))

/-- The wave position of an image-table entry. -/
def Vp.entryPos (x : Vp) (e wave : Nat) : Nat :=
  if x.static then (x.image e).rowOff else wave * x.perWave + x.place (x.stageOf e) (decide (x.d ≤ e))

/-- The token of a buffer slot; a damaged one is replaced as R134 says. [DEDUCED, log 57] -/
def State.slotToken (s : State) (x : Reach) (c : CellId) (va : Nat) : State × Except Status (List Token) :=
  match s.areaLocs x .read (pagesOf va 72) with
  | (s, .error st) => (s, .error st)
  | (s, .ok ls) => match s.areaBytes x.sender ls with
    | (s, .error _) => (s, .ok damaged)
    | (s, .ok bs) => match Token.ofBytes bs with
      | some t => (s, .ok [t])
      | none => (s.countError (.cell c) true, .ok damaged)

/-- An ingress binding feeds its next token to the bound port while the VP stands on a band (R225) and the position of the
token's wave is live. What stands in the buffer behind the last wave's EOW belongs to no position.
[DEDUCED, log 57] -/
def execIngressBindingTake (v : VpId) (binding : Nat) (s : State) : Res :=
  let x := s.vp v
  match x.ingress[binding]? with
  | none => .next s
  | some b =>
    let p := x.entryPos b.image b.eows
    let c := x.boundCell v.die b p
    let reach := s.edgeReach c.rowId x.tenant
    if b.stopped || (x.stage != .live && x.stage != .preempting) || decide (x.w ≤ b.eows) ||
        s.posState v p != .resident || !s.edgeOpen c 5 || s.preHeld v c 5 || !s.admits c 5 1 then .next s
    else
      let stop (u : State) (st : Status) : Res :=
        match (u.setIngress v binding { b with stopped := true }).stopBinding v c b.eows st with
        | none => .next s
        | some u => .next u
      match s.counts reach b with
      | (s, .error st) => stop s st
      | (s, .ok (head, tail)) =>
        let n := (tail + 2 ^ 64 - head) % 2 ^ 64
        let seen := b.slots.sum
        if b.size < n then stop s .badDesc
        else if n ≤ seen then .next s
        else match s.slotToken reach c (b.slotAt ((head + seen) % 2 ^ 64)) with
          | (s, .error st) => stop s st
          | (u, .ok ts) =>
            let last := ts.headD .nul
            let b' := { b with eows := if last.k = .eow then b.eows + 1 else b.eows }
            if !u.admits c 5 ts.length then .next s
            else match (u.setIngress v binding b').arriveFrom c 5 ts (1 :: (ts.drop 1).map fun _ => 0) with
              | none => .next s
              | some u => .next (u.notePre v c 5 last)

/-- An egress binding writes the token that it holds into its buffer and advances the tail. A full buffer holds it
back. [DEDUCED, log 57] -/
def execEgressBindingWrite (v : VpId) (binding : Nat) (s : State) : Res :=
  let x := s.vp v
  match x.egress[binding]? with
  | none => .next s
  | some b => match b.out, s.rowOfEntry v b.image with
    | some t, some (r, p) =>
      let c := x.boundCell v.die b p
      let reach := s.edgeReach r x.tenant
      let set (s : State) (b : Binding) : State :=
        let x := s.vp v
        s.setVp v { x with egress := setNth x.egress binding b }
      let stop (u : State) (st : Status) : Res :=
        match u.stopBinding v c (x.waveOf p) st with
        | none => .next s
        | some u => .next (set u { b with stopped := true })
      if b.stopped then .next s
      else match s.counts reach b with
        | (s, .error st) => stop s st
        | (s, .ok (head, tail)) =>
          let n := (tail + 2 ^ 64 - head) % 2 ^ 64
          if b.size < n then stop s .badDesc
          else if n = b.size then .next s
          else match s.areaWrite reach (b.slotAt tail) t.toBytes with
            | (s, some st) => stop s st
            | (s, none) =>
              let s := s.advance v r b.cap 8 1
              .next ((set s { b with out := none }).touch v)
    | _, _ => .next s

/-! ### The census (R220) -/

/-- Tokens that a buffer holds by its counts: those that have entered it and that its consumer has not taken.
[DEDUCED, log 57] -/
def State.bufferHolds (s : State) (v : VpId) (p : Nat) (b : Binding) : Nat :=
  let c := (s.vp v).boundCell v.die b p
  match (s.counts (s.edgeReach c.rowId (s.vp v).tenant) b).2 with
  | .error _ => 0
  | .ok (head, tail) =>
    let n := (tail + 2 ^ 64 - head) % 2 ^ 64
    if b.size < n then 0 else n

/-- Tokens of a VP in its binding buffers that stand at no port: an ingress buffer's slots that the row has not taken,
while a wave is to come, and an egress buffer's slots until the consumer advances the head. [DEDUCED, log 57] -/
def State.buffered (s : State) (v : VpId) : Nat :=
  let x := s.vp v
  let ins := x.ingress.map fun b =>
    if b.stopped || decide (x.w ≤ b.eows) then 0
    else s.bufferHolds v (x.entryPos b.image b.eows) b - b.slots.sum
  let outs := x.egress.map fun b => if b.stopped then 0 else s.bufferHolds v (x.entryPos b.image 0) b
  ins.sum + outs.sum

/-- A binding with the counts that its buffer shows at a position; as it was where they cannot be read. -/
def State.seeBinding (s : State) (v : VpId) (p : Nat) (b : Binding) : Binding :=
  let c := (s.vp v).boundCell v.die b p
  match (s.counts (s.edgeReach c.rowId (s.vp v).tenant) b).2 with
  | .error _ => b
  | .ok n => { b with seen := n }

/-- A token that another agent has put into a binding buffer of a VP on a band, or taken from one, is a movement (R216).
[DEDUCED, log 63] -/
def State.watchVp (s : State) (v : VpId) : State :=
  let x := s.vp v
  if x.stage != .live && x.stage != .preempting then s
  else
    let y : Vp := { x with
      ingress := x.ingress.map fun b => s.seeBinding v (x.entryPos b.image b.eows) b
      egress := x.egress.map fun b => s.seeBinding v (x.entryPos b.image 0) b }
    if y = x then s else s.setVp v { y with moved := s.cycle }

/-- The binding buffers of every VP as they stand between two turns. [DEDUCED, log 63] -/
def State.watch (s : State) : State := s.vps.foldl (fun s v => s.watchVp v.1) s

/-- The census of a VP: its tokens and its requests without an answer. -/
def State.census (s : State) (v : VpId) : Nat :=
  s.tokensOf v + s.buffered v +
    (s.cells.map fun c => if s.hosted v c.1 then s.requestsOf v c.1 else 0).sum

/-! ### Orphans (R226) -/

/-- A token that arrives for a VP which the row no longer hosts is dropped and counted. [DEDUCED, log 84] -/
def execOrphanTokenDrop (c : CellId) (port : Fin 8) (s : State) : Res :=
  match s.flights.findIdx? fun f => f.dest == c && f.port == port && !s.hosted f.vp f.dest with
  | none => .next s
  | some i => match s.flights[i]? with
    | none => .next s
    | some f => .next ({ s with flights := dropNth s.flights i }.dropOrphan f.vp (c.src 0 0))

end Sys2Proof.Machine
end

