-- ==== Sys2Proof/Machine/BandLoad.lean ====
section
/-!
DEFINITION. Tile images as rows load them (R403, R404, R409), the banks of a cell (R130, R205, R235), and how a
position goes live (R163, R202, R206, R413).
-/

namespace Sys2Proof.Machine
open Sys2Proof

/-! ### Tile images (R403, R404) -/

/-- The records of an image by relative row and column. -/
abbrev TileImage := List ((Nat × Nat) × List FrameRecord)

/-- Word i of bytes. -/
def bytesWord (bs : List Byte) (i : Nat) : Nat := leNat ((bs.drop (4 * i)).take 4)

/-- The CRC32C of bytes (R404). -/
def crc32c (bs : List Byte) : BitVec 32 := crcBytes (BitVec.allOnes 32) bs ^^^ BitVec.allOnes 32

/-- The header of an image in a capability's range. -/
structure ImageHeader where
  rows  : Nat
  cols  : Nat
  cells : Nat
  frames : Nat
  sig   : Nat
  deriving DecidableEq, Repr

/-- A header that R403 allows in a range of a length. -/
def imageHeader (bs : List Byte) (length : Nat) : Option ImageHeader :=
  let w (i : Nat) : Nat := bytesWord bs i
  let sig := w 7
  if w 0 = 0x4B54494D ∧ w 1 = 1 ∧ 1 ≤ w 2 ∧ w 2 ≤ 64 ∧ 1 ≤ w 3 ∧ w 3 ≤ 36 ∧ 1 ≤ w 4 ∧ w 6 + 0x40 = sig ∧
      sig = 0x40 + 16 * w 4 + 36 * w 5 ∧ sig + 8240 ≤ length ∧ (List.range 8).all fun i => w (8 + i) == 0 then
    some ⟨w 2, w 3, w 4, w 5, sig⟩
  else none

/-- The records that an entry of the cell table names, where the entry is right and their CRC is its. -/
def tableEntry (h : ImageHeader) (bs : List Byte) (i : Nat) : Option ((Nat × Nat) × List FrameRecord) :=
  let w (j : Nat) : Nat := bytesWord bs (16 + 4 * i + j)
  let row := field (w 0) 7 0
  let col := field (w 0) 15 8
  let n := field (w 0) 31 16
  let raw := (bs.drop (0x40 + 16 * h.cells + 36 * w 1)).take (36 * n)
  if w 3 = 0 ∧ w 1 + n ≤ h.frames ∧ row < h.rows ∧ col < h.cols ∧ (crc32c raw).toNat = w 2 then
    some ((row, col), recordsOf raw n)
  else none

/-- The cell table; none where an entry is wrong, or a cell appears twice. -/
def imageTable (h : ImageHeader) (bs : List Byte) : Nat → Nat → TileImage → Option TileImage
  | 0, _, acc => some acc
  | n + 1, i, acc => match tableEntry h bs i with
    | none => none
    | some x => if acc.any fun y => y.1 == x.1 then none else imageTable h bs n (i + 1) (acc ++ [x])

/-- The rows that an image may span: a static rectangle stays in its band (R194, R199); of a scrolling image the first
row is taken. [DEDUCED, log 41] -/
def Vp.maxRows (x : Vp) (e : Nat) : Nat := if x.static then x.b - (x.image e).rowOff else 64

/-- An image capability that a row may load through (R196, R409). -/
def imageCapOk (cap : Cap) (tenant : BitVec 8) : Bool :=
  cap.tag && cap.otype == 0 && cap.tenant == tenant && cap.space == .dense && cap.pR && cap.pX

/-- The header of an image that a row reads through its capability, where it spans so many rows at most (R409). -/
def State.readHeader (s : State) (r : RowId) (tenant : BitVec 8) (cap : Cap) (rows : Nat) :
    State × Except Status ImageHeader :=
  if !imageCapOk cap tenant then (s, .error .perm)
  else if cap.length < 64 then (s, .error .badDesc)
  else match s.areaRead (s.edgeReach r tenant) .image cap.base 64 with
    | (s, .error st) => (s, .error st)
    | (s, .ok hdr) => match imageHeader hdr cap.length with
      | none => (s, .error .badDesc)
      | some h => if rows < h.rows then (s, .error .badDesc) else (s, .ok h)

/-- The image of an entry read by a row (R409). -/
def State.readImage (s : State) (r : RowId) (y : Vp) (e : Nat) : State × Except Status TileImage :=
  let cap := (y.image e).cap
  match s.readHeader r y.tenant cap (y.maxRows e) with
  | (s, .error st) => (s, .error st)
  | (s, .ok h) => match s.areaRead (s.edgeReach r y.tenant) .image cap.base h.sig with
    | (s, .error st) => (s, .error st)
    | (s, .ok bs) => match imageTable h bs h.cells 0 [] with
      | none => (s, .error .badDesc)
      | some t => (s, .ok t)

/-- The heights of a static VP's rectangles, from the headers of its images: of one that cannot be read, or that would
leave the band, 1, and its load will fault. They are read when the VP takes its band. [DEDUCED, log 48] -/
def State.measure (s : State) (v : VpId) : State :=
  if !(s.vp v).static then s
  else (List.range (s.vp v).images.length).foldl (fun s e =>
    let y := s.vp v
    let ent := y.image e
    let r : RowId := ⟨v.die, y.dieRow ent.rowOff⟩
    match s.readHeader r y.tenant ent.cap (y.maxRows e) with
    | (s, .error _) => s
    | (s, .ok h) =>
      let y := s.vp v
      s.setVp v { y with images := setNth y.images e { ent with height := h.rows } }) s

/-! ### Kept images (R130, R205, R235) -/

/-- A kept image carries the mark of a capability and tenant. -/
def KeptImage.marked (k : KeptImage) (cap : Cap) (tenant : BitVec 8) : Bool := k.cap == cap && k.tenant == tenant

/-- The image that a cell keeps with a mark. -/
def Cell.kept (x : Cell) (cap : Cap) (tenant : BitVec 8) : Option KeptImage :=
  match x.front, x.back with
  | some f, some b => if f.marked cap tenant then some f else if b.marked cap tenant then some b else none
  | some f, none => if f.marked cap tenant then some f else none
  | none, some b => if b.marked cap tenant then some b else none
  | none, none => none

/-- Frames that a bank holds (R130). -/
def bankFrames : Nat := 512

/-- The image in front of the other; one that needs both banks stands alone. -/
def Cell.takeImage (x : Cell) (k : KeptImage) : Cell :=
  let x := { x with filling := none }
  if x.front = some k then x
  else
    let back := match x.front with
      | none => none
      | some f => if bankFrames < f.program.frames ∨ bankFrames < k.program.frames then none else some f
    { x with front := some k, back := back }

/-- The cells inside an image's span: compute cells with their numbers, and the memory cells between them. -/
def Vp.spanMem (x : Vp) (die : Fin 2) (e p : Nat) : List CellId :=
  let r := x.rowOf die p
  let first := (colOfIndex (x.firstIndex e)).val
  let last := (colOfIndex (x.firstIndex e + (x.image e).width - 1)).val
  (rowCells r).filter fun c => c.isMem && decide (first < c.col.val) && decide (c.col.val < last)

/-- The records of an image for a cell in a row of the image, whose relative column 0 is a base column.
[DEDUCED, log 41] -/
def imageCell (t : TileImage) (rel base : Nat) (c : CellId) : Option (List FrameRecord) :=
  if c.col.val < base then none else (t.find? fun y => y.1 == (rel, c.col.val - base)).map (·.2)

/-- The base column of an image's rectangle (R194). -/
def Vp.baseCol (x : Vp) (e : Nat) : Nat := if x.static then (x.image e).baseCol else 0

/-- The program that a row loads into a cell from an image: its check (R409), the retired cells (R233), the cells that a
record not verified closes to it (R424), and the kept-state declaration (R196). A cell without records is empty.
[DEDUCED, log 61; DEDUCED, log 107] -/
def State.imageProgram (s : State) (x : Vp) (e rel : Nat) (t : TileImage) (c : CellId) : Except Status Program :=
  let ent := x.image e
  match imageCell t rel (x.baseCol e) c with
  | none => .ok .empty
  | some rs =>
    if s.isRetired c || !s.cellsOpen x then .error .retired
    else if (judge ⟨c, s.retired⟩ rs).isSome then .error .rejected
    else
      let p := programOf rs (ent.cap.pX && ent.cap.pC) x.tenant
      if !c.isMem && (p.keptG != ent.keptG || p.keptScr != ent.keptScr || p.keptAcc != ent.keptAcc) then
        .error .rejected
      else .ok p

/-- What a cell goes live with: the program, and how many of its frames were not in the back bank (R205). -/
structure Load where
  program : Program
  image   : Option KeptImage
  late    : Nat
  deriving DecidableEq, Repr

/-- Frames of a program that were not preloaded, where so many of them were not in a bank: of one that needs both banks,
all (R205). -/
def lateFrames (p : Program) (missing : Nat) : Nat := if bankFrames < p.frames then p.records else missing

/-- A kept image of the span tells which cells the image leaves empty. [DEDUCED, log 53] -/
def State.leftEmpty (s : State) (x : Vp) (e : Nat) (cells : List (Nat × CellId)) (c : CellId) : Bool :=
  cells.any fun d => match (s.cell d.2).kept (x.image e).cap x.tenant with
    | some k => !k.cols.contains (c.col.val - x.baseCol e)
    | none => false

/-- A cell's program without memory: what CFGLD has loaded under a static VP (R413), a kept image, or none where a
kept image of the span says that the cell is empty. A retired cell's block store cannot be used (R4): it takes no kept
image, so its records are read, and fault. [DEDUCED, log 53; DEDUCED, log 54; DEDUCED, log 61] -/
def State.loadKnown (s : State) (x : Vp) (e : Nat) (cells : List (Nat × CellId)) (c : CellId) : Option Load :=
  let y := s.cell c
  let kept : Option Load := match y.kept (x.image e).cap x.tenant with
    | some k => if s.cellsOpen x && !s.isRetired c then some ⟨k.program, some k, lateFrames k.program 0⟩ else none
    | none => if s.leftEmpty x e cells c then some ⟨.empty, none, 0⟩ else none
  match (if x.static then y.loaded else none) with
  | some (t, p) => if t = x.tenant then some ⟨p, none, 0⟩ else kept
  | none => kept

/-- The columns of a row of an image that hold a program. -/
def TileImage.cols (t : TileImage) (rel : Nat) : List Nat := (t.filter fun y => y.1.1 == rel).map (·.1.2)

/-- The kept image that a loaded program makes; an empty cell keeps nothing. -/
def keepOf (x : Vp) (e rel : Nat) (t : TileImage) (p : Program) : Option KeptImage :=
  if p.records = 0 then none else some ⟨(x.image e).cap, x.tenant, p, TileImage.cols t rel⟩

/-- The image that a cell's back bank is taking with a mark, and how many of its frames it has. -/
def Cell.partly (y : Cell) (cap : Cap) (tenant : BitVec 8) : Option (KeptImage × Nat) :=
  y.filling.filter fun f => f.1.marked cap tenant

/-- A cell's program from an image that has been read, where it is not known. A back bank that holds part of it needs
only the rest (R205). -/
def State.loadFrom (s : State) (x : Vp) (e rel : Nat) (cells : List (Nat × CellId)) (t : TileImage) (c : CellId) :
    Except Status Load :=
  match s.loadKnown x e cells c with
  | some l => .ok l
  | none => match s.imageProgram x e rel t c with
    | .error st => .error st
    | .ok p =>
      let have' := match (s.cell c).partly (x.image e).cap x.tenant with
        | some f => f.2
        | none => 0
      .ok ⟨p, keepOf x e rel t p, lateFrames p (p.records - have')⟩

/-! ### A cell at go-live (R163) -/

/-- g63: the launch arguments. -/
def argToken (x : Vp) : Token := { e := x.args, v := 0xFFFF, k := .data }

/-- The g registers before kept ones are restored. -/
def initRegs (x : Vp) (p : Program) : Vector Token 64 :=
  Vector.ofFn fun i =>
    if i.val = 63 then argToken x else if p.regInit.getLsbD i.val then Token.scalar 0 else .nul

/-- The granted capabilities. -/
def grantRegs (l : List (Fin 16 × Cap)) : Vector Cap 16 :=
  Vector.ofFn fun i => alGet l i Cap.null

/-- The address generators of a program. -/
def programAgens (p : Program) : Vector (Option Agen) 2 :=
  Vector.ofFn fun i => match p.agens.find? fun a => a.1 == i with
    | some a => agenOf a.2
    | none => none

/-- The mark of a kept image (R235), by which the words of its bank are known. -/
def KeptImage.mark (k : KeptImage) : Cap × BitVec 8 := (k.cap, k.tenant)

/-- The damaged words of a cell once an image has been written into a bank (R376). -/
def Cell.rewritten (y : Cell) (k : KeptImage) : List (Option (Cap × BitVec 8) × Fin 32 × Nat) :=
  y.badWords.filter fun w => w.1 != some k.mark

/-- A cell at the first go-live of its stage. -/
def Cell.liveWith (y : Cell) (x : Vp) (l : Load) : Cell :=
  let words := match l.image with
    | some k => if (y.kept k.cap k.tenant).isSome then y.badWords else y.rewritten k
    | none => y.badWords
  let y := match l.image with
    | some k => y.takeImage k
    | none => y
  { Cell.reset with
    program := l.program
    loaded := y.loaded
    badWords := words
    g := initRegs x l.program
    c := grantRegs l.program.grants
    ports := y.ports
    instNum := y.instNum
    lastNum := y.lastNum
    bend := l.program.blocks.isEmpty
    cause := y.cause
    srcKind := y.srcKind
    lane := y.lane
    slot := y.slot
    block := y.block
    faultVal := y.faultVal
    discard := y.discard
    callNum := y.callNum
    calls := y.calls
    front := y.front
    back := y.back
    filling := y.filling
    agens := programAgens l.program }

/-- A cell of the span starts block 0 in the state of R163. -/
def State.cellLive (s : State) (v : VpId) (e p k : Nat) (c : CellId) (l : Load) : State :=
  let x := s.vp v
  let ent := x.image e
  let s := s.setCell c ((s.cell c).liveWith x l)
  let s := { s with scratch := s.scratch.clear c.scratchBase (c.scratchBase + ent.keptScr) }
  let s := if x.static || decide (p < x.perWave) then s else s.loadKept v (x.waveOf p) c ent (x.partAt e k)
  if l.program.blocks.isEmpty then s else s.startBlock v c 0

/-- A memory cell of the span takes its program. -/
def State.memLive (s : State) (c : CellId) (l : Load) : State :=
  let y := s.cell c
  let y := match l.image with
    | some k => y.takeImage k
    | none => y
  s.setCell c { y with program := l.program, rejected := false }

/-- A cell whose program cannot be loaded faults its position (R196, R233, R409). [DEDUCED, log 52] -/
def State.rejectCell (s : State) (v : VpId) (c : CellId) (cause : Cause) (st : Nat) : State :=
  let y := s.cell c
  let y' : Cell := { y with inst := none, next := none, bend := false, rejected := true, program := .empty
                            agens := Vector.replicate 2 none, block := 0, sendQ := [], sentEow := [], gotEow := [] }
  (s.setCell c y').raiseCell v c (slotFault cause 0) st

/-- A cell of an image that could not be read: the one fault of the position stands at another cell.
[DEDUCED, log 52] -/
def State.holdCell (s : State) (c : CellId) : State :=
  let y := s.cell c
  s.setCell c { y with inst := none, next := none, bend := false, rejected := true, program := .empty
                       agens := Vector.replicate 2 none, sendQ := [], sentEow := [], gotEow := [] }

/-- One cell of the span loaded and started, or faulted. [DEDUCED, log 104] -/
def State.goCell (s : State) (v : VpId) (e p : Nat) (kc : Nat × CellId) (l : Except Status Load) : State :=
  match l with
  | .ok l => if kc.2.isMem then s.memLive kc.2 l else s.cellLive v e p kc.1 kc.2 l
  | .error st => s.rejectCell v kc.2 .cfgReject st.code

/-- Bytes of a loaded program that were not preloaded: 32 for each frame (R205). -/
def Load.lateBytes (l : Load) : Nat := 32 * l.late

/-- A position faulted as a whole: the fault stands at its first cell, and the others hold. [DEDUCED, log 52] -/
def State.rejectSpan (s : State) (v : VpId) (cells : List (Nat × CellId)) (cause : Cause) (st : Nat) : State :=
  match cells with
  | [] => s
  | c :: rest => rest.foldl (fun s c => s.holdCell c.2) (s.rejectCell v c.2 cause st)

/-- A CFGLD or CFGCLR in progress holds a row (R367). [DEDUCED, log 52] -/
def State.configHeld (s : State) (r : RowId) : Bool := s.works.any fun w => match w.2.2 with
  | .config c => c.rowId == r
  | .launch _ _ _ _ => false

/-- Cells of a span that are to be loaded: compute cells with their numbers, then memory cells. [DEDUCED, log 41] -/
def Vp.spanAll (x : Vp) (die : Fin 2) (e p : Nat) : List (Nat × CellId) :=
  x.span die e p ++ (x.spanMem die e p).map fun c => (0, c)

/-- The image of an entry is switched in for some of its cells: from the banks, or from memory (R202, R235). Beside
the state stands the number of bytes that were not preloaded. A row that a CFGLD or CFGCLR holds faults the position
(R367). [DEDUCED, log 41; DEDUCED, log 52; DEDUCED, log 104] -/
def State.loadSpan (s : State) (v : VpId) (e p : Nat) (cells : List (Nat × CellId)) : State × Nat :=
  let x := s.vp v
  let r := x.rowOf v.die p
  if s.configHeld r then (s.rejectSpan v cells .rowBusy 0, 0)
  else
  let known := cells.filterMap fun c => (s.loadKnown x e (x.spanAll v.die e p) c.2).map fun l => (c, l)
  if known.length = cells.length then
    (known.foldl (fun s q => s.goCell v e p q.1 (.ok q.2)) s, (known.map fun q => q.2.lateBytes).sum)
  else match s.readImage r x e with
    | (s, .error st) => (s.rejectSpan v cells .cfgReject st.code, 0)
    | (s, .ok t) =>
      let ls := cells.map fun c => (c, s.loadFrom x e (x.relRow e p) (x.spanAll v.die e p) t c.2)
      let late := (ls.map fun q => match q.2 with
        | .ok l => l.lateBytes
        | .error _ => 0).sum
      (ls.foldl (fun s q => s.goCell v e p q.1 q.2) s, late)

/-! ### Go-live (R202) -/

/-- The previous position of an image has been saved, or there is none. -/
def State.savedBefore (s : State) (v : VpId) (p : Nat) : Bool :=
  let x := s.vp v
  if x.static || decide (p < x.perWave) then true
  else
    let q := p - x.perWave
    let r := s.row (x.rowOf v.die q)
    s.posState v q == .gone || (r.pos == some q && r.host == some v && r.phase == .saved)

/-- The conditions of R202 for a row's next position. Under wave quiesce every position of a wave waits for the
phase end of the wave before, not only its first (flag bit 3 of R195; DEDUCED, log 62).
[DEDUCED, log 55; DEDUCED, log 62] -/
def State.mayGoLive (s : State) (v : VpId) (r : RowId) (p : Nat) : Bool :=
  let x := s.vp v
  let row := s.row r
  (x.stage == .live || x.stage == .preempting) && (row.phase == .empty || row.phase == .left) &&
    (x.static || decide (p < x.total)) && s.savedBefore v p &&
    (x.static || !x.quiesce || decide (x.waveOf p ≤ x.waveDone))

/-- The scroll stall of a row change (R206): the exposed time beyond the dwell. -/
def Row.exposedStall (row : Row) (restore late : Nat) : Nat :=
  64 + (row.saveLen + restore + late + 127) / 128 - (row.leftAt - row.liveAt)

/-- The next position of a row goes live: its images are switched in, kept state is restored or initialised, and
each cell starts block 0. -/
def execPositionGoLive (r : RowId) (s : State) : Res :=
  let row := s.row r
  match row.host, row.nextPos with
  | some v, some p =>
    if !s.mayGoLive v r p then .next s
    else
      let x := s.vp v
      let es := x.entriesAt p
      let s := s.setRow r { row with pos := some p, phase := .live, nextPos := none, liveAt := s.cycle }
      let (s, late) := es.foldl (fun (q : State × Nat) e =>
        let (s, n) := q.1.loadSpan v e p (x.spanAll r.die e p)
        (s, q.2 + n)) (s, 0)
      let restore := if x.static || decide (p < x.perWave) then 0
        else (es.map fun e => (x.image e).width * (x.image e).rawBytes).sum
      let base : RowId := ⟨r.die, x.dieRow 0⟩
      let b := s.row base
      let s := if row.phase = .left then
          s.setRow base { b with stall := b.stall + BitVec.ofNat 64 (row.exposedStall restore late) }
        else s
      .next s
  | _, _ => .next s

/-- The cells of a position whose load has failed are loaded again: the replay of a position's fault (R373). -/
def State.reloadRow (s : State) (r : RowId) : State :=
  match (s.row r).host, (s.row r).pos with
  | some v, some p =>
    let x := s.vp v
    (x.entriesAt p).foldl (fun s e =>
      let cells := (x.spanAll r.die e p).filter fun c => (s.cell c.2).rejected && !(s.cell c.2).pending
      if cells.isEmpty then s else (s.loadSpan v e p cells).1) s
  | _, _ => s

/-! ### Preloading (R205) -/

/-- Frames that a row's edge ports bring in one cycle. -/
def framesPerStep : Nat := 4

/-- A cell's back bank takes the next frames of an image: the image that it was taking, or a new one. Whole, it is a
kept image. -/
def Cell.fill (y : Cell) (k : KeptImage) : Cell :=
  let (k, n) := (y.partly k.cap k.tenant).getD (k, 0)
  let n := n + framesPerStep
  if k.program.records ≤ n then { y with back := some k, filling := none, badWords := y.rewritten k }
  else { y with back := none, filling := some (k, n) }

/-- What a cell has still to preload of an image: its program, where one bank holds it and the running program leaves
the back bank free. -/
def State.preloadOf (s : State) (x : Vp) (e : Nat) (t : TileImage) (c : CellId) : Option KeptImage :=
  let y := s.cell c
  if (y.kept (x.image e).cap x.tenant).isSome || decide (bankFrames < y.program.frames) then none
  else match s.imageProgram x e 0 t c with
    | .error _ => none
    | .ok p => (keepOf x e 0 t p).filter fun _ => decide (p.frames ≤ bankFrames)

/-- The row's position has not come to the end of step 6 of R201. -/
def Phase.beforeSave : Phase → Bool
  | .live | .markers | .draining | .drained | .rcf | .taken => true
  | _ => false

/-- A row preloads the image of the position that follows in it, some frames of one cell at a time, until step 6 of R201
ends. -/
def execImagePreload (r : RowId) (s : State) : Res :=
  match s.movingRow r with
  | none => .next s
  | some (v, p) =>
    let x := s.vp v
    let q := p + x.b
    if !(s.row r).phase.beforeSave || x.static || decide (x.total ≤ q) then .next s
    else
      let e := x.entryOf q
      match s.readImage r x e with
      | (s, .error _) => .next s
      | (s, .ok t) =>
        let next := (x.spanAll r.die e q).findSome? fun c => (s.preloadOf x e t c.2).map fun k => (c.2, k)
        match next with
        | none => .next s
        | some (c, k) => .next (s.setCell c ((s.cell c).fill k))

end Sys2Proof.Machine
end

