-- ==== Sys2Proof/Machine/BandEnd.lean ====
section
/-!
DEFINITION. How a VP ends: phase end and completion (R221), tear-down (R216, R373), the answers to cell faults
(R371 to R374), and pre-emption with its context (R222 to R225).
-/

namespace Sys2Proof.Machine
open Sys2Proof

/-! ### Rows of a VP -/

/-- The rows that host a VP. -/
def State.hostedRows (s : State) (v : VpId) : List RowId :=
  ((s.vp v).bandRows v.die).filterMap fun r => if (s.row r.2).host = some v then some r.2 else none

/-- The cells of the rows that host a VP. -/
def State.vpCells (s : State) (v : VpId) : List CellId := (s.hostedRows v).flatMap rowCells

/-- The source of a band's records. -/
def State.bandSrc (s : State) (v : VpId) : Nat := srcWord v.die.val ((s.vp v).dieRow 0).val 0 0 0

/-- A row that waited for a VP waits for that one's successor. -/
def passHeir (v : VpId) (succ : Option VpId) (r : RowId × Row) : RowId × Row :=
  if r.2.heir = some v then (r.1, { r.2 with heir := succ }) else r

/-- A VP's record is freed: its handle names nothing from now on (R238). The VPs spliced before and after it are joined
to each other, and the later one takes the rows that it waited for. [DEDUCED, log 63] -/
def State.freeVp (s : State) (v : VpId) : State :=
  let x := s.vp v
  let s := match x.succ with
    | some w =>
      let y := s.vp w
      s.setVp w { y with pred := x.pred, waits := y.waits ++ x.waits }
    | none => s
  let s := match x.pred with
    | some w => s.setVp w { s.vp w with succ := x.succ }
    | none => s
  let s := { s with rows := s.rows.map (passHeir v x.succ) }
  s.setVp v { s.vp v with
    stage := .free, pred := none, succ := none, control := [], positions := [], preAt := [], waits := [] }

/-! ### Phase end and completion (R221) -/

/-- The census is zero, every generator is exhausted, and every cell of every resident position has executed
BEND. -/
def State.phaseEnded (s : State) (v : VpId) : Bool :=
  s.census v == 0 && (s.hostedRows v).all fun r =>
    (s.row r).phase == .left || (s.spanCells r).all fun c =>
      let x := s.cell c
      x.bend && !x.rejected && x.agens.toList.all fun a => match a with
        | some a => a.done
        | none => true

/-- Every position of the VP has left. -/
def State.allLeft (s : State) (v : VpId) : Bool :=
  let x := s.vp v
  (x.bandRows v.die).all fun r =>
    let row := s.row r.2
    if row.host = some v then row.pos.isNone && row.nextPos.isNone
    else !s.rowAhead v r.1 || (x.firstPos r.1).isNone

/-- Rows released to the scheduler or to the successor. -/
def State.releaseRows (s : State) (v : VpId) : State := (s.hostedRows v).foldl (fun s r => s.releaseRow r) s

/-- The end of a phase is found and reported; when VP_DONE is to be posted, the next of these steps posts it. -/
def execVpCompletion (v : VpId) (s : State) : Res :=
  let x := s.vp v
  match x.stage with
  | .live =>
    if !s.phaseEnded v then .next s
    else if x.quiesce && decide (x.waveDone + 1 < x.w) then
      if s.posState v ((x.waveDone + 1) * x.perWave - 1) == .gone then
        let s := s.setVp v { x with waveDone := x.waveDone + 1 }
        .next (s.postVp v (record 2 0 0 (s.bandSrc v) (v.handle + x.waveDone % 2 ^ 32 * 2 ^ 32)))
      else .next s
    else if s.allLeft v then .next (s.setVp v { x with stage := .ending })
    else .next s
  | .ending =>
    let s := s.releaseRows v
    .next ((s.postVp v (record 1 0 0 (s.bandSrc v) v.handle)).freeVp v)
  | _ => .next s

/-! ### Tear-down (R216, R226, R373) -/

/-- What the cells of a VP have asked of memory cells and transfer units ends: each request is dropped, counted and
reported as ORPHAN. A probe's report comes with its reply (R226, R375). [DEDUCED, log 63; DEDUCED, log 84] -/
def State.dropRequests (s : State) (v : VpId) : State :=
  let reqs := (s.memQueues.flatMap fun q => q.2).filter fun r => r.vp == v && r.body != .probe
  let moves := s.transfers.filter fun t => t.vp == v
  let s := (reqs.map (·.cell) ++ moves.map (·.cell)).foldl (fun s c => s.dropOrphan v (c.src 0 0)) s
  { s with
    memQueues := s.memQueues.map fun q => (q.1, q.2.filter fun r => r.vp != v)
    transfers := s.transfers.filter fun t => t.vp != v }

/-- The tokens of a VP are dropped and counted, and its rows are released. -/
def State.dropVp (s : State) (v : VpId) : State :=
  let x := s.vp v
  let cells := s.vpCells v
  let atReply := (cells.map fun c =>
    ((s.cell c).ports[(6 : Fin 8)]).length + ((s.cell c).ports[(7 : Fin 8)]).length).sum
  let s := s.drop (s.tokensOf v + atReply)
  let s := { s with
    flights := s.flights.filter fun f => f.vp != v
    parked := s.parked.filter fun q => !cells.any q.ofCell }
  let s := s.setVp v { x with
    edges := x.edges.map fun e => { e with ring := [], bad := [] }
    egress := x.egress.map fun b => { b with out := none } }
  s.releaseRows v

/-- A VP is torn down, and its last record is a FAULT with status BAD_DESC. The no-movement period of those that stay
on its band goes on (R374). [DEDUCED, log 63] -/
def State.teardown (s : State) (v : VpId) (cause : Cause) (src payload : Nat) : State :=
  let ms := (s.mates v).filter fun w => w != v
  let s := (s.dropRequests v).dropVp v
  let s := (s.postVp v (record 3 cause.code Status.badDesc.code src payload)).freeVp v
  ms.foldl (fun s w => s.unpauseBand w) s

/-! ### Pre-emption (R222 to R224) -/

/-- Where the context starts in the state-save area, and where the area has to end (R224). [DEDUCED, log 56] -/
def Vp.contextAt (x : Vp) : Nat := (recordsLen x.images + 4095) / 4096 * 4096
def Vp.contextEnd (x : Vp) : Nat := x.contextAt + 4096 + x.b * 32 * 139264
def Vp.contextFits (x : Vp) : Bool := decide (x.contextEnd ≤ x.saveCap.length)

/-- The block of a cell in the context: band row i, compute cell k. -/
def Vp.blockAt (x : Vp) (i k : Nat) : Nat := x.saveCap.base + x.contextAt + 4096 + (i * 32 + k) * 139264

/-- A pending fault is abandoned by a pre-emption: the cell's instance ends without effect, and its block runs again on
RESUME (R374). -/
def State.abandonFault (s : State) (c : CellId) : State :=
  let x := s.cell c
  if x.stopped then
    s.setCell c { x with
      pending := false, action := none, inst := none, reserved := 0
      next := if x.inst.isSome then some x.blockNum else x.next }
  else s

/-- The pre-emption of one VP starts. [DEDUCED, log 55] -/
def State.preemptOne (s : State) (v : VpId) : State :=
  let x := s.vp v
  let s := s.setVp v { x with stage := .preempting, preempts := x.preempts + 1, preAt := [], pausedAt := none
                              moved := s.cycle }
  (s.vpCells v).foldl (fun s c => s.abandonFault c) s

/-- The pre-emption of a VP, and of those spliced with it (R225), starts. -/
def State.startPreempt (s : State) (v : VpId) : State := (s.mates v).foldl (fun s w => s.preemptOne w) s

/-- The stream of a cell's port carries no marker more to the cell's position: the producer of the edge is not
resident and nothing of the edge is on its way to the cell, or the ingress binding has put the wave's EOW there. Its PRE
is put there at once. [DEDUCED, log 55] -/
def State.streamDry (s : State) (pl : Place) (c : CellId) (port : Fin 8) : Bool :=
  match pl.x.inAt pl.entry pl.pos port with
  | some n =>
    let e := edgeAt pl.x n
    s.posState pl.v (pl.x.producerPos e pl.pos) != .resident &&
      !(e.ring.any fun q => q.1 == pl.k && q.2.1 == pl.wave) &&
      !(s.flights.any fun f => f.vp == pl.v && f.edge == some n && f.dest == c)
  | none => match s.ingressAt c port with
    | some (_, _, b) => b.stopped || decide (pl.wave < b.eows)
    | none => false

/-- The input ports of a VP's live cells that lack a PRE and whose stream carries no marker more. [DEDUCED, log 55] -/
def State.dryPorts (s : State) (v : VpId) : List (CellId × Fin 8 × Bool) :=
  ((s.vpCells v).filter fun c => (s.row c.rowId).phase == .live).flatMap fun c =>
    match s.place c with
    | none => []
    | some pl =>
      if (s.cell c).saved then []
      else ((pl.x.inPorts pl.entry pl.pos pl.k).filter fun p =>
        !s.preHeld v c p && s.streamDry pl c p).map fun p => (c, p, false)

/-- PRE stands at the head of an input port. -/
def Cell.preAtHead (x : Cell) (p : Fin 8) : Bool :=
  match x.ports[p] with
  | t :: _ => t.k == .pre
  | [] => false

/-- PRE stands at the head of each input edge and binding port of a cell; a cell without inputs has sent a marker at its
last commit; or the cell has executed BEND (R223). A cell that a fault has stopped runs nothing before RESUME and is
ready: the pre-emption abandons its instance (R374). [DEDUCED, log 55] -/
def State.preReady (s : State) (pl : Place) (c : CellId) : Bool :=
  let x := s.cell c
  let ins := pl.x.inPorts pl.entry pl.pos pl.k
  x.bend || x.inst.isNone || x.stopped || (if ins.isEmpty then x.lastMark else ins.all x.preAtHead)

/-- A position that is not live yet does not go live before RESUME: its row has begun to save its cells, or stands between
two positions and may not go on. [DEDUCED, log 55] -/
def State.rowStill (s : State) (v : VpId) (p : Nat) : Bool :=
  let r := (s.vp v).rowOf v.die p
  match (s.row r).phase with
  | .live | .markers => (s.spanCells r).any fun c => (s.cell c).saved
  | .empty | .left => match (s.row r).nextPos with
    | some q => !s.mayGoLive v r q
    | none => true
  | _ => false

/-- The end of an edge at a position and cell does nothing more before RESUME: the cell has saved, or the position is not
to go live. [DEDUCED, log 55] -/
def State.endStill (s : State) (v : VpId) (p : Nat) (c : CellId) : Bool :=
  match s.posState v p with
  | .resident => (s.cell c).saved
  | .notYet => s.rowStill v p
  | .gone => true

/-- The wave's EOW may still come to an input port while the pre-emption is under way: it stands there, on the stream or in
the ring; or its producer may still send; or the agent that fills the ingress buffer has not sent it yet (R203).
[DEDUCED, log 55] -/
def State.eowComing (s : State) (pl : Place) (c : CellId) (port : Fin 8) : Bool :=
  ((s.cell c).ports[port].any fun t => t.k == .eow) ||
  match pl.x.inAt pl.entry pl.pos port, s.ingressAt c port with
  | some n, _ =>
    let e := edgeAt (s.vp pl.v) n
    let p := pl.x.producerPos e pl.pos
    (e.ring.any fun q => q.1 == pl.k && q.2.1 == pl.wave && q.2.2.k == .eow) ||
      (s.flights.any fun f => f.vp == pl.v && f.edge == some n && f.dest == c) ||
      !s.endStill pl.v p (pl.x.cellOf c.die (pl.x.srcEntry e) p pl.k)
  | none, some (_, _, b) => !b.stopped && decide (b.eows ≤ pl.wave)
  | none, none => false

/-- The ring of the edge that leaves a cell at a port is full. -/
def State.ringFull (s : State) (pl : Place) (p : Fin 8) : Bool :=
  match pl.x.outAt pl.entry pl.pos p with
  | some n =>
    let e := edgeAt (s.vp pl.v) n
    decide (e.bytes / 128 ≤ e.ring.length)
  | none => false

/-- The wave's EOW cannot leave a cell at an output port before RESUME: the edge's ring is full, and its consumer does
nothing more before then. [DEDUCED, log 55] -/
def State.eowStuck (s : State) (pl : Place) (c : CellId) (port : Fin 8) : Bool :=
  match pl.x.outAt pl.entry pl.pos port with
  | some n =>
    let e := edgeAt pl.x n
    let p := pl.x.consumerPos e pl.pos
    s.ringFull pl port && s.endStill pl.v p (pl.x.cellOf c.die (pl.x.dstEntry e) p pl.k)
  | none => false

/-- A cell of a row that has begun the sequence of R201 cannot complete the wave's markers before RESUME.
[DEDUCED, log 55] -/
def State.markersStuck (s : State) (c : CellId) : Bool :=
  match s.place c with
  | none => false
  | some pl =>
    let x := s.cell c
    x.saved ||
      ((pl.x.inPorts pl.entry pl.pos pl.k).any fun q => !x.gotEow.contains q && !s.eowComing pl c q) ||
      (pl.x.outPorts pl.entry pl.pos pl.k).any fun q => !x.sentEow.contains q && s.eowStuck pl c q

/-- A row lets its cells save: it has not begun the sequence of R201, which it would complete first (R203), or it cannot
complete it before RESUME. [DEDUCED, log 55] -/
def State.rowHalts (s : State) (v : VpId) (r : RowId) (p : Nat) : Bool :=
  let x := s.vp v
  match (s.row r).phase with
  | .live => !((x.entriesAt p).all fun e => s.imageEnded v r.die p e)
  | .markers => (x.entriesAt p).any fun e => (x.span r.die e p).any fun c => s.markersStuck c.2
  | _ => false

/-- A token cannot leave a cell along a route entry before RESUME: the stream ends at a full port of a cell that has saved
or of a switch that is itself held so, the ring is full and its consumer does nothing more, or the binding has stopped.
[DEDUCED, log 55] -/
def State.hopStuck (s : State) : Nat → Place → CellId → Nat → Bool
  | 0, _, _, _ => false
  | n + 1, pl, c, w =>
    match s.hop pl c w with
    | .stream d q => !s.portRoom d q 1 &&
        (match s.inRoutes d q, s.switchPlace d with
          | [], _ => (s.cell d).saved
          | ws, some dl => ws.any fun w => s.hopStuck n dl d w
          | _, none => false)
    | .edge _ => s.eowStuck pl c (Fin.ofNat 8 (field w 27 24))
    | .egress m => ((s.vp pl.v).egress[m]?).any fun b => b.stopped
    | .nowhere => false

/-- What a cell sends to a port cannot leave it before RESUME. [DEDUCED, log 55] -/
def State.portStuck (s : State) (pl : Place) (c : CellId) (port : Fin 8) : Bool :=
  (sendRoutes (s.cell c).program.routes port).any fun w => s.hopStuck 4608 pl c w

/-- A generator has drained (R223, R327): it is at its end, or has faulted, or is to fault while another fault of the cell
stands; a sending one stands behind the PRE at the end of a run, or what it sends cannot leave; a receiving one has a PRE
before it, or takes from no edge or binding and nothing is there. [DEDUCED, log 55] -/
def State.agenDrained (s : State) (pl : Place) (c : CellId) (a : Agen) : Bool :=
  let x := s.cell c
  let head := x.ports[a.port].head?
  let data := if a.receives then head.isSome else decide (a.outer < a.word 5) && decide (a.inner < a.word 3)
  let lanes := (List.range 16).filter fun i => bitAt a.mask i && (!a.receives || head.any fun t => t.ok i)
  let held := x.stopped && data && (match (s.agenAccess c pl.x.tenant a a.receives lanes).2 with
    | .error _ => true
    | .ok _ => false)
  a.done || a.faulted || held ||
    (if a.receives then match head with
      | some t => t.k.isHeld
      | none => !(s.agenHalts pl c && (pl.x.inPorts pl.entry pl.pos pl.k).contains a.port)
    else (a.stop && s.agenHalts pl c) || s.portStuck pl c a.port)

/-- The first moment of R223 has come for a cell. [DEDUCED, log 55] -/
def State.maySave (s : State) (pl : Place) (c : CellId) : Bool :=
  let x := s.cell c
  !x.saved && s.rowHalts pl.v c.rowId pl.pos && s.preReady pl c && s.requestsOf pl.v c == 0 && !s.awaits (Accessor.ofCell c) &&
    (x.agens.toList.all fun a => a.all fun a => s.agenDrained pl c a) &&
    x.matrix.isEmpty && x.due.isNone && x.release.isNone && !(s.parked.any fun q => q.ofCell c) &&
    (match x.inst with
      | some i => i.taken.isEmpty
      | none => true)

/-- The context of a cell written to its block (R224).
[DESIGN CHOICE, log 47; DEDUCED, log 56; DESIGN CHOICE, log 82] -/
def State.writeContext (s : State) (v : VpId) (wave : Nat) (c : CellId) : State :=
  let y := s.vp v
  let x := s.edgeReach c.rowId y.tenant
  let va := y.blockAt (y.rowIndex c.rowId) c.index
  let (n, s) := s.draw
  let s := s.saveRegs x v wave c va (List.range 64)
  let s := s.savePart x v wave c (va + 4608) (s.cell c).tileBytes
  let s := s.saveTags x v wave c (va + 6720)
  let s := s.saveLines x v wave c (va + 7232) 2048 0
  s.savePart x v wave c (va + 138304) ((List.range 960).map fun i => Config.contextByte n i)

/-- The band header of a VP's context, whose contents the spec leaves open (R224); a header that cannot be written is
reported at the band's base row. [DEDUCED, log 56] -/
def State.writeHeader (s : State) (v : VpId) : State :=
  let y := s.vp v
  let r : RowId := ⟨v.die, y.dieRow 0⟩
  let (n, s) := s.draw
  s.savePart (s.edgeReach r y.tenant) v 0 ⟨r.die, r.row, 0⟩ (y.saveCap.base + y.contextAt)
    ((List.range 4096).map fun i => Config.contextByte n i)

/-- The PREs at a cell's ports leave. -/
def State.takePres (s : State) (c : CellId) : State := streamPorts.foldl (fun s p => s.takeKind c p .pre) s

/-- The rows of a VP stand still: each has saved its position's cells, or has none that can go live.
[DEDUCED, log 55] -/
def State.rowsSaved (s : State) (v : VpId) : Bool :=
  (s.hostedRows v).all (fun r => match (s.row r).phase with
    | .live | .markers => (s.spanCells r).all fun c => (s.cell c).saved
    | .empty => true
    | .left => match (s.row r).nextPos with
      | some p => !s.mayGoLive v r p
      | none => true
    | _ => false) && !(s.flights.any fun f => f.vp == v)

/-- A cell of a VP that is being pre-empted saves its context, and sends PRE on. Its uncommitted instance is
abandoned (R158, R223). The other compute cells of the band's rows save theirs once the rows stand still (R224).
[DEDUCED, log 55] -/
def execCellContextSave (c : CellId) (s : State) : Res :=
  match (s.row c.rowId).host with
  | none => .next s
  | some v =>
    let y := s.vp v
    let resident := (s.row c.rowId).phase == .live || (s.row c.rowId).phase == .markers
    if y.stage != .preempting then .next s
    else match (if resident then s.place c else none) with
      | some pl =>
        if !s.maySave pl c then .next s
        else
          let s := (((s.abandonFault c).unpauseBand v).writeContext v pl.wave c).takePres c
          let x := s.cell c
          let pre := (pl.x.outPorts pl.entry pl.pos pl.k).map fun p => (p, pl.x.preToken)
          let next := match x.inst with
            | some i => some i.block
            | none => x.next
          .next (s.setCell c { x with inst := none, next := next, reserved := 0, saved := true, sendQ := x.sendQ ++ pre })
      | none =>
        if c.isMem || (s.cell c).saved || !s.rowsSaved v then .next s
        else
          let s := s.writeContext v 0 c
          .next (s.setCell c { s.cell c with saved := true })

/-- Nothing of a VP but what its context and rings hold is left to be saved. -/
def State.allSaved (s : State) (v : VpId) : Bool :=
  s.rowsSaved v && (s.hostedRows v).all fun r => (rowCells r).all fun c => c.isMem || (s.cell c).saved

/-- A ring without its PREs; the damaged tokens keep their errors. -/
def Edge.withoutPre (e : Edge) : Edge :=
  let kept := e.ring.zipIdx.filter fun q => q.1.2.2.k != .pre
  { e with
    ring := kept.map Prod.fst
    bad := ((kept.map Prod.snd).zipIdx.filter fun q => e.bad.contains q.1).map Prod.snd }

/-- The control state of a VP's rows and cells, and its rows released; PRE is taken out of rings and sends. -/
def State.endPreempt (s : State) (v : VpId) : State :=
  let rows := ((s.vp v).bandRows v.die).filter fun r => (s.row r.2).host == some v
  let s := (s.vpCells v).foldl (fun s c =>
    let s := s.takePres c
    let x := s.cell c
    s.setCell c { x with sendQ := x.sendQ.filter fun q => q.2.k != .pre }) (s.writeHeader v)
  let x := s.vp v
  let src := s.bandSrc v
  let control := rows.flatMap fun r => (rowCells r.2).map fun c => (r.1, c.col, s.cell c)
  let s := s.setVp v { x with
    stage := .preempted
    context := true
    preAt := []
    positions := rows.map fun r => (r.1, s.row r.2)
    control := control
    edges := x.edges.map Edge.withoutPre }
  let s := rows.foldl (fun s r =>
    let y := s.row r.2
    (s.setRow r.2 { y with heir := none }).releaseRow r.2) s
  s.postVp v (record 7 0 0 src v.handle)

/-- One PRE put where its stream stands. -/
def State.putPre (s : State) (v : VpId) (q : CellId × Fin 8 × Bool) : Option State :=
  let t := (s.vp v).preToken
  if q.2.2 then s.sendPort q.1 q.2.1 t
  else if s.admits q.1 q.2.1 1 then s.putMarker q.1 q.2.1 t else none

/-- The PREs that are due; those that find no room stay due. -/
def State.putPres (s : State) (v : VpId) : List (CellId × Fin 8 × Bool) → State
  | [] => s
  | q :: rest => match s.putPre v q with
    | some s =>
      let x := s.vp v
      (s.setVp v { x with preAt := x.preAt.filter fun y => y != q }).putPres v rest
    | none => s.putPres v rest

/-- The band inserts the PREs that are due (R222); when every cell has saved, the pre-emption ends (R223). -/
def execPreInsertion (v : VpId) (s : State) : Res :=
  if (s.vp v).stage != .preempting then .next s
  else
    let ms := s.mates v
    let s := s.putPres v ((s.vp v).preAt ++ s.dryPorts v)
    if ms.all s.allSaved then .next (ms.foldl (fun s w => s.endPreempt w) s) else .next s

/-! ### Resume (R225, R243) -/

/-- The cells of a row whose programs are those of the row's position: its compute cells, and the memory cells between
them. -/
def State.ownPrograms (s : State) (r : RowId) : List CellId :=
  match (s.row r).host, (s.row r).pos with
  | some v, some p =>
    let x := s.vp v
    (x.entriesAt p).flatMap fun e => (x.spanAll r.die e p).map Prod.snd
  | _, _ => []

/-- The control state that a cell brings from its old band: its program, where it is the position's, with the banks that
hold it. What the new row's cell counts itself stays: its call numbers and calls (R337), its other kept images (R235),
what CFGLD has loaded (R413). -/
def Cell.resumed (here old : Cell) (own : Bool) : Cell :=
  let keep := match (if own then old.front else none) with
    | some k => here.takeImage k
    | none => here
  { old with
    program := if own then old.program else here.program
    front := keep.front, back := keep.back, filling := keep.filling
    badRegs := here.badRegs
    badWords := match (if own then old.front else none) with
      | some k => here.rewritten k
      | none => here.badWords
    saved := false, inst := none, counter := 0, loaded := here.loaded, action := none
    callNum := here.callNum, calls := here.calls
    agens := Vector.ofFn fun i => old.agens[i].map fun a => { a with stop := false, faulted := false } }

/-- A saved cell comes back with its context from its block: a live one starts its block again. Where its program lands
on a retired cell, the position faults, as when a row loads it (R4, R233), and the cell's banks take no image.
[DESIGN CHOICE, log 47; DEDUCED, log 56] -/
def State.resumeCell (s : State) (v : VpId) (i : Nat) (c : CellId) (old : Cell) : State :=
  let x := s.vp v
  let own := (s.ownPrograms c.rowId).contains c
  let old : Cell := if s.isRetired c then { old with front := none } else old
  let s := s.setCell c ((s.cell c).resumed old own)
  if s.isRetired c then
    if own && decide (old.program.records ≠ 0) then s.rejectCell v c .cfgReject Status.retired.code else s
  else if !old.saved then s
  else
    let reach := s.edgeReach c.rowId x.tenant
    let wave := match s.place c with
      | some pl => pl.wave
      | none => 0
    let va := x.blockAt i c.index
    let s := s.loadRegs reach v wave c va (List.range 64)
    let s := match s.loadPart reach v wave c (va + 4608) 2112 with
      | (s, .error _) => s.setCell c (s.cell c).clearTile
      | (s, .ok bs) => s.setCell c ((s.cell c).setTile bs)
    let s := match s.loadPart reach v wave c (va + 6720) 512 with
      | (s, .error _) => s.setCell c { s.cell c with tags := Vector.replicate 64 0, tagBad := [] }
      | (s, .ok bs) => s.setCell c ((s.cell c).setTags bs)
    let s := s.loadLines reach v wave c (va + 7232) 2048 0
    match old.next with
    | some b => if old.bend || (s.row c.rowId).phase != .live || (s.place c).isNone then s else s.startBlock v c b.val
    | none => s

/-- A row of a pre-empted VP on its new band. -/
def State.resumeRow (s : State) (v : VpId) (q : Nat × Row) : State :=
  let r : RowId := ⟨v.die, (s.vp v).dieRow q.1⟩
  let s := s.hostAs r v q.1
  let old := q.2
  s.setRow r { s.row r with
    heir := old.heir, pos := old.pos, phase := old.phase, nextPos := old.nextPos, liveAt := old.liveAt
    leftAt := old.leftAt, saveLen := old.saveLen }

/-- The rows and cells of a pre-empted VP on its new band; rows that it waited for are free now, and it takes them
(R218). A cell whose program could not be loaded is loaded again (R374). -/
def State.resumeOne (s : State) (v : VpId) (base : Nat) : State :=
  let x := s.vp v
  let s := s.setVp v { x with base := base, stage := .live, context := false, positions := [], control := [], waits := []
                              moved := s.cycle }
  let s := x.positions.foldl (fun s q => s.resumeRow v q) s
  let s := x.waits.foldl (fun s i => s.hostRow ⟨v.die, (s.vp v).dieRow i⟩ v i) s
  let s := x.control.foldl (fun s q => s.resumeCell v q.1 ⟨v.die, (s.vp v).dieRow q.1, q.2.1⟩ q.2.2) s
  (s.hostedRows v).foldl (fun s r => s.reloadRow r) s

/-! ### Deadlock (R216) -/

/-- A port of the VP's cells holds a token. -/
def State.portHolds (s : State) (v : VpId) : Bool :=
  (s.vpCells v).any fun c => (s.cell c).ports.toList.any fun q => !q.isEmpty

/-- A producer stands before a full ring (R215): a cell with its sends, its array or its generators, the row with the
EOW of a cell that has executed BEND, or a switch that passes a token on. -/
def State.spillHeld (s : State) (v : VpId) : Bool :=
  ((s.vpCells v).any fun c => match s.place c with
    | none => false
    | some pl =>
      let x := s.cell c
      let waits (p : Fin 8) : Bool := (match x.sendQ with
        | (q, _) :: _ => q == p
        | [] => false) || x.releasing p || x.generating p ||
          (s.imageEnded v c.die pl.pos pl.entry && !x.sentEow.contains p)
      (List.finRange 8).any fun p => waits p && s.ringFull pl p) ||
  s.flights.any fun f => f.vp == v && match s.switchPlace f.dest with
    | none => false
    | some pl => (s.inRoutes f.dest f.port).any fun w => s.ringFull pl (Fin.ofNat 8 (field w 27 24))

/-- The cycle of the band's last movement. [DEDUCED, log 63] -/
def State.lastMove (s : State) (v : VpId) : Nat := ((s.mates v).map fun w => (s.vp w).moved).foldl max 0

/-- Nothing has moved in the band for 2^20 cycles while the VP has work: DEADLOCK or SPILL_FULL. A VP that is being
pre-empted already is reported, and its period begins again. [DEDUCED, log 63] -/
def execDeadlockTimeout (v : VpId) (s : State) : Res :=
  let x := s.vp v
  if (x.stage != .live && x.stage != .preempting) || (s.mates v).any (fun w => (s.vp w).pausedAt.isSome) ||
      decide (s.cycle < s.lastMove v + 2 ^ 20) || (s.census v == 0 && !s.portHolds v) then .next s
  else
    let cause : Cause := if s.spillHeld v then .spillFull else .deadlock
    let src := s.bandSrc v
    let payload := faultPayload v.handle 0 0
    if x.stage = .preempting then .next ((s.postVp v (record 3 cause.code 0 src payload)).touch v)
    else if (s.mates v).all fun w => (s.vp w).contextFits then
      .next ((s.postVp v (record 3 cause.code 0 src payload)).startPreempt v)
    else .next (s.teardown v cause src payload)

/-! ### Answers to a cell fault (R372 to R374) -/

/-- The VP of a cell. -/
def State.vpOf (s : State) (c : CellId) : Option VpId := (s.row c.rowId).host

/-- A replay: a position's load is made again, a generator's stream resumes, a block restarts from its start
(R373). -/
def execFaultReplay (c : CellId) (s : State) : Res :=
  let x := s.cell c
  match x.action, s.vpOf c with
  | some true, some v =>
    let s := s.setCell c { x with
      action := none, agens := Vector.ofFn fun i => x.agens[i].map fun a => { a with faulted := false } }
    if x.rejected then .next (s.reloadRow c.rowId)
    else match x.inst, x.next with
      | none, some b => .next (if x.bend then s else s.startBlock v c b.val)
      | _, _ => .next s
  | _, _ => .next s

/-- The payload of the records of a cell's fault (R371). -/
def State.cellFaultPayload (s : State) (v : VpId) (c : CellId) : Nat :=
  let x := s.cell c
  faultPayload v.handle x.block.val x.srcKind.val

/-- A tear-down that a handler has asked for (R372, R373). [DEDUCED, log 63] -/
def execFaultTeardown (c : CellId) (s : State) : Res :=
  let x := s.cell c
  match x.action, s.vpOf c with
  | some false, some v =>
    let s := s.setCell c { x with action := none }
    .next (s.teardown v (x.cause.getD .watchdog) (c.src x.slot.val x.lane.val) (s.cellFaultPayload v c))
  | _, _ => .next s

/-- A fault that stays pending for 2^26 cycles tears the VP down (R374). -/
def execFaultWatchdog (c : CellId) (s : State) : Res :=
  let x := s.cell c
  match s.vpOf c with
  | some v =>
    if !x.pending || decide (s.cycle < x.faultAt + 2 ^ 26) then .next s
    else
      let s := s.setCell c { x with pending := false }
      .next (s.teardown v .watchdog (c.src x.slot.val x.lane.val) (s.cellFaultPayload v c))
  | none => .next s

end Sys2Proof.Machine
end

