-- ==== Sys2Proof/Machine/Launch.lean ====
section
/-!
DEFINITION. Descriptors (R195 to R199, R207 to R209), bands (R233, R234), handles (R238), and the launch
instructions (R227 to R229, R237 to R245).
-/

namespace Sys2Proof.Machine
open Sys2Proof

/-! ### Reading a descriptor and its tables (R195 to R198, R239) -/

/-- The tag of a granule of a tenant's memory, whose bits are given. -/
def State.areaTag (s : State) (x : Reach) (va : Nat) (bits : BitVec 128) : State × Except Status Bool :=
  if va % 16 != 0 then (s, .ok false)
  else match s.areaLocs x .read [(va, 16)] with
    | (s, .error st) => (s, .error st)
    | (s, .ok []) => (s, .ok false)
    | (s, .ok ((l, _) :: _)) =>
      let (s, t) := s.locTag l bits
      (s, .ok t)

/-- The capabilities that stand in bytes at offsets, with tags where `may` allows them (R70). -/
def State.areaCaps (s : State) (x : Reach) (va : Nat) (bs : List Byte) (may : Bool) :
    List Nat → State × Except Status (List Cap)
  | [] => (s, .ok [])
  | off :: rest =>
    let bits := BitVec.ofNat 128 (leNat ((bs.drop off).take 16))
    match (if may then s.areaTag x (va + off) bits else (s, .ok false)) with
    | (s, .error st) => (s, .error st)
    | (s, .ok tag) => match s.areaCaps x va bs may rest with
      | (s, .error st) => (s, .error st)
      | (s, .ok cs) => (s, .ok (⟨bits, tag⟩ :: cs))

/-- A descriptor as it has been read: its bytes, and its six capabilities. -/
structure DescHead where
  bytes : List Byte
  caps  : List Cap
  deriving DecidableEq, Repr

def DescHead.word (h : DescHead) (i : Nat) : Nat := bytesWord h.bytes i
def DescHead.cap (h : DescHead) (i : Nat) : Cap := h.caps.getD i .null

/-- The descriptor read through a capability. -/
def State.readHead (s : State) (x : Reach) (cap : Cap) : State × Except Status DescHead :=
  match s.areaRead x .read cap.base 256 with
  | (s, .error st) => (s, .error st)
  | (s, .ok bs) =>
    match s.areaCaps x cap.base bs cap.pC [0x10, 0x20, 0x30, 0x40, 0x50, 0x60] with
    | (s, .error st) => (s, .error st)
    | (s, .ok cs) => (s, .ok ⟨bs, cs⟩)

/-- The tenant, predecessor handle and priority of a descriptor. -/
def DescHead.tenant (h : DescHead) : BitVec 8 := BitVec.ofNat 8 (field (h.word 28) 15 8)
def DescHead.pred (h : DescHead) : Nat := h.word 29
def DescHead.priority (h : DescHead) : Nat := field (h.word 28) 1 0

/-- A capability that a descriptor needs: DENSE, of its tenant, with R, and W where `w` (R199). -/
def capNeeded (tenant : BitVec 8) (w : Bool) (c : Cap) : Bool :=
  c.tag && c.otype == 0 && c.tenant == tenant && c.space == .dense && c.pR && (!w || c.pW)

/-- The fields of the descriptor itself, its capabilities and the lengths of its tables (R195, R199). -/
def DescHead.ok (h : DescHead) : Bool :=
  let d := h.word 1
  let b := field (h.word 2) 15 0
  let flags := field (h.word 2) 31 16
  let nimg := if bitAt flags 0 then 2 * d else d
  let bound (c : Cap) : Bool := !c.tag || (capNeeded h.tenant true c && c.length % 32 == 0)
  h.word 0 == 0x4B565044 && decide (1 ≤ d ∧ d ≤ 65536) && decide (1 ≤ b ∧ b ≤ 64) && decide (1 ≤ h.word 3) &&
    decide (flags < 16) && field (h.word 28) 7 2 == 0 && field (h.word 28) 31 16 == 0 &&
    field (h.word 30) 31 5 == 0 && h.word 31 == 0 && ((List.range 16).all fun i => h.word (48 + i) == 0) &&
    (!bitAt flags 2 || (decide (d ≤ b) && h.word 3 == 1)) &&
    capNeeded h.tenant false (h.cap 0) && capNeeded h.tenant true (h.cap 1) &&
    capNeeded h.tenant true (h.cap 2) && capNeeded h.tenant false (h.cap 3) &&
    (h.cap 0).length % 32 == 0 && (h.cap 3).length % 16 == 0 && decide (32 * nimg ≤ (h.cap 0).length) &&
    bound (h.cap 4) && bound (h.cap 5)

/-- The VP that a descriptor's own fields describe. -/
def DescHead.vp (h : DescHead) : Vp :=
  let flags := field (h.word 2) 31 16
  { Vp.free with
    d := h.word 1
    b := field (h.word 2) 15 0
    w := h.word 3
    turn := bitAt flags 0
    strict := bitAt flags 1
    static := bitAt flags 2
    quiesce := bitAt flags 3
    saveCap := h.cap 1
    ringCap := h.cap 2
    priority := h.priority
    tenant := h.tenant
    eventCore := coreOf (Fin.ofNat 2 (field (h.word 30) 4 4)) (field (h.word 30) 3 0)
    args := Vector.ofFn fun i => BitVec.ofNat 32 (h.word (32 + i.val)) }

/-- Word j of a table's entry of n words. -/
def tableWord (bs : List Byte) (n i j : Nat) : Nat := bytesWord bs (n * i + j)

/-- An image-table entry, where its fields are right (R196). -/
def imageEntry (bs : List Byte) (i : Nat) (cap : Cap) : Option ImageEntry :=
  let kept := tableWord bs 8 i 4 + tableWord bs 8 i 5 * 2 ^ 32
  let scr := tableWord bs 8 i 6
  let f := tableWord bs 8 i 7
  if bitAt kept 63 || scr % 64 != 0 || decide (65536 < scr) || field f 7 6 != 0 || field f 15 14 != 0 ||
      field f 31 22 != 0 || decide (35 < field f 21 16) then none
  else some ⟨cap, BitVec.ofNat 64 kept, scr, bitAt f 0, field f 5 1 + 1, field f 13 8, field f 21 16, 1⟩

/-- An edge-table entry, where its fields are right (R197). -/
def edgeEntry (bs : List Byte) (i : Nat) : Option Edge :=
  let w (j : Nat) : Nat := tableWord bs 4 i j
  if field (w 1) 1 0 = 3 ∨ field (w 1) 3 2 ≠ 0 ∨ field (w 1) 7 6 ≠ 0 ∨ field (w 1) 31 16 ≠ 0 ∨ w 2 % 4096 ≠ 0 ∨
      w 2 = 0 ∨ w 3 ≠ 0 ∨ 7 < field (w 1) 11 8 ∨ 7 < field (w 1) 15 12 then none
  else some
    { src := field (w 0) 15 0, dst := field (w 0) 31 16, kind := field (w 1) 1 0, fromBack := bitAt (w 1) 4
      toBack := bitAt (w 1) 5, fromPort := Fin.ofNat 8 (field (w 1) 11 8)
      toPort := Fin.ofNat 8 (field (w 1) 15 12), bytes := w 2, ring := [], bad := [] }

/-- A binding entry, where its fields and its buffer are right (R198). -/
def bindingEntry (x : Vp) (bs : List Byte) (i : Nat) (cap : Cap) : Option Binding :=
  let w (j : Nat) : Nat := tableWord bs 8 i j
  let image := w 4
  let cell := field (w 5) 7 0
  if image < x.images.length ∧ cell < (x.image image).width ∧ field (w 5) 15 8 = 5 ∧ field (w 5) 31 16 = 0 ∧
      w 6 = 0 ∧ w 7 = 0 ∧ capNeeded x.tenant true cap ∧ 64 + 128 * 2 ≤ cap.length ∧
      (cap.length - 64) % 128 = 0 then
    some ⟨cap, image, cell, false, 0, [], none, (0, 0)⟩
  else none

/-- n entries of a table, or none where one of them is wrong. -/
def entriesOf (f : Nat → Option α) : Nat → Option (List α)
  | 0 => some []
  | n + 1 => match entriesOf f n, f n with
    | some l, some x => some (l ++ [x])
    | _, _ => none

/-- The distance of an edge in positions of a wave (R207). -/
def Vp.edgeDist (x : Vp) (e : Edge) : Int := (x.place e.dst e.toBack : Int) - x.place e.src e.fromBack

/-- An edge that R207, R208 and R209 allow. -/
def Vp.edgeOk (x : Vp) (e : Edge) : Bool :=
  let d := x.edgeDist e
  decide (e.src < x.d) && decide (e.dst < x.d) && (x.turn || (!e.fromBack && !e.toBack)) &&
    (match e.kind with
      | 0 => d == 1 && e.fromPort == 2 && e.toPort == 0
      | 1 => decide (2 ≤ d) && e.fromPort == 5 && e.toPort == 5
      | _ => decide (d ≤ -1) && decide (-((x.b : Int) - 1) ≤ d) && e.fromPort == 5 && e.toPort == 5) &&
    (x.image (x.srcEntry e)).width == (x.image (x.dstEntry e)).width

/-- The image and port pairs that edges and bindings take, each at most once (R209). -/
def allDifferent [DecidableEq α] : List α → Bool
  | [] => true
  | x :: xs => !xs.contains x && allDifferent xs

/-- A static rectangle's first row lies in the band, and its columns in the row (R199); its height is the image's, which
the launch does not read. [DEDUCED, log 48] -/
def Vp.rectOk (x : Vp) (i : Nat) : Bool :=
  !x.static || (decide ((x.image i).rowOff < x.b) && decide (x.firstIndex i + (x.image i).width ≤ 32))

/-- The tables of a descriptor fit each other and its areas (R199, R200, R214). [DEDUCED, log 57] -/
def Vp.tablesOk (x : Vp) : Bool :=
  let outs := (x.edges.map fun e => (x.srcEntry e, e.fromPort)) ++ x.egress.map fun b => (b.image, (5 : Fin 8))
  let ins := (x.edges.map fun e => (x.dstEntry e, e.toPort)) ++ x.ingress.map fun b => (b.image, (5 : Fin 8))
  (x.edges.all x.edgeOk) && allDifferent outs && allDifferent ins &&
    ((List.range x.images.length).all x.rectOk) &&
    decide (recordsLen x.images ≤ x.saveCap.length) &&
    decide ((x.edges.map fun e => e.bytes).sum ≤ x.ringCap.length)

/-- A table of entries with a capability each, read through a table capability; none where an entry is wrong. -/
def State.readEntries (s : State) (x : Reach) (cap : Cap) (n : Nat) (f : List Byte → Nat → Cap → Option α) :
    State × Except Status (List α) :=
  match s.areaRead x .read cap.base (32 * n) with
  | (s, .error st) => (s, .error st)
  | (s, .ok bs) => match s.areaCaps x cap.base bs cap.pC ((List.range n).map fun i => 32 * i) with
    | (s, .error st) => (s, .error st)
    | (s, .ok cs) => match entriesOf (fun i => f bs i (cs.getD i .null)) n with
      | none => (s, .error .badDesc)
      | some l => (s, .ok l)

/-- A binding table; an untagged capability means none. -/
def State.readBindings (s : State) (x : Reach) (cap : Cap) (y : Vp) : State × Except Status (List Binding) :=
  if !cap.tag then (s, .ok []) else s.readEntries x cap (cap.length / 32) (bindingEntry y)

/-- The VP of a descriptor with its tables, or the status that LAUNCH returns (R199, R239). -/
def State.readVp (s : State) (x : Reach) (h : DescHead) : State × Except Status Vp :=
  if !h.ok then (s, .error .badDesc)
  else
    let y := h.vp
    let n := if y.turn then 2 * y.d else y.d
    match s.readEntries x (h.cap 0) n imageEntry with
    | (s, .error st) => (s, .error st)
    | (s, .ok images) =>
      let y := { y with images := images }
      let m := (h.cap 3).length / 16
      match s.areaRead x .read (h.cap 3).base (16 * m) with
      | (s, .error st) => (s, .error st)
      | (s, .ok bs) => match entriesOf (edgeEntry bs) m with
        | none => (s, .error .badDesc)
        | some edges => match s.readBindings x (h.cap 4) y with
          | (s, .error st) => (s, .error st)
          | (s, .ok ingress) => match s.readBindings x (h.cap 5) y with
            | (s, .error st) => (s, .error st)
            | (s, .ok egress) =>
              let y := { y with edges := edges, ingress := ingress, egress := egress }
              if y.tablesOk then (s, .ok y) else (s, .error .badDesc)

/-! ### Queues and bands (R227, R230, R233, R234) -/

def LaunchQueue.owner (q : LaunchQueue) : Nat := field q.binding.toNat 3 0
def LaunchQueue.spire (q : LaunchQueue) : Bool := bitAt q.binding.toNat 4
def LaunchQueue.enabled (q : LaunchQueue) : Bool := bitAt q.binding.toNat 5
def LaunchQueue.ceiling (q : LaunchQueue) : Nat := field q.binding.toNat 7 6
def LaunchQueue.low (q : LaunchQueue) : Nat := field q.binding.toNat 13 8
def LaunchQueue.high (q : LaunchQueue) : Nat := field q.binding.toNat 21 16
def LaunchQueue.tenant (q : LaunchQueue) : BitVec 8 := BitVec.ofNat 8 (field q.binding.toNat 31 24)

/-- Launches that a queue holds. -/
def queueDepth : Nat := 64

/-- The last column of the widest span of a VP's images (R233). -/
def Vp.lastCol (x : Vp) : Nat := (x.images.map fun e => (e.width - 1) + (e.width - 1) / 8).foldl max 0

/-- A row that a band of a VP may use: no retired cell lies in a span. A part record that has not been verified
leaves cells to static images alone (R424). [DEDUCED, log 61] -/
def State.rowUsable (s : State) (die : Fin 2) (xs : List Vp) (row : Nat) : Bool :=
  xs.all fun x => x.static || (s.cellsOpen x && (List.range (x.lastCol + 1)).all fun c =>
    !s.isRetired ⟨die, Fin.ofNat 64 row, Fin.ofNat 36 c⟩)

/-- The lowest base row of a queue's rows where a band of b rows may lie; `free` asks that they host nothing. -/
def State.findBand (s : State) (die : Fin 2) (q : LaunchQueue) (xs : List Vp) (b : Nat) (free : Bool) : Option Nat :=
  (List.range (q.high + 1)).find? fun b0 =>
    decide (q.low ≤ b0) && decide (b0 + b ≤ q.high + 1) && (List.range b).all fun i =>
      s.rowUsable die xs (b0 + i) && (!free || !s.rowBusy ⟨die, Fin.ofNat 64 (b0 + i)⟩)

/-- A queue of a die. -/
def State.queue (s : State) (die : Fin 2) (q : Fin 16) : LaunchQueue := (s.sched die).queues[q]
def State.setQueue (s : State) (die : Fin 2) (q : Fin 16) (x : LaunchQueue) : State :=
  let d := s.sched die
  s.setSched die { d with queues := d.queues.set q x }

/-- A launch put into a queue with its priority lowered to the ceiling (R230). -/
def State.enqueueLaunch (s : State) (v : VpId) (q : Fin 16) (resume : Bool) : State :=
  let x := s.queue v.die q
  let p := min (s.vp v).priority x.ceiling
  let l : Launch := ⟨v, p, resume⟩
  if x.launches.isEmpty then
    s.setQueue v.die q { x with launches := [l], headSince := s.cycle, effective := p }
  else s.setQueue v.die q { x with launches := x.launches ++ [l] }

/-- The launches of some VPs taken out of their queue; a new head's time starts now. -/
def State.unqueue (s : State) (die : Fin 2) (q : Fin 16) (vs : List VpId) : State :=
  let x := s.queue die q
  let rest := x.launches.filter fun l => !vs.contains l.vp
  let same := rest.head? == x.launches.head?
  let s := s.setQueue die q { x with
    launches := rest
    headSince := if same then x.headSince else s.cycle
    effective := if same then x.effective else match rest with
      | [] => 0
      | l :: _ => l.priority }
  if same then s else s.setSched die ((s.sched die).dropCandidate q)

/-! ### Handles (R238) -/

/-- Records of a die in use. -/
def State.recordUsed (s : State) (die : Fin 2) (n : Fin 1024) : Bool :=
  s.vps.any fun y => y.1.die == die && y.1.num == n && y.2.stage != .free

/-- The generation that a record has reached. [DESIGN CHOICE, log 109] -/
def lastGen (vps : List (VpId × Vp)) (die : Fin 2) (n : Fin 1024) : Nat :=
  match (vps.filter fun y => y.1.die == die && y.1.num == n).getLast? with
  | some y => y.1.gen.val
  | none => 0

/-- The partition entry at whose number an eighth of a die's records stands. [DESIGN CHOICE, log 109] -/
def State.recordOwner (s : State) (n : Fin 1024) : Option PartitionEntry :=
  s.partitions.bind fun ps => (ps[n.val / 128]?).filter fun p => p.enabled

/-- How willingly a tenant's VP takes a record: one of its partition's eighth first, then one of an eighth that no partition
has, so that what another partition launches does not change its handles (R386). [DESIGN CHOICE, log 109] -/
def State.recordRank (s : State) (tenant : BitVec 8) (n : Fin 1024) : Nat :=
  match s.recordOwner n with
  | some p => if p.tenant = tenant then 0 else 2
  | none => 1

/-- The name of the next VP of a tenant on a die: its lowest free record of the best rank in its next generation, which
skips 0. [DESIGN CHOICE, log 109] -/
def State.newVp (s : State) (die : Fin 2) (tenant : BitVec 8) : Option VpId :=
  let pick (rank : Nat) : Option (Fin 1024) :=
    (List.finRange 1024).find? fun n => s.recordRank tenant n == rank && !s.recordUsed die n
  match (pick 0).orElse fun _ => (pick 1).orElse fun _ => pick 2 with
  | none => none
  | some n =>
    let g := (lastGen s.vps die n + 1) % 2 ^ 21
    some ⟨die, n, Fin.ofNat 2097152 (if g = 0 then 1 else g)⟩

/-- A VP's record made. -/
def State.addVp (s : State) (v : VpId) (x : Vp) : State :=
  { s with vps := (s.vps.filter fun y => y.1 != v) ++ [(v, x)] }

/-- The VP that a handle names for an agent of a die and tenant, or a privileged one. -/
def State.named (s : State) (die : Fin 2) (tenant : BitVec 8) (priv : Bool) (h : Nat) : Option VpId :=
  match s.vps.find? fun y => y.1.handle == h && y.1.die == die && y.2.stage != .free with
  | some y => if y.2.tenant == tenant || priv then some y.1 else none
  | none => none

/-! ### Splicing (R218, R219, R241) -/

/-- The conditions of R218 on a predecessor. [DEDUCED, log 58] -/
def State.spliceOk (s : State) (p : VpId) (y : Vp) : Bool :=
  let x := s.vp p
  (x.stage == .live || x.stage == .preempting || x.stage == .ending) && x.b == y.b && x.succ.isNone

/-- A band row passes to a VP that is spliced behind p, or is to. The predecessor's position in it has to leave first;
a row that an earlier VP never reaches passes at once; one that hosts a VP of another band passes when it is released.
[DEDUCED, log 58] -/
def State.spliceRow (s : State) (p v : VpId) (q : Nat × RowId) : State :=
  let row := s.row q.2
  match row.host with
  | none => s.hostRow q.2 v q.1
  | some w =>
    if w = p && row.pos.isNone && row.nextPos.isNone then s.hostRow q.2 v q.1
    else if s.precedes w v then
      if row.heir.isNone then s.setRow q.2 { row with heir := some v } else s
    else if (s.chain (·.pred) 1024 v).any fun u => (s.vp u).waits.contains q.1 then s
    else
      let y := s.vp v
      s.setVp v { y with waits := y.waits ++ [q.1] }

/-- A VP attached to its predecessor's band, with the band's pre-emption count; a pre-emption under way is its own as
well (R225). [DEDUCED, log 58] -/
def State.attach (s : State) (p v : VpId) (y : Vp) : State :=
  let x := s.vp p
  let y : Vp := { y with
    stage := if x.stage = .preempting then .preempting else .live
    base := x.base, origin := (x.origin + x.total) % x.b, pred := some p, moved := s.cycle
    spliced := true, preempts := x.preempts }
  let s := ((s.addVp v y).setVp p { x with succ := some v, spliced := true }).measure v
  ((s.vp v).bandRows v.die).foldl (fun s q => s.spliceRow p v q) s

/-! ### LAUNCH and SPLICE (R239 to R241) -/

/-- Where a launch goes: the queue named, and a predecessor that it has to be spliced to. [DEDUCED, log 61] -/
structure LaunchPlan where
  queue  : Fin 16
  must   : Option VpId
  deriving DecidableEq, Repr

/-- The queue that x[b] of LAUNCH names for a core (R228, R240). [DEDUCED, log 60] -/
def State.launchQueue (s : State) (k : CoreId) (xb : Nat) : Except Status (Fin 16) :=
  let own (q : Fin 16) : Bool :=
    let x := s.queue (coreDie k) q
    x.enabled && !x.spire && x.owner == coreNum k
  if field xb 6 4 != 0 || field xb 63 8 != 0 then .error .badDesc
  else if bitAt xb 7 then
    let q : Fin 16 := Fin.ofNat 16 (field xb 3 0)
    if own q then .ok q else .error .rejected
  else match (List.finRange 16).find? own with
    | some q => .ok q
    | none => .error .rejected

/-- What the end of a launch is: a result, or a wait for a queue entry or a record, with what has been read (R228, R238).
-/
inductive LaunchEnd where
  | result (st : Status) (handle : Nat)
  | waits (w : CoreWork)
  deriving DecidableEq, Repr

/-- The KRTIME that holds for the calls of a VP: its event core's at launch (R338). -/
def State.withKrtime (s : State) (y : Vp) : Vp := { y with krtime := (s.core y.eventCore).krtime }

/-- A VP whose descriptor has passed takes its record and its queue entry; none where it has to wait. -/
def State.queueVp (s : State) (die : Fin 2) (q : Fin 16) (y : Vp) : Option (State × VpId) :=
  match s.newVp die y.tenant with
  | none => none
  | some v =>
    if queueDepth ≤ (s.queue die q).launches.length then none
    else some ((s.addVp v { y with stage := .queued, queue := q }).enqueueLaunch v q false, v)

/-- A VP whose descriptor has passed takes its record and its predecessor's band; none where it has to wait. -/
def State.joinVp (s : State) (die : Fin 2) (q : Fin 16) (y : Vp) (p : VpId) : Option (State × VpId) :=
  (s.newVp die y.tenant).map fun v => (s.attach p v { y with queue := q }, v)

/-- A launch whose descriptor has passed goes to the band of the predecessor that it names, or into its queue (R218, R239);
SPLICE has to find a predecessor (R241), and takes that one's queue for a RESUME. No band is there for cells that are
closed to the VP (R424). It waits with what it has read. [DEDUCED, log 61] -/
def State.launchGo (s : State) (die : Fin 2) (tenant : BitVec 8) (priv : Bool) (q : Fin 16) (y : Vp) (pred : Nat)
    (must : Bool) : State × LaunchEnd :=
  let finish (r : Option (State × VpId)) : State × LaunchEnd := match r with
    | none => (s, .waits (.launch q y pred must))
    | some (s, v) => (s, .result .ok v.handle)
  match (if pred = 0 then none else s.named die tenant priv pred) with
  | none => if must then (s, .result .badDesc 0) else finish (s.queueVp die q y)
  | some p =>
    if !s.cellsOpen y then (s, .result .noBand 0)
    else if !s.spliceOk p y then (s, .result .badDesc 0)
    else finish (s.joinVp die (if must then (s.vp p).queue else q) y p)

/-- A launch of a descriptor that has been read, into a queue (R239). [DEDUCED, log 61] -/
def State.launchInto (s : State) (x : Reach) (die : Fin 2) (q : Fin 16) (tenant : BitVec 8) (priv : Bool)
    (h : DescHead) : State × LaunchEnd :=
  let qu := s.queue die q
  match s.readVp x h with
  | (s, .error st) => (s, .result st 0)
  | (s, .ok y) =>
    if y.tenant != tenant || y.tenant != qu.tenant then (s, .result .badDesc 0)
    else if (s.findBand die qu [y] y.b false).isNone then (s, .result .noBand 0)
    else s.launchGo die tenant priv q (s.withKrtime y) h.pred false

/-- The checks of c[a] (R239). -/
def launchTrap (cap : Cap) (tenant : BitVec 8) (ca : CReg) : Option Trap :=
  if !cap.tag then some ⟨.tag, BitVec.ofNat 64 ca.val⟩
  else if cap.otype != 0 || cap.tenant != tenant || cap.space != .dense || !cap.pR then
    some ⟨.perm, BitVec.ofNat 64 ca.val⟩
  else if cap.length < 256 then some ⟨.bounds, 0⟩
  else if cap.base % 256 != 0 then some ⟨.misalign, BitVec.ofNat 64 cap.base⟩
  else none

/-- How a control core reaches the memory of its tenant. -/
def State.coreReach (s : State) (k : CoreId) : Reach :=
  let t := ThreadId.core k
  ⟨t.cache, (s.thread t).tenant, s.threadRoot t⟩

/-- The end of a launch instruction: x[d] receives the result word, or the core waits with what it has read. -/
def launchDone (i : Instr) (k : CoreId) (d : XReg) (r : State × LaunchEnd) : Res :=
  match r.2 with
  | .waits w => .next (r.1.setWork k i w)
  | .result st h => .next (((r.1.dropWork k).setX (.core k) d (resultWord h st)).retire (.core k))

/-- A launch instruction: one that waits goes on with what it has read, and a new one reads its descriptor, with every
earlier access of the core performed (R239, R245). `must` says that it is SPLICE. [DEDUCED, log 96] -/
def launchWith (i : Instr) (must : Bool) (d : XReg) (ca : CReg) (s : State)
    (read : State → CoreId → DescHead → State × LaunchEnd) : Res :=
  onCore i s fun k =>
    let t := ThreadId.core k
    let th := s.thread t
    let go (q : Fin 16) (y : Vp) (pred : Nat) : Res :=
      launchDone i k d (s.launchGo (coreDie k) th.tenant th.priv q y pred must)
    let fresh : Res := match launchTrap (th.cap ca) th.tenant ca with
      | some x => .next (s.trap t x)
      | none => release (fun s => launchDone i k d (match s.readHead (s.coreReach k) (th.cap ca) with
        | (s, .error st) => (s, .result st 0)
        | (s, .ok h) => read s k h)) s
    match s.work k with
    | some (.launch q y pred m) => if m = must then go q y pred else fresh
    | _ => fresh

/-- LAUNCH (R239). [DEDUCED, log 61] -/
def execLaunch (d : XReg) (ca : CReg) (b : XReg) (s : State) : Res :=
  launchWith (.launch d ca b) false d ca s fun s k h =>
    let th := s.thread (.core k)
    match s.launchQueue k (th.get b).toNat with
    | .error st => (s, .result st 0)
    | .ok q => s.launchInto (s.coreReach k) (coreDie k) q th.tenant th.priv h

/-- SPLICE (R241). [DEDUCED, log 59] -/
def execSplice (d : XReg) (ca : CReg) (b : XReg) (s : State) : Res :=
  launchWith (.splice d ca b) true d ca s fun s k h =>
    let th := s.thread (.core k)
    let xb := (th.get b).toNat
    match s.readVp (s.coreReach k) h with
    | (s, .error st) => (s, .result st 0)
    | (s, .ok y) =>
      if xb / 2 ^ 32 != 0 || (h.pred != 0 && h.pred != xb) || y.tenant != th.tenant then (s, .result .badDesc 0)
      else s.launchGo (coreDie k) th.tenant th.priv 0 (s.withKrtime y) xb true

/-! ### PREEMPT, RESUME, BARW, SBIND, SBAR (R229, R237, R242 to R244) -/

/-- The value and status of an instruction on a handle. -/
def handleDone (s : State) (t : ThreadId) (d : XReg) (v : Nat) (st : Status) : Res :=
  .next ((s.setX t d (resultWord v st)).retire t)

/-- A binding that nothing has gone through. -/
def Binding.fresh (b : Binding) : Binding := { b with stopped := false, eows := 0, slots := [], out := none }

/-- A VP as its launch put it into its queue, with an empty context. [DEDUCED, log 59] -/
def Vp.fresh (x : Vp) : Vp := { x with
  stage := .preempted
  edges := x.edges.map fun e => { e with ring := [], bad := [] }
  ingress := x.ingress.map Binding.fresh
  egress := x.egress.map Binding.fresh
  waveDone := 0, waits := [], context := false, positions := [], preAt := [], control := [] }

/-- Launches removed from their queue by a PREEMPT: each VP's record is posted at once, and its context is empty: what a
RESUME would have restored is dropped (R242, R243). [DEDUCED, log 59] -/
def State.preemptQueued (s : State) (k : CoreId) (v : VpId) : State :=
  let vs := s.splicedWith v
  let s := s.unqueue v.die (s.vp v).queue vs
  vs.foldl (fun s w =>
    ((s.drop (s.tokensOf w)).setVp w (s.vp w).fresh).postVp w (record 7 0 0 (coreSrc k) w.handle)) s

/-- PREEMPT (R242). [DEDUCED, log 59] -/
def execPreempt (d a : XReg) (s : State) : Res :=
  onCore (.preempt d a) s fun k =>
    let t := ThreadId.core k
    let th := s.thread t
    let xa := (th.get a).toNat
    match s.named (coreDie k) th.tenant th.priv xa with
    | none => handleDone s t d 0 .badDesc
    | some v =>
      if !((s.splicedWith v).all fun w => (s.vp w).contextFits) then handleDone s t d 0 .badDesc
      else match (s.vp v).stage with
        | .live => handleDone (s.startPreempt v) t d 0 .ok
        | .queued => handleDone (s.preemptQueued k v) t d 0 .ok
        | .ending => handleDone s t d 2 .ok
        | _ => handleDone s t d 1 .ok

/-- RESUME (R243). -/
def execResume (d : XReg) (ca : CReg) (b : XReg) (s : State) : Res :=
  onCore (.resume d ca b) s fun k => release (fun s =>
    let t := ThreadId.core k
    let th := s.thread t
    let cap := th.cap ca
    let die := coreDie k
    match s.named die th.tenant th.priv (th.get b).toNat with
    | none => handleDone s t d 0 .badDesc
    | some v =>
      let x := s.vp v
      let save := x.saveCap
      if x.stage != .preempted || !cap.tag || cap.otype != 0 || cap.base != save.base ||
          cap.length != save.length || cap.tenant != save.tenant then handleDone s t d 0 .badDesc
      else
        let vs := s.splicedWith v
        let qu := s.queue die x.queue
        if (s.findBand die qu (vs.map s.vp) x.b false).isNone then handleDone s t d 0 .noBand
        else if queueDepth ≤ qu.launches.length then .next s
        else
          let s := vs.foldl (fun s w => s.setVp w { s.vp w with stage := .queued }) s
          handleDone (s.enqueueLaunch v x.queue true) t d v.handle .ok) s

/-- BARW (R244): it waits until one of its conditions holds. [DEDUCED, log 108] -/
def execBarw (d a : XReg) (s : State) : Res :=
  onCore (.barw d a) s fun k =>
    let t := ThreadId.core k
    let th := s.thread t
    let xa := (th.get a).toNat
    if xa / 2 ^ 32 != 0 then handleDone s t d 0 .badDesc
    else match s.named (coreDie k) th.tenant th.priv xa with
      | none => handleDone s t d 0 .ok
      | some v =>
        if (s.vp v).stage = .preempted then handleDone s t d 1 .ok
        else if (s.core k).events.isEmpty then .next s
        else handleDone s t d 2 .ok

/-- A binding word that SBIND accepts (R227, R229). -/
def bindingOk (w : Nat) : Bool :=
  field w 15 14 == 0 && field w 23 22 == 0 && (!bitAt w 4 || field w 3 0 == 0) &&
    decide (field w 13 8 ≤ field w 21 16)

/-- SBIND (R229). -/
def execSbind (d a b : XReg) (s : State) : Res :=
  onPrivCore (.sbind d a b) s fun k =>
    let t := ThreadId.core k
    let th := s.thread t
    let xa := (th.get a).toNat
    let xb := (th.get b).toNat
    let q : Fin 16 := Fin.ofNat 16 (field xa 3 0)
    let x := s.queue (coreDie k) q
    let old := x.binding.toNat
    if field xa 63 4 != 0 || field xb 63 32 != 0 || !bindingOk xb then handleDone s t d old .badDesc
    else if !x.launches.isEmpty then handleDone s t d old .rejected
    else handleDone (s.setQueue (coreDie k) q { x with binding := BitVec.ofNat 32 xb }) t d old .ok

/-- The cells of a row keep an image. [DEDUCED, log 60] -/
def State.rowKeeps (s : State) (r : RowId) : Bool :=
  (rowCells r).any fun c => (s.cell c).front.isSome || (s.cell c).back.isSome

/-- The kept images of a row dropped (R235). -/
def State.dropKept (s : State) (r : RowId) : State :=
  (rowCells r).foldl (fun s c => s.setCell c { s.cell c with front := none, back := none, filling := none }) s

/-- SBAR (R237). [DEDUCED, log 60] -/
def execSbar (d a : XReg) (s : State) : Res :=
  onCore (.sbar d a) s fun k =>
    let t := ThreadId.core k
    let th := s.thread t
    let xa := (th.get a).toNat
    let die := coreDie k
    let lo := field xa 5 0
    let hi := field xa 13 8
    let rows := (List.range 64).filter fun r => decide (lo ≤ r) && decide (r ≤ hi)
    let within (r : Nat) : Bool := (List.finRange 16).any fun q =>
      let x := s.queue die q
      !x.spire && x.owner == coreNum k && decide (x.low ≤ r) && decide (r ≤ x.high)
    if field xa 63 14 != 0 || field xa 7 6 != 0 || decide (hi < lo) || (!th.priv && !rows.all within) then
      handleDone s t d 0 .badDesc
    else
      let ids := rows.map fun r => (⟨die, Fin.ofNat 64 r⟩ : RowId)
      let free := ids.filter fun r => !s.rowBusy r && s.rowKeeps r
      handleDone (free.foldl (fun s r => s.dropKept r) s) t d free.length .ok

end Sys2Proof.Machine
end

