-- ==== Sys2Proof/Machine/Sched.lean ====
section
/-!
DEFINITION. The band scheduler's own steps: ageing, the choice of the candidate, and its admission (R225, R230 to
R235).
-/

namespace Sys2Proof.Machine
open Sys2Proof

/-- 64 µs in arithmetic cycles. [DEDUCED, log 64] -/
def ageCycles : Nat := 51200

/-- A queue with the effective priority of its head as time has made it (R230). [DEDUCED, log 64] -/
def LaunchQueue.aged (q : LaunchQueue) (now : Nat) : LaunchQueue :=
  match q.launches with
  | [] => q
  | l :: _ => { q with effective := min 3 (l.priority + (now - q.headSince) / ageCycles) }

/-- Every head of a die aged. -/
def State.age (s : State) (die : Fin 2) : State :=
  let d := s.sched die
  s.setSched die { d with queues := Vector.ofFn fun i => d.queues[i].aged s.cycle }

/-- A head's effective priority rises (R230). -/
def execPriorityAging (die : Fin 2) (s : State) : Res := .next (s.age die)

/-- The queue chosen among heads: the highest effective priority, and among equals the first in the order given. -/
def bestQueue (d : Scheduler) : List (Fin 16) → Option (Fin 16) → Option (Fin 16)
  | [], best => best
  | q :: rest, best =>
    let x := d.queues[q]
    if !x.enabled || x.launches.isEmpty then bestQueue d rest best
    else match best with
      | none => bestQueue d rest (some q)
      | some b => if (d.queues[b]).effective < x.effective then bestQueue d rest (some q)
        else bestQueue d rest best

/-- Queue numbers from the round-robin pointer on. -/
def fromPointer (p : Fin 16) : List (Fin 16) := (List.finRange 16).map fun i => p + i

/-- The head of a queue may be chosen: in strict mode a launch of the partition whose slot it is (R385). -/
def State.inSlot (s : State) (die : Fin 2) (q : Fin 16) : Bool :=
  match s.slotTenant, (s.queue die q).launches with
  | some t, l :: _ => (s.vp l.vp).tenant == t
  | _, _ => true

/-- The scheduler chooses a candidate where it has none (R231). In strict mode each partition has a candidate of its own,
chosen and admitted in the partition's slots, so that none waits for another partition's (R385).
[DESIGN CHOICE, log 86] -/
def execCandidateChoice (die : Fin 2) (s : State) : Res :=
  let t := s.slotTenant
  if ((s.sched die).turn t).2.isSome then .next s
  else
    let s := s.age die
    let d := s.sched die
    let p := (d.turn t).1
    .next (s.setSched die (d.setTurn t (p, bestQueue d ((fromPointer p).filter fun q => s.inSlot die q) none)))

/-- The candidate leaves its queue, and the pointer moves on (R231). -/
def State.popCandidate (s : State) (die : Fin 2) (q : Fin 16) (rest : List Launch) : State :=
  let s := s.setQueue die q { s.queue die q with
    launches := rest
    headSince := s.cycle
    effective := match rest with
      | [] => 0
      | l :: _ => l.priority }
  s.setSched die ((s.sched die).setTurn s.slotTenant (q + 1, none))

/-- A VP, with those spliced with it, takes its band: its context is restored, or it starts afresh (R232, R243). -/
def State.admitVp (s : State) (v : VpId) (base : Nat) : State :=
  let vs := s.splicedWith v
  let s :=
    if (s.vp v).context then vs.foldl (fun s w => s.resumeOne w base) s
    else
      let s := vs.foldl (fun s w =>
        (s.setVp w { s.vp w with stage := .live, base := base, moved := s.cycle, pausedAt := none }).measure w) s
      match vs.find? fun w => (s.vp w).pred.isNone with
      | some w => ((s.vp w).bandRows w.die).foldl (fun s r => s.hostRow r.2 w r.1) s
      | none => s
  let b : RowId := ⟨v.die, Fin.ofNat 64 base⟩
  s.setRow b { s.row b with stall := 0 }

/-- The candidate is admitted where a band is free and power allows (R232, R233, R425), in strict mode in the slot of its
partition (R385). [DESIGN CHOICE, log 86] -/
def execAdmission (die : Fin 2) (s : State) : Res :=
  let d := s.sched die
  match (d.turn s.slotTenant).2 with
  | none => .next s
  | some q => match (s.queue die q).launches with
    | [] => .next (s.setSched die (d.dropCandidate q))
    | l :: rest =>
      if !s.inSlot die q then .next (s.setSched die (d.setTurn s.slotTenant ((d.turn s.slotTenant).1, none)))
      else if s.held then .next s
      else
        let xs := (s.splicedWith l.vp).map s.vp
        match s.findBand die (s.queue die q) xs (s.vp l.vp).b true with
        | none => .next s
        | some base => .next ((s.popCandidate die q rest).admitVp l.vp base)

end Sys2Proof.Machine
end

