-- ==== Sys2Proof/Machine/SysEvents.lean ====
section
/-!
DEFINITION. Steps of the control cores' surroundings: records that arrive (R246, R247), the end of a WFE (R395),
queued stores that are performed (R319, R370, R390, R392), the serialising token (R328), and the emptying of an
event queue (R389).
-/

namespace Sys2Proof.Machine
open Sys2Proof

/-- The VP that a record is about: its payload's low half, with its kind's own payload above it. Records of other
makers have a stream of their own by source. -/
def recordStream (r : BitVec 128) : Nat × Nat :=
  let k := field r.toNat 7 0
  if k = 1 || k = 2 || k = 3 || k = 4 || k = 5 || k = 7 then (0, field r.toNat 95 64) else (1, field r.toNat 63 32)

/-- A record of the same stream to the same core waits before this one (R246). [DEDUCED, log 65] -/
def recordWaits (k : CoreId) (r : BitVec 128) : List (CoreId × BitVec 128) → Bool
  | [] => false
  | (k', r') :: rest => (k' == k && recordStream r' == recordStream r) || recordWaits k r rest

/-- Record i on its way enters the event queue of its core (R246, R247). -/
def execEventRecordArrival (i : Nat) (s : State) : Res :=
  match s.records[i]? with
  | none => .next s
  | some (k, r) =>
    if recordWaits k r (s.records.take i) then .next s
    else
      let s := { s with records := dropNth s.records i }
      .next (s.setCore k ((s.core k).enqueue k r))

/-- 10 µs in arithmetic cycles. [DEDUCED, log 6] -/
def wfeCycles : Nat := 8000

/-- A WFE that has waited for 10 µs goes on (R395). [DEDUCED, log 6] -/
def execWfeTimeout (k : CoreId) (s : State) : Res :=
  match (s.core k).wfeSince with
  | none => .next s
  | some t => if t + wfeCycles ≤ s.cycle then .next (s.setCore k (s.core k).wake) else .next s

/-- A trigger register: its write is a step of its own (R392). -/
def SysReg.isTrigger : SysReg → Bool
  | .trigger _ => true
  | _ => false

/-- An entry of a store queue may be performed before those that stand before it: none of them touches its bytes
(R65), and stores to one register window are performed in their order. [DEDUCED, log 65] -/
def mayPerform (q : QueuedStore) (before : List QueuedStore) : Bool :=
  !(before.any fun p => p.precedes q)

/-- Entry n of a core's store queue performed, where it is of the kind asked for and its turn has come. -/
def State.performEntry (s : State) (k : CoreId) (n : Nat) (sel : QueuedStore → Bool) : State :=
  let c := s.core k
  match c.storeQ[n]? with
  | none => s
  | some q =>
    if sel q && mayPerform q (c.storeQ.take n) then
      (s.setCore k { c with storeQ := dropNth c.storeQ n }).performOne (.core k) q
    else s

/-- The owner of a line performs a store that has left its core (R319, R320). Loads are performed within their
instruction. -/
def execLineOwnerAccess (k : CoreId) (n : Nat) (s : State) : Res :=
  .next (s.performEntry k n fun q => q.space != .sys)

/-- A store to a register without a behaviour of its own is performed (R390). -/
def execRegisterWrite (k : CoreId) (n : Nat) (s : State) : Res :=
  .next (s.performEntry k n fun q => q.space == .sys && !(sysReg q.addr).isTrigger)

/-- The 8-byte store to a post trigger enqueues the staged record (R392). -/
def execPostTrigger (k : CoreId) (n : Nat) (s : State) : Res :=
  .next (s.performEntry k n fun q => q.space == .sys && (sysReg q.addr).isTrigger)

/-- Nodes of the serialising token: 32 control cores and 256 grottos (R328). -/
def scNodes : Nat := 288

/-- A node that the token skips: a control core that a reset of its partition has halted (R387). While its row group's
executing unit runs functions, the token still visits the node, for them. [DEDUCED, log 65] -/
def State.scSkips (s : State) (node : Nat) : Bool :=
  (List.finRange 32).any fun k =>
    node == k.val && s.scSkip.contains k && (s.unit (.core k)).ctx.toList.all (·.isNone)

/-- The first of n nodes from one on that the token does not skip, or the last. -/
def State.scFrom (s : State) : Nat → Nat → Nat
  | 0, node => node % scNodes
  | n + 1, node => if s.scSkips (node % scNodes) then s.scFrom n (node + 1) else node % scNodes

/-- The node that the token visits next. -/
def State.nextScNode (s : State) : Nat := s.scFrom 32 (s.scNode + 1)

/-- The serialising token passes to the next node of its cycle, where up to four accesses are performed (R328).
[DEDUCED, log 65] -/
def execScTokenVisit (node : Nat) (s : State) : Res :=
  if node = s.nextScNode then .next { s with scNode := node, scCount := 0 } else .next s

/-- A write of KEVQ with bit 0 set empties the event queue (R389). [DEDUCED, log 7] -/
def Core.emptyEvents (c : Core) : Core :=
  { c with events := [], evHead := (c.evHead + c.events.length) % 1024, overAt := none, kevqPending := false }

/-- [DEDUCED, log 7] -/
def execKevqEmpty (k : CoreId) (s : State) : Res :=
  if (s.core k).kevqPending then .next (s.setCore k (s.core k).emptyEvents) else .next s

end Sys2Proof.Machine
end

