-- ==== Sys2Proof/Machine/Spire.lean ====
section
/-!
DEFINITION. The Spire: its harts toward device memory and the SYS registers (R329, R416), its own register windows
(R417), the launch trigger (R418), the partition commit (R384, R414) and the start of a control core (R419).
-/

namespace Sys2Proof.Machine
open Sys2Proof

def State.hart (s : State) (h : Fin 24) : Hart := s.harts[h]
def State.setHart (s : State) (h : Fin 24) (x : Hart) : State := { s with harts := s.harts.set h x }

/-! ### The register windows (R417) -/

/-- A register of column 48. -/
inductive SpireReg where
  | staging
  | trigger
  | result
  | entry (i w : Fin 8)
  | commit
  | commitResult
  | start (k : CoreId) (w : Fin 4)
  | power
  | limits
  | route (j : Nat)
  | none
  deriving DecidableEq, Repr

/-- The Spire's register at a SYS address, or none where the address is no address of its column. -/
def spireReg (a : Nat) : Option SpireReg :=
  let off := a % 4096 / 8 * 8
  if field a 23 18 != 48 || field a 30 24 != 0 then none
  else some (match field a 17 12 with
    | 0 => if off = 0 then .staging else if off = 8 then .trigger else if off = 0x10 then .result else .none
    | 1 =>
      if off < 0x200 then .entry (Fin.ofNat 8 (off / 64)) (Fin.ofNat 8 (off % 64 / 8))
      else if off = 0x200 then .commit
      else if off = 0x208 then .commitResult
      else .none
    | 2 => if off < 0x400 then .start (Fin.ofNat 32 (off / 32)) (Fin.ofNat 4 (off % 32 / 8)) else .none
    | 3 => if off = 0 then .power else if off = 8 then .limits else .none
    | 4 => .route (off / 8)
    | 5 => .route (512 + off / 8)
    | _ => .none)

/-- The routes of devices 4j to 4j + 3 as one word. -/
def State.routeWord (s : State) (j : Nat) : Word :=
  BitVec.ofNat 64 ((List.range 4).map fun i => (alGet s.routes (4 * j + i) 0).toNat * 2 ^ (16 * i)).sum

/-- The routes of four devices set. -/
def State.setRoutes (s : State) (j : Nat) (w : Word) : State :=
  { s with routes := (List.range 4).foldl (fun l i =>
      alSet l (4 * j + i) (BitVec.ofNat 12 (w.toNat / 2 ^ (16 * i)))) s.routes }

/-- A register's value as a hart reads it (R417). -/
def State.spireRead (s : State) (h : Fin 24) (r : SpireReg) : Word :=
  match r with
  | .staging => (s.hart h).staging
  | .result => (s.hart h).result
  | .entry i w => (s.staged[i])[w]
  | .commitResult => s.commitResult
  | .start k w => match w with
    | 0 => (s.startRec[k])[0]
    | 1 => (s.startRec[k])[1]
    | 2 => (s.startRec[k])[2]
    | _ => 0
  | .power => BitVec.ofNat 64 s.powerMw
  | .limits => BitVec.ofNat 64 (s.held.toNat + 2 * s.overTemp.toNat)
  | .route j => s.routeWord j
  | .trigger | .commit | .none => 0

/-- A register whose write triggers an action: it takes 8-byte stores alone (R390). -/
def SpireReg.isTrigger : SpireReg → Bool
  | .trigger | .commit => true
  | .start _ w => w == 3
  | _ => false

/-- A store to a register (R417). A trigger is left to its own step; read-only registers ignore it. -/
def State.spireWrite (s : State) (h : Fin 24) (r : SpireReg) (a size : Nat) (data : Word) : State :=
  let v := mergeHalf (s.spireRead h r) a size data
  let x := s.hart h
  match r with
  | .staging => s.setHart h { x with staging := v }
  | .trigger => s.setHart h { x with trigger := some (.launch data) }
  | .entry i w => { s with staged := s.staged.set i ((s.staged[i]).set w v) }
  | .commit => s.setHart h { x with trigger := some .commit }
  | .start k w => match w with
    | 0 => { s with startRec := s.startRec.set k ((s.startRec[k]).set 0 v) }
    | 1 => { s with startRec := s.startRec.set k ((s.startRec[k]).set 1 v) }
    | 2 => { s with startRec := s.startRec.set k ((s.startRec[k]).set 2 v) }
    | _ => s.setHart h { x with trigger := some (.coreStart k (data.setWidth 8)) }
  | .route j => s.setRoutes j v
  | .result | .commitResult | .power | .limits | .none => s

/-! ### Harts (R329, R416) -/

/-- The agent number under which a hart stages post words (R392). [DEDUCED, log 67] -/
def hartAgent (h : Fin 24) : Nat := 32 + h.val

/-- The SYS address that a physical address stands for (R416). -/
def State.sysOfPa (s : State) (pa : Nat) : Option Nat :=
  let a := localAddr pa
  if s.isLocal pa && decide (0x7F80000000 ≤ a) && decide (a < 0x8000000000) then some (a - 0x7F80000000) else none

/-- A range of physical memory: populated on this device, or another module's (R316, R318). -/
def State.physOk (s : State) (pa n : Nat) : Bool :=
  let a := localAddr pa
  if s.isLocal pa then
    decide (a + n ≤ 0x40000000) || (decide (0x8000000000 ≤ a) && decide (a + n ≤ 0x8000000000 + s.gddrMiB * 2 ^ 20))
  else true

/-- A hart's instruction ends in a fault. [DEDUCED, log 67] -/
def State.hartFault (s : State) (h : Fin 24) (f : HartFault) : State := s.setHart h { s.hart h with fault := some f }

/-- A hart's instruction completes with a value in its data register. -/
def State.hartData (s : State) (h : Fin 24) (v : Nat) : State :=
  s.setHart h { s.hart h with data := BitVec.ofNat 64 v, fault := none }

/-- A hart's instruction completes without a value. -/
def State.hartDone (s : State) (h : Fin 24) : State := s.setHart h { s.hart h with fault := none }

/-! ### A hart's page tables (R416) -/

/-- A leaf's user bit allows a hart in a mode its access: a supervisor never fetches from a user page.
[PRESUMED, log 99] -/
def userAllows (x : Hart) (m : HartMode) (k : HartAccess) (u : Bool) : Bool := match m, k with
  | .machine, _ => true
  | .supervisor, .fetch => !u
  | .supervisor, _ => !u || x.sum
  | .user, _ => u

/-- A leaf's permission bits allow an access. [PRESUMED, log 99] -/
def bitsAllow (x : Hart) (k : HartAccess) (e : Nat) : Bool := match k with
  | .load => bitAt e 1 || (x.mxr && bitAt e 3)
  | .store => bitAt e 2 && bitAt e 7
  | .fetch => bitAt e 3

/-- What an Sv48 leaf at a level allows a hart in a mode. [PRESUMED, log 99] -/
def leafAllows (x : Hart) (m : HartMode) (k : HartAccess) (level e : Nat) : Bool :=
  userAllows x m k (bitAt e 4) && bitsAllow x k e && bitAt e 6 &&
    (if bitAt e 63 then level == 0 && field e 13 10 == 8 else field e 53 10 % 2 ^ (9 * level) == 0)

/-- The physical address that a leaf gives; bit 63 makes a leaf one of 64 KiB. [PRESUMED, log 99] -/
def leafPa (level e va : Nat) : Nat :=
  let size := 4096 * (if bitAt e 63 then 16 else 2 ^ (9 * level))
  field e 53 10 * 4096 / size * size + va % size

/-- The walk of a hart's Sv48 tables, with levels below the given one, through device memory. [PRESUMED, log 99] -/
def State.hartWalk (s : State) (x : Hart) (m : HartMode) (k : HartAccess) (va : Nat) :
    Nat → Nat → State × Except HartFault Nat
  | 0, _ => (s, .error .page)
  | level + 1, table =>
    let pa := table + 8 * (va / 2 ^ (12 + 9 * level) % 512)
    if !s.physOk pa 8 then (s, .error .access)
    else match s.locRead .device ⟨.dense, pa, none⟩ 8 with
      | (s, none) => (s, .error .access)
      | (s, some bs) =>
        let e := leNat bs
        if !bitAt e 0 || (!bitAt e 1 && bitAt e 2) || field e 60 54 != 0 then (s, .error .page)
        else if bitAt e 1 || bitAt e 3 then
          if leafAllows x m k level e then (s, .ok (leafPa level e va)) else (s, .error .page)
        else if bitAt e 4 || bitAt e 6 || bitAt e 7 || field e 63 61 != 0 then (s, .error .page)
        else s.hartWalk x m k va level (field e 53 10 * 4096)

/-- A hart's pages are translated: not in machine mode, and not where `satp` selects no translation.
[PRESUMED, log 99] -/
def Hart.translates (x : Hart) (m : HartMode) : Bool := m != .machine && field x.satp.toNat 63 60 == 9

/-- Where the pieces of a hart's access lie, cut at pages. [PRESUMED, log 99] -/
def State.hartPieces (s : State) (x : Hart) (m : HartMode) (k : HartAccess) :
    List (Nat × Nat) → State × Except HartFault (List (Nat × Nat))
  | [] => (s, .ok [])
  | (va, n) :: rest =>
    if va / 2 ^ 47 != 0 && va / 2 ^ 47 != 2 ^ 17 - 1 then (s, .error .page)
    else match s.hartWalk x m k va 4 (field x.satp.toNat 43 0 * 4096) with
      | (s, .error f) => (s, .error f)
      | (s, .ok pa) => match s.hartPieces x m k rest with
        | (s, .error f) => (s, .error f)
        | (s, .ok ps) => (s, .ok ((pa, n) :: ps))

/-- Where an access of a hart lies: its physical pieces (R416). -/
def State.hartReach (s : State) (h : Fin 24) (m : HartMode) (k : HartAccess) (va size : Nat) :
    State × Except HartFault (List (Nat × Nat)) :=
  let x := s.hart h
  if x.translates m then s.hartPieces x m k (pagesOf va size) else (s, .ok [(va, size)])

/-- The SYS address of an access that lies there (R416). -/
def State.hartSys (s : State) (ps : List (Nat × Nat)) : Option Nat :=
  match ps with
  | [(pa, _)] => s.sysOfPa pa
  | _ => none

/-- All pieces of an access lie in memory. -/
def State.hartMem (s : State) (ps : List (Nat × Nat)) : Bool :=
  ps.all fun p => (s.sysOfPa p.1).isNone && s.physOk p.1 p.2

/-- The locations of pieces. -/
def State.hartLocs (s : State) (ps : List (Nat × Nat)) : List (Loc × Nat) :=
  ps.flatMap fun p => s.piece ⟨.dense, p.1, none⟩ p.2

/-- A SYS access of a hart is of 4 or 8 bytes, aligned, and in machine mode (R313, R416). [DEDUCED, log 67] -/
def hartSysOk (m : HartMode) (a size : Nat) : Bool := m == .machine && (size == 4 || size == 8) && a % size == 0

/-- Bytes of a RISC-V access. -/
def hartSize (size : Nat) : Bool := size == 1 || size == 2 || size == 4 || size == 8

/-- A load of a hart from where it lies. [DEDUCED, log 67] -/
def State.hartLoad (s : State) (h : Fin 24) (m : HartMode) (size : Nat) (ps : List (Nat × Nat)) : State :=
  match s.hartSys ps with
  | some a =>
    if !hartSysOk m a size then s.hartFault h .access
    else
      let w := match spireReg a with
        | some r => s.spireRead h r
        | none => s.sysRead (hartAgent h) (sysReg a)
      s.hartData h (w.toNat / 2 ^ (8 * (a % 8)) % 2 ^ (8 * size))
  | none =>
    if !s.hartMem ps then s.hartFault h .access
    else match s.areaBytes .device (s.hartLocs ps) with
      | (s, .error _) => s.hartFault h .access
      | (s, .ok bs) => s.hartData h (leNat bs)

/-- A store of a hart to where it lies. It leaves the hart's own reservation alone. -/
def State.hartStore (s : State) (h : Fin 24) (m : HartMode) (size : Nat) (data : Word) (ps : List (Nat × Nat)) : State :=
  match s.hartSys ps with
  | some a =>
    if !hartSysOk m a size then s.hartFault h .access
    else match spireReg a with
      | some r =>
        if r.isTrigger && size != 8 then s.hartFault h .access else (s.spireWrite h r a size data).hartDone h
      | none =>
        if s.sysStoreDenied (hartAgent h) a size then s.hartFault h .access
        else (s.sysWrite (hartAgent h) a size data).hartDone h
  | none =>
    if !s.hartMem ps then s.hartFault h .access
    else
      let old := (s.hart h).reserved
      let s := s.areaPut .device (s.hartLocs ps) (leBytes size data.toNat)
      s.setHart h { s.hart h with reserved := old, fault := none }

/-- An access that a hart makes where its translation allows it. -/
def State.hartAccess (s : State) (h : Fin 24) (m : HartMode) (k : HartAccess) (va size : Nat)
    (go : State → List (Nat × Nat) → State) : State :=
  match s.hartReach h m k va size with
  | (s, .error f) => s.hartFault h f
  | (s, .ok ps) => go s ps

/-- An instruction fetch of a hart: two or four bytes at an even address, from memory. [DEDUCED, log 67] -/
def State.hartFetch (s : State) (h : Fin 24) (m : HartMode) (va size : Nat) : State :=
  if !(size == 2 || size == 4) || va % 2 != 0 then s
  else s.hartAccess h m .fetch va size fun s ps =>
    if !s.hartMem ps then s.hartFault h .access
    else match s.areaBytes .device (s.hartLocs ps) with
      | (s, .error _) => s.hartFault h .access
      | (s, .ok bs) => s.hartData h (leNat bs)

/-- An AMO, LR or SC of a hart: of 4 or 8 bytes, aligned, and to memory. [DEDUCED, log 67] -/
def State.hartAtomic (s : State) (h : Fin 24) (m : HartMode) (k : HartAccess) (va size : Nat) (go : State → Nat → State) :
    State :=
  if !((size == 4 || size == 8) && va % size == 0) then s.hartFault h .access
  else s.hartAccess h m k va size fun s ps => match ps with
    | [(pa, _)] => if s.hartMem ps then go s pa else s.hartFault h .access
    | _ => s.hartFault h .access

/-- An AMO of a hart at its owner. -/
def State.hartAmo (s : State) (h : Fin 24) (op : AmoOp) (size : Nat) (b expected : Word) (pa : Nat) : State :=
  let n := 2 ^ (8 * size)
  match amoAt op size .device ⟨.dense, pa, none⟩ (b.toNat % n) (expected.toNat % n) s with
  | (s, none) => s.hartFault h .access
  | (s, some old) => s.hartData h old

/-- A load-reserved: the reservation is the line's (R329). -/
def State.hartReserve (s : State) (h : Fin 24) (size pa : Nat) : State :=
  match s.locRead .device ⟨.dense, pa, none⟩ size with
  | (s, none) => s.hartFault h .access
  | (s, some bs) =>
    let s := s.hartData h (leNat bs)
    let line := if s.isLocal pa then some (localAddr pa / 64) else none
    s.setHart h { s.hart h with reserved := line }

/-- A store-conditional (R329). -/
def State.hartConditional (s : State) (h : Fin 24) (size : Nat) (data : Word) (pa : Nat) : State :=
  let holds := s.isLocal pa && (s.hart h).reserved == some (localAddr pa / 64)
  if holds then
    let (n, s) := s.draw
    let s := s.setHart h { s.hart h with reserved := none }
    if Config.scFails n then s.hartData h 1
    else (s.memWrite (localAddr pa) (leBytes size data.toNat)).hartData h 0
  else (s.setHart h { s.hart h with reserved := none }).hartData h 1

/-- A hart runs: hart 0 from the measurement of its image on, the others with the operating system (R423).
[DEDUCED, log 67] -/
def State.hartRuns (s : State) (h : Fin 24) : Bool :=
  s.boot == .firmware || (h == 0 && (s.boot == .measured || s.boot == .trained))

/-- A hart's translation set; modes other than none and Sv48 leave `satp` as it is. [PRESUMED, log 99] -/
def State.hartTranslation (s : State) (h : Fin 24) (satp : Word) (sum mxr : Bool) : State :=
  let x := s.hart h
  let mode := field satp.toNat 63 60
  s.setHart h { x with
    satp := if mode = 0 ∨ mode = 9 then satp else x.satp
    sum := sum, mxr := mxr, fault := none }

/-- One instruction of a hart toward the device (R329, R416). A hart waits while a trigger that it has written has
still to act. [DEDUCED, log 22; DEDUCED, log 67; DESIGN CHOICE, log 68] -/
def execSpireHartInstruction (h : Fin 24) (op : HartOp) (s : State) : Res :=
  if !s.hartRuns h || (s.hart h).trigger.isSome then .next s
  else match op with
    | .fetch m va size => .next (s.hartFetch h m va size)
    | .load m va size =>
      .next (if hartSize size then s.hartAccess h m .load va size fun s ps => s.hartLoad h m size ps else s)
    | .store m va size data =>
      .next (if hartSize size then s.hartAccess h m .store va size fun s ps => s.hartStore h m size data ps else s)
    | .amo m op va size b expected =>
      .next (s.hartAtomic h m .store va size fun s pa => s.hartAmo h op size b expected pa)
    | .loadReserved m va size => .next (s.hartAtomic h m .load va size fun s pa => s.hartReserve h size pa)
    | .storeConditional m va size data =>
      .next (s.hartAtomic h m .store va size fun s pa => s.hartConditional h size data pa)
    | .fence => .next (s.hartDone h)
    | .translation satp sum mxr => .next (s.hartTranslation h satp sum mxr)

/-! ### The launch trigger (R418) -/

/-- Capabilities at offsets of a physical descriptor, with their stored tags. [DEDUCED, log 69] -/
def State.physCaps (s : State) (pa : Nat) (bs : List Byte) : List Nat → State × List Cap
  | [] => (s, [])
  | off :: rest =>
    let bits := BitVec.ofNat 128 (leNat ((bs.drop off).take 16))
    let (s, tag) := s.locTag ⟨.dense, pa + off, none⟩ bits
    let (s, cs) := s.physCaps pa bs rest
    (s, ⟨bits, tag⟩ :: cs)

/-- A descriptor at a physical address, line by line where that is of another module (R421). [DEDUCED, log 69] -/
def State.readHeadPhys (s : State) (pa : Nat) : State × Except Status DescHead :=
  if pa % 256 != 0 || !s.physOk pa 256 then (s, .error .badDesc)
  else match s.areaBytes .device (s.piece ⟨.dense, pa, none⟩ 256) with
    | (s, .error st) => (s, .error st)
    | (s, .ok bs) =>
      let (s, cs) := s.physCaps pa bs [0x10, 0x20, 0x30, 0x40, 0x50, 0x60]
      (s, .ok ⟨bs, cs⟩)

/-- A launch of the Spire: its result word. Where LAUNCH would wait, it is REJECTED. [DEDUCED, log 69] -/
def State.spireLaunch (s : State) (pa : Nat) (data : Nat) : State × Word :=
  if field data 63 5 != 0 then (s, resultWord 0 .badDesc)
  else match s.readHeadPhys pa with
    | (s, .error st) => (s, resultWord 0 st)
    | (s, .ok head) =>
      let die : Fin 2 := Fin.ofNat 2 (field data 4 4)
      let q : Fin 16 := Fin.ofNat 16 (field data 3 0)
      let x := s.queue die q
      if !x.enabled || !x.spire then (s, resultWord 0 .rejected)
      else
        let reach : Reach := ⟨.spire, x.tenant, s.rootOf x.tenant⟩
        match s.launchInto reach die q x.tenant true head with
        | (s, .waits _) => (s, resultWord 0 .rejected)
        | (s, .result st v) => (s, resultWord v st)

/-- A hart's launch trigger acts; the result word replaces the hart's launch result (R418). [DEDUCED, log 69] -/
def execLaunchTrigger (h : Fin 24) (s : State) : Res :=
  match (s.hart h).trigger with
  | some (.launch data) =>
    let (s, w) := s.spireLaunch (s.hart h).staging.toNat data.toNat
    .next (s.setHart h { s.hart h with trigger := none, result := w })
  | _ => .next s

/-! ### The partition commit (R384, R414) -/

/-- The reserved fields of an entry are zero. -/
def PartitionEntry.reservedZero (p : PartitionEntry) : Bool :=
  field p[0].toNat 31 9 == 0 && field p[1].toNat 63 56 == 0 && field p[2].toNat 63 37 == 0 &&
    field p[5].toNat 63 50 == 0 && field p[6].toNat 63 16 == 0 && p[7] == 0

/-- The shares of an entry: of the four vault dies, of the die-to-die link and of the Firel links. -/
def PartitionEntry.shares (p : PartitionEntry) : List Nat :=
  ((List.finRange 4).map p.powerShare) ++
    [field p[6].toNat 7 0, field p[6].toNat 15 8]

/-- No two masks share a bit. -/
def disjointMasks : List Nat → Bool
  | [] => true
  | m :: ms => (ms.all fun n => m &&& n == 0) && disjointMasks ms

/-- A table that the Belfry accepts (R384). [DEDUCED, log 66] -/
def tableOk (ps : List PartitionEntry) : Bool :=
  let on := ps.filter fun p => p.enabled
  allDifferent (on.map fun p => p.tenant) && disjointMasks (on.map fun p => p.cores) &&
    disjointMasks (on.map fun p => p.queues) && disjointMasks (on.map fun p => p.groups) &&
    disjointMasks (on.map fun p => p.channels) &&
    ((List.range 6).all fun i => decide ((on.map fun p => p.shares.getD i 0).sum ≤ 256)) &&
    ps.all fun p => p.reservedZero

/-- Enabled partitions of the table in force. [DEDUCED, log 66] -/
def State.enabledCount (s : State) : Nat :=
  match s.partitions with
  | none => 0
  | some ps => (ps.toList.filter fun p => p.enabled).length

/-- The CFG record of a commit goes to the error core of each die (R414). [DEDUCED, log 66] -/
def State.reportCommit (s : State) (st : Status) : State :=
  [0, 1].foldl (fun s (d : Fin 2) =>
    let ec := s.errorCore[d]
    if bitAt ec.toNat 4 then
      s.post (coreOf d (ec.toNat % 16)) (record 8 0 st.code (srcWord d.val 0 63 0 0) s.enabledCount)
    else s) s

/-- The table that the Spire has written is committed, or refused and the previous one kept (R384).
[DEDUCED, log 66] -/
def execPartitionCommit (h : Fin 24) (s : State) : Res :=
  match (s.hart h).trigger with
  | some .commit =>
    let s := s.setHart h { s.hart h with trigger := none }
    let st : Status := if tableOk s.staged.toList then .ok else .rejected
    let s := if st = .ok then { s with partitions := some s.staged } else s
    .next (({ s with commitResult := resultWord 0 st }).reportCommit st)
  | _ => .next s

/-! ### The start of a control core (R419) -/

/-- The calls of a core's held slots, those among them that have been answered or declared LOST. [DEDUCED, log 70] -/
def Core.openCalls (c : Core) : List (Caller × BitVec 32) :=
  c.slots.toList.filterMap fun o => o.map fun o => (o.call.caller, o.call.num)

/-- A core as a start leaves it: what R419 lists, the call-number counter as it was, and the rest as at reset.
[DEDUCED, log 70; DESIGN CHOICE, log 90] -/
def Core.started (c : Core) (root base length : Nat) (tenant : BitVec 8) : Core :=
  let t := Thread.zero
  { Core.reset with
    thread := { t with
      c := t.c.set 0 (Cap.make 0 .dense (2 ^ 40 - 1) 0xFF tenant 0 true)
      pcc := Cap.make base .dense length 0x85 tenant 0 (decide (base + length ≤ 2 ^ 57))
      priv := true
      tenant := tenant }
    halted := false
    kptbase := BitVec.ofNat 64 (field root 51 12 * 4096)
    callNum := c.callNum }

/-- The trigger of a start record starts its core where that is halted (R419). [DEDUCED, log 70] -/
def execCoreStart (h : Fin 24) (s : State) : Res :=
  match (s.hart h).trigger with
  | some (.coreStart k tenant) =>
    let s := s.setHart h { s.hart h with trigger := none }
    if !(s.core k).halted then .next s
    else
      let s := { s.dropWork k with scSkip := s.scSkip.filter (· != k) }
      let s := s.drain k
      let c := s.core k
      let r := s.startRec[k]
      let s := { s with cleared := c.openCalls ++ s.cleared }
      .next (s.setCore k (c.started r[0].toNat (field r[1].toNat 56 0) (field r[2].toNat 39 0) tenant))
  | _ => .next s

end Sys2Proof.Machine
end

