-- ==== Sys2Proof/Machine/Boot.lean ====
section
/-!
DEFINITION. The module flash, the first-stage images and the part record that it holds, and boot from them (R420, R422
to R424).
-/

namespace Sys2Proof.Machine
open Sys2Proof

/-! ### SHA-384 (R423 step 3) -/

/-- The 80 round constants of SHA-384. -/
def shaConstants : List Word :=
  [0x428A2F98D728AE22, 0x7137449123EF65CD, 0xB5C0FBCFEC4D3B2F, 0xE9B5DBA58189DBBC, 0x3956C25BF348B538,
    0x59F111F1B605D019, 0x923F82A4AF194F9B, 0xAB1C5ED5DA6D8118, 0xD807AA98A3030242, 0x12835B0145706FBE,
    0x243185BE4EE4B28C, 0x550C7DC3D5FFB4E2, 0x72BE5D74F27B896F, 0x80DEB1FE3B1696B1, 0x9BDC06A725C71235,
    0xC19BF174CF692694, 0xE49B69C19EF14AD2, 0xEFBE4786384F25E3, 0x0FC19DC68B8CD5B5, 0x240CA1CC77AC9C65] ++
  [0x2DE92C6F592B0275, 0x4A7484AA6EA6E483, 0x5CB0A9DCBD41FBD4, 0x76F988DA831153B5, 0x983E5152EE66DFAB,
    0xA831C66D2DB43210, 0xB00327C898FB213F, 0xBF597FC7BEEF0EE4, 0xC6E00BF33DA88FC2, 0xD5A79147930AA725,
    0x06CA6351E003826F, 0x142929670A0E6E70, 0x27B70A8546D22FFC, 0x2E1B21385C26C926, 0x4D2C6DFC5AC42AED,
    0x53380D139D95B3DF, 0x650A73548BAF63DE, 0x766A0ABB3C77B2A8, 0x81C2C92E47EDAEE6, 0x92722C851482353B] ++
  [0xA2BFE8A14CF10364, 0xA81A664BBC423001, 0xC24B8B70D0F89791, 0xC76C51A30654BE30, 0xD192E819D6EF5218,
    0xD69906245565A910, 0xF40E35855771202A, 0x106AA07032BBD1B8, 0x19A4C116B8D2D0C8, 0x1E376C085141AB53,
    0x2748774CDF8EEB99, 0x34B0BCB5E19B48A8, 0x391C0CB3C5C95A63, 0x4ED8AA4AE3418ACB, 0x5B9CCA4F7763E373,
    0x682E6FF3D6B2B8A3, 0x748F82EE5DEFB2FC, 0x78A5636F43172F60, 0x84C87814A1F0AB72, 0x8CC702081A6439EC] ++
  [0x90BEFFFA23631E28, 0xA4506CEBDE82BDE9, 0xBEF9A3F7B2C67915, 0xC67178F2E372532B, 0xCA273ECEEA26619C,
    0xD186B8C721C0C207, 0xEADA7DD6CDE0EB1E, 0xF57D4F7FEE6ED178, 0x06F067AA72176FBA, 0x0A637DC5A2C898A6,
    0x113F9804BEF90DAE, 0x1B710B35131C471B, 0x28DB77F523047D84, 0x32CAAB7B40C72493, 0x3C9EBE0A15C9BEBC,
    0x431D67C49C100D4C, 0x4CC5D4BECB3E42B6, 0x597F299CFC657E2A, 0x5FCB6FAB3AD6FAEC, 0x6C44198C4A475817]

/-- The initial hash value of SHA-384. -/
def shaInit : List Word :=
  [0xCBBB9D5DC1059ED8, 0x629A292A367CD507, 0x9159015A3070DD17, 0x152FECD8F70E5939, 0x67332667FFC00B31,
    0x8EB44A8768581511, 0xDB0C2E0D64F98FA7, 0x47B5481DBEFA4FA4]

/-- The message padded: a 1 bit, zeros, and its length in bits as a 128-bit number, to a multiple of 128 bytes. -/
def shaPad (bs : List Byte) : List Byte :=
  bs ++ 0x80 :: List.replicate ((239 - bs.length % 128) % 128) 0 ++ (leBytes 16 (8 * bs.length)).reverse

/-- The words of bytes, the first byte of each the most significant. -/
def shaWords : Nat → List Byte → List Word
  | 0, _ => []
  | n + 1, bs => BitVec.ofNat 64 (leNat (bs.take 8).reverse) :: shaWords n (bs.drop 8)

/-- The message schedule, latest word first, n words more. -/
def shaSchedule : Nat → List Word → List Word
  | 0, w => w
  | n + 1, w =>
    let at' (i : Nat) : Word := w.getD (i - 1) 0
    let s0 := (at' 15).rotateRight 1 ^^^ (at' 15).rotateRight 8 ^^^ (at' 15 >>> 7)
    let s1 := (at' 2).rotateRight 19 ^^^ (at' 2).rotateRight 61 ^^^ (at' 2 >>> 6)
    shaSchedule n ((s1 + at' 7 + s0 + at' 16) :: w)

/-- One round on the working variables. -/
def shaRound (v : List Word) (x : Word × Word) : List Word :=
  match v with
  | [a, b, c, d, e, f, g, h] =>
    let t1 := h + (e.rotateRight 14 ^^^ e.rotateRight 18 ^^^ e.rotateRight 41) + ((e &&& f) ^^^ (~~~e &&& g)) + x.1 + x.2
    let t2 := (a.rotateRight 28 ^^^ a.rotateRight 34 ^^^ a.rotateRight 39) + ((a &&& b) ^^^ (a &&& c) ^^^ (b &&& c))
    [t1 + t2, a, b, c, d + t1, e, f, g]
  | v => v

/-- One block of 128 bytes. -/
def shaBlock (h : List Word) (bs : List Byte) : List Word :=
  let w := (shaSchedule 64 (shaWords 16 bs).reverse).reverse
  List.zipWith (· + ·) h ((shaConstants.zip w).foldl shaRound h)

/-- n blocks. -/
def shaBlocks : Nat → List Word → List Byte → List Word
  | 0, h, _ => h
  | n + 1, h, bs => shaBlocks n (shaBlock h (bs.take 128)) (bs.drop 128)

/-- SHA-384 of bytes. [PRESUMED, log 75] -/
def sha384 (bs : List Byte) : BitVec 384 :=
  let m := shaPad bs
  let h := shaBlocks (m.length / 128) shaInit m
  BitVec.ofNat 384 ((h.take 6).foldl (fun n w => n * 2 ^ 64 + w.toNat) 0)

/-! ### The flash (R422) -/

/-- Bytes of the flash (R415). -/
def flashBytes : Nat := 64 * 2 ^ 20

/-- Where each copy of the first-stage image, the part record, the board area and firmware's own area begin. -/
def imageOffset (copy : Fin 2) : Nat := 0x1000000 * copy.val
def recordOffset : Nat := 0x2000000
def boardOffset : Nat := 0x2010000
def ownOffset : Nat := 0x2020000

/-- Lengths of an image copy and of the record and board areas. -/
def imageArea : Nat := 0x1000000
def recordArea : Nat := 0x10000

/-- The area of the flash that holds an offset. -/
inductive FlashArea where
  | image (copy : Fin 2)
  | record | board | own
  deriving DecidableEq, Repr

/-- The area of an offset; none beyond the flash. -/
def flashArea (off : Nat) : Option FlashArea :=
  if off < imageOffset 1 then some (.image 0)
  else if off < recordOffset then some (.image 1)
  else if off < boardOffset then some .record
  else if off < ownOffset then some .board
  else if off < flashBytes then some .own
  else none

/-- Bytes put into the flash: the board area is the management controller's to write, the rest is firmware's and the
maker's. Bytes beyond the flash go nowhere. [DESIGN CHOICE, log 97] -/
def State.flashWrite (s : State) (off : Nat) (bs : List Byte) : State :=
  { s with flash := s.flash.write off (bs.take (flashBytes - off)) }

/-! ### First-stage images (R403, R422) -/

/-- The length of an image up to its signature block, where its header is that of a first-stage image: R403 with cell
count 0, no longer than its area. [DEDUCED, log 73] -/
def bootImage (hdr : List Byte) : Option Nat :=
  let w (i : Nat) : Nat := wordAt hdr i
  if w 0 = 0x4B54494D ∧ w 1 = 1 ∧ 1 ≤ w 2 ∧ w 2 ≤ 64 ∧ 1 ≤ w 3 ∧ w 3 ≤ 36 ∧ w 4 = 0 ∧ w 6 + 0x40 = w 7 ∧
      w 7 % 4 = 0 ∧ w 7 + signatureBytes ≤ imageArea ∧ (List.range 8).all (fun i => w (8 + i) == 0) then some (w 7)
  else none

/-- The signed bytes of a copy, where its header is right and both signatures verify with key slot 0 (R423 step 2).
[DEDUCED, log 73; DESIGN CHOICE, log 76] -/
def State.verifiedImage (s : State) (copy : Fin 2) : Option (List Byte) :=
  let at' := imageOffset copy
  match bootImage (s.flash.read at' 64) with
  | none => none
  | some n =>
    let bs := s.flash.read at' n
    if Config.keySlotHeld 0 && Config.signaturesVerify 0 bs (s.flash.read (at' + n) signatureBytes) then some bs else none

/-- The boot configuration in an image's body: how ports 0 to 3 run, and what port 4 is (R420). The spec gives no layout
of it. [DESIGN CHOICE, log 97] -/
def State.configurePorts (s : State) (bs : List Byte) : State :=
  let body := bs.drop 64
  { s with
    ports := Vector.ofFn fun p => match Config.portLinks body p with
      | 4 => .x4
      | 2 => .x8
      | _ => .x16
    endpoint := Config.portEndpoint body }

/-! ### The part record (R424) -/

/-- What a part record lists. -/
structure PartRecord where
  speedGrade : Nat
  gddrMiB    : Nat
  retired    : List CellId
  deriving DecidableEq, Repr

/-- The cell of a record's word, where its other bits are zero and its column exists. -/
def recordCell (w : Nat) : Option CellId :=
  if field w 30 30 = 0 ∧ field w 23 22 = 0 ∧ field w 15 0 = 0 ∧ field w 21 16 < 36 then
    some ⟨Fin.ofNat 2 (field w 31 31), Fin.ofNat 64 (field w 29 24), Fin.ofNat 36 (field w 21 16)⟩
  else none

/-- The words of a record from its area, and its length; none where they are not a record's. [DEDUCED, log 73] -/
def partRecord (bs : List Byte) : Option (PartRecord × Nat) :=
  let w (i : Nat) : Nat := wordAt bs i
  let n := w 4
  let cells := (List.range n).filterMap fun i => recordCell (w (5 + i))
  if w 0 = 0x4D515052 ∧ w 1 = 1 ∧ 20 + 4 * n + signatureBytes ≤ recordArea ∧ cells.length = n then
    some (⟨w 2, w 3, cells⟩, 20 + 4 * n)
  else none

/-- The record of the flash, where it is one and both signatures verify with key slot 1 (R423 step 4, R424).
[DEDUCED, log 73; DESIGN CHOICE, log 76] -/
def State.verifiedRecord (s : State) : Option PartRecord :=
  let area := s.flash.read recordOffset recordArea
  match partRecord area with
  | none => none
  | some (r, n) =>
    if Config.keySlotHeld 1 && Config.signaturesVerify 1 (area.take n) ((area.drop n).take signatureBytes) then some r
    else none

/-! ### Boot (R423) -/

/-- The next step of boot, from its beginning to its end. With neither copy accepted the module stays in reset and
reports that over I3C, where `boot` is read. [DEDUCED, log 73; PRESUMED, log 75; DESIGN CHOICE, log 76] -/
def execModuleBoot (b : BootInput) (s : State) : Res :=
  match s.boot with
  | .off => .next { s with boot := .powered }
  | .powered =>
    match s.verifiedImage 0, s.verifiedImage 1 with
    | some bs, _ => .next { s with boot := .accepted 0 bs }
    | none, some bs => .next { s with boot := .accepted 1 bs }
    | none, none => .next { s with boot := .failed }
  | .accepted _ bs =>
    .next ({ s with boot := .measured, measure0 := sha384 bs, deviceKey := some Config.deviceKey }.configurePorts bs)
  | .measured => match s.verifiedRecord with
    | some r => .next { s with
        boot := .trained, recordOk := true, speedGrade := r.speedGrade, gddrMiB := r.gddrMiB, retired := r.retired }
    | none => .next { s with
        boot := .trained, recordOk := false, speedGrade := 0, gddrMiB := b.trainedMiB, retired := [] }
  | .trained => .next { s with boot := .firmware, dieStart := Vector.replicate 2 s.cycle }
  | .failed | .firmware => .next s

end Sys2Proof.Machine
end

