-- ==== Sys2Proof/Machine/CellInt.lean ====
section
/-!
DEFINITION. The integer and immediate groups of a cell (R166, R167, R173, R174).
-/

namespace Sys2Proof.Machine
open Sys2Proof

/-- The subword width of m[1:0] (R35, R167). -/
def subWidth (m : Fin 16) : Nat :=
  match m.val % 4 with
  | 1 => 16
  | 2 => 8
  | _ => 32

/-- An element from its subwords of w bits, n of them from number j on. -/
def packSubs (w : Nat) (f : Nat → Nat) : Nat → Nat → Nat
  | _, 0 => 0
  | j, n + 1 => f j % 2 ^ w * 2 ^ (w * j) + packSubs w f (j + 1) n

/-- An element computed subword by subword from two elements (R167). -/
def bySubs (w : Nat) (op : Nat → Nat → Nat) (a b : Elem) : Elem :=
  let sub (x : Elem) (j : Nat) : Nat := x.toNat / 2 ^ (w * j) % 2 ^ w
  BitVec.ofNat 32 (packSubs w (fun j => op (sub a j) (sub b j)) 0 (32 / w))

/-- A lane-wise result of two tokens (R166). -/
def lanes2 (f : Elem → Elem → Elem) (l r : Token) : Token :=
  Token.lanes .data (fun i => l.ok i && r.ok i) fun i => f (l.at i) (r.at i)

/-- A lane-wise result of one token (R166). -/
def lanes1 (f : Elem → Elem) (l : Token) : Token := Token.lanes .data l.ok fun i => f (l.at i)

/-- A signed sum clamped to w bits (R173 `.sat`). -/
def clampTo (w : Nat) (v : Int) : Nat :=
  let hi : Int := 2 ^ (w - 1) - 1
  let lo : Int := -(2 ^ (w - 1))
  wrap (if v < lo then lo else if hi < v then hi else v) w

/-- A subword read as signed, or as unsigned under `.u`. -/
def readSub (uns : Bool) (w x : Nat) : Int := if uns then x else signed x w

def intAdd (sat : Bool) (w a b : Nat) : Nat :=
  if sat then clampTo w (signed a w + signed b w) else (a + b) % 2 ^ w
def intSub (sat : Bool) (w a b : Nat) : Nat :=
  if sat then clampTo w (signed a w - signed b w) else wrap ((a : Int) - b) w
def intMul (w a b : Nat) : Nat := a * b % 2 ^ w
def intMulh (uns : Bool) (w a b : Nat) : Nat := wrap (readSub uns w a * readSub uns w b / 2 ^ w) w
def intMin (uns : Bool) (w a b : Nat) : Nat := if readSub uns w b < readSub uns w a then b else a
def intMax (uns : Bool) (w a b : Nat) : Nat := if readSub uns w a < readSub uns w b then b else a
def intShl (w a b : Nat) : Nat := a * 2 ^ (b % w) % 2 ^ w

/-- SHR rounds to nearest, ties upward (R173). -/
def intShr (uns : Bool) (w a b : Nat) : Nat :=
  let n := b % w
  if n = 0 then a else wrap ((readSub uns w a + 2 ^ (n - 1)) / 2 ^ n) w
def intSar (w a b : Nat) : Nat := wrap (signed a w / 2 ^ (b % w)) w

/-- Leading zeros of a w-bit number, and its one bits. -/
def laneZeros (a : Nat) : Nat → Nat
  | 0 => 0
  | n + 1 => if bitAt a n then 0 else 1 + laneZeros a n
def laneOnes (a : Nat) : Nat → Nat
  | 0 => 0
  | n + 1 => laneOnes a n + if bitAt a n then 1 else 0

/-- The condition of CMP, by m[2:0] (R173). -/
def cmpHolds (m : Nat) (a b : Elem) : Bool :=
  match m with
  | 0 => a == b
  | 1 => a != b
  | 2 => decide (a.toInt < b.toInt)
  | 3 => decide (a.toInt ≤ b.toInt)
  | 4 => decide (a.toNat < b.toNat)
  | _ => decide (a.toNat ≤ b.toNat)

/-- All ones, or 0. -/
def truth (b : Bool) : Elem := if b then BitVec.allOnes 32 else 0

/-- A two-operand instruction by subwords. -/
def fireInt2 (i : Instr) (f : C3) (op : Nat → Nat → Nat → Nat) (s : State) : Res :=
  fireCell i (fun x s => x.result (lanes2 (bySubs (subWidth f.m) (op (subWidth f.m))) x.l x.r) s) s

/-- A one-operand instruction by subwords. -/
def fireInt1 (i : Instr) (f : C3) (op : Nat → Nat → Nat) (s : State) : Res :=
  fireCell i (fun x s =>
    x.result (lanes1 (fun a => bySubs (subWidth f.m) (fun u _ => op (subWidth f.m) u) a a) x.l) s) s

/-- m[2] is `.u`, m[3] is `.sat` (R35). -/
def mUns (f : C3) : Bool := bitAt f.m.val 2
def mSat (f : C3) : Bool := bitAt f.m.val 3

def execCellAdd (f : C3) (s : State) : Res := fireInt2 (.cellAdd f) f (intAdd (mSat f)) s
def execCellSub (f : C3) (s : State) : Res := fireInt2 (.cellSub f) f (intSub (mSat f)) s
def execCellMul (f : C3) (s : State) : Res := fireInt2 (.cellMul f) f intMul s
def execCellMulh (f : C3) (s : State) : Res := fireInt2 (.cellMulh f) f (intMulh (mUns f)) s
def execCellMin (f : C3) (s : State) : Res := fireInt2 (.cellMin f) f (intMin (mUns f)) s
def execCellMax (f : C3) (s : State) : Res := fireInt2 (.cellMax f) f (intMax (mUns f)) s
def execCellAnd (f : C3) (s : State) : Res := fireInt2 (.cellAnd f) f (fun _ a b => a &&& b) s
def execCellOr (f : C3) (s : State) : Res := fireInt2 (.cellOr f) f (fun _ a b => a ||| b) s
def execCellXor (f : C3) (s : State) : Res := fireInt2 (.cellXor f) f (fun _ a b => a ^^^ b) s
def execCellShl (f : C3) (s : State) : Res := fireInt2 (.cellShl f) f intShl s
def execCellShr (f : C3) (s : State) : Res := fireInt2 (.cellShr f) f (intShr (mUns f)) s
def execCellSar (f : C3) (s : State) : Res := fireInt2 (.cellSar f) f intSar s
def execCellClz (f : C3) (s : State) : Res := fireInt1 (.cellClz f) f (fun w a => laneZeros a w) s
def execCellPopc (f : C3) (s : State) : Res := fireInt1 (.cellPopc f) f (fun w a => laneOnes a w) s

/-- CMP: all ones where the condition holds. -/
def execCmp (f : C3) (s : State) : Res :=
  fireCell (.cmp f) (fun x s => x.result (lanes2 (fun a b => truth (cmpHolds (f.m.val % 8) a b)) x.l x.r) s) s

/-! ### Immediate group (R174) -/

/-- An instruction of L and an immediate. -/
def fireImm (i : Instr) (op : Elem → Elem) (s : State) : Res :=
  fireCell i (fun x s => x.result (lanes1 op x.l) s) s

/-- n := imm13[4:0]. -/
def immShift (f : CI) : Nat := f.imm.toNat % 32

def execCellAddi (f : CI) (s : State) : Res := fireImm (.cellAddi f) (fun a => a + f.imm.signExtend 32) s
def execCellAndi (f : CI) (s : State) : Res := fireImm (.cellAndi f) (fun a => a &&& f.imm.signExtend 32) s
def execCellOri (f : CI) (s : State) : Res := fireImm (.cellOri f) (fun a => a ||| f.imm.signExtend 32) s
def execCellShli (f : CI) (s : State) : Res := fireImm (.cellShli f) (fun a => a <<< immShift f) s
def execCellShri (f : CI) (s : State) : Res := fireImm (.cellShri f) (fun a => a >>> immShift f) s
def execCellSari (f : CI) (s : State) : Res := fireImm (.cellSari f) (fun a => a.sshiftRight (immShift f)) s

end Sys2Proof.Machine
end

