-- ==== Sys2Proof/Machine/Special.lean ====
section
/-!
DEFINITION. The special functions (R276, R277). An irrational value is computed as a fixed-point number
with 192 fraction bits, which decides its rounding; in a function's faithful range which of the two
neighbours is delivered is a free value.
-/

namespace Sys2Proof.Machine
open Sys2Proof

/-- Fraction bits. -/
def prec : Nat := 192
def one : Nat := 2 ^ 192

/-- Σ z^(2k+1)/(2k+1) over n terms, for a fixed-point z: artanh z. -/
def artanhTerms (z2 : Nat) : Nat → Nat → Nat → Nat → Nat
  | 0, _, _, acc => acc
  | n + 1, k, p, acc => artanhTerms z2 n (k + 2) (p * z2 / one) (acc + p / k)

/-- artanh of a fixed-point z up to 1/3. -/
def artanh (z : Nat) : Nat := artanhTerms (z * z / one) 64 1 z 0

/-- ln 2. -/
def ln2 : Nat := 2 * artanh (one / 3)

/-- Σ y^k/k! over n terms. -/
def expTerms (y : Nat) : Nat → Nat → Nat → Nat → Nat
  | 0, _, _, acc => acc
  | n + 1, k, p, acc => expTerms y n (k + 1) (p * y / one / k) (acc + p)

/-- 2^f for a fixed-point f below 1. -/
def exp2Frac (f : Nat) : Nat := expTerms (f * ln2 / one) 64 1 one 0

/-- |m · 2^e| as a fixed-point number. -/
def fixed (m : Nat) (e : Int) : Nat :=
  let g := e + prec
  if 0 ≤ g then m * 2 ^ g.toNat else m / 2 ^ (-g).toNat

/-- Bits of a fixed-point magnitude v · 2^(e − 192), v irrational: a last bit marks that more follows. -/
def roundFixed (s : Bool) (v : Nat) (e : Int) : Nat :=
  Fmt.f32.round .rne s (2 * v + 1) (e - prec - 1)

/-- The neighbour that the faithful range delivers: the magnitude just below, or the next above where
the operand's magnitude lies on the far side of the gap's free threshold. `rising` says that the
result's magnitude rises with the operand's. [DEDUCED, log 32; DESIGN CHOICE, log 77] -/
def faithful (fn : Nat) (rising : Bool) (key : Nat) (s : Bool) (v : Nat) (e : Int) : Nat :=
  let lo := Fmt.f32.round .rtz false (2 * v + 1) (e - prec - 1)
  let thr := Config.faithfulFrom fn lo
  Fmt.f32.sign s + (if (if rising then thr ≤ key else key ≤ thr) then lo + 1 else lo)

/-- The magnitude bits of an operand. -/
def magBits (x : Nat) : Nat := x % 2 ^ 31

/-- 2^x; x above 128 overflows and below −150 rounds to +0. Faithful in −149 ≤ x < −126. -/
def fexp2 (x : Nat) : Nat :=
  match f32 x with
  | .nan => Fmt.f32.nan
  | .inf s => if s then 0 else Fmt.f32.inf
  | .fin s m e =>
    if m = 0 then 0x3F800000
    else if decide (magBits x ≥ 0x43200000) then (if s then 0 else Fmt.f32.inf)
    else
      let mag := fixed m e
      let whole : Int := if s then -((mag + one - 1) / one : Nat) else (mag / one : Nat)
      let f := if s then (one - mag % one) % one else mag % one
      if f = 0 then
        Fmt.f32.round .rne false 1 whole
      else if s && decide (magBits x > 0x42FC0000) && decide (magBits x ≤ 0x43150000) then
        faithful 0 false (magBits x) false (exp2Frac f) whole
      else roundFixed false (exp2Frac f) whole

/-- log2 of m · 2^e with m in [0.75, 1.5), as sign and fixed-point magnitude. -/
def log2Fixed (m : Nat) (e : Int) : Bool × Nat :=
  let n : Int := m.log2 + e
  -- 2^log2 m ≤ m < 2^(log2 m + 1); a mantissa of 1.5 or more is halved
  let big := decide (3 * 2 ^ m.log2 ≤ 2 * m)
  let p := if big then m.log2 + 1 else m.log2
  let n := if big then n + 1 else n
  let d := 2 ^ p
  let z := (if m < d then d - m else m - d) * one / (m + d)
  let l := 2 * artanh z * one / ln2
  let v : Int := n * one + (if m < d then -(l : Int) else l)
  (decide (v < 0), v.natAbs)

/-- log2 x. Faithful in 0.75 ≤ x < 1.5 but for x = 1; the operands below 1 and those above have free thresholds of their
own. [DESIGN CHOICE, log 77] -/
def flog2 (x : Nat) : Nat :=
  match f32 x with
  | .nan => Fmt.f32.nan
  | .inf s => if s then Fmt.f32.nan else Fmt.f32.inf
  | .fin s m e =>
    if m = 0 then Fmt.f32.sign true + Fmt.f32.inf
    else if s then Fmt.f32.nan
    else if m = 2 ^ m.log2 then intToF32 (m.log2 + e)
    else
      let (neg, v) := log2Fixed m e
      if 0x3F400000 ≤ x ∧ x < 0x3FC00000 then faithful (if x < 0x3F800000 then 1 else 2) (decide (0x3F800000 < x)) x neg v 0
      else roundFixed neg v 0

/-- 1 / x. -/
def frcp (x : Nat) : Nat := f32Div 0x3F800000 x

/-- 1 / √x. Faithful for a subnormal x. [DEDUCED, log 32] -/
def frsq (x : Nat) : Nat :=
  match f32 x with
  | .nan => Fmt.f32.nan
  | .inf s => if s then Fmt.f32.nan else 0
  | .fin s m e =>
    if m = 0 then Fmt.f32.sign s + Fmt.f32.inf
    else if s then Fmt.f32.nan
    else
      -- x = m · 4^h with h whole, so 1/√x = (1/√m) · 2^(−h)
      let m := if e % 2 = 0 then m else 2 * m
      let h := if e % 2 = 0 then e / 2 else (e - 1) / 2
      let k := isqrt m
      if k * k = m && k = 2 ^ k.log2 then Fmt.f32.round .rne false 1 (-h - k.log2)
      else
        let v := isqrt (2 ^ 384 / m)
        if x < 0x00800000 then faithful 3 false x false v (-h) else roundFixed false v (-h)

/-- tanh x. Faithful in 2^−13 ≤ |x| < 1; below, tanh x rounds to x; from 10 on, to 1. -/
def ftanh (x : Nat) : Nat :=
  match f32 x with
  | .nan => Fmt.f32.nan
  | .inf s => Fmt.f32.sign s + 0x3F800000
  | .fin s m e =>
    let k := magBits x
    if k < 0x39000000 then x
    else if 0x41200000 ≤ k then Fmt.f32.sign s + 0x3F800000
    else
      let t := 2 * fixed m e * one / ln2
      let g := exp2Frac (t % one) * 2 ^ (t / one)
      let v := (g - one) * one / (g + one)
      if k < 0x3F800000 then faithful 4 true k s v 0 else roundFixed s v 0

end Sys2Proof.Machine
end

