-- ==== Sys2Proof/Machine/CellFloat.lean ====
section
/-!
DEFINITION. The float group of a cell (R298 to R301).
-/

namespace Sys2Proof.Machine
open Sys2Proof

/-- An operation on bit patterns as one on elements. -/
def onElem (f : Nat → Nat) (a : Elem) : Elem := BitVec.ofNat 32 (f a.toNat)
def onElems (f : Nat → Nat → Nat) (a b : Elem) : Elem := BitVec.ofNat 32 (f a.toNat b.toNat)

/-- A lane-wise float instruction of two operands, and of one. -/
def fireFloat2 (i : Instr) (op : Nat → Nat → Nat) (s : State) : Res :=
  fireCell i (fun x s => x.result (lanes2 (onElems op) x.l x.r) s) s
def fireFloat1 (i : Instr) (op : Nat → Nat) (s : State) : Res :=
  fireCell i (fun x s => x.result (lanes1 (onElem op) x.l) s) s

/-- A NaN of binary32. -/
def isNaN32 (x : Nat) : Bool := decide (0x7F800000 < x % 2 ^ 31)

/-- FABS: sign cleared, flipped, set or kept; a NaN becomes canonical in every mode. -/
def floatAbs (m : Nat) (x : Nat) : Nat :=
  if isNaN32 x then 0x7FC00000
  else match m with
    | 0 => x % 2 ^ 31
    | 1 => if bitAt x 31 then x % 2 ^ 31 else x + 2 ^ 31
    | 2 => x % 2 ^ 31 + 2 ^ 31
    | _ => x

/-- FCMP (R299). -/
def floatCmp (m : Nat) (a b : Nat) : Bool :=
  match m, (f32 a).compare (f32 b) with
  | 0, some .eq => true
  | 1, some .lt => true
  | 2, some .eq => true
  | 2, some .lt => true
  | 3, none => true
  | 4, some .lt => true
  | 4, some .gt => true
  | _, _ => false

/-- FCVT (R300). -/
def floatConvert (m : Nat) (x : Nat) : Nat :=
  match m with
  | 0 => intToF32 (signed x 32)
  | 1 => intToF32 x
  | 2 => wrap (f32ToInt .rne (-(2 ^ 31)) (2 ^ 31 - 1) x) 32
  | 3 => wrap (f32ToInt .rtz (-(2 ^ 31)) (2 ^ 31 - 1) x) 32
  | 4 => wrap (f32ToInt .rne 0 (2 ^ 32 - 1) x) 32
  | 5 => convert .f16 .f32 .rne (x % 2 ^ 16)
  | 6 => convert .bf16 .f32 .rne (x % 2 ^ 16)
  | 7 => convert .f32 .f16 .rne x
  | 8 => convert .f32 .bf16 .rne x
  | _ => convert .f32 .f16 .rtz x

/-- UNPK widens 16 halves of L (R301). -/
def unpkToken (m : Nat) (l : Token) : Token :=
  let base := if m % 2 = 0 then 0 else 8
  let fmt := if m < 2 then Fmt.f16 else Fmt.bf16
  Token.lanes .data (fun j => l.ok (base + j / 2)) fun j =>
    let w := (l.at (base + j / 2)).toNat
    BitVec.ofNat 32 (convert fmt .f32 .rne (if j % 2 = 0 then w % 2 ^ 16 else w / 2 ^ 16))

/-- PACK narrows L into lanes 0 to 7 and R into lanes 8 to 15 (R301). -/
def packToken (m : Nat) (l r : Token) : Token :=
  let narrow (x : Nat) : Nat := match m with
    | 0 => convert .f32 .f16 .rne x
    | 1 => convert .f32 .bf16 .rne x
    | _ => convert .f32 .f16 .rtz x
  let src (i : Nat) : Token := if i < 8 then l else r
  let half (i j : Nat) : Nat :=
    if (src i).ok (2 * (i % 8) + j) then narrow ((src i).at (2 * (i % 8) + j)).toNat else 0
  Token.lanes .data (fun i => (src i).ok (2 * (i % 8)) || (src i).ok (2 * (i % 8) + 1)) fun i =>
    BitVec.ofNat 32 (half i 0 + half i 1 * 2 ^ 16)

def execFadd (f : C3) (s : State) : Res := fireFloat2 (.fadd f) f32Add s
def execFsub (f : C3) (s : State) : Res := fireFloat2 (.fsub f) f32Sub s
def execFmul (f : C3) (s : State) : Res := fireFloat2 (.fmul f) f32Mul s

/-- FMA rounds once (R298). -/
def execFma (f : C3) (s : State) : Res :=
  fireCell (.fma f) (fun x s =>
    x.result (Token.lanes .data (fun i => x.l.ok i && x.r.ok i && x.p.ok i) fun i =>
      BitVec.ofNat 32 (f32Fma (x.l.at i).toNat (x.r.at i).toNat (x.p.at i).toNat)) s) s

def execFmin (f : C3) (s : State) : Res := fireFloat2 (.fmin f) f32Min s
def execFmax (f : C3) (s : State) : Res := fireFloat2 (.fmax f) f32Max s
def execFabs (f : C3) (s : State) : Res := fireFloat1 (.fabs f) (floatAbs f.m.val) s
def execFcmp (f : C3) (s : State) : Res :=
  fireFloat2 (.fcmp f) (fun a b => (truth (floatCmp f.m.val a b)).toNat) s
def execFcvt (f : C3) (s : State) : Res := fireFloat1 (.fcvt f) (floatConvert f.m.val) s
def execUnpk (f : C3) (s : State) : Res :=
  fireCell (.unpk f) (fun x s => x.result (unpkToken f.m.val x.l) s) s
def execPack (f : C3) (s : State) : Res :=
  fireCell (.pack f) (fun x s => x.result (packToken f.m.val x.l x.r) s) s
def execFexp2 (f : C3) (s : State) : Res := fireFloat1 (.fexp2 f) fexp2 s
def execFlog2 (f : C3) (s : State) : Res := fireFloat1 (.flog2 f) flog2 s
def execFrcp (f : C3) (s : State) : Res := fireFloat1 (.frcp f) frcp s
def execFrsq (f : C3) (s : State) : Res := fireFloat1 (.frsq f) frsq s
def execFtanh (f : C3) (s : State) : Res := fireFloat1 (.ftanh f) ftanh s

end Sys2Proof.Machine
end

