-- ==== Sys2Proof/Machine/CellFlow.lean ====
section
/-!
DEFINITION. The block and dataflow group (R168 to R172) and the stream instructions RCV, MARK and JOINP
(R187, R188, R190).
-/

namespace Sys2Proof.Machine
open Sys2Proof

/-- NOP never fires and has no effect (R165, R168). -/
def execNop (s : State) : Res := .next s

/-- An exit to a block or, for BEND, from the wave (R153). -/
def Ctx.exitTo (x : Ctx) (e : Exit) (s : State) : Fired :=
  match (x.inst.mark x.slot .done).takeExit x.slot e with
  | .error f => .fault s f
  | .ok i => .done s i

/-- BX exits to the block of L.e0, and raises ILLEGAL where there is none (R169). -/
def execBx (f : C3) (s : State) : Res :=
  fireCell (.bx f) (fun x s =>
    let n := (x.l.at 0).toNat
    if !x.l.ok 0 || decide (31 < n) || ((s.cell x.c).program.block n).isNone then
      .fault s (slotFault .illegal x.slot)
    else x.exitTo (.block (Fin.ofNat 32 n)) s) s

/-- BXI exits to its block. -/
def execBxi (f : CB) (s : State) : Res := fireCell (.bxi f) (fun x s => x.exitTo (.block f.blk) s) s

/-- BEND ends the cell's work for the wave. -/
def execBend (f : CB) (s : State) : Res := fireCell (.bend f) (fun x s => x.exitTo .bend s) s

/-- MOV copies payload, valid mask and kind. -/
def execMov (f : C3) (s : State) : Res := fireCell (.mov f) (fun x s => x.result x.l s) s

/-- MOVI: scalar sext(imm13). -/
def execMovi (f : CI) (s : State) : Res :=
  fireCell (.movi f) (fun x s => x.result (Token.scalar (f.imm.signExtend 32).toNat) s) s

/-- MOVH shifts in 13 raw bits. -/
def execMovh (f : CI) (s : State) : Res :=
  fireCell (.movh f) (fun x s =>
    x.result (Token.lanes .data x.l.ok fun i => (x.l.at i <<< 13) ||| f.imm.setWidth 32) s) s

/-- NULL sends NUL. -/
def execNull (f : C3) (s : State) : Res := fireCell (.null f) (fun x s => x.result .nul s) s

/-- IOTA: e_i := i. -/
def execIota (f : C3) (s : State) : Res :=
  fireCell (.iota f) (fun x s =>
    x.result (Token.lanes .data (fun _ => true) fun i => BitVec.ofNat 32 i) s) s

/-- CID: die, row, column, band base row, stage, wave. -/
def execCid (f : C3) (s : State) : Res :=
  fireCell (.cid f) (fun x s =>
    x.result (Token.ofList .data 0x003F
      [x.c.die.val, x.c.row.val, x.c.col.val, x.pl.x.base, x.pl.stage, x.pl.wave]) s) s

/-- CYC: the counter of the cell's die (R171). -/
def execCellCyc (f : C3) (s : State) : Res :=
  fireCell (.cellCyc f) (fun x s =>
    let n := s.dieCycle x.c.die
    x.result (Token.ofList .data 0x0003 [n % 2 ^ 32, n / 2 ^ 32 % 2 ^ 32]) s) s

/-- TRAP faults with cause 18 at lane 0. -/
def execCellTrap (f : C3) (s : State) : Res :=
  fireCell (.cellTrap f) (fun x s => .fault s (slotFault .trapInstruction x.slot)) s

/-- TESTK: 1 where L's kind is m (R172). [DEDUCED, log 37] -/
def execTestk (f : C3) (s : State) : Res :=
  fireCell (.testk f) (fun x s =>
    x.result (Token.scalar (if x.l.k.code = f.m.val then 1 else 0)) s) s

/-- SEL takes L's lane where P's lane is valid and nonzero, else R's (R170). -/
def selToken (l r p : Token) : Token :=
  let pick (i : Nat) : Token := if p.ok i && p.at i != 0 then l else r
  Token.lanes .data (fun i => (pick i).ok i) fun i => (pick i).at i

def execSel (f : C3) (s : State) : Res :=
  fireCell (.sel f) (fun x s => x.result (selToken x.l x.r x.p) s) s

/-- SETV gives L the valid mask R.e0[15:0] (R170). -/
def setvToken (l r : Token) : Token :=
  Token.lanes .data (fun i => r.ok 0 && (r.at 0).getLsbD i) l.at

def execSetv (f : C3) (s : State) : Res :=
  fireCell (.setv f) (fun x s => x.result (setvToken x.l x.r) s) s

/-- GETV: the valid mask as a scalar. -/
def execGetv (f : C3) (s : State) : Res :=
  fireCell (.getv f) (fun x s => x.result (Token.scalar x.l.v.toNat) s) s

/-- RCV delivers the token that it takes as it is; the take is provisional (R151, R187). [DEDUCED, log 112] -/
def execRcv (f : C3) (s : State) : Res :=
  fireCell (.rcv f) (fun x s =>
    let port : Fin 8 := Fin.ofNat 8 f.m.val
    match rcvToken (s.cell x.c) x.blk x.inst x.slot port with
    | none => .wait s
    | some t =>
      let i := { x.inst with taken := x.inst.taken ++ [(port, t)] }
      let i := i.mark x.slot .done
      match emit x.blk x.slot x.sh (some t) (some t) [port] [] i with
      | .error e => .fault s e
      | .ok i => .done s i) s

/-- MARK sends a token of kind m with L's payload (R188). -/
def execMark (f : C3) (s : State) : Res :=
  fireCell (.mark f) (fun x s =>
    match Kind.ofCode f.m.val with
    | none | some .pre | some .rcf => .fault s (slotFault .illegal x.slot)
    | some .nul => x.result .nul s
    | some k => x.result { x.l with k := k } s) s

/-- JOINP gathers k tokens of credit into one permit (R190). [DEDUCED, log 106] -/
def execJoinp (f : C3) (s : State) : Res :=
  fireCell (.joinp f) (fun x s =>
    if x.inst.join.isSome then .fault s (slotFault .illegal x.slot)
    else
      let acc := (s.cell x.c).join[x.blk.num]
      let cnt := acc.1 + 1
      let sum := acc.2 + (if x.l.ok 0 then x.l.at 0 else 0)
      let full := cnt.toNat == f.m.val + 1
      let i := { x.inst with join := some (if full then (0, 0) else (cnt, sum)) }
      let t := if full then Token.ofList .pmt 0x0003 [sum.toNat, f.m.val + 1] else .nul
      ({ x with inst := i } : Ctx).result t s) s

end Sys2Proof.Machine
end

