-- ==== Sys2Proof/Machine/CellLane.lean ====
section
/-!
DEFINITION. The lane and filter group of a cell (R175 to R179).
-/

namespace Sys2Proof.Machine
open Sys2Proof

/-- The valid lanes of a token, ascending. -/
def Token.validLanes (t : Token) : List Nat := (List.range 16).filter t.ok

/-- Element i of a list of bit patterns. -/
def listAt (l : List Nat) (i : Nat) : Nat := l.getD i 0

/-- One level of the fixed tree: neighbours added in pairs. -/
def pairUp (add : Nat → Nat → Nat) : List Nat → List Nat
  | a :: b :: rest => add a b :: pairUp add rest
  | l => l

/-- The tree sum of 16 values, in the order ((e0+e1)+(e2+e3))+... (R176). -/
def laneTreeSum (add : Nat → Nat → Nat) (l : List Nat) : Nat :=
  listAt (pairUp add (pairUp add (pairUp add (pairUp add l)))) 0

/-- Wrapping addition of 32 bits. -/
def add32 (a b : Nat) : Nat := (a + b) % 2 ^ 32

/-- The addition of m: i32, or binary32. -/
def addOf (m : Nat) : Nat → Nat → Nat := if m = 0 then add32 else f32Add

/-- RADD over all lanes, invalid ones as 0 (R176). -/
def raddToken (m : Nat) (l : Token) : Token :=
  Token.scalar (laneTreeSum (addOf m) ((List.range 16).map fun i => if l.ok i then (l.at i).toNat else 0))

/-- The larger of two lanes under m: i32, n32 or binary32 (R85, R176). -/
def laneMax (m : Nat) (a b : Nat) : Nat :=
  match m with
  | 0 => intMax false 32 a b
  | 1 => intMax true 32 a b
  | _ => f32Max a b
def laneMin (m : Nat) (a b : Nat) : Nat :=
  match m with
  | 0 => intMin false 32 a b
  | 1 => intMin true 32 a b
  | _ => f32Min a b

/-- A reduction over the valid lanes; with none, v = 0. Under m = 2 a lone NaN becomes canonical. -/
def reduceToken (op : Nat → Nat → Nat) (m : Nat) (l : Token) : Token :=
  match l.validLanes.map fun i => (l.at i).toNat with
  | [] => Token.ofList .data 0 []
  | a :: rest =>
    let v := rest.foldl op a
    Token.scalar (if m = 2 && isNaN32 v then 0x7FC00000 else v)

/-- A bit pattern as a result under m: of m = 1, a NaN is canonical (R176, R263). [DEDUCED, log 36] -/
def canonOf (m : Nat) (v : Nat) : Nat := if m = 1 && isNaN32 v then 0x7FC00000 else v

/-- Prefix sums over lanes i to 15 in ascending order, from an accumulator (R176). [DEDUCED, log 36] -/
def prefixSums (add : Nat → Nat → Nat) (l : Token) : List Nat → Option Nat → List Nat
  | [], _ => []
  | i :: is, acc =>
    if l.ok i then
      let v := match acc with
        | none => (l.at i).toNat
        | some a => add a (l.at i).toNat
      v :: prefixSums add l is (some v)
    else 0 :: prefixSums add l is acc

/-- [DEDUCED, log 36] -/
def psumToken (m : Nat) (l : Token) : Token :=
  let sums := prefixSums (addOf m) l (List.range 16) none
  Token.lanes .data l.ok fun i => BitVec.ofNat 32 (canonOf m (listAt sums i))

/-- PERM: y.e_i := L.e_j with j := R.e_i[3:0]. -/
def permToken (l r : Token) : Token :=
  let j (i : Nat) : Nat := (r.at i).toNat % 16
  Token.lanes .data (fun i => r.ok i && l.ok (j i)) fun i => l.at (j i)

/-- BCST and LSH (R175). -/
def bcstToken (k : Nat) (l : Token) : Token := Token.lanes .data (fun _ => l.ok k) fun _ => l.at k
def lshToken (k : Nat) (l : Token) : Token :=
  Token.lanes .data (fun i => decide (i + k < 16) && l.ok (i + k)) fun i => l.at (i + k)

/-- The lanes of a list compacted, and an index token of the same length (R177). -/
def compact (sel : List Nat) (l : Token) (idx : Nat → Nat) : Token × Token :=
  let live (j : Nat) : Bool := decide (j < sel.length)
  (Token.lanes .data live fun j => l.at (listAt sel j),
   Token.lanes .data live fun j => BitVec.ofNat 32 (idx (listAt sel j)))

def cmpkTokens (l r : Token) : Token × Token :=
  compact ((List.range 16).filter fun i => l.ok i && r.ok i && r.at i != 0) l id

/-- The last lane j that EXPD scatters into lane k. -/
def expdSource (l r : Token) (k : Nat) : Option Nat :=
  ((List.range 16).filter fun j => l.ok j && r.ok j && (r.at j).toNat % 16 == k).getLast?

def expdToken (l r : Token) : Token :=
  Token.lanes .data (fun k => (expdSource l r k).isSome) fun k => match expdSource l r k with
    | some j => l.at j
    | none => 0

/-- A lane that NZSCAN counts as nonzero (R178). -/
def nonZero (m : Nat) (x : Elem) : Bool := x != 0 && (m != 0 || x != 0x80000000)

def nzscanTokens (m : Nat) (l r : Token) : Token × Token :=
  let base := if r.ok 0 then (r.at 0).toNat else 0
  compact ((List.range 16).filter fun i => l.ok i && nonZero m (l.at i)) l fun i => base + i

/-- The lowest valid lane of r whose coordinate matches (R179). -/
def matchLane (r : Token) (x : Elem) : Option Nat :=
  if x = BitVec.allOnes 32 then none
  else (List.range 16).find? fun j => r.ok j && r.at j == x

/-- The largest valid element, or 0xFFFFFFFF. -/
def largest (l : Token) : Nat :=
  match l.validLanes.map fun i => (l.at i).toNat with
  | [] => 2 ^ 32 - 1
  | a :: rest => rest.foldl max a

/-- JOIN: the match map and the advance predicate (R179). -/
def joinTokens (m : Nat) (l r : Token) : Token × Token :=
  let a := if m = 0 then l else r
  let b := if m = 0 then r else l
  (Token.lanes .data (fun i => a.ok i && (matchLane b (a.at i)).isSome) fun i =>
      BitVec.ofNat 32 ((matchLane b (a.at i)).getD 0),
   Token.ofList .data 0x0003 [(decide (largest l ≤ largest r)).toNat, (decide (largest r ≤ largest l)).toNat])

/-- A one-operand, and a two-operand instruction of the group. -/
def fireLane1 (i : Instr) (op : Token → Token) (s : State) : Res :=
  fireCell i (fun x s => x.result (op x.l) s) s
def fireLane2 (i : Instr) (op : Token → Token → Token × Token) (s : State) : Res :=
  fireCell i (fun x s => x.results (op x.l x.r).1 (op x.l x.r).2 s) s

/-- One result for both targets. -/
def twice (t : Token) : Token × Token := (t, t)

def execRadd (f : C3) (s : State) : Res := fireLane1 (.radd f) (raddToken f.m.val) s
def execRmax (f : C3) (s : State) : Res := fireLane1 (.rmax f) (reduceToken (laneMax f.m.val) f.m.val) s
def execRmin (f : C3) (s : State) : Res := fireLane1 (.rmin f) (reduceToken (laneMin f.m.val) f.m.val) s
def execPsum (f : C3) (s : State) : Res := fireLane1 (.psum f) (psumToken f.m.val) s
def execPerm (f : C3) (s : State) : Res := fireLane2 (.perm f) (fun l r => twice (permToken l r)) s
def execBcst (f : C3) (s : State) : Res := fireLane1 (.bcst f) (bcstToken f.m.val) s
def execLsh (f : C3) (s : State) : Res := fireLane1 (.lsh f) (lshToken f.m.val) s
def execCmpk (f : C3) (s : State) : Res := fireLane2 (.cmpk f) cmpkTokens s
def execExpd (f : C3) (s : State) : Res := fireLane2 (.expd f) (fun l r => twice (expdToken l r)) s
def execNzscan (f : C3) (s : State) : Res := fireLane2 (.nzscan f) (nzscanTokens f.m.val) s
def execJoin (f : C3) (s : State) : Res := fireLane2 (.join f) (joinTokens f.m.val) s

end Sys2Proof.Machine
end

