-- ==== Sys2Proof/Machine/Package.lean ====
section
/-!
DEFINITION. The package: virtual-function reset (R350, R387), power (R425), inbound PCIe requests (R420), and Firel
links (R318, R421).
-/

namespace Sys2Proof.Machine
open Sys2Proof

/-! ### Virtual-function reset (R350, R387) -/

/-- n things dropped, each counted by the unit that dropped it. -/
def State.countDrops (s : State) (site : ErrorSite) : Nat → State
  | 0 => s
  | n + 1 => (s.countError site true).countDrops site n

/-- The control cores of a partition. -/
def PartitionEntry.coreList (p : PartitionEntry) : List CoreId :=
  (List.finRange 32).filter fun k => bitAt p.cores k.val

/-- Step 1: a core halts; its event queue, call slots and holds are cleared. -/
def State.resetCore (s : State) (k : CoreId) : State :=
  let c := s.core k
  let s := { s.dropWork k with
    cleared := c.openCalls ++ s.cleared
    holds := s.holds.filter fun h => h.holder != HoldAgent.thread (.core k) }
  s.setCore k { c.emptyEvents with
    halted := true, slots := Vector.replicate 16 none, fibre := false, wfeSince := none }

/-- Step 2: a launch queue is emptied. -/
def State.clearQueue (s : State) (d : Fin 2) (q : Fin 16) : State :=
  let x := s.queue d q
  let s := s.setQueue d q { x with launches := [], effective := 0 }
  s.setSched d ((s.sched d).dropCandidate q)

/-- The launch queues of a partition. -/
def State.clearQueues (s : State) (p : PartitionEntry) : State :=
  [0, 1].foldl (fun s (d : Fin 2) => (List.finRange 16).foldl (fun s q =>
    if bitAt p.queues (16 * d.val + q.val) then s.clearQueue d q else s) s) s

/-- What a VP's tear-down drops, counted by the units that drop it: cells their ports and waiting sends, the cell of
each flight's port, the band's base row the rings. -/
def State.countVp (s : State) (v : VpId) : State :=
  let s := (s.vpCells v).foldl (fun s c =>
    let x := s.cell c
    s.countDrops (.cell c) ((x.ports.toList.map fun q => q.length).sum + x.sendQ.length)) s
  let s := s.flights.foldl (fun s f => if f.vp = v then s.countError (.cell f.dest) true else s) s
  let x := s.vp v
  s.countDrops (.row ⟨v.die, x.dieRow 0⟩) ((x.edges.map fun e => e.ring.length).sum)

/-- The open calls of a cell that some VPs have made, and the others. -/
def Cell.dropCalls (x : Cell) (vs : List VpId) : Cell × List (Caller × BitVec 32) :=
  let mine (o : OpenCall) : Bool := match o.call.caller with
    | .cell _ v _ _ => vs.contains v
    | _ => false
  ({ x with calls := x.calls.filter fun o => !mine o }, (x.calls.filter mine).map fun o => (o.call.caller, o.call.num))

/-- A cell without the images of a tenant: those it keeps, and what the tenant's CFGLD has loaded, which a cell of an
idle row holds as its program (R235, R413). -/
def Cell.dropImages (x : Cell) (tenant : BitVec 8) (idle : Bool) : Cell :=
  let keep (i : Option KeptImage) : Option KeptImage := i.filter fun k => k.tenant != tenant
  let loaded := x.loaded.filter fun l => l.1 != tenant
  { x with
    front := keep x.front, back := keep x.back, filling := x.filling.filter fun f => f.1.tenant != tenant
    loaded := loaded
    program := if idle && x.loaded.isSome && loaded.isNone then .empty else x.program }

/-- Step 3: VPs of a tenant are torn down without a record, with what they have asked of memory cells; the tenant's
kept and loaded images are dropped (R235, R413). -/
def State.resetVps (s : State) (tenant : BitVec 8) (vs : List VpId) : State :=
  let s := vs.foldl (fun s v => ((s.countVp v).dropVp v).freeVp v) s
  let s := (s.memQueues.flatMap fun q => q.2).foldl (fun s r =>
    if vs.contains r.vp then s.countError (.cell r.cell) true else s) s
  let s := s.transfers.foldl (fun s r => if vs.contains r.vp then s.countError (.cell r.cell) true else s) s
  let cells := s.cells.map fun c => (c.1, (c.2.dropImages tenant (s.row c.1.rowId).host.isNone).dropCalls vs)
  { s with
    cells := cells.map fun c => (c.1, c.2.1)
    cleared := (cells.flatMap fun c => c.2.2) ++ s.cleared
    memQueues := s.memQueues.map fun q => (q.1, q.2.filter fun r => !vs.contains r.vp)
    transfers := s.transfers.filter fun r => !vs.contains r.vp }

/-- The remote contexts that run for a tenant. -/
def State.contextsOf (s : State) (tenant : BitVec 8) : List RemoteId :=
  s.units.flatMap fun u => (List.finRange 8).filterMap fun i =>
    match u.2.ctx[i] with
    | some x => if x.call.tenant = tenant then some ⟨u.1, i⟩ else none
    | none => none

/-- PEER_RESET to the caller of a call that waits at a unit. -/
def State.refuseWaiting (s : State) (u : UnitId) (c : Call) : State :=
  let r : CallReply := ⟨c.caller, c.num, c.entry, BitVec.ofNat 16 Status.peerReset.code, 0, 0⟩
  (s.setUnit u ((s.unit u).keep r)).sendReply r

/-- Step 4: running functions of a tenant stop, and their callers, with those of waiting calls, are answered
PEER_RESET. -/
def State.resetFunctions (s : State) (tenant : BitVec 8) : State :=
  let code := BitVec.ofNat 16 Status.peerReset.code
  let s := (s.contextsOf tenant).foldl (fun s t => s.endRemote t code 0 0) s
  s.units.foldl (fun s u =>
    let x := s.unit u.1
    let mine := x.waiting.filter fun c => c.tenant == tenant
    let s := s.setUnit u.1 { x with waiting := x.waiting.filter fun c => c.tenant != tenant }
    mine.foldl (fun s c => s.refuseWaiting u.1 c) s) s

/-- A caller of a partition: one of its cores, or a cell of one of its VPs. -/
def ownCaller (cores : List CoreId) (vs : List VpId) : Caller → Bool
  | .core k => cores.contains k
  | .cell _ v _ _ => vs.contains v
  | .module _ _ _ => false

/-- An agent of fibre operations of a partition. -/
def ownAgent (cores : List CoreId) (ctxs : List RemoteId) (vs : List VpId) : FibreAgent → Bool
  | .thread (.core k) _ _ _ => cores.contains k
  | .thread (.remote t) _ _ _ => ctxs.contains t
  | .cell _ v _ _ _ _ => vs.contains v
  | .module _ _ _ _ => false

/-- The unit that counts a fibre reply that it drops. -/
def agentSite : FibreAgent → ErrorSite
  | .thread (.core k) _ _ _ => .core k
  | .thread (.remote t) _ _ _ => match t.unit with
    | .core k => .core k
    | .grotto g => .grotto g
  | .cell c _ _ _ _ _ => .cell c
  | .module _ _ _ _ => .link

/-- Step 5: calls, replies and records of the partition on their way are dropped and counted. [DEDUCED, log 71] -/
def State.resetTraffic (s : State) (cores : List CoreId) (ctxs : List RemoteId) (vs : List VpId) : State :=
  let own := ownCaller cores vs
  let ag := ownAgent cores ctxs vs
  let s := s.callBack.foldl (fun s r => if own r.caller then s.countError (callerSite r.caller) true else s) s
  let s := s.replies.foldl (fun s r => if ag r.agent then s.countError (agentSite r.agent) true else s) s
  let s := s.records.foldl (fun s r => if cores.contains r.1 then s.countError (.core r.1) true else s) s
  { s with
    callBack := s.callBack.filter fun r => !own r.caller
    replies := s.replies.filter fun r => !ag r.agent
    records := s.records.filter fun r => !cores.contains r.1
    fibreReqs := s.fibreReqs.filter fun q => !ag q.agent
    calls := s.calls.filter fun c => !own c.caller }

/-- Step 6: calls of other modules that are on their way to the partition are answered PEER_RESET.
[DEDUCED, log 71] -/
def State.resetArrivals (s : State) (tenant : BitVec 8) : State :=
  let peer (c : Call) : Bool := c.tenant == tenant && match c.caller with
    | .module _ _ _ => true
    | _ => false
  let s := s.calls.foldl (fun s c =>
    if peer c then s.sendReply ⟨c.caller, c.num, c.entry, BitVec.ofNat 16 Status.peerReset.code, 0, 0⟩ else s) s
  { s with calls := s.calls.filter fun c => !peer c }

/-- The reset of a partition, each step whole before the next (R387). The retired stores of its cores are performed
first. [DEDUCED, log 71] -/
def State.resetPartition (s : State) (p : PartitionEntry) : State :=
  let cores := p.coreList
  let s := cores.foldl (fun s k => s.drain k) s
  let s := cores.foldl (fun s k => s.resetCore k) { s with scSkip := cores ++ s.scSkip }
  let s := s.clearQueues p
  let vs := (s.vps.filter fun y => y.2.tenant == p.tenant && y.2.stage != .free).map fun y => y.1
  let s := s.resetVps p.tenant vs
  let ctxs := s.contextsOf p.tenant
  let s := s.resetFunctions p.tenant
  (s.resetTraffic cores ctxs vs).resetArrivals p.tenant

/-- The virtual function of a tenant's partition is reset (R387). [DEDUCED, log 71] -/
def execVfReset (tenant : BitVec 8) (s : State) : Res :=
  match s.partitionOf tenant with
  | none => .next s
  | some p => .next (s.resetPartition p)

/-! ### Power (R425) -/

/-- Milliwatts and degrees at which the module is held and at which it is released. -/
def holdMw : Nat := 1200000
def releaseMw : Nat := 1140000
def holdC : Nat := 95
def releaseC : Nat := 90

/-- Cycles of a power window of 100 µs (R171, R425). [DEDUCED, log 98] -/
def powerWindow : Nat := 80000

/-- A power window ends, 100 µs after the previous one, with its average and the temperature. [DEDUCED, log 98] -/
def execPowerWindowEnd (mW tempC : Nat) (s : State) : Res :=
  if s.cycle < s.windowAt + powerWindow then .next s
  else
    let held :=
      if decide (holdMw < mW) || decide (holdC < tempC) then true
      else if decide (mW < releaseMw) && decide (tempC < releaseC) then false
      else s.held
    .next { s with
      powerMw := mW, tempC := tempC, held := held, overTemp := decide (holdC < tempC)
      windowAt := s.windowAt + powerWindow }

/-- A die becomes hotter than 95 °C. -/
def execOverTemperature (tempC : Nat) (s : State) : Res :=
  if holdC < tempC then .next { s with tempC := tempC, held := true, overTemp := true } else .next s

/-! ### PCIe (R420) -/

/-- The partition that a virtual function serves. -/
def State.partitionOfVf (s : State) (vf : Fin 16) : Option PartitionEntry :=
  match s.partitions with
  | none => none
  | some ps => ps.toList.find? fun p => p.enabled && p.vf == some vf

/-- How a virtual function reaches memory. -/
def PartitionEntry.reach (p : PartitionEntry) : Reach := ⟨.spire, p.tenant, p.root⟩

/-- The completion of an inbound read; without bytes it is unsuccessful. [DEDUCED, log 72] -/
def State.pcieAnswer (s : State) (bs : List Byte) : State := { s with outbox := s.outbox ++ [⟨none, .device, .pcieRead bs, false⟩] }

/-- An inbound request of a function of port 4, which exists where that is an endpoint: of a virtual function, translated
by its partition's page tables, or of the physical function. A write clears tags (R315). [DEDUCED, log 72] -/
def execPcieInboundRequest (req : PcieRequest) (s : State) : Res :=
  if s.boot != .firmware || !s.endpoint then .next s
  else match req with
    | .read none pa n =>
      if !s.physOk pa n then .next (s.pcieAnswer [])
      else match s.areaBytes .device (s.piece ⟨.dense, pa, none⟩ n) with
        | (s, .error _) => .next (s.pcieAnswer [])
        | (s, .ok bs) => .next (s.pcieAnswer bs)
    | .write none pa bs =>
      if !s.physOk pa bs.length then .next s else .next (s.areaPut .device (s.piece ⟨.dense, pa, none⟩ bs.length) bs)
    | .read (some vf) va n => match s.partitionOfVf vf with
      | none => .next (s.pcieAnswer [])
      | some p => match s.areaRead p.reach .read va n with
        | (s, .error _) => .next (s.pcieAnswer [])
        | (s, .ok bs) => .next (s.pcieAnswer bs)
    | .write (some vf) va bs => match s.partitionOfVf vf with
      | none => .next s
      | some p => .next (s.areaWrite p.reach va bs).1
    | .functionReset vf => match s.partitionOfVf vf with
      | none => .next s
      | some p => .next (s.resetPartition p)

/-! ### Firel (R318, R421) -/

/-- The fibre operation of a flit. -/
def flitFibre (kind : Fin 8) (pairs : List (Nat × Nat)) (a b : Nat) (flag : Bool) : FibreOp :=
  let coords := pairs.map fun p => p.1
  match kind with
  | 0 => .format flag
  | 1 => .new a b flag
  | 2 => .free
  | 3 => .merge pairs
  | 4 => .delete coords
  | 5 => .scan a b flag
  | 6 => .probe coords
  | _ => .info a

/-- The cell atomic of a flit. -/
def flitAtomic (op : Fin 3) : CellOp :=
  match op with
  | 0 => .atadd
  | 1 => .atfadd
  | _ => .atmax

/-- The caller on this device that a reply from another module names. -/
def State.replyCaller (s : State) (c : CallerId) (num : BitVec 32) : Option Caller :=
  match c with
  | .core k => some (.core k)
  | .cell c => match (s.cell c).calls.find? fun o => o.call.num == num with
    | some o => some o.call.caller
    | none => ((s.cleared ++ s.lost).find? fun x => x.2 == num && match x.1 with
        | .cell d _ _ _ => d == c
        | _ => false).map fun x => x.1

/-- The unit that a source word names (R246, R339). -/
def callerOf (src : BitVec 32) : CallerId :=
  let w := src.toNat
  let die : Fin 2 := Fin.ofNat 2 (field w 31 31)
  if field w 21 16 = 63 then .core (coreOf die (field w 7 0))
  else .cell ⟨die, Fin.ofNat 64 (field w 29 24), Fin.ofNat 36 (field w 21 16)⟩

/-- The caller that a flit names: one of this device where its call comes back forwarded (R343). -/
def State.flitCaller (s : State) (device : Nat) (src num : BitVec 32) (tenant : BitVec 8) : Caller :=
  let far : Caller := .module device src tenant
  if device % 2 ^ 12 = s.kdevno.toNat then (s.replyCaller (callerOf src) num).getD far else far

/-- A flit's access to memory of this device; a store is acknowledged (R321). -/
def State.flitMemory (s : State) (f : Flit) : State :=
  let out (s : State) (o : Outbound) : State := { s with outbox := s.outbox ++ [⟨none, ⟨f.tenant, .other⟩, o, false⟩] }
  let loc (pa : Nat) : Loc := ⟨.dense, pa, none⟩
  let here (pa n : Nat) : Bool := s.isLocal pa && s.physOk pa n
  match f.body with
  | .read pa n =>
    if !here pa n then out s (.readReply f.source [] false)
    else match s.locRead .device (loc pa) n with
      | (s, none) => out s (.readReply f.source [] false)
      | (s, some bs) =>
        if n == 16 then
          let (s, tag) := s.locTag (loc pa) (BitVec.ofNat 128 (leNat bs))
          out s (.readReply f.source bs tag)
        else out s (.readReply f.source bs false)
  | .write pa bs => out (if here pa bs.length then s.memWrite (localAddr pa) bs else s) (.ack f.source pa)
  | .capWrite pa bs =>
    let put (s : State) : State :=
      let s := s.memWrite (localAddr pa) bs
      if (Cap.arrived (BitVec.ofNat 128 (leNat bs))).tag then { s with mem := s.mem.setTag (localAddr pa) } else s
    out (if here pa 16 && bs.length == 16 && pa % 16 == 0 then put s else s) (.ack f.source pa)
  | .atomic op pa size b expected =>
    if !here pa size then out s (.readReply f.source [] false)
    else
      let n := 2 ^ (8 * size)
      match amoAt op size .device (loc pa) (b.toNat % n) (expected.toNat % n) s with
      | (s, none) => out s (.readReply f.source [] false)
      | (s, some old) => out s (.atomicReply f.source (BitVec.ofNat 64 old))
  | .cellAtomic op pa b =>
    if !here pa 4 then out s (.readReply f.source [] false)
    else match s.atomicLane .device (flitAtomic op) .dense ⟨0, pa, b, none⟩ none with
      | (s, none) => out s (.readReply f.source [] false)
      | (s, some old) => out s (.atomicReply f.source (old.setWidth 64))
  | _ => s

/-- A fibre request of another module arrives: one that this device has refused back takes the place that it has kept,
another one comes last (R98, R100). [DEDUCED, log 100] -/
def State.fibreAgain (s : State) (q : FibreReq) : State :=
  let same (r : FibreReq) : Bool := r.agent == q.agent && r.refused
  match s.fibreReqs.findIdx? same with
  | some i => s.setReq i q
  | none => { s with fibreReqs := s.fibreReqs ++ [q] }

/-- A call of another module arrives: one that this device has refused back takes the place that it has kept, another
one comes last (R333). [DEDUCED, log 100] -/
def State.callAgain (s : State) (c : Call) : State :=
  let same (d : Call) : Bool := d.caller == c.caller && d.num == c.num && d.refused && d.home == c.home
  match s.calls.findIdx? same with
  | some i => { s with calls := setNth s.calls i c }
  | none => { s with calls := s.calls ++ [c] }

/-- A refused call put among the calls on their way, before its caller's later ones (R333). [DEDUCED, log 100] -/
def insertCall (c : Call) : List Call → List Call
  | [] => [c]
  | d :: t => if d.caller.same c.caller && numBelow c.num d.num then c :: d :: t else d :: insertCall c t

/-- The acknowledgement of what has left as number i of the outbox is there (R321). [DEDUCED, log 17] -/
def State.acknowledged (s : State) (i : Nat) : State :=
  match s.outbox[i]? with
  | some x => { s with outbox := setNth s.outbox i { x with due := false } }
  | none => s

/-- An open call that another module has accepted (R321). -/
def OpenCall.acceptedAs (o : OpenCall) (num : BitVec 32) : OpenCall :=
  if o.call.num = num then { o with accepted := true } else o

/-- A call of a caller of this device has been accepted on another module (R321). [DEDUCED, log 17] -/
def State.accepted (s : State) (c : CallerId) (num : BitVec 32) : State :=
  match c with
  | .core k =>
    let x := s.core k
    s.setCore k { x with slots := x.slots.map fun o => o.map fun o => o.acceptedAs num }
  | .cell c =>
    let x := s.cell c
    s.setCell c { x with calls := x.calls.map fun o => o.acceptedAs num }

/-- An intact flit does what it asks for at its owner; memory it names is of this device. A flit that is not intact is
replayed, and nothing of it is seen. [DEDUCED, log 24; DEDUCED, log 74] -/
def execFirelFlitReceive (f : Flit) (s : State) : Res :=
  if s.boot != .firmware || !f.crcOk || s.deadLinks.contains f.link then .next s
  else match f.body with
    | .fibre pa va length issuer id kind pairs a b flag =>
      if !(s.isLocal pa && s.physOk pa 64) then .next s
      else
        let q : FibreReq :=
          { agent := .module f.source issuer id f.tenant, op := flitFibre kind pairs a b flag, va := va, pa := pa
            tenant := f.tenant, length := length, owner := homeGrotto (localAddr pa), ticket := none
            arrived := 0, refused := false, reserved := none, after := [] }
        .next (s.fibreAgain q)
    | .call pa index number device src cap payload rel forwarded =>
      if !(s.isLocal pa && s.physOk pa 1) then .next s
      else
        let num := BitVec.ofNat 32 number
        let c : Call :=
          { entry := index, payload := Vector.ofFn fun i => payload.getD i.val 0, cap := .arrived cap
            tenant := f.tenant, num := num, caller := s.flitCaller device src num f.tenant
            home := .unit (grottoUnit pa), forwarded := forwarded, refused := false, rel := rel, base := pa, after := [] }
        .next (s.callAgain c)
    | .callReply caller number entry status r0 r1 =>
      let num := BitVec.ofNat 32 number
      match s.replyCaller caller num with
      | none => .next s
      | some c =>
        .next { s with callBack := s.callBack ++ [⟨c, num, entry, BitVec.ofNat 16 status, r0, r1⟩] }
    | .fibreReply id status work splits wait value pairs found cursor endFlag =>
      let far (q : FibreReq) : Bool := q.ticket == some id && !s.isLocal q.pa
      match s.fibreReqs.findIdx? far, s.fibreReqs.find? far, Status.ofCode status with
      | some i, some q, some st =>
        let r : FibreReply := ⟨q.agent, q.op, st, min work 0xFFFF, min splits 0xFFFF, min wait 0xFFFF, value, pairs,
          found, cursor, endFlag, q.owner⟩
        .next { s with fibreReqs := dropNth s.fibreReqs i, replies := s.replies ++ [r] }
      | _, _, _ => .next (s.countError .link true)
    | .fibreRefusal id =>
      let far (q : FibreReq) : Bool := q.ticket == some id && !s.isLocal q.pa
      match s.fibreReqs.findIdx? far, s.fibreReqs.find? far with
      | some i, some q => .next (s.setReq i { q with refused := true })
      | _, _ => .next (s.countError .link true)
    | .callRefusal pa index number caller cap payload rel forwarded =>
      let num := BitVec.ofNat 32 number
      match s.replyCaller caller num with
      | none => .next (s.countError .link true)
      | some k =>
        let c : Call :=
          { entry := index, payload := Vector.ofFn fun i => payload.getD i.val 0, cap := .arrived cap
            tenant := f.tenant, num := num, caller := k, home := .module pa, forwarded := forwarded, refused := true
            rel := rel, base := pa, after := [] }
        .next { s with calls := insertCall c s.calls }
    | .ack pa => match s.outbox.findIdx? fun x => x.due && x.body.target == some pa with
      | some i => .next (s.acknowledged i)
      | none => .next (s.countError .link true)
    | .callAccepted caller number => .next (s.accepted caller (BitVec.ofNat 32 number))
    | _ => .next (s.flitMemory f)

/-- A mask without a link. -/
def unmask (m : BitVec 12) (link : Fin 12) : BitVec 12 := m &&& ~~~(1#12 <<< link.val)

/-- What waits for an acknowledgement of a module that no link reaches. -/
def State.cutOff (s : State) (x : Sent) : Bool :=
  x.due && x.body.target.any fun pa => !s.reaches (pa / 2 ^ 40 % 4096)

/-- What no acknowledgement can return for has been dropped and is counted (R421). [DEDUCED, log 17] -/
def State.dropCutOff (s : State) : State :=
  let n := (s.outbox.filter s.cutOff).length
  ({ s with outbox := s.outbox.map fun x => if s.cutOff x then { x with due := false } else x }).countDrops .link n

/-- A link fails: it leaves every mask, and an ERROR_COUNT record goes to the error core (R421). [DEDUCED, log 74] -/
def execFirelLinkFailure (link : Fin 12) (s : State) : Res :=
  if s.deadLinks.contains link then .next s
  else
    let s : State := { s with
      deadLinks := link :: s.deadLinks
      routes := s.routes.map fun r => (r.1, unmask r.2 link) }
    let s := s.dropCutOff
    let ec := s.errorCore[ErrorSite.link.die]
    let n := (alGet s.errors .link .zero).uncorrectable
    if bitAt ec.toNat 4 then
      .next (s.post (coreOf ErrorSite.link.die (ec.toNat % 16)) (record 9 0 0 ErrorSite.link.src n.toNat))
    else .next s

end Sys2Proof.Machine
end

