-- ==== Sys2Proof/Machine/Dispatch.lean ====
section
/-!
DEFINITION. One arm per instruction: the meaning of each row of the opcode table.
-/

namespace Sys2Proof.Machine
open Sys2Proof

/-- What an instruction does. -/
def exec (i : Instr) (s : State) : Host.Outcome State Fault Refusal :=
  match i with
  | .add d a b => Sys2Proof.Machine.execAdd d a b s
  | .sub d a b => Sys2Proof.Machine.execSub d a b s
  | .mul d a b => Sys2Proof.Machine.execMul d a b s
  | .mulh d a b => Sys2Proof.Machine.execMulh d a b s
  | .mulhu d a b => Sys2Proof.Machine.execMulhu d a b s
  | .div d a b => Sys2Proof.Machine.execDiv d a b s
  | .divu d a b => Sys2Proof.Machine.execDivu d a b s
  | .rem d a b => Sys2Proof.Machine.execRem d a b s
  | .remu d a b => Sys2Proof.Machine.execRemu d a b s
  | .and d a b => Sys2Proof.Machine.execAnd d a b s
  | .or d a b => Sys2Proof.Machine.execOr d a b s
  | .xor d a b => Sys2Proof.Machine.execXor d a b s
  | .shl d a b => Sys2Proof.Machine.execShl d a b s
  | .shr d a b => Sys2Proof.Machine.execShr d a b s
  | .sar d a b => Sys2Proof.Machine.execSar d a b s
  | .slt d a b => Sys2Proof.Machine.execSlt d a b s
  | .sltu d a b => Sys2Proof.Machine.execSltu d a b s
  | .min d a b => Sys2Proof.Machine.execMin d a b s
  | .max d a b => Sys2Proof.Machine.execMax d a b s
  | .minu d a b => Sys2Proof.Machine.execMinu d a b s
  | .maxu d a b => Sys2Proof.Machine.execMaxu d a b s
  | .clz d a => Sys2Proof.Machine.execClz d a s
  | .popc d a => Sys2Proof.Machine.execPopc d a s
  | .addi d a imm => Sys2Proof.Machine.execAddi d a imm s
  | .andi d a imm => Sys2Proof.Machine.execAndi d a imm s
  | .ori d a imm => Sys2Proof.Machine.execOri d a imm s
  | .xori d a imm => Sys2Proof.Machine.execXori d a imm s
  | .shli d a imm => Sys2Proof.Machine.execShli d a imm s
  | .shri d a imm => Sys2Proof.Machine.execShri d a imm s
  | .sari d a imm => Sys2Proof.Machine.execSari d a imm s
  | .slti d a imm => Sys2Proof.Machine.execSlti d a imm s
  | .sltiu d a imm => Sys2Proof.Machine.execSltiu d a imm s
  | .lui d imm => Sys2Proof.Machine.execLui d imm s
  | .beq a b off => Sys2Proof.Machine.execBeq a b off s
  | .bne a b off => Sys2Proof.Machine.execBne a b off s
  | .blt a b off => Sys2Proof.Machine.execBlt a b off s
  | .bge a b off => Sys2Proof.Machine.execBge a b off s
  | .bltu a b off => Sys2Proof.Machine.execBltu a b off s
  | .bgeu a b off => Sys2Proof.Machine.execBgeu a b off s
  | .jal d off => Sys2Proof.Machine.execJal d off s
  | .jalr d a imm => Sys2Proof.Machine.execJalr d a imm s
  | .ldb d c a imm => Sys2Proof.Machine.execLdb d c a imm s
  | .ldh d c a imm => Sys2Proof.Machine.execLdh d c a imm s
  | .ldw d c a imm => Sys2Proof.Machine.execLdw d c a imm s
  | .ldd d c a imm => Sys2Proof.Machine.execLdd d c a imm s
  | .ldbu d c a imm => Sys2Proof.Machine.execLdbu d c a imm s
  | .ldhu d c a imm => Sys2Proof.Machine.execLdhu d c a imm s
  | .ldwu d c a imm => Sys2Proof.Machine.execLdwu d c a imm s
  | .stb d c a imm => Sys2Proof.Machine.execStb d c a imm s
  | .sth d c a imm => Sys2Proof.Machine.execSth d c a imm s
  | .stw d c a imm => Sys2Proof.Machine.execStw d c a imm s
  | .std d c a imm => Sys2Proof.Machine.execStd d c a imm s
  | .lda d c a imm => Sys2Proof.Machine.execLda d c a imm s
  | .stl d c a imm => Sys2Proof.Machine.execStl d c a imm s
  | .amoadd d c a b w ar => Sys2Proof.Machine.execAmoadd d c a b w ar s
  | .amoswp d c a b w ar => Sys2Proof.Machine.execAmoswp d c a b w ar s
  | .amocas d c a b w ar => Sys2Proof.Machine.execAmocas d c a b w ar s
  | .amomin d c a b w ar => Sys2Proof.Machine.execAmomin d c a b w ar s
  | .amomax d c a b w ar => Sys2Proof.Machine.execAmomax d c a b w ar s
  | .amoand d c a b w ar => Sys2Proof.Machine.execAmoand d c a b w ar s
  | .amoor d c a b w ar => Sys2Proof.Machine.execAmoor d c a b w ar s
  | .amoxor d c a b w ar => Sys2Proof.Machine.execAmoxor d c a b w ar s
  | .cld cd c a imm => Sys2Proof.Machine.execCld cd c a imm s
  | .cst cd c a imm => Sys2Proof.Machine.execCst cd c a imm s
  | .csetb cd ca b => Sys2Proof.Machine.execCsetb cd ca b s
  | .candp cd ca b => Sys2Proof.Machine.execCandp cd ca b s
  | .cget d ca f => Sys2Proof.Machine.execCget d ca f s
  | .cmov cd ca => Sys2Proof.Machine.execCmov cd ca s
  | .fnew d c a => Sys2Proof.Machine.execFnew d c a s
  | .ffree d c a => Sys2Proof.Machine.execFfree d c a s
  | .fmrg d c a b n => Sys2Proof.Machine.execFmrg d c a b n s
  | .fscan d c a b n => Sys2Proof.Machine.execFscan d c a b n s
  | .fprobe d c a b n => Sys2Proof.Machine.execFprobe d c a b n s
  | .fdel d c a b n => Sys2Proof.Machine.execFdel d c a b n s
  | .finfo d c a => Sys2Proof.Machine.execFinfo d c a s
  | .launch d ca b => Sys2Proof.Machine.execLaunch d ca b s
  | .splice d ca b => Sys2Proof.Machine.execSplice d ca b s
  | .preempt d a => Sys2Proof.Machine.execPreempt d a s
  | .resume d ca b => Sys2Proof.Machine.execResume d ca b s
  | .cfgld d ca b => Sys2Proof.Machine.execCfgld d ca b s
  | .evpopPoll d => Sys2Proof.Machine.execEvpopPoll d s
  | .evpopWait d => Sys2Proof.Machine.execEvpopWait d s
  | .rcall d c rel e b n => Sys2Proof.Machine.execRcall d c rel e b n s
  | .rwait d a b => Sys2Proof.Machine.execRwait d a b s
  | .rret d a b => Sys2Proof.Machine.execRret d a b s
  | .rfwd ca b => Sys2Proof.Machine.execRfwd ca b s
  | .fence scope => Sys2Proof.Machine.execFence scope s
  | .trap code => Sys2Proof.Machine.execTrap code s
  | .eret => Sys2Proof.Machine.execEret s
  | .sysrd d num => Sys2Proof.Machine.execSysrd d num s
  | .syswr d num => Sys2Proof.Machine.execSyswr d num s
  | .wfe => Sys2Proof.Machine.execWfe s
  | .sev => Sys2Proof.Machine.execSev s
  | .halt => Sys2Proof.Machine.execHalt s
  | .tlbi a b => Sys2Proof.Machine.execTlbi a b s
  | .crc d a b => Sys2Proof.Machine.execCrc d a b s
  | .vsig d ca b => Sys2Proof.Machine.execVsig d ca b s
  | .ldsc d ca b => Sys2Proof.Machine.execLdsc d ca b s
  | .stsc d ca b => Sys2Proof.Machine.execStsc d ca b s
  | .cfgchk d ca b => Sys2Proof.Machine.execCfgchk d ca b s
  | .cfgclr d a => Sys2Proof.Machine.execCfgclr d a s
  | .barw d a => Sys2Proof.Machine.execBarw d a s
  | .ifence => Sys2Proof.Machine.execIfence s
  | .sbind d a b => Sys2Proof.Machine.execSbind d a b s
  | .sbar d a => Sys2Proof.Machine.execSbar d a s
  | .cyc d => Sys2Proof.Machine.execCyc d s
  | .nop => Sys2Proof.Machine.execNop s
  | .bx f => Sys2Proof.Machine.execBx f s
  | .bxi f => Sys2Proof.Machine.execBxi f s
  | .bend f => Sys2Proof.Machine.execBend f s
  | .mov f => Sys2Proof.Machine.execMov f s
  | .movi f => Sys2Proof.Machine.execMovi f s
  | .movh f => Sys2Proof.Machine.execMovh f s
  | .null f => Sys2Proof.Machine.execNull f s
  | .iota f => Sys2Proof.Machine.execIota f s
  | .cid f => Sys2Proof.Machine.execCid f s
  | .cellCyc f => Sys2Proof.Machine.execCellCyc f s
  | .cellTrap f => Sys2Proof.Machine.execCellTrap f s
  | .testk f => Sys2Proof.Machine.execTestk f s
  | .sel f => Sys2Proof.Machine.execSel f s
  | .setv f => Sys2Proof.Machine.execSetv f s
  | .getv f => Sys2Proof.Machine.execGetv f s
  | .cellAdd f => Sys2Proof.Machine.execCellAdd f s
  | .cellSub f => Sys2Proof.Machine.execCellSub f s
  | .cellMul f => Sys2Proof.Machine.execCellMul f s
  | .cellMulh f => Sys2Proof.Machine.execCellMulh f s
  | .cellMin f => Sys2Proof.Machine.execCellMin f s
  | .cellMax f => Sys2Proof.Machine.execCellMax f s
  | .cellAnd f => Sys2Proof.Machine.execCellAnd f s
  | .cellOr f => Sys2Proof.Machine.execCellOr f s
  | .cellXor f => Sys2Proof.Machine.execCellXor f s
  | .cellShl f => Sys2Proof.Machine.execCellShl f s
  | .cellShr f => Sys2Proof.Machine.execCellShr f s
  | .cellSar f => Sys2Proof.Machine.execCellSar f s
  | .cellClz f => Sys2Proof.Machine.execCellClz f s
  | .cellPopc f => Sys2Proof.Machine.execCellPopc f s
  | .cmp f => Sys2Proof.Machine.execCmp f s
  | .cellAddi f => Sys2Proof.Machine.execCellAddi f s
  | .cellAndi f => Sys2Proof.Machine.execCellAndi f s
  | .cellOri f => Sys2Proof.Machine.execCellOri f s
  | .cellShli f => Sys2Proof.Machine.execCellShli f s
  | .cellShri f => Sys2Proof.Machine.execCellShri f s
  | .cellSari f => Sys2Proof.Machine.execCellSari f s
  | .fadd f => Sys2Proof.Machine.execFadd f s
  | .fsub f => Sys2Proof.Machine.execFsub f s
  | .fmul f => Sys2Proof.Machine.execFmul f s
  | .fma f => Sys2Proof.Machine.execFma f s
  | .fmin f => Sys2Proof.Machine.execFmin f s
  | .fmax f => Sys2Proof.Machine.execFmax f s
  | .fabs f => Sys2Proof.Machine.execFabs f s
  | .fcmp f => Sys2Proof.Machine.execFcmp f s
  | .fcvt f => Sys2Proof.Machine.execFcvt f s
  | .unpk f => Sys2Proof.Machine.execUnpk f s
  | .pack f => Sys2Proof.Machine.execPack f s
  | .fexp2 f => Sys2Proof.Machine.execFexp2 f s
  | .flog2 f => Sys2Proof.Machine.execFlog2 f s
  | .frcp f => Sys2Proof.Machine.execFrcp f s
  | .frsq f => Sys2Proof.Machine.execFrsq f s
  | .ftanh f => Sys2Proof.Machine.execFtanh f s
  | .radd f => Sys2Proof.Machine.execRadd f s
  | .rmax f => Sys2Proof.Machine.execRmax f s
  | .rmin f => Sys2Proof.Machine.execRmin f s
  | .psum f => Sys2Proof.Machine.execPsum f s
  | .perm f => Sys2Proof.Machine.execPerm f s
  | .bcst f => Sys2Proof.Machine.execBcst f s
  | .lsh f => Sys2Proof.Machine.execLsh f s
  | .cmpk f => Sys2Proof.Machine.execCmpk f s
  | .expd f => Sys2Proof.Machine.execExpd f s
  | .nzscan f => Sys2Proof.Machine.execNzscan f s
  | .join f => Sys2Proof.Machine.execJoin f s
  | .ld f => Sys2Proof.Machine.execLd f s
  | .ldc f => Sys2Proof.Machine.execLdc f s
  | .st f => Sys2Proof.Machine.execSt f s
  | .stc f => Sys2Proof.Machine.execStc f s
  | .atadd f => Sys2Proof.Machine.execAtadd f s
  | .atfadd f => Sys2Proof.Machine.execAtfadd f s
  | .atmax f => Sys2Proof.Machine.execAtmax f s
  | .lookup f => Sys2Proof.Machine.execLookup f s
  | .tagset f => Sys2Proof.Machine.execTagset f s
  | .tagclr f => Sys2Proof.Machine.execTagclr f s
  | .cellFmrg f => Sys2Proof.Machine.execCellFmrg f s
  | .cellFprobe f => Sys2Proof.Machine.execCellFprobe f s
  | .cellFscan f => Sys2Proof.Machine.execCellFscan f s
  | .rcv f => Sys2Proof.Machine.execRcv f s
  | .mark f => Sys2Proof.Machine.execMark f s
  | .xreq f => Sys2Proof.Machine.execXreq f s
  | .cellRcall f => Sys2Proof.Machine.execCellRcall f s
  | .joinp f => Sys2Proof.Machine.execJoinp f s
  | .mma f => Sys2Proof.Machine.execMma f s
  | .mmas f => Sys2Proof.Machine.execMmas f s
  | .mmap f => Sys2Proof.Machine.execMmap f s
  | .accrd f => Sys2Proof.Machine.execAccrd f s
  | .accz f => Sys2Proof.Machine.execAccz f s
  | .fibreFormat j => Sys2Proof.Machine.execFibreFormat j s
  | .fibreNew j => Sys2Proof.Machine.execFibreNew j s
  | .fibreFree j => Sys2Proof.Machine.execFibreFree j s
  | .fibreMerge j => Sys2Proof.Machine.execFibreMerge j s
  | .poolReservation j => Sys2Proof.Machine.execPoolReservation j s
  | .fibreDelete j => Sys2Proof.Machine.execFibreDelete j s
  | .fibreScanStep j => Sys2Proof.Machine.execFibreScanStep j s
  | .fibreProbe j => Sys2Proof.Machine.execFibreProbe j s
  | .fibreInfo j => Sys2Proof.Machine.execFibreInfo j s
  | .holdLapse j => Sys2Proof.Machine.execHoldLapse j s
  | .fibreRefusedResend j => Sys2Proof.Machine.execFibreRefusedResend j s
  | .fibreReply j => Sys2Proof.Machine.execFibreReply j s
  | .fibrePostedReply j => Sys2Proof.Machine.execFibrePostedReply j s
  | .fprobeReply j => Sys2Proof.Machine.execFprobeReply j s
  | .pageWalk j => Sys2Proof.Machine.execPageWalk j s
  | .blockCommit c => Sys2Proof.Machine.execBlockCommit c s
  | .blockQuiescence c => Sys2Proof.Machine.execBlockQuiescence c s
  | .markerDrain c port => Sys2Proof.Machine.execMarkerDrain c port s
  | .sendResume c => Sys2Proof.Machine.execSendResume c s
  | .tokenReceive j codeOk => Sys2Proof.Machine.execTokenReceive j codeOk s
  | .memoryCellRequest c n => Sys2Proof.Machine.execMemoryCellRequest c n s
  | .memoryCellReply c => Sys2Proof.Machine.execMemoryCellReply c s
  | .transferLine c => Sys2Proof.Machine.execTransferLine c s
  | .addressGeneratorToken c gen => Sys2Proof.Machine.execAddressGeneratorToken c gen s
  | .matrixCommandStart c => Sys2Proof.Machine.execMatrixCommandStart c s
  | .matrixOperandTake c port => Sys2Proof.Machine.execMatrixOperandTake c port s
  | .acczCommand c => Sys2Proof.Machine.execAcczCommand c s
  | .tileRelease c => Sys2Proof.Machine.execTileRelease c s
  | .positionLeave r => Sys2Proof.Machine.execPositionLeave r s
  | .waveMarkerCompletion r => Sys2Proof.Machine.execWaveMarkerCompletion r s
  | .engineDrainEnd r => Sys2Proof.Machine.execEngineDrainEnd r s
  | .rcfPlacement r => Sys2Proof.Machine.execRcfPlacement r s
  | .stateSave r => Sys2Proof.Machine.execStateSave r s
  | .positionGoLive r => Sys2Proof.Machine.execPositionGoLive r s
  | .imagePreload r => Sys2Proof.Machine.execImagePreload r s
  | .ringDelivery v edge => Sys2Proof.Machine.execRingDelivery v edge s
  | .ingressBindingTake v binding => Sys2Proof.Machine.execIngressBindingTake v binding s
  | .egressBindingWrite v binding => Sys2Proof.Machine.execEgressBindingWrite v binding s
  | .deadlockTimeout v => Sys2Proof.Machine.execDeadlockTimeout v s
  | .vpCompletion v => Sys2Proof.Machine.execVpCompletion v s
  | .preInsertion v => Sys2Proof.Machine.execPreInsertion v s
  | .cellContextSave c => Sys2Proof.Machine.execCellContextSave c s
  | .orphanTokenDrop c port => Sys2Proof.Machine.execOrphanTokenDrop c port s
  | .candidateChoice die => Sys2Proof.Machine.execCandidateChoice die s
  | .admission die => Sys2Proof.Machine.execAdmission die s
  | .priorityAging die => Sys2Proof.Machine.execPriorityAging die s
  | .eventRecordArrival j => Sys2Proof.Machine.execEventRecordArrival j s
  | .wfeTimeout k => Sys2Proof.Machine.execWfeTimeout k s
  | .remoteCallArrival j => Sys2Proof.Machine.execRemoteCallArrival j s
  | .callRefusalResend j => Sys2Proof.Machine.execCallRefusalResend j s
  | .remoteContextStart u => Sys2Proof.Machine.execRemoteContextStart u s
  | .remoteBudgetExhausted t => Sys2Proof.Machine.execRemoteBudgetExhausted t s
  | .builtinReduce t => Sys2Proof.Machine.execBuiltinReduce t s
  | .builtinAdamw t => Sys2Proof.Machine.execBuiltinAdamw t s
  | .builtinFill t => Sys2Proof.Machine.execBuiltinFill t s
  | .builtinCopy t => Sys2Proof.Machine.execBuiltinCopy t s
  | .callReplyArrival j => Sys2Proof.Machine.execCallReplyArrival j s
  | .callReplyToken c => Sys2Proof.Machine.execCallReplyToken c s
  | .callResend c slot => Sys2Proof.Machine.execCallResend c slot s
  | .callLostTimeout c slot => Sys2Proof.Machine.execCallLostTimeout c slot s
  | .lineOwnerAccess k n => Sys2Proof.Machine.execLineOwnerAccess k n s
  | .atomicAtOwner c n => Sys2Proof.Machine.execAtomicAtOwner c n s
  | .scTokenVisit node => Sys2Proof.Machine.execScTokenVisit node s
  | .firelFlitReceive flit => Sys2Proof.Machine.execFirelFlitReceive flit s
  | .firelLinkFailure link => Sys2Proof.Machine.execFirelLinkFailure link s
  | .faultReplay c => Sys2Proof.Machine.execFaultReplay c s
  | .faultTeardown c => Sys2Proof.Machine.execFaultTeardown c s
  | .faultWatchdog c => Sys2Proof.Machine.execFaultWatchdog c s
  | .kevqEmpty k => Sys2Proof.Machine.execKevqEmpty k s
  | .postTrigger k n => Sys2Proof.Machine.execPostTrigger k n s
  | .launchTrigger hart => Sys2Proof.Machine.execLaunchTrigger hart s
  | .partitionCommit hart => Sys2Proof.Machine.execPartitionCommit hart s
  | .coreStart hart => Sys2Proof.Machine.execCoreStart hart s
  | .registerWrite k n => Sys2Proof.Machine.execRegisterWrite k n s
  | .vfReset tenant => Sys2Proof.Machine.execVfReset tenant s
  | .powerWindowEnd mW tempC => Sys2Proof.Machine.execPowerWindowEnd mW tempC s
  | .overTemperature tempC => Sys2Proof.Machine.execOverTemperature tempC s
  | .moduleBoot b => Sys2Proof.Machine.execModuleBoot b s
  | .pcieInboundRequest req => Sys2Proof.Machine.execPcieInboundRequest req s
  | .spireHartInstruction hart op => Sys2Proof.Machine.execSpireHartInstruction hart op s

end Sys2Proof.Machine
end

