-- ==== Sys2Proof/Machine/Turn.lean ====
section
/-!
DEFINITION. One turn of the schedule: fetching an instruction of a thread (R46, R52), firing a slot, a device step, and
what an empty schedule runs.
-/

namespace Sys2Proof.Machine
open Sys2Proof

/-! ### Fetch (R46, R52) -/

/-- The checks of pcc before translation, in their order (R52). -/
def pccTrap (t : Thread) : Option Cause :=
  if !t.pcc.tag then some .tag
  else if t.pcc.otype != 0 || t.pcc.space != .dense || !t.pcc.pX || t.pcc.tenant != t.tenant then some .perm
  else if t.pcc.length < t.pc.toNat + 4 then some .bounds
  else if (t.pcc.base + t.pc.toNat) % 4 != 0 then some .misalign
  else none

/-- A fetched word kept, and the one kept at an address (R46). [DESIGN CHOICE, log 21] -/
def State.keepWord (s : State) (t : ThreadId) (pa : Nat) (w : BitVec 32) : State :=
  match t with
  | .core k => s.setCore k { s.core k with icache := (pa, w) :: (s.core k).icache }
  | .remote _ => s
/-- [DESIGN CHOICE, log 21] -/
def State.keptWord (s : State) (t : ThreadId) (pa : Nat) : Option (BitVec 32) :=
  match t with
  | .core k => ((s.core k).icache.find? fun x => x.1 == pa).map fun x => x.2
  | .remote _ => none

/-- The word at an offset from a thread's pcc, or the cause that its fetch raises. A word that is not kept is read as the thread's own
load (R398). [DEDUCED, log 12; DESIGN CHOICE, log 21] -/
def State.fetchAt (s : State) (t : ThreadId) (pc : Word) : State × Except Cause (BitVec 32) :=
  let th := { s.thread t with pc := pc }
  match pccTrap th with
  | some c => (s, .error c)
  | none =>
    match s.translate t.cache th.tenant (s.threadRoot t) (th.pcc.base + th.pc.toNat) false with
    | (s, .error c) => (s, .error c)
    | (s', .ok p) =>
      if !p.exec || p.fill.isSome then (s.withMisses s', .error .perm)
      else
        match s.keptWord t p.pa with
        | some w => (s', .ok w)
        | none => match s'.threadRead t ⟨.dense, p.pa, none⟩ 4 with
          | (_, none) => (((s.withMisses s').threadRead t ⟨.dense, p.pa, none⟩ 4).1, .error .ecc)
          | (s, some bs) =>
            let w := BitVec.ofNat 32 (leNat bs)
            (s.keepWord t p.pa w, .ok w)

/-- The word at a thread's pc. -/
def State.fetch (s : State) (t : ThreadId) : State × Except Cause (BitVec 32) := s.fetchAt t (s.thread t).pc

/-- A core fetches a word ahead: it may then execute that word until IFENCE (R46). A fetch ahead that a check refuses
does nothing, and a halted core fetches nothing (R396). [DESIGN CHOICE, log 21] -/
def State.prefetch (s : State) (k : CoreId) (pc : Word) : State :=
  if (s.core k).halted then s
  else match s.fetchAt (.core k) pc with
  | (s, .ok _) => s
  | (t, .error _) => s.withMisses t

/-- `exec` acts on this thread. -/
def State.onThread (s : State) (t : ThreadId) : State := { s with focus := { s.focus with thread := t } }

/-- `exec` acts on this slot of this cell. -/
def State.onSlot (s : State) (c : CellId) (n : Nat) : State := { s with focus := { s.focus with cell := c, slot := n } }

/-- The next instruction of a thread: its fetch's trap, ILLEGAL with the word where it decodes to nothing, or the
instruction. [DEDUCED, log 12; DEDUCED, log 16] -/
def State.runThread (s : State) (t : ThreadId) : Res :=
  match s.fetch t with
  | (s, .error c) => .next (s.fetchTrap t c)
  | (s, .ok w) => match decodeControl w.toNat with
    | .error _ => .next (s.trap t ⟨.illegal, w.setWidth 64⟩)
    | .ok i => exec i (s.onThread t)

/-! ### Units that act -/

/-- A control thread that can execute: not halted, not waiting for a fibre reply, no WFE waiting. -/
def Core.ready (c : Core) : Bool := !c.halted && !c.fibre && c.wfeSince.isNone

/-- A core goes on with the instruction that it is in the middle of, or executes its next one. A write of KEVQ takes
effect before that (R389). [DEDUCED, log 7] -/
def State.runCore (s : State) (k : CoreId) : Res :=
  let c := s.core k
  if !c.ready then .next s
  else if let some i := s.midway k then exec i (s.onThread (.core k))
  else if c.kevqPending then (s.setCore k c.emptyEvents).runThread (.core k)
  else s.runThread (.core k)

/-- A remote context executes its next instruction, or meets the end of its budget (R340). Built-ins have steps of
their own. -/
def State.runRemote (s : State) (t : RemoteId) : Res :=
  match (s.unit t.unit).ctx[t.ctx] with
  | none => .next s
  | some x =>
    if x.fibre || decide (x.call.entry < 64) then .next s
    else if x.budget = 0 then execRemoteBudgetExhausted t s
    else s.runThread (.remote t)

/-- The kept image whose bank holds the running program; none of what CFGLD has loaded. -/
def Cell.frontMark (x : Cell) : Option (Cap × BitVec 8) :=
  match x.front with
  | some k => if k.program = x.program then some k.mark else none
  | none => none

/-- The word of a slot of a block has an uncorrectable error (R376). -/
def Cell.wordBad (x : Cell) (b : Fin 32) (n : Nat) : Bool :=
  x.badWords.any fun w => w.2 == (b, n) && w.1 == x.frontMark

/-- A slot whose word fails its check as it is to fire: the block faults with ECC at lane 0, and again when it is run
again, until the word is written (R376). [DESIGN CHOICE, log 85] -/
def State.fireBad (s : State) (c : CellId) (b : Block) (i : Instance) (n : Nat) (ins : Instr) : State :=
  match instrShape ins, s.place c with
  | some sh, some pl =>
    if !s.slotReady c b i n ins sh || s.lowerReady c b i n sh.cls then s
    else (s.raiseCell pl.v c (slotFault .ecc n) 0).countError (.cell c) true
  | _, _ => s

/-- The instruction of a slot of a cell's running block fires, where it may (R147). -/
def State.runSlot (s : State) (c : CellId) (n : Nat) : Res :=
  match (s.cell c).running with
  | none => .next s
  | some (b, i) => match b.instr n with
    | none => .next s
    | some ins => if (s.cell c).wordBad b.num n then .next (s.fireBad c b i n ins) else exec ins (s.onSlot c n)

/-- An error strikes the word of a slot of a block of a cell's program (R376). [DESIGN CHOICE, log 85] -/
def State.strikeWord (s : State) (c : CellId) (block : Fin 32) (n : Nat) : State :=
  let x := s.cell c
  match x.program.block block.val with
  | some b => if n < b.words.length then s.setCell c { x with badWords := (x.frontMark, block, n) :: x.badWords } else s
  | none => s

/-- An error strikes a g register of a compute cell (R376). [DESIGN CHOICE, log 85] -/
def State.strikeReg (s : State) (c : CellId) (r : Fin 64) : State :=
  let x := s.cell c
  if c.isMem then s else s.setCell c { x with badRegs := r :: x.badRegs }

/-- An error strikes a token of an edge's ring (R376). [DESIGN CHOICE, log 85] -/
def State.strikeRing (s : State) (v : VpId) (edge n : Nat) : State :=
  let x := s.vp v
  match x.edges[edge]? with
  | some e =>
    if n < e.ring.length then s.setVp v { x with edges := setNth x.edges edge { e with bad := n :: e.bad } } else s
  | none => s

/-- An error strikes an 8-byte unit of memory that exists (R376). [DESIGN CHOICE, log 85] -/
def State.strikeUnit (s : State) (sp : Space) (unit : Nat) : State :=
  match sp with
  | .scratch =>
    if decide (unit * 8 < 2 ^ 31) then { s with scratch := s.scratch.strike unit } else s
  | .dense => if s.populated (unit * 8) then { s with mem := s.mem.strike unit } else s
  | .fibre | .sys => s

/-- An error strikes the tag of a granule of memory that exists (R315). [DESIGN CHOICE, log 85] -/
def State.strikeTag (s : State) (sp : Space) (granule : Nat) : State :=
  match sp with
  | .scratch =>
    if decide (granule * 16 < 2 ^ 31) then { s with scratch := s.scratch.strikeTag granule } else s
  | .dense => if s.populated (granule * 16) then { s with mem := s.mem.strikeTag granule } else s
  | .fibre | .sys => s

/-- An error strikes an entry of a compute cell's tag table (R376). [DESIGN CHOICE, log 85] -/
def State.strikeTable (s : State) (c : CellId) (n : Fin 64) : State :=
  let x := s.cell c
  if c.isMem then s
  else s.setCell c { x with tagBad := (List.finRange 64).filter fun i => i == n || x.tagBad.contains i }

/-- What an action of the schedule does. Only device steps are run by `event`: an instruction with an encoding has to be
fetched or to stand in a slot. [DESIGN CHOICE, log 1] -/
def State.act (s : State) (a : Action) : Res :=
  match a with
  | .core k => s.runCore k
  | .remote t => s.runRemote t
  | .slot c n => s.runSlot c n
  | .event i => if (encode i).isSome then .next s else exec i s
  | .evict n => .next { s with tlb := dropNth s.tlb n, spent := s.tlb[n]?.toList ++ s.spent }
  | .refetch k n => .next (s.setCore k { s.core k with icache := dropNth (s.core k).icache n })
  | .prefetch k pc => .next (s.prefetch k pc)
  | .strikeTag sp g => .next (s.strikeTag sp g)
  | .strikeTable c n => .next (s.strikeTable c n)
  | .strike sp unit => .next (s.strikeUnit sp unit)
  | .strikeWord c b n => .next (s.strikeWord c b n)
  | .strikeReg c r => .next (s.strikeReg c r)
  | .strikeRing v e n => .next (s.strikeRing v e n)
  | .correct site => .next (s.countError site false)
  | .flash off bs => .next (s.flashWrite off bs)
  | .idle => .next s

/-! ### Walkers (R382) -/

/-- A walker is free for a unit's miss: the accesses that parked before it leave one (R382). [DEDUCED, log 110] -/
def State.mayWalk (s : State) (m : Parked) : Bool := s.walkerFree m (s.parked.findIdx fun q => q == m)

/-- A unit whose miss finds no free walker waits, its access parked behind those that have missed before it (R382).
[DEDUCED, log 110] -/
def State.queueMiss (s : State) (m : Parked) : State :=
  if s.parked.contains m then s else { s with parked := s.parked ++ [m] }

/-- What a unit's step answers, where a walker was free for each of its misses, failing ones too: they wait no more; else
the unit waits and tries again (R382). [DEDUCED, log 110] -/
def State.orWait (s : State) (r : Res) : Res :=
  match r with
  | .next t => if t.misses.isEmpty then .next t else match t.misses.find? fun m => !s.mayWalk m with
    | some m => .next (s.queueMiss m)
    | none => .next { t with parked := t.parked.filter fun q => !t.misses.contains q, misses := [] }
  | r => r

/-! ### An empty schedule -/

/-- A step that a unit may take of itself. -/
abbrev Move := State → Res

/-- Moves for each of n entries of a list. -/
def each (n : Nat) (f : Nat → Move) : List Move := (List.range n).map f

/-- The steps of the control cores and of what stands before them. -/
def State.coreMoves (s : State) : List Move :=
  (List.finRange 32).flatMap fun k =>
    let c := s.core k
    (if c.ready then [fun s => s.runCore k] else []) ++ (if c.wfeSince.isSome then [execWfeTimeout k] else []) ++
      (if c.storeQ.isEmpty then [] else [execLineOwnerAccess k 0, execRegisterWrite k 0, execPostTrigger k 0]) ++
      (if c.kevqPending then [execKevqEmpty k] else []) ++
      (List.finRange 16).flatMap fun i =>
        if (c.slots[i]).isSome then [execCallResend (.core k) i, execCallLostTimeout (.core k) i] else []

/-- The step of a remote context: of a built-in, or its thread's next instruction. -/
def contextMove (t : RemoteId) (x : RemoteCtx) : Move :=
  match x.call.entry with
  | 0 => execBuiltinReduce t
  | 1 => execBuiltinAdamw t
  | 2 => execBuiltinFill t
  | 3 => execBuiltinCopy t
  | _ => fun s => s.runRemote t

/-- The steps of the executing units. -/
def State.unitMoves (s : State) : List Move :=
  s.units.flatMap fun u =>
    (if u.2.waiting.isEmpty then [] else [execRemoteContextStart u.1]) ++
      (List.finRange 8).filterMap fun i => (u.2.ctx[i]).map fun x => contextMove ⟨u.1, i⟩ x

/-- The step of request n at its owner. -/
def fibreMove (op : FibreOp) (n : Nat) : Move :=
  match op with
  | .format _ => execFibreFormat n
  | .new _ _ _ => execFibreNew n
  | .free => execFibreFree n
  | .merge _ => execFibreMerge n
  | .delete _ => execFibreDelete n
  | .scan _ _ _ => execFibreScanStep n
  | .probe _ => execFibreProbe n
  | .info _ => execFibreInfo n

/-- The steps of requests, replies and records on their way. -/
def State.trafficMoves (s : State) : List Move :=
  each s.records.length execEventRecordArrival ++ each s.calls.length execRemoteCallArrival ++
    each s.calls.length execCallRefusalResend ++ each s.callBack.length execCallReplyArrival ++
    (s.fibreReqs.zipIdx.flatMap fun q => [fibreMove q.1.op q.2, execFibreRefusedResend q.2]) ++
    each s.replies.length execFibreReply ++ each s.replies.length execFibrePostedReply ++
    each s.replies.length execFprobeReply ++ each s.holds.length execHoldLapse ++
    each s.parked.length execPageWalk ++ each s.flights.length fun i => execTokenReceive i true

/-- The steps of one cell. -/
def cellMoves (c : CellId) (x : Cell) : List Move :=
  (match x.inst with
    | none => []
    | some i => each i.slots.length (fun n s => s.runSlot c n) ++ [execBlockCommit c, execBlockQuiescence c]) ++
    ((List.finRange 8).flatMap fun p => [execMarkerDrain c p, execMatrixOperandTake c p]) ++
    [execSendResume c, execMemoryCellReply c, execTransferLine c, execAddressGeneratorToken c 0,
      execAddressGeneratorToken c 1, execMatrixCommandStart c, execAcczCommand c, execTileRelease c,
      execCallReplyToken c, execCellContextSave c, execFaultReplay c, execFaultTeardown c, execFaultWatchdog c] ++
    (List.finRange 16).flatMap fun i => [execCallResend (.cell c) i, execCallLostTimeout (.cell c) i]

/-- The steps of memory cells' queues. -/
def State.queueMoves (s : State) : List Move :=
  s.memQueues.flatMap fun q => (List.range q.2.length).flatMap fun n =>
    [execMemoryCellRequest q.1 n, execAtomicAtOwner q.1 n]

/-- The steps of the rows, virtual pipelines and schedulers. -/
def State.bandMoves (s : State) : List Move :=
  (s.rows.flatMap fun r => [execWaveMarkerCompletion r.1, execEngineDrainEnd r.1, execRcfPlacement r.1,
      execStateSave r.1, execPositionLeave r.1, execPositionGoLive r.1, execImagePreload r.1]) ++
    (s.vps.flatMap fun v => each v.2.edges.length (execRingDelivery v.1) ++
      each v.2.ingress.length (execIngressBindingTake v.1) ++ each v.2.egress.length (execEgressBindingWrite v.1) ++
      [execPreInsertion v.1, execVpCompletion v.1, execDeadlockTimeout v.1]) ++
    [0, 1].flatMap fun (d : Fin 2) => [execPriorityAging d, execCandidateChoice d, execAdmission d]

/-- The steps of the Spire's triggers and of the serialising token. -/
def State.spireMoves (s : State) : List Move :=
  ((List.finRange 24).filterMap fun h => (s.hart h).trigger.map fun t => match t with
    | .launch _ => execLaunchTrigger h
    | .commit => execPartitionCommit h
    | .coreStart _ _ => execCoreStart h) ++ [execScTokenVisit s.nextScNode]

/-- The steps of boot that need nothing from outside, once the board supplies power. -/
def State.bootMoves (s : State) : List Move := match s.boot with
  | .powered | .accepted _ _ | .trained => [execModuleBoot ⟨0⟩]
  | .off | .failed | .measured | .firmware => []

/-- Every step that some unit may take of itself. [DESIGN CHOICE, log 4] -/
def State.moves (s : State) : List Move :=
  s.coreMoves ++ s.unitMoves ++ s.trafficMoves ++ (s.cells.flatMap fun c => cellMoves c.1 c.2) ++ s.queueMoves ++
    s.bandMoves ++ s.spireMoves ++ s.bootMoves

/-- The turn of an empty schedule: one cycle, and one of the units' own steps, in rotation; nothing comes from outside.
[DESIGN CHOICE, log 4] -/
def State.ownTurn (s : State) : Res :=
  let s : State := { s.watch with misses := [] }
  let l := s.moves
  match l[s.cycle % l.length]? with
  | some m => ({ s with cycle := s.cycle + 1 } : State).orWait (m { s with cycle := s.cycle + 1 })
  | none => .next { s with cycle := s.cycle + 1 }

/-- One turn: the bands see what has become of their buffers (R216), time passes, and the action of the schedule's head
is done. A module that stays in reset does nothing (R423). [DESIGN CHOICE, log 1] -/
def State.turn (s : State) : Res :=
  if s.boot = .failed then .fault .stayedInReset
  else match s.script with
    | [] => s.ownTurn
    | t :: rest =>
      let s : State := { s.watch with script := rest, cycle := s.cycle + t.dt, misses := [] }
      s.orWait (s.act t.act)

/-! ### Placing an instruction -/

/-- The page tables, word and core that let core 0 fetch a word at virtual address 0x100000: a 1 GiB leaf at the start of
vault SRAM. [DESIGN CHOICE, log 4] -/
def State.placeControl (s : State) (w : Nat) : State :=
  let c := s.core 0
  let t := c.thread
  let c : Core := { c with
    thread := { t with pcc := Cap.make 0x100000 .dense (2 ^ 39) 0x85 t.tenant 0 true, pc := 0 }
    halted := false, fibre := false, wfeSince := none, kevqPending := false, icache := [], kptbase := 0x1000 }
  let m := ((s.mem.writeNat 0x1000 8 0x2001).writeNat 0x2000 8 0xD7).writeNat 0x100000 4 w
  { s.setCore 0 c with
    mem := m, tlb := [], works := s.works.filter fun w => w.1 != 0, script := [⟨0, .core 0⟩], boot := if s.boot = .failed then .off else s.boot }

/-- A token for an operand position of a slot that is to fire. -/
def placedToken (sh : Shape) (q : Pos) : Token :=
  match q, sh.pm with
  | .p, .onTrue => Token.scalar 1
  | .p, .third => if sh.third then Token.lanes .data (fun _ => true) fun _ => 0 else Token.ofList .ord 1 []
  | .p, _ => Token.scalar 0
  | _, _ => Token.lanes .data (fun _ => true) fun _ => 0

/-- The VP whose one position is the cell's row. -/
def placedVp : Vp := { Vp.free with
  stage := .live, d := 1, b := 1, w := 1, images := [⟨.null, 0, 0, false, 1, 0, 0, 1⟩] }

/-- Cell (0, 0, 0) runs a block of one word, whose operands have arrived; a token stands at each port.
[DESIGN CHOICE, log 4] -/
def State.placeCell (s : State) (w : Nat) : State :=
  let c : CellId := ⟨0, 0, 0⟩
  let v : VpId := ⟨0, 0, 1⟩
  let b : Block := ⟨0, 128, BitVec.allOnes 64, [], [BitVec.ofNat 32 w]⟩
  let sl : Slot := match b.instr 0 with
    | none => .empty
    | some i => match instrShape i with
      | none => .empty
      | some sh =>
        let o (q : Pos) : Option Operand := some ⟨placedToken sh q, [], []⟩
        { l := if sh.l then o .l else none, r := if sh.r then o .r else none
          p := if sh.p then o .p else none, firing := .waiting }
  let i : Instance := { freshInstance b 1 with slots := [sl] }
  let prog : Program := { Program.empty with blocks := [b] }
  let x : Cell := { Cell.reset with
    program := prog, inst := some i, next := some 0, instNum := 1
    ports := Vector.replicate 8 [Token.scalar 0] }
  let s := (s.setCell c x).setVp v placedVp
  let s := s.setRow ⟨0, 0⟩ { Row.reset with host := some v, pos := some 0, phase := .live }
  { s with
    parked := [], misses := [], script := [⟨0, .slot c 0⟩]
    memQueues := alSet s.memQueues c.server []
    boot := if s.boot = .failed then .off else s.boot }

/-- The instruction whose bits are w stored where the next step fetches it: a control word before core 0, a cell word in
slot 0 of cell (0, 0, 0) (R18). -/
def State.placeWord (s : State) (w : Nat) : State :=
  let w := w % 2 ^ 32
  if w / 2 ^ 24 < 0x80 then s.placeCell w else s.placeControl w

end Sys2Proof.Machine
end

