-- ==== Sys2Proof/Machine/Step.lean ====
section
/-!
DEFINITION. One step of the machine: one turn of its schedule.
-/

namespace Sys2Proof.Machine
open Sys2Proof

/-- One step. -/
def step (s : State) : Host.Outcome State Fault Refusal := s.turn

/-- The instruction of nbits bits that are w, placed where the next step runs it. Every instruction of the device is one
32-bit word (R17). [DESIGN CHOICE, log 4] -/
def State.withFetchWord (s : State) (_nbits w : Nat) : State := s.placeWord w

end Sys2Proof.Machine
end

