-- ==== Sys2Proof/Safety.lean ====
section
/-!
DEFINITION. What counts as a well-formed state and as a safe run, and the shapes in which statements say what an
instruction answers.
-/

namespace Sys2Proof.Machine
open Sys2Proof

/-! ### Invariants -/

/-- Both memories are in their canonical form. -/
def State.memWf (s : State) : Bool := s.mem.wf && s.scratch.wf

/-- No event queue holds more than 1,024 records, and the 1,024th is the ERROR_COUNT record of the dropped ones
(R247). -/
def Core.eventsBounded (c : Core) : Bool :=
  match c.overAt with
  | none => decide (c.events.length ≤ 1023)
  | some n => decide (n < c.events.length) && decide (c.events.length ≤ 1024)
def State.queuesBounded (s : State) : Bool := s.cores.toList.all fun c => c.eventsBounded

/-! ### Runs -/

/-- A step that goes on. -/
def Goes (s : State) : Prop := ∃ t, step s = .next t

/-- n steps that go on, from a state to another. -/
def Runs : Nat → State → State → Prop
  | 0, s, t => s = t
  | n + 1, s, t => ∃ u, step s = .next u ∧ Runs n u t

/-- A state from which no run stops. -/
def Safe (s : State) : Prop := ∀ n t, Runs n s t → Goes t

/-! ### What a thread's instruction answers -/

/-- x[d] := v, and the next instruction in order follows. -/
def Writes (s : State) (d : XReg) (v : Word) : Res :=
  .next ((s.setX s.focus.thread d v).retire s.focus.thread)

/-- x[d] and x[d+1] := v and w, and the next instruction in order follows. -/
def WritesPair (s : State) (d : XReg) (v w : Word) : Res :=
  .next (((s.setX s.focus.thread d v).setX s.focus.thread (d + 1) w).retire s.focus.thread)

/-- Nothing but the thread that runs differs: its registers, pc and mode, and a control core's count of retired
instructions. -/
def OnlyThread (k : CoreId) (s t : State) : Prop :=
  t = s.setCore k { s.core k with thread := (t.core k).thread, kinstr := (t.core k).kinstr }

/-- Every byte of memory and of the scratchpads reads as before. -/
def SameBytes (s t : State) : Prop :=
  (∀ a, t.mem.byte a = s.mem.byte a) ∧ ∀ a, t.scratch.byte a = s.scratch.byte a

/-- Every register x[r] of a control core but those listed reads as before, and every register c[r]. -/
def SameRegs (k : CoreId) (but : List XReg) (s t : State) : Prop :=
  (∀ r, r ∉ but → (t.core k).thread.get r = (s.core k).thread.get r) ∧ (t.core k).thread.c = (s.core k).thread.c

/-- A control core takes a trap (R368): KEPC, KCAUSE, KTVAL and the previous mode are saved, the mode becomes
privileged, and the pc is KTVEC; nothing else changes. -/
def Traps (k : CoreId) (cause : Nat) (tval : Word) (s t : State) : Prop :=
  t = s.setCore k { s.core k with
    kepc := (s.core k).thread.pc
    kcause := BitVec.ofNat 8 cause
    ktval := tval
    prevPriv := (s.core k).thread.priv
    thread := { (s.core k).thread with priv := true, pc := (s.core k).ktvec } }

/-- An instruction answers a trap. -/
def TrapsOn (i : Instr) (k : CoreId) (cause : Nat) (tval : Word) (s : State) : Prop :=
  ∃ t, exec i s = .next t ∧ Traps k cause tval s t

/-- An instruction raises ILLEGAL with KTVAL the word. -/
def Illegal (i : Instr) (k : CoreId) (s : State) : Prop :=
  ∀ w, encode i = some w → TrapsOn i k 1 (BitVec.ofNat 64 w) s

/-- A read of n bytes through a capability whose checks pass and whose data are whole: the bytes, and the state after the
access (R60, R61). -/
def Reads (s : State) (cap : Cap) (off : Word) (n : Nat) (u : State) (bs : List Byte) : Prop :=
  ∃ v l, s.access s.focus.thread cap off n false = (v, .ok l) ∧ v.threadRead s.focus.thread l n = (u, some bs)

/-- An atomic's checks pass (R357) and it reads the location l of this device: its bytes, and the state after the thread's
own earlier stores there (R65). -/
def ReadsForAtomic (s : State) (cap : Cap) (off : Word) (n : Nat) (l : Loc) (u : State) (bs : List Byte) : Prop :=
  cap.tag = true ∧ cap.otype = 0 ∧ cap.tenant = (s.thread s.focus.thread).tenant ∧
    (cap.space = .dense ∨ cap.space = .scratch) ∧ cap.pR = true ∧ cap.pA = true ∧
    ∃ v, s.access s.focus.thread cap off n true = (v, .ok l) ∧
      (v.settle s.focus.thread l.space l.addr n).locRead ⟨(s.thread s.focus.thread).tenant, .thread s.focus.thread⟩ l n =
        (u, some bs) ∧
      (l.space = .scratch ∨ u.isLocal l.addr = true)

/-! ### What a cell's instruction answers -/

/-- An instruction is to fire: it stands in the slot of the focus, its operands have arrived, its unit accepts it, no
ready slot of its class stands below it (R147, R249), and the kinds of its operands decide v (R138 to R144). x is what
it fires with. -/
def FiresAs (v : Verdict) (i : Instr) (s : State) (x : Ctx) : Prop :=
  ∃ sl, instrShape i = some x.sh ∧ (s.cell s.focus.cell).running = some (x.blk, x.inst) ∧
    s.place s.focus.cell = some x.pl ∧ x.inst.slots[s.focus.slot]? = some sl ∧
    s.slotReady s.focus.cell x.blk x.inst s.focus.slot i x.sh = true ∧
    s.lowerReady s.focus.cell x.blk x.inst s.focus.slot x.sh.cls = false ∧
    x.sh.judge (isTestk i) sl.l sl.r sl.p = v ∧
    x = Ctx.of s.focus.cell x.pl x.blk x.inst s.focus.slot x.sh sl

/-- An instruction is to fire and compute. -/
def Fires (i : Instr) (s : State) (x : Ctx) : Prop := FiresAs .compute i s x

/-- The results reach their targets, and the instance is then i (R148, R149). -/
def Ctx.sends (x : Ctx) (t0 t1 : Token) (i : Instance) : Prop :=
  emit x.blk x.slot x.sh (some t0) (some t1) x.ports x.ords (x.inst.mark x.slot .done) = .ok i

/-- An instruction that fires sends t0 and t1 to its targets; of the whole machine only its cell's instance
differs. -/
def Results (i : Instr) (t0 t1 : Ctx → Token) : Prop :=
  ∀ s x j, Fires i s x → x.sends (t0 x) (t1 x) j → Sys2Proof.Machine.exec i s = .next (s.setInst x.c j)

/-- An instruction whose slot is done has left j as its cell's instance; of the rest of the machine, which t holds,
nothing else differs. -/
def Leaves (i : Instr) (s : State) (x : Ctx) (t : State) (j : Instance) : Prop :=
  Sys2Proof.Machine.exec i s = .next (t.setInst x.c j)

/-- An effect held to the commit, in the order of key (R149, R157). -/
def Ctx.holding (x : Ctx) (key : Nat) (h : Held) : Instance :=
  { x.inst with held := x.inst.held ++ [(key, h)] }

/-- One more output of the block (R154). -/
def Instance.output (i : Instance) : Instance := { i with outputs := i.outputs + 1 }

/-- The same token to both targets. -/
def Result (i : Instr) (t : Ctx → Token) : Prop := Results i t t

/-! ### What devices do -/

/-- The step of a fibre unit for each operation (R88). -/
def fibreStepOf (j : Nat) : FibreOp → Instr
  | .format _ => .fibreFormat j
  | .new _ _ _ => .fibreNew j
  | .free => .fibreFree j
  | .merge _ => .fibreMerge j
  | .delete _ => .fibreDelete j
  | .scan _ _ _ => .fibreScanStep j
  | .probe _ => .fibreProbe j
  | .info _ => .fibreInfo j

end Sys2Proof.Machine
end

