-- ==== Sys2Proof/Certificates/Slice0/Obligations.lean ====
section
/-!
DEFINITION. The statements about the model, each from the numbered rules of the specification or derived from them.
-/

open Sys2Proof Sys2Proof.Machine

/-! ### Control threads: arithmetic, branches and jumps -/

/-- R53: the register forms of the arithmetic group on any thread (R340), with the operands read before the result is
written; x[d] of x0 discards the result (R48). R54: division and remainder, for a divisor of 0 and for every other
one. R55, R56: the immediate forms, LUI, CLZ and POPC. -/
def Obligations.Arithmetic : Prop :=
  (∀ (s : State) (d a b : XReg),
     let x := s.getX s.focus.thread a
     let y := s.getX s.focus.thread b
     exec (.add d a b) s = Writes s d (x + y) ∧
     exec (.sub d a b) s = Writes s d (x - y) ∧
     exec (.mul d a b) s = Writes s d (x * y) ∧
     exec (.mulh d a b) s = Writes s d (BitVec.ofInt 64 (x.toInt * y.toInt / 2 ^ 64)) ∧
     exec (.mulhu d a b) s = Writes s d (BitVec.ofNat 64 (x.toNat * y.toNat / 2 ^ 64)) ∧
     exec (.and d a b) s = Writes s d (x &&& y) ∧
     exec (.or d a b) s = Writes s d (x ||| y) ∧
     exec (.xor d a b) s = Writes s d (x ^^^ y) ∧
     exec (.shl d a b) s = Writes s d (x <<< (y.toNat % 64)) ∧
     exec (.shr d a b) s = Writes s d (x >>> (y.toNat % 64)) ∧
     exec (.sar d a b) s = Writes s d (x.sshiftRight (y.toNat % 64)) ∧
     exec (.slt d a b) s = Writes s d (if x.toInt < y.toInt then 1 else 0) ∧
     exec (.sltu d a b) s = Writes s d (if x.toNat < y.toNat then 1 else 0) ∧
     exec (.min d a b) s = Writes s d (if y.toInt < x.toInt then y else x) ∧
     exec (.max d a b) s = Writes s d (if x.toInt < y.toInt then y else x) ∧
     exec (.minu d a b) s = Writes s d (if y.toNat < x.toNat then y else x) ∧
     exec (.maxu d a b) s = Writes s d (if x.toNat < y.toNat then y else x)) ∧
  (∀ (s : State) (d a b : XReg),
     let x := s.getX s.focus.thread a
     let y := s.getX s.focus.thread b
     (y = 0 →
       exec (.div d a b) s = Writes s d (BitVec.allOnes 64) ∧
       exec (.divu d a b) s = Writes s d (BitVec.allOnes 64) ∧
       exec (.rem d a b) s = Writes s d x ∧
       exec (.remu d a b) s = Writes s d x) ∧
     (y ≠ 0 →
       exec (.div d a b) s = Writes s d (BitVec.ofInt 64 (x.toInt.tdiv y.toInt)) ∧
       exec (.divu d a b) s = Writes s d (BitVec.ofNat 64 (x.toNat / y.toNat)) ∧
       exec (.rem d a b) s = Writes s d (BitVec.ofInt 64 (x.toInt.tmod y.toInt)) ∧
       exec (.remu d a b) s = Writes s d (BitVec.ofNat 64 (x.toNat % y.toNat)))) ∧
  (∀ (s : State) (d a : XReg) (i : BitVec 12) (n : BitVec 6) (u : BitVec 18),
     let x := s.getX s.focus.thread a
     let y := i.signExtend 64
     exec (.addi d a i) s = Writes s d (x + y) ∧
     exec (.andi d a i) s = Writes s d (x &&& y) ∧
     exec (.ori d a i) s = Writes s d (x ||| y) ∧
     exec (.xori d a i) s = Writes s d (x ^^^ y) ∧
     exec (.shli d a n) s = Writes s d (x <<< n.toNat) ∧
     exec (.shri d a n) s = Writes s d (x >>> n.toNat) ∧
     exec (.sari d a n) s = Writes s d (x.sshiftRight n.toNat) ∧
     exec (.slti d a i) s = Writes s d (if x.toInt < y.toInt then 1 else 0) ∧
     exec (.sltiu d a i) s = Writes s d (if x.toNat < y.toNat then 1 else 0) ∧
     exec (.lui d u) s = Writes s d ((u ++ (0 : BitVec 14)).signExtend 64) ∧
     exec (.clz d a) s = Writes s d (BitVec.ofNat 64 (leadingZeros x.toNat 64)) ∧
     exec (.popc d a) s = Writes s d (BitVec.ofNat 64 (oneBits x.toNat 64)))

/-- R57, R58, R59: conditional branches, JAL, and JALR to an aligned target. R59: JALR to an unaligned target writes
no register and raises MISALIGN with the target. -/
def Obligations.BranchesAndJumps : Prop :=
  (∀ (s : State) (d a b : XReg) (i : BitVec 12) (u : BitVec 18),
     let t := s.focus.thread
     let pc := (s.thread t).pc
     let x := s.getX t a
     let y := s.getX t b
     let go (taken : Bool) : Res := .next (s.retireTo t (if taken then pc + (i.signExtend 64) <<< 2 else pc + 4))
     exec (.beq a b i) s = go (x == y) ∧
     exec (.bne a b i) s = go (x != y) ∧
     exec (.blt a b i) s = go (decide (x.toInt < y.toInt)) ∧
     exec (.bge a b i) s = go (decide (y.toInt ≤ x.toInt)) ∧
     exec (.bltu a b i) s = go (decide (x.toNat < y.toNat)) ∧
     exec (.bgeu a b i) s = go (decide (y.toNat ≤ x.toNat)) ∧
     exec (.jal d u) s = .next ((s.setX t d (pc + 4)).retireTo t (pc + (u.signExtend 64) <<< 2)) ∧
     ((x + (i.signExtend 64) <<< 2).toNat % 4 = 0 →
       exec (.jalr d a i) s = .next ((s.setX t d (pc + 4)).retireTo t (x + (i.signExtend 64) <<< 2)))) ∧
  (∀ (s : State) (k : CoreId) (d a : XReg) (i : BitVec 12),
     s.focus.thread = .core k →
     let target := s.getX (.core k) a + (i.signExtend 64) <<< 2
     target.toNat % 4 ≠ 0 →
     ∃ t, exec (.jalr d a i) s = .next t ∧
       (∀ r, (t.core k).thread.get r = (s.core k).thread.get r) ∧
       (t.core k).kcause = 7 ∧ (t.core k).ktval = target ∧ (t.core k).kepc = (s.core k).thread.pc ∧
       (t.core k).thread.pc = (s.core k).ktvec)

/-- The frame of the arithmetic group, LUI and JAL on a control core: x[d] and the pc, and nothing else of the
machine; x0 stays zero. -/
def Obligations.ArithmeticFrame : Prop :=
  ∀ (s t : State) (k : CoreId) (d a b : XReg) (i : BitVec 12) (n : BitVec 6) (u : BitVec 18) (ins : Instr),
    s.focus.thread = .core k →
    ins ∈ [.add d a b, .sub d a b, .mul d a b, .mulh d a b, .mulhu d a b, .div d a b, .divu d a b, .rem d a b,
      .remu d a b, .and d a b, .or d a b, .xor d a b, .shl d a b, .shr d a b, .sar d a b, .slt d a b, .sltu d a b,
      .min d a b, .max d a b, .minu d a b, .maxu d a b, .clz d a, .popc d a, .addi d a i, .andi d a i, .ori d a i,
      .xori d a i, .shli d a n, .shri d a n, .sari d a n, .slti d a i, .sltiu d a i, .lui d u, .jal d u] →
    exec ins s = .next t →
    OnlyThread k s t ∧ SameBytes s t ∧ SameRegs k [d] s t ∧ (t.core k).thread.get 0 = 0 ∧
      (t.core k).thread.priv = (s.core k).thread.priv ∧ (t.core k).thread.tenant = (s.core k).thread.tenant ∧
      (t.core k).thread.pcc = (s.core k).thread.pcc ∧ (t.core k).kinstr = (s.core k).kinstr + 1

/-- R48: a write of x0 is discarded by every instruction of the arithmetic group and by LUI; only the pc and the count of retired
instructions move. -/
def Obligations.ZeroRegisterDiscards : Prop :=
  ∀ (s : State) (k : CoreId) (a b : XReg) (i : BitVec 12) (n : BitVec 6) (u : BitVec 18) (ins : Instr),
    s.focus.thread = .core k →
    ins ∈ [.add 0 a b, .sub 0 a b, .mul 0 a b, .mulh 0 a b, .mulhu 0 a b, .div 0 a b, .divu 0 a b, .rem 0 a b,
      .remu 0 a b, .and 0 a b, .or 0 a b, .xor 0 a b, .shl 0 a b, .shr 0 a b, .sar 0 a b, .slt 0 a b, .sltu 0 a b,
      .min 0 a b, .max 0 a b, .minu 0 a b, .maxu 0 a b, .clz 0 a, .popc 0 a, .addi 0 a i, .andi 0 a i, .ori 0 a i,
      .xori 0 a i, .shli 0 a n, .shri 0 a n, .sari 0 a n, .slti 0 a i, .sltiu 0 a i, .lui 0 u] →
    exec ins s = .next (s.setCore k { s.core k with
      thread := { (s.core k).thread with pc := (s.core k).thread.pc + 4 }
      kinstr := (s.core k).kinstr + 1 })

/-! ### Control threads: memory -/

/-- R60 to R62, R66: a load whose checks pass and whose bytes have no uncorrectable error. R60, R61, R378: LDD by a
control core through a cached translation to this device, with an empty store queue: x[d] holds the eight bytes in
little-endian order, and nothing else but the pc changes. -/
def Obligations.Loads : Prop :=
  (∀ (s u : State) (d : XReg) (c : CReg) (a : XReg) (i : BitVec 8) (bs : List Byte),
     let t := s.focus.thread
     let off (n : Nat) : Word := s.getX t a + i.signExtend 64 * BitVec.ofNat 64 n
     let got (v : Word) : Res := .next ((u.setX t d v).retire t)
     (Reads s (s.getC t c) (off 1) 1 u bs →
       exec (.ldb d c a i) s = got ((BitVec.ofNat 8 (leNat bs)).signExtend 64) ∧
       exec (.ldbu d c a i) s = got (BitVec.ofNat 64 (leNat bs))) ∧
     (Reads s (s.getC t c) (off 2) 2 u bs →
       exec (.ldh d c a i) s = got ((BitVec.ofNat 16 (leNat bs)).signExtend 64) ∧
       exec (.ldhu d c a i) s = got (BitVec.ofNat 64 (leNat bs))) ∧
     (Reads s (s.getC t c) (off 4) 4 u bs →
       exec (.ldw d c a i) s = got ((BitVec.ofNat 32 (leNat bs)).signExtend 64) ∧
       exec (.ldwu d c a i) s = got (BitVec.ofNat 64 (leNat bs))) ∧
     (Reads s (s.getC t c) (off 8) 8 u bs →
       exec (.ldd d c a i) s = got (BitVec.ofNat 64 (leNat bs)) ∧
       exec (.lda d c a i) s = got (BitVec.ofNat 64 (leNat bs)))) ∧
  (∀ (s : State) (k : CoreId) (d : XReg) (c : CReg) (a : XReg) (i : BitVec 8) (e : TlbEntry),
     let th := (s.core k).thread
     let cap := th.cap c
     let off : Word := th.get a + i.signExtend 64 * 8
     let va := cap.base + off.toNat
     let pa := e.frame + va % e.size
     s.focus.thread = .core k → cap.tag = true → cap.otype = 0 → cap.tenant = th.tenant → cap.space = .dense →
     cap.pR = true → off.toNat + 8 ≤ cap.length → va % 8 = 0 → va < 2 ^ 48 →
     s.cached (.die (coreDie k)) th.tenant va = some e → e.fill = none → (s.core k).storeQ = [] →
     s.isLocal pa = true → s.mem.bad (localAddr pa) 8 = false →
     ∃ t, exec (.ldd d c a i) s = .next t ∧ OnlyThread k s t ∧ SameBytes s t ∧ SameRegs k [d] s t ∧
       (t.core k).thread.priv = th.priv ∧ (t.core k).thread.tenant = th.tenant ∧ (t.core k).thread.pcc = th.pcc ∧
       (t.core k).kinstr = (s.core k).kinstr + 1 ∧
       (d ≠ 0 → (t.core k).thread.get d = BitVec.ofNat 64 (s.mem.readNat (localAddr pa) 8)) ∧
       (t.core k).thread.pc = th.pc + 4)

/-- R60, R65, R370: a store whose checks pass retires into the thread's store queue (a remote function's is performed
at once, the model's reading: log 15). R390, R392: a store of 4 or 8 bytes to the register windows does so too; before
one to a post trigger the thread's stores to its window are performed, since R392 judges it by the value staged last,
and one that R390 or R392 refuses raises PERM with the offset. R372: an action on a fault word is a release: it waits
for the thread's calls and performs its earlier stores first. The depth of the queue is the model's choice (log 18).
R66: STL completes once the thread's calls have been accepted: everything earlier is performed before the store
retires. R65, R370: a store of a control core with room in its queue changes no byte of memory and no register but the
pc; the store stands last in its queue. R64: in SCRATCH an 8-byte store is two elements. (The access leaves the state
as it is: its translation is cached and its page already dirty.) -/
def Obligations.Stores : Prop :=
  (∀ (s u : State) (d : XReg) (c : CReg) (a : XReg) (i : BitVec 8) (l : Loc),
     let t := s.focus.thread
     let cap := s.getC t c
     let off (n : Nat) : Word := s.getX t a + i.signExtend 64 * BitVec.ofNat 64 n
     let put (n : Nat) (v : State) : Res :=
       .next ((v.enqueueStore t
         ⟨l.space, l.addr, leBytes n (s.getX t d).toNat, false, false, (u.thread t).tenant⟩).retire t)
     (l.space ≠ .sys →
       (s.access t cap (off 1) 1 true = (u, .ok l) → exec (.stb d c a i) s = put 1 u) ∧
       (s.access t cap (off 2) 2 true = (u, .ok l) → exec (.sth d c a i) s = put 2 u) ∧
       (s.access t cap (off 4) 4 true = (u, .ok l) → exec (.stw d c a i) s = put 4 u) ∧
       (s.access t cap (off 8) 8 true = (u, .ok l) → exec (.std d c a i) s = put 8 u)) ∧
     (∀ k, l.space = .sys → t = .core k →
       (s.access t cap (off 4) 4 true = (u, .ok l) →
         ((sysReg l.addr).isTrigger = false → u.sysStoreDenied k.val l.addr 4 = false →
           exec (.stw d c a i) s = put 4 u) ∧
         (∀ c', sysReg l.addr = .faultWord c' → exec (.stw d c a i) s = .next (u.trap t ⟨.perm, off 4⟩))) ∧
       (s.access t cap (off 8) 8 true = (u, .ok l) →
         ((sysReg l.addr).isTrigger = false → (∀ c', sysReg l.addr ≠ .faultWord c') →
           exec (.std d c a i) s = put 8 u) ∧
         (∀ j, sysReg l.addr = .trigger j →
           let w := u.drainSys k l.addr
           (w.sysStoreDenied k.val l.addr 8 = false → exec (.std d c a i) s = put 8 w) ∧
           (w.sysStoreDenied k.val l.addr 8 = true → exec (.std d c a i) s = .next (w.trap t ⟨.perm, off 8⟩))) ∧
         (∀ c', sysReg l.addr = .faultWord c' →
           ((s.getX t d).toNat % 4 = 0 → exec (.std d c a i) s = put 8 u) ∧
           ((s.getX t d).toNat % 4 ≠ 0 → u.focus.thread = t →
             (u.callsAccepted t = true → exec (.std d c a i) s = put 8 (u.drain k)) ∧
             (u.callsAccepted t = false → exec (.std d c a i) s = .next u)))))) ∧
  (∀ (s u v : State) (d : XReg) (c : CReg) (a : XReg) (i : BitVec 8) (l l' : Loc),
     let t := s.focus.thread
     let w := s.drainThread t
     let cap := s.getC t c
     let off : Word := s.getX t a + i.signExtend 64 * 8
     s.access t cap off 8 true = (v, .ok l') → s.callsAccepted t = true → w.focus.thread = t →
     w.getC t c = cap → w.getX t a = s.getX t a → w.access t cap off 8 true = (u, .ok l) → l.space ≠ .sys →
     exec (.stl d c a i) s =
       .next ((u.enqueueStore t
         ⟨l.space, l.addr, leBytes 8 (w.getX t d).toNat, false, false, (u.thread t).tenant⟩).retire t)) ∧
  (∀ (s : State) (k : CoreId) (d : XReg) (c : CReg) (a : XReg) (i : BitVec 8) (l : Loc),
     let off : Word := s.getX (.core k) a + i.signExtend 64 * 8
     s.focus.thread = .core k → s.access (.core k) (s.getC (.core k) c) off 8 true = (s, .ok l) → l.space ≠ .sys →
     (s.core k).storeQ.length < 15 →
     let bs := leBytes 8 (s.getX (.core k) d).toNat
     let n := (s.core k).thread.tenant
     ∃ t, exec (.std d c a i) s = .next t ∧ SameBytes s t ∧ SameRegs k [] s t ∧
       (t.core k).storeQ = (s.core k).storeQ ++
         (if l.space = .scratch then
           [⟨.scratch, l.addr, bs.take 4, false, true, n⟩, ⟨.scratch, l.addr + 4, bs.drop 4, false, true, n⟩]
         else [⟨l.space, l.addr, bs, false, false, n⟩]) ∧
       ∀ j, j ≠ k → t.core j = s.core j)

/-- R65: a store performed at its owner: the stored bytes read as stored, every other byte of memory and of the
scratchpads reads as before, and the tags of the granules touched are 0 (R315). The step is the owner's (the
line-owner access). R65: a control core's load sees its own queued store, performed before the bytes are read. -/
def Obligations.StorePerformed : Prop :=
  (∀ (s : State) (k : CoreId) (q : QueuedStore) (rest : List QueuedStore),
     (s.core k).storeQ = q :: rest → q.space = .dense → q.tag = false → q.bytes ≠ [] → s.isLocal q.addr = true →
     s.mem.wf = true →
     ∃ t, exec (.lineOwnerAccess k 0) s = .next t ∧
       (t.core k).storeQ = rest ∧
       (∀ n, n < q.bytes.length → t.mem.byte (localAddr q.addr + n) = q.bytes.getD n 0) ∧
       (∀ a, a < localAddr q.addr ∨ localAddr q.addr + q.bytes.length ≤ a → t.mem.byte a = s.mem.byte a) ∧
       (∀ a, t.scratch.byte a = s.scratch.byte a) ∧
       (∀ a, localAddr q.addr ≤ a → a < localAddr q.addr + q.bytes.length → t.mem.tagAt a = false)) ∧
  (∀ (s : State) (k : CoreId) (l : Loc) (v : Word) (n : BitVec 8),
     l.space = .dense → l.fill = none → s.isLocal l.addr = true → s.mem.wf = true → s.mem.poison = [] →
     (s.core k).storeQ = [⟨.dense, l.addr, leBytes 8 v.toNat, false, false, n⟩] →
     ∃ t, s.threadRead (.core k) l 8 = (t, some (leBytes 8 v.toNat)) ∧ (t.core k).storeQ = [])

/-- R330, R357: the eight read-modify-writes on memory of this device or a scratchpad, without `.ar`: x[d] holds the
old value and the location the new one. `w` is the 8-byte form. -/
def Obligations.Atomics : Prop :=
  ∀ (s u : State) (d : XReg) (c : CReg) (a b : XReg) (w : Bool) (l : Loc) (bs : List Byte),
    let t := s.focus.thread
    let size := if w then 8 else 4
    let n := 8 * size
    let old := leNat bs
    let opd := (s.getX t b).toNat % 2 ^ n
    let cmp := (s.getX t d).toNat % 2 ^ n
    let put (v : Nat) : Res :=
      .next (((u.locWrite ⟨(s.thread t).tenant, .thread t⟩ l (leBytes size v)).setX t d
        (if w then BitVec.ofNat 64 old else (BitVec.ofNat 32 old).signExtend 64)).retire t)
    ReadsForAtomic s (s.getC t c) (s.getX t a) size l u bs →
    exec (.amoadd d c a b w false) s = put ((old + opd) % 2 ^ n) ∧
    exec (.amoswp d c a b w false) s = put opd ∧
    exec (.amomin d c a b w false) s = put (if signed opd n < signed old n then opd else old) ∧
    exec (.amomax d c a b w false) s = put (if signed old n < signed opd n then opd else old) ∧
    exec (.amoand d c a b w false) s = put (old &&& opd) ∧
    exec (.amoor d c a b w false) s = put (old ||| opd) ∧
    exec (.amoxor d c a b w false) s = put (old ^^^ opd) ∧
    (old = cmp → exec (.amocas d c a b w false) s = put opd) ∧
    (old ≠ cmp → exec (.amocas d c a b w false) s = .next ((u.setX t d
      (if w then BitVec.ofNat 64 old else (BitVec.ofNat 32 old).signExtend 64)).retire t))

/-- R60: the checks of an access (the later ones of a dense one) in their order: the first that fails gives the cause
and KTVAL. R60, R368: where the access of LDD, LDA, STD, STL, CLD or CST fails, the instruction takes that trap and
nothing else. R49, R61: where the data of LDD, LDA or CLD have an uncorrectable error, ECC with the virtual address is
taken from the state in which this access has marked no page-table entry (`withMisses` notes its walk, log 110). -/
def Obligations.AccessChecks : Prop :=
  (∀ (cap : Cap) (priv : Bool) (tenant : BitVec 8) (off : Word) (n : Nat) (write : Bool),
     let perm (b : Bool) : Prop := b = true
     (cap.tag = false → accessTrap cap priv tenant off n write = some ⟨.tag, off⟩) ∧
     (cap.tag = true → cap.otype ≠ 0 ∨ cap.tenant ≠ tenant →
       accessTrap cap priv tenant off n write = some ⟨.perm, off⟩) ∧
     (cap.tag = true → cap.otype = 0 → cap.tenant = tenant → cap.space = .dense →
       (¬ perm (if write then cap.pW else cap.pR) → accessTrap cap priv tenant off n write = some ⟨.perm, off⟩) ∧
       (perm (if write then cap.pW else cap.pR) →
         (cap.length ≤ off.toNat ∨ cap.length < off.toNat + n →
           accessTrap cap priv tenant off n write = some ⟨.bounds, off⟩) ∧
         (off.toNat < cap.length → off.toNat + n ≤ cap.length →
           ((cap.base + off.toNat) % n ≠ 0 →
             accessTrap cap priv tenant off n write = some ⟨.misalign, BitVec.ofNat 64 (cap.base + off.toNat)⟩) ∧
           ((cap.base + off.toNat) % n = 0 → accessTrap cap priv tenant off n write = none))))) ∧
  (∀ (s u : State) (d : XReg) (cd c : CReg) (a : XReg) (i : BitVec 8) (x : Trap),
     let t := s.focus.thread
     let cap := s.getC t c
     let off (n : Nat) : Word := s.getX t a + i.signExtend 64 * BitVec.ofNat 64 n
     (s.access t cap (off 8) 8 false = (u, .error x) →
       exec (.ldd d c a i) s = .next (u.trap t x) ∧ exec (.lda d c a i) s = .next (u.trap t x)) ∧
     (s.access t cap (off 8) 8 true = (u, .error x) →
       exec (.std d c a i) s = .next (u.trap t x) ∧ exec (.stl d c a i) s = .next (u.trap t x)) ∧
     (s.access t cap (off 16) 16 false = (u, .error x) → exec (.cld cd c a i) s = .next (u.trap t x)) ∧
     (s.access t cap (off 16) 16 true = (u, .error x) → exec (.cst cd c a i) s = .next (u.trap t x)) ∧
     (∀ (l : Loc) (v : State), s.access t cap (off 8) 8 false = (u, .ok l) → u.threadRead t l 8 = (v, none) →
       let w := ((s.withMisses u).threadRead t l 8).1.trap t ⟨.ecc, BitVec.ofNat 64 (cap.base + (off 8).toNat)⟩
       exec (.ldd d c a i) s = .next w ∧ exec (.lda d c a i) s = .next w) ∧
     (∀ (l : Loc) (v : State), s.access t cap (off 16) 16 false = (u, .ok l) →
       cap.space = .dense ∨ cap.space = .scratch → u.threadRead t l 16 = (v, none) →
       exec (.cld cd c a i) s =
         .next (((s.withMisses u).threadRead t l 16).1.trap t ⟨.ecc, BitVec.ofNat 64 (cap.base + (off 16).toNat)⟩)))

/-- R321, R358, R66: FENCE waits for the thread's calls to be accepted; then every queued store has been performed, and it
retires: at pod scope once other modules have acknowledged what the thread has stored there and accepted its calls, which it
waits for. LDSC and STSC (R328, R359) are performed at the thread's turn in the order S, and wait for it; STSC waits for
the thread's calls too. (How acknowledgements and acceptances come, and that a fence of smaller scope takes a call to another
module as ordered once it has left, is the model's reading, log 17.) -/
def Obligations.FenceAndOrderedAccesses : Prop :=
  ∀ (s : State) (sc : Scope) (d : XReg) (c : CReg) (b : XReg),
    let t := s.focus.thread
    let cap := s.getC t c
    let off := s.getX t b
    let f := s.drainThread t
    (s.callsAccepted t = true → sc ≠ .pod ∨ f.podDone f.focus.thread = true →
      exec (.fence sc) s = .next (f.retire f.focus.thread)) ∧
    (s.callsAccepted t = true → f.podDone f.focus.thread = false → exec (.fence .pod) s = .next f) ∧
    (s.callsAccepted t = false → exec (.fence sc) s = .next s) ∧
    (∀ (u v : State) (l : Loc) (bs : List Byte), scAccess cap off false s = (u, .ok l) → s.holdsToken t = true →
      Reads s.countSc cap off 8 v bs →
      exec (.ldsc d c b) s = .next ((v.setX t d (BitVec.ofNat 64 (leNat bs))).retire t)) ∧
    (∀ (u : State) (l : Loc), scAccess cap off false s = (u, .ok l) → s.holdsToken t = false →
      exec (.ldsc d c b) s = .next s) ∧
    (∀ (u : State) (l : Loc), scAccess cap off true s = (u, .ok l) →
      s.holdsToken t = false ∨ s.callsAccepted t = false → exec (.stsc d c b) s = .next s) ∧
    (∀ (u : State) (l : Loc), scAccess cap off true s = (u, .ok l) → s.holdsToken t = true → s.callsAccepted t = true →
      let w := (u.drainThread t).countSc
      exec (.stsc d c b) s = .next ((w.locWrite ⟨(w.thread t).tenant, .thread t⟩ l (leBytes 8 (w.getX t d).toNat)).retire t))

/-- R69 to R73: the capability instructions of a control core where their checks pass; in a remote function CMOV,
CGET, CANDP and CSETB are outside the remote subset and raise ILLEGAL with their word (R340). Where CSETB advances
base to 2^57 itself, the base 0 and length 0 that Cap.make gives are the model's choice (log 90). R70: CLD and CST
move 16 bytes with their tag: a loaded tag needs the capability's C, and a stored tagged capability needs C and,
outside SCRATCH, G. R69, R71: CSETB and CANDP of an untagged capability raise TAG and of a sealed one PERM, with KTVAL
the capability's number; CSETB whose x[b] has a nonzero reserved field or asks for more than the length raises BOUNDS
with KTVAL x[b]. -/
def Obligations.Capabilities : Prop :=
  ((∀ (s : State) (r : RemoteId) (cd ca : CReg) (b d : XReg) (f : CapField) (w : Nat), s.focus.thread = .remote r →
     ∀ i ∈ [Instr.cmov cd ca, .cget d ca f, .candp cd ca b, .csetb cd ca b], encode i = some w →
       exec i s = .next (s.trap (.remote r) ⟨.illegal, BitVec.ofNat 64 w⟩)) ∧
   ∀ (s : State) (k : CoreId) (cd ca : CReg) (b d : XReg) (f : CapField), s.focus.thread = .core k →
     let t := ThreadId.core k
     let cap := s.getC t ca
     let v := s.getX t b
     let n := v.toNat % 2 ^ 40
     let put (c : Cap) : Res := .next ((s.setC t cd c).retire t)
     (exec (.cmov cd ca) s = put cap) ∧
     (exec (.cget d ca f) s = Writes s d (BitVec.ofNat 64 (match f with
       | .base => cap.base
       | .length => cap.length
       | .space => cap.space.code
       | .perms => cap.perms
       | .tenant => cap.tenant.toNat
       | .otype => cap.otype
       | .tag => cap.tag.toNat
       | .limit => cap.base + cap.length))) ∧
     (cap.tag = true → cap.otype = 0 →
       exec (.candp cd ca b) s = put (Cap.make cap.base cap.space cap.length (cap.perms &&& v.toNat % 256) cap.tenant
         0 true) ∧
       (v.toNat / 2 ^ 40 % 2 ^ 23 = 0 → n ≤ cap.length →
         (v.getLsbD 63 = false →
           exec (.csetb cd ca b) s = put (Cap.make cap.base cap.space n cap.perms cap.tenant 0 true)) ∧
         (v.getLsbD 63 = true →
           exec (.csetb cd ca b) s = put (Cap.make (cap.base + n) cap.space (cap.length - n) cap.perms cap.tenant 0
             true))))) ∧
  (∀ (s u v : State) (cd c : CReg) (a : XReg) (i : BitVec 8) (l : Loc) (bs : List Byte),
     let t := s.focus.thread
     let cap := s.getC t c
     let x := s.getC t cd
     let off : Word := s.getX t a + i.signExtend 64 * 16
     cap.space = .dense ∨ cap.space = .scratch →
     (s.access t cap off 16 false = (u, .ok l) → u.threadRead t l 16 = (v, some bs) →
       exec (.cld cd c a i) s =
         .next (((v.locTag l (BitVec.ofNat 128 (leNat bs))).1.setC t cd ⟨BitVec.ofNat 128 (leNat bs),
           (v.locTag l (BitVec.ofNat 128 (leNat bs))).2 && cap.pC⟩).retire t)) ∧
     (s.access t cap off 16 true = (u, .ok l) →
       (x.tag = false ∨ (cap.pC = true ∧ (x.pG = true ∨ cap.space = .scratch)) →
         exec (.cst cd c a i) s =
           .next ((u.enqueueStore t
             ⟨l.space, l.addr, leBytes 16 x.bits.toNat, x.tag, false, (s.thread t).tenant⟩).retire t)) ∧
       (x.tag = true → cap.pC = false ∨ (x.pG = false ∧ cap.space = .dense) →
         exec (.cst cd c a i) s = .next ((s.withMisses u).trap t ⟨.perm, off⟩)))) ∧
  (∀ (s : State) (k : CoreId) (cd ca : CReg) (b : XReg),
     let cap := (s.core k).thread.cap ca
     let v := (s.core k).thread.get b
     s.focus.thread = .core k →
     ∀ i ∈ [Instr.csetb cd ca b, .candp cd ca b],
       (cap.tag = false → TrapsOn i k 4 (BitVec.ofNat 64 ca.val) s) ∧
       (cap.tag = true → cap.otype ≠ 0 → TrapsOn i k 3 (BitVec.ofNat 64 ca.val) s) ∧
       (cap.tag = true → cap.otype = 0 → v.toNat / 2 ^ 40 % 2 ^ 23 ≠ 0 ∨ cap.length < v.toNat % 2 ^ 40 →
         TrapsOn (.csetb cd ca b) k 2 v s))

/-! ### Control threads: traps, modes and system registers -/

/-- R368, R394: TRAP takes cause 18 with its code; ERET returns to KEPC in the previous mode and leaves everything
else. `trap 0x12` is 0xBF00_0480 and `eret` 0xBF00_0001. -/
def Obligations.TrapAndReturn : Prop :=
  ∀ (s : State) (k : CoreId) (code : BitVec 12),
    s.focus.thread = .core k →
    decode 0xBF000480 = .ok (.trap 0x12) ∧ decode 0xBF000001 = .ok .eret ∧
    TrapsOn (.trap code) k 18 (code.setWidth 64) s ∧
    ((s.core k).thread.priv = true →
      exec .eret s = .next (s.setCore k { s.core k with
        thread := { (s.core k).thread with pc := (s.core k).kepc, priv := (s.core k).prevPriv }
        kinstr := (s.core k).kinstr + 1 }))

/-- R393, R367: in unprivileged mode ERET, SYSWR, TLBI, VSIG, CFGLD, CFGCHK, CFGCLR and SBIND raise ILLEGAL with the
word. R388: a number outside the map is ILLEGAL for SYSRD and SYSWR, a read-only register for SYSWR, and in
unprivileged mode every register but KCYCLE, KINSTR, KCID and KDEVNO for SYSRD. -/
def Obligations.Privilege : Prop :=
  (∀ (s : State) (k : CoreId) (d a b : XReg) (ca : CReg) (num : BitVec 12),
     s.focus.thread = .core k → (s.core k).thread.priv = false →
     Illegal .eret k s ∧ Illegal (.syswr d num) k s ∧ Illegal (.tlbi a b) k s ∧ Illegal (.vsig d ca b) k s ∧
       Illegal (.cfgld d ca b) k s ∧ Illegal (.cfgchk d ca b) k s ∧ Illegal (.cfgclr d a) k s ∧
       Illegal (.sbind d a b) k s) ∧
  (∀ (s : State) (k : CoreId) (d : XReg) (num : BitVec 12),
     s.focus.thread = .core k →
     ((0x005 < num.toNat ∧ num.toNat < 0x010) ∨ (0x011 < num.toNat ∧ num.toNat < 0x020) ∨
         (0x022 < num.toNat ∧ num.toNat < 0x030) ∨ (0x031 < num.toNat ∧ num.toNat < 0x040) ∨
         (0x041 < num.toNat ∧ num.toNat < 0x050) ∨ (0x050 < num.toNat ∧ num.toNat < 0x060) ∨
         (0x060 < num.toNat ∧ num.toNat < 0x070) ∨ 0x07F < num.toNat →
       Illegal (.sysrd d num) k s ∧ Illegal (.syswr d num) k s) ∧
     (num ∈ [0x021, 0x022, 0x030, 0x031, 0x040] → Illegal (.syswr d num) k s) ∧
     ((s.core k).thread.priv = false → num ∉ [0x030, 0x031, 0x040, 0x041] → Illegal (.sysrd d num) k s))

/-- R388, R389: what SYSRD reads, in privileged mode, and in unprivileged mode where the register may be read there.
R389, R384: what SYSWR writes, in privileged mode. A write of KEVQ with bit 0 set is recorded, and empties the queue
before the core's next instruction (the model's reading: log 7); with bit 0 clear it does nothing. -/
def Obligations.SystemRegisters : Prop :=
  (∀ (s : State) (k : CoreId) (d : XReg),
     let c := s.core k
     s.focus.thread = .core k →
     (exec (.sysrd d 0x030) s = Writes s d (BitVec.ofNat 64 (2 * s.dieCycle (coreDie k))) ∧
       exec (.sysrd d 0x031) s = Writes s d c.kinstr ∧
       exec (.sysrd d 0x040) s = Writes s d (BitVec.ofNat 64 (k.val % 16 + 16 * (k.val / 16))) ∧
       exec (.sysrd d 0x041) s = Writes s d (s.kdevno.setWidth 64)) ∧
     (c.thread.priv = true →
       exec (.sysrd d 0x000) s = Writes s d (BitVec.ofNat 64 (1 + 2 * c.prevPriv.toNat + 4 * c.event.toNat)) ∧
       exec (.sysrd d 0x001) s = Writes s d (c.kcause.setWidth 64) ∧
       exec (.sysrd d 0x002) s = Writes s d c.kepc ∧
       exec (.sysrd d 0x003) s = Writes s d c.ktval ∧
       exec (.sysrd d 0x004) s = Writes s d c.ktvec ∧
       exec (.sysrd d 0x005) s = Writes s d c.kscratch ∧
       exec (.sysrd d 0x010) s = Writes s d (c.thread.tenant.setWidth 64) ∧
       exec (.sysrd d 0x011) s = Writes s d c.kptbase ∧
       exec (.sysrd d 0x020) s = Writes s d (BitVec.ofNat 64 c.events.length) ∧
       exec (.sysrd d 0x021) s = Writes s d (BitVec.ofNat 64 c.evHead) ∧
       exec (.sysrd d 0x022) s = Writes s d (BitVec.ofNat 64 ((c.evHead + c.events.length) % 1024)) ∧
       exec (.sysrd d 0x050) s = Writes s d (c.krtime.setWidth 64) ∧
       exec (.sysrd d 0x060) s = Writes s d (BitVec.ofNat 64 s.kstrict.toNat) ∧
       ∀ n : Fin 16, exec (.sysrd d (BitVec.ofNat 12 (0x070 + n.val))) s = Writes s d c.kidle[n])) ∧
  (∀ (s : State) (k : CoreId) (d : XReg),
     let c := s.core k
     let v := s.getX (.core k) d
     let put (c : Core) : Res := .next ((s.setCore k c).retire (.core k))
     s.focus.thread = .core k → c.thread.priv = true →
     exec (.syswr d 0x000) s = put { c with
       thread := { c.thread with priv := v.getLsbD 0 }, prevPriv := v.getLsbD 1, event := v.getLsbD 2 } ∧
     exec (.syswr d 0x001) s = put { c with kcause := v.setWidth 8 } ∧
     exec (.syswr d 0x002) s = put { c with kepc := v &&& ~~~3 } ∧
     exec (.syswr d 0x003) s = put { c with ktval := v } ∧
     exec (.syswr d 0x004) s = put { c with ktvec := v &&& ~~~3 } ∧
     exec (.syswr d 0x005) s = put { c with kscratch := v } ∧
     (v.getLsbD 0 = true → exec (.syswr d 0x020) s = put { c with kevqPending := true }) ∧
     (v.getLsbD 0 = false → exec (.syswr d 0x020) s = .next (s.retire (.core k))) ∧
     exec (.syswr d 0x011) s = put { c with kptbase := BitVec.ofNat 64 (v.toNat / 2 ^ 12 % 2 ^ 40 * 2 ^ 12) } ∧
     exec (.syswr d 0x041) s = .next (State.retire { s with kdevno := v.setWidth 12 } (.core k)) ∧
     exec (.syswr d 0x050) s = put { c with krtime := if v.setWidth 16 = (0 : BitVec 16) then 1 else v.setWidth 16 } ∧
     (∀ n : Fin 16, exec (.syswr d (BitVec.ofNat 12 (0x070 + n.val))) s = put { c with kidle := c.kidle.set n v }) ∧
     ((∀ p, s.partitionOfCore k = some p → p.tenant = v.setWidth 8) →
       exec (.syswr d 0x010) s = put { c with thread := { c.thread with tenant := v.setWidth 8 } }) ∧
     (∀ p, s.partitionOfCore k = some p → p.tenant ≠ v.setWidth 8 →
       ∃ w t, exec (.syswr d 0x010) s = .next t ∧ Traps k 3 w { s with fresh := s.fresh + 1 } t) ∧
     (s.partitions = none →
       exec (.syswr d 0x060) s = .next (State.retire { s with kstrict := v.getLsbD 0 } (.core k))) ∧
     (∀ p, s.partitions = some p →
       ∃ w t, exec (.syswr d 0x060) s = .next t ∧ Traps k 3 w { s with fresh := s.fresh + 1 } t))

/-- R247: a record that arrives keeps the event queue within 1,024 records; the 1,024th is the ERROR_COUNT record.
R247: a record enters the queue of its core as its newest entry where fewer than 1,023 are held; where 1,023 are held,
it is dropped, and an ERROR_COUNT record with count 1 is filled in as the last entry, or one that still stands in the
queue counts it (how is log 83, the model's reading). A WFE that waits goes on where a record enters (R395). (A record
whose predecessors of its VP still are on their way waits: it is the oldest here. That the queue which a write of KEVQ
empties is emptied by a step of its own, or before the core's next instruction, is log 7.) R248, R389: EVPOP takes the
oldest record into x[d] and x[d+1]; from an empty queue the poll form answers zeros, and the wait form waits. KEVQ
written with bit 0 set empties the queue. -/
def Obligations.EventQueues : Prop :=
  (∀ (s : State) (j : Nat), s.queuesBounded = true →
     ∃ t, exec (.eventRecordArrival j) s = .next t ∧ t.queuesBounded = true) ∧
  (∀ (s : State) (k : CoreId) (r : BitVec 128) (rest : List (CoreId × BitVec 128)),
     s.records = (k, r) :: rest →
     ∃ t, exec (.eventRecordArrival 0) s = .next t ∧ t.records = rest ∧
       ((s.core k).events.length < 1023 →
         (t.core k).events = (s.core k).events ++ [r] ∧ (t.core k).wfeSince = none) ∧
       ((s.core k).events.length = 1023 → (s.core k).overAt = none →
         (t.core k).events = (s.core k).events ++ [record 9 0 0 (coreSrc k) 1] ∧ (t.core k).wfeSince = none) ∧
       (∀ n e, 1023 ≤ (s.core k).events.length → (s.core k).overAt = some n → (s.core k).events[n]? = some e →
         e.toNat / 2 ^ 64 < 2 ^ 64 - 1 →
         (t.core k).events = (s.core k).events.set n (e + (1#128 <<< 64)) ∧ (t.core k).wfeSince = (s.core k).wfeSince) ∧
       ∀ j, j ≠ k → t.core j = s.core j) ∧
  (∀ (s : State) (k : CoreId) (d : XReg) (r : BitVec 128) (rest : List (BitVec 128)),
     s.focus.thread = .core k →
     ((s.core k).events = [] →
       exec (.evpopPoll d) s = WritesPair s d 0 0 ∧ exec (.evpopWait d) s = .next s) ∧
     ((s.core k).events = r :: rest →
       let u := s.setCore k (s.core k).dequeue
       exec (.evpopPoll d) s = WritesPair u d (r.setWidth 64) ((r >>> 64).setWidth 64) ∧
       exec (.evpopWait d) s = WritesPair u d (r.setWidth 64) ((r >>> 64).setWidth 64) ∧
       (u.core k).events = rest ∧ (u.core k).evHead = ((s.core k).evHead + 1) % 1024) ∧
     ((s.core k).kevqPending = true →
       ∃ t, exec (.kevqEmpty k) s = .next t ∧ (t.core k).events = [] ∧ (t.core k).kevqPending = false ∧
         (t.core k).thread = (s.core k).thread))

/-- R395, R396, R397, R398, R168: WFE, SEV for every core of its die, its own and the waiting ones included, the end
of a WFE after 10 µs, HALT, CYC, IFENCE and NOP. That 10 µs are 8,000 cycles is log 6, and that HALT leaves the pc at
itself log 14, the model's readings. R400: CRC over the four bytes of x[b][31:0], the lowest first, with the high
halves ignored. R399, R383: TLBI removes every cached translation of the tenant that overlaps the range, of any page
size, and no other, once no access translated through one of them, or through one that has left its cache since, is
outstanding (log 21, the model's choice of what a cache keeps); a nonzero field that has to be zero makes it ILLEGAL. -/
def Obligations.CoreControl : Prop :=
  (∀ (s : State) (k : CoreId) (d : XReg),
     let c := s.core k
     s.focus.thread = .core k →
     (c.event = true → exec .wfe s = .next ((s.setCore k { c with event := false }).retire (.core k))) ∧
     (c.event = false → exec .wfe s = .next (s.setCore k { c with wfeSince := some s.cycle })) ∧
     (∀ n, c.wfeSince = some n → n + 8000 ≤ s.cycle →
       exec (.wfeTimeout k) s = .next (s.setCore k { c with
         wfeSince := none, event := false
         thread := { c.thread with pc := c.thread.pc + 4 }, kinstr := c.kinstr + 1 })) ∧
     (s.callsAccepted (.core k) = true → (s.drain k).focus.thread = .core k →
       ∃ t, exec .sev s = .next t ∧ (∀ j, coreDie j ≠ coreDie k → t.core j = (s.drain k).core j) ∧
         ∀ j, coreDie j = coreDie k →
           (((s.drain k).core j).wfeSince = none → (t.core j).event = true) ∧
           (∀ n, ((s.drain k).core j).wfeSince = some n → j ≠ k → (t.core j).wfeSince = none ∧ (t.core j).event = false ∧
             (t.core j).thread.pc = ((s.drain k).core j).thread.pc + 4)) ∧
     (∃ t, exec .halt s = .next t ∧ (t.core k).halted = true ∧ (t.core k).thread = ((s.drain k).core k).thread) ∧
     exec (.cyc d) s = Writes s d (BitVec.ofNat 64 (s.dieCycle (coreDie k))) ∧
     exec .ifence s = .next ((s.setCore k { c with icache := [] }).retire (.core k)) ∧
     exec .nop s = .next s) ∧
  (∀ (s : State) (k : CoreId) (d a b : XReg),
     s.focus.thread = .core k →
     let byte (n : Nat) : BitVec 32 := ((s.getX (.core k) b >>> (8 * n)).setWidth 8).setWidth 32
     let turn (c : BitVec 32) (n : Nat) : BitVec 32 := crcBits (c ^^^ byte n) 8
     exec (.crc d a b) s =
       Writes s d ((turn (turn (turn (turn ((s.getX (.core k) a).setWidth 32) 0) 1) 2) 3).setWidth 64)) ∧
  (∀ (s : State) (k : CoreId) (a b : XReg),
     let x := (s.getX (.core k) a).toNat
     let y := (s.getX (.core k) b).toNat
     let first := x / 2 ^ 12 % 2 ^ 36 * 2 ^ 12
     let count := y / 2 ^ 16 % 2 ^ 32
     let hits (e : TlbEntry) : Prop := e.tenant = BitVec.ofNat 8 y ∧
       (count = 0 ∨ (e.page < first + count * 4096 ∧ first < e.page + e.size))
     s.focus.thread = .core k → (s.core k).thread.priv = true →
     (x / 2 ^ 48 ≠ 0 ∨ y / 2 ^ 8 % 2 ^ 8 ≠ 0 ∨ y / 2 ^ 48 ≠ 0 → Illegal (.tlbi a b) k s) ∧
     (x / 2 ^ 48 = 0 → y / 2 ^ 8 % 2 ^ 8 = 0 → y / 2 ^ 48 = 0 →
       (s.translatedPending ((s.tlb ++ s.spent).filter (tlbiHits first count (BitVec.ofNat 8 y))) = false) →
       ∃ t, exec (.tlbi a b) s = .next t ∧
         (∀ e ∈ t.tlb, ¬ hits e) ∧ ∀ e ∈ s.drainAll.tlb, ¬ hits e → e ∈ t.tlb))

/-! ### Compute cells -/

/-- R138, R139, R140, R143: what the kinds of the operands decide. An ERR among L, R and P, the first of them, goes to
the targets; else NUL where one is NUL; else a predicate that does not let the instruction run suppresses it; else a
marker among the data operands goes to the targets, the one of the highest kind code, and the other data operands are
discarded. (That an ERR and markers come first for a fibre form too, whose operands R117 reads as data, is log 88, and
that a JOINP that propagates is no firing of it is log 106: the model's readings.) R138, R139, R142: an instruction
that propagates NUL, ERR or a marker (with nothing to discard) sends it to each target instead of a result; of the
whole machine only its cell's instance differs. -/
def Obligations.OperandKinds : Prop :=
  (∀ (x : Shape) (l r p : Option Operand),
     let ops := l.toList ++ r.toList ++ p.toList
     let data := l.toList ++ r.toList ++ (if x.third then p.toList else [])
     let suppressed : Prop := ∃ q, p = some q ∧ ((x.pm = .onTrue ∧ q.tok.true? = false) ∨
       (x.pm = .onFalse ∧ q.tok.true? = true))
     (∀ a b o, ops = a ++ o :: b → o.tok.k = .err → (∀ y ∈ a, y.tok.k ≠ .err) →
       x.judge false l r p = .propagate o.tok) ∧
     ((∀ o ∈ ops, o.tok.k ≠ .err) →
       ((∃ o ∈ ops, o.tok.k = .nul) → x.judge false l r p = .propagate .nul) ∧
       ((∀ o ∈ ops, o.tok.k ≠ .nul) →
         (suppressed → x.judge false l r p = .suppressed) ∧
         (¬ suppressed →
           ((∀ o ∈ data, o.tok.k.isMarker = false) → x.judge false l r p = .compute) ∧
           (∀ o ∈ data, o.tok.k.isMarker = true → ∃ m, m ∈ data ∧ m.tok.k.isMarker = true ∧ o.tok.k.code ≤ m.tok.k.code ∧
             x.judge false l r p = .marker m.tok (data.filter fun o => !o.tok.k.isMarker)))))) ∧
  (∀ (s : State) (x : Ctx) (t : Token) (j : Instance) (f : C3) (g : CI) (i : Instr),
     i ∈ [.mov f, .null f, .iota f, .sel f, .setv f, .getv f, .cellAdd f, .cellSub f, .cellMul f, .cellMulh f, .cellMin f,
       .cellMax f, .cellAnd f, .cellOr f, .cellXor f, .cellShl f, .cellShr f, .cellSar f, .cellClz f, .cellPopc f, .cmp f,
       .cellAddi g, .cellAndi g, .cellOri g, .cellShli g, .cellShri g, .cellSari g, .movh g, .fadd f, .fsub f, .fmul f,
       .fma f, .fmin f, .fmax f, .fabs f, .fcmp f, .fcvt f, .unpk f, .pack f, .fexp2 f, .flog2 f, .frcp f, .frsq f,
       .ftanh f, .radd f, .rmax f, .rmin f, .psum f, .perm f, .bcst f, .lsh f, .cmpk f, .expd f, .nzscan f, .join f,
       .ld f, .ldc f, .lookup f, .cellFprobe f, .mark f, .joinp f, .accrd f] →
     FiresAs (.propagate t) i s x ∨ FiresAs (.marker t []) i s x → x.sends t t j →
     exec i s = .next (s.setInst x.c j))

/-- R168 to R172, R188, R190: the block and dataflow instructions with a result, MARK and JOINP. -/
def Obligations.CellDataflow : Prop :=
  ∀ (f : C3) (g : CI),
    Result (.mov f) (fun x => x.l) ∧
    Result (.movi g) (fun _ => Token.scalar (g.imm.signExtend 32).toNat) ∧
    Result (.movh g) (fun x => Token.lanes .data x.l.ok fun i => (x.l.at i <<< 13) ||| g.imm.setWidth 32) ∧
    Result (.null f) (fun _ => .nul) ∧
    Result (.iota f) (fun _ => Token.lanes .data (fun _ => true) fun i => BitVec.ofNat 32 i) ∧
    Result (.cid f) (fun x => Token.ofList .data 0x003F
      [x.c.die.val, x.c.row.val, x.c.col.val, x.pl.x.base, x.pl.stage, x.pl.wave]) ∧
    (∀ s x j n, Fires (.cellCyc f) s x → n = s.dieCycle x.c.die →
      x.sends (Token.ofList .data 0x0003 [n % 2 ^ 32, n / 2 ^ 32 % 2 ^ 32])
        (Token.ofList .data 0x0003 [n % 2 ^ 32, n / 2 ^ 32 % 2 ^ 32]) j →
      exec (.cellCyc f) s = .next (s.setInst x.c j)) ∧
    Result (.testk f) (fun x => Token.scalar (if x.l.k.code = f.m.val then 1 else 0)) ∧
    Result (.sel f) (fun x =>
      let pick (i : Nat) : Token := if x.p.ok i && x.p.at i != 0 then x.l else x.r
      Token.lanes .data (fun i => (pick i).ok i) fun i => (pick i).at i) ∧
    Result (.setv f) (fun x => Token.lanes .data (fun i => x.r.ok 0 && (x.r.at 0).getLsbD i) x.l.at) ∧
    Result (.getv f) (fun x => Token.scalar x.l.v.toNat) ∧
    (∀ k, Kind.ofCode f.m.val = some k → k ≠ .pre → k ≠ .rcf → k ≠ .nul →
      Result (.mark f) fun x => { x.l with k := k }) ∧
    (∀ s x j, Fires (.joinp f) s x → x.inst.join = none →
      let acc := (s.cell x.c).join[x.blk.num]
      let cnt := acc.1 + 1
      let sum := acc.2 + (if x.l.ok 0 then x.l.at 0 else 0)
      let y (a : BitVec 32 × BitVec 32) : Ctx := { x with inst := { x.inst with join := some a } }
      (cnt.toNat = f.m.val + 1 → (y (0, 0)).sends (Token.ofList .pmt 0x0003 [sum.toNat, f.m.val + 1])
        (Token.ofList .pmt 0x0003 [sum.toNat, f.m.val + 1]) j → Leaves (.joinp f) s x s j) ∧
      (cnt.toNat ≠ f.m.val + 1 → (y (cnt, sum)).sends .nul .nul j → Leaves (.joinp f) s x s j))

/-- R153, R154, R169: an exit is taken once; BX raises ILLEGAL where L names no block of the program, and a second
exit raises EXIT_COUNT. R158, R371, R372: a fault of a block, shown by TRAP, whose fault is its effect: the instance
is discarded and its block is to run again, the fault word holds the cause, the slot and the block, a FAULT record
goes to the VP's event core, and no byte of memory changes. -/
def Obligations.CellExitsAndFaults : Prop :=
  (∀ (s : State) (x : Ctx) (f : C3) (b : CB),
     let out (e : Exit) : Instance := { x.inst.mark x.slot .done with exit := some e }
     let n := (x.l.at 0).toNat
     (Fires (.bxi b) s x → x.inst.exit = none → Leaves (.bxi b) s x s (out (.block b.blk))) ∧
     (Fires (.bend b) s x → x.inst.exit = none → Leaves (.bend b) s x s (out .bend)) ∧
     (Fires (.bx f) s x → x.l.ok 0 = true → (∃ y, (s.cell x.c).program.block n = some y) → n ≤ 31 →
       x.inst.exit = none → Leaves (.bx f) s x s (out (.block (Fin.ofNat 32 n)))) ∧
     (Fires (.bx f) s x → (x.l.ok 0 = false ∨ (s.cell x.c).program.block n = none ∨ 31 < n) →
       exec (.bx f) s = .next (s.raiseCell x.pl.v x.c ⟨.illegal, x.slot, 0, 0, 0⟩ 0)) ∧
     (∀ e, Fires (.bxi b) s x → x.inst.exit = some e →
       exec (.bxi b) s = .next (s.raiseCell x.pl.v x.c ⟨.exitCount, x.slot, 0, 0, 0⟩ 0))) ∧
  (∀ (s : State) (x : Ctx) (f : C3), Fires (.cellTrap f) s x →
     ∃ t, exec (.cellTrap f) s = .next t ∧ SameBytes s t ∧
       (t.cell x.c).inst = none ∧ (t.cell x.c).next = some x.inst.block ∧
       (t.cell x.c).cause = some .trapInstruction ∧ (t.cell x.c).pending = true ∧
       (t.cell x.c).slot.val = x.slot % 128 ∧ (t.cell x.c).lane.val = 0 ∧ (t.cell x.c).block = x.inst.block ∧
       (t.cell x.c).faultVal = 0 ∧ (t.cell x.c).ports = (s.cell x.c).ports ∧ (t.cell x.c).g = (s.cell x.c).g ∧
       t.records = s.records ++ [((s.vp x.pl.v).eventCore,
         record 3 18 0 (x.c.src x.slot 0) (x.pl.v.handle + x.inst.block.val * 2 ^ 32))])

/-- R173, R167, R166: the integer group, by subwords of w bits, a result's lane valid where every operand's is. R174:
the immediate group. -/
def Obligations.CellIntegers : Prop :=
  (∀ (f : C3),
     let w := if f.m.val % 4 = 1 then 16 else if f.m.val % 4 = 2 then 8 else 32
     let uns := f.m.val / 4 % 2 = 1
     let sat := f.m.val / 8 % 2 = 1
     let val (a : Nat) : Int := if uns then a else signed a w
     let by2 (i : Instr) (op : Nat → Nat → Nat) : Prop := Result i fun x => lanes2 (bySubs w op) x.l x.r
     let by1 (i : Instr) (op : Nat → Nat) : Prop :=
       Result i fun x => lanes1 (fun a => bySubs w (fun u _ => op u) a a) x.l
     by2 (.cellAdd f) (fun a b => if sat then clampTo w (signed a w + signed b w) else (a + b) % 2 ^ w) ∧
     by2 (.cellSub f) (fun a b => if sat then clampTo w (signed a w - signed b w) else wrap ((a : Int) - b) w) ∧
     by2 (.cellMul f) (fun a b => a * b % 2 ^ w) ∧
     by2 (.cellMulh f) (fun a b => wrap (val a * val b / 2 ^ w) w) ∧
     by2 (.cellMin f) (fun a b => if val b < val a then b else a) ∧
     by2 (.cellMax f) (fun a b => if val a < val b then b else a) ∧
     by2 (.cellAnd f) (fun a b => a &&& b) ∧
     by2 (.cellOr f) (fun a b => a ||| b) ∧
     by2 (.cellXor f) (fun a b => a ^^^ b) ∧
     by2 (.cellShl f) (fun a b => a * 2 ^ (b % w) % 2 ^ w) ∧
     by2 (.cellShr f) (fun a b =>
       if b % w = 0 then a else wrap ((val a + 2 ^ (b % w - 1)) / 2 ^ (b % w)) w) ∧
     by2 (.cellSar f) (fun a b => wrap (signed a w / 2 ^ (b % w)) w) ∧
     by1 (.cellClz f) (fun a => laneZeros a w) ∧
     by1 (.cellPopc f) (fun a => laneOnes a w) ∧
     Result (.cmp f) (fun x => lanes2 (fun a b => if cmpHolds (f.m.val % 8) a b then BitVec.allOnes 32 else 0) x.l x.r)) ∧
  (∀ (f : CI),
     let imm : Elem := f.imm.signExtend 32
     let n := f.imm.toNat % 32
     Result (.cellAddi f) (fun x => lanes1 (fun a => a + imm) x.l) ∧
     Result (.cellAndi f) (fun x => lanes1 (fun a => a &&& imm) x.l) ∧
     Result (.cellOri f) (fun x => lanes1 (fun a => a ||| imm) x.l) ∧
     Result (.cellShli f) (fun x => lanes1 (fun a => a <<< n) x.l) ∧
     Result (.cellShri f) (fun x => lanes1 (fun a => a >>> n) x.l) ∧
     Result (.cellSari f) (fun x => lanes1 (fun a => a.sshiftRight n) x.l))

/-- R298 to R301, R261: the float group: the exact sum, difference, product and fused product, rounded once; the other
instructions by their functions of one element, or of two. R263, R85, R299: a NaN operand makes the result of FADD,
FSUB and FMUL the canonical NaN; FMIN and FMAX of one NaN give the other operand, and of two the canonical NaN; every
condition of FCMP but the unordered one fails of a NaN. R298, R300, R301: FABS clears, flips, sets or keeps the sign
and makes every NaN canonical; FCVT to integers saturates and gives 0 of a NaN, its 16-bit results and sources are the
low half, and toward zero an overflow is the largest number; UNPK widens the half j of L's lanes from its base on, and
PACK narrows pairs of L and of R, an invalid half as 0. R276: the special functions at the operands for which the
table states a value: 2^n of whole n and log2 of powers of two are exact; zeros, infinities, negative operands and
NaNs; FTANH is odd; and in a faithful range the result is one of the two neighbours of the exact value. -/
def Obligations.CellFloats : Prop :=
  (∀ (f : C3),
     let f2 (i : Instr) (op : Nat → Nat → Nat) : Prop :=
       Result i fun x => lanes2 (fun a b => BitVec.ofNat 32 (op a.toNat b.toNat)) x.l x.r
     let f1 (i : Instr) (op : Nat → Nat) : Prop := Result i fun x => lanes1 (fun a => BitVec.ofNat 32 (op a.toNat)) x.l
     f2 (.fadd f) (fun a b => toF32 ((f32 a).add (f32 b))) ∧
     f2 (.fsub f) (fun a b => toF32 ((f32 a).add (f32 b).neg)) ∧
     f2 (.fmul f) (fun a b => toF32 ((f32 a).mul (f32 b))) ∧
     Result (.fma f) (fun x => Token.lanes .data (fun i => x.l.ok i && x.r.ok i && x.p.ok i) fun i =>
       BitVec.ofNat 32 (toF32 (((f32 (x.l.at i).toNat).mul (f32 (x.r.at i).toNat)).add (f32 (x.p.at i).toNat)))) ∧
     f2 (.fmin f) f32Min ∧
     f2 (.fmax f) f32Max ∧
     f1 (.fabs f) (floatAbs f.m.val) ∧
     f2 (.fcmp f) (fun a b => if floatCmp f.m.val a b then 2 ^ 32 - 1 else 0) ∧
     f1 (.fcvt f) (floatConvert f.m.val) ∧
     Result (.unpk f) (fun x => unpkToken f.m.val x.l) ∧
     Result (.pack f) (fun x => packToken f.m.val x.l x.r) ∧
     f1 (.fexp2 f) fexp2 ∧
     f1 (.flog2 f) flog2 ∧
     f1 (.frcp f) frcp ∧
     f1 (.frsq f) frsq ∧
     f1 (.ftanh f) ftanh) ∧
  (∀ (a b : Elem) (m : Nat),
     let nan (x : Elem) : Prop := 0x7F800000 < x.toNat % 2 ^ 31
     (nan a ∨ nan b →
       f32Add a.toNat b.toNat = 0x7FC00000 ∧ f32Sub a.toNat b.toNat = 0x7FC00000 ∧
       f32Mul a.toNat b.toNat = 0x7FC00000 ∧
       (floatCmp m a.toNat b.toNat = true ↔ m = 3)) ∧
     (nan a → ¬ nan b → f32Min a.toNat b.toNat = b.toNat ∧ f32Max a.toNat b.toNat = b.toNat) ∧
     (¬ nan a → nan b → f32Min a.toNat b.toNat = a.toNat ∧ f32Max a.toNat b.toNat = a.toNat) ∧
     (nan a → nan b → f32Min a.toNat b.toNat = 0x7FC00000 ∧ f32Max a.toNat b.toNat = 0x7FC00000)) ∧
  ((∀ a : Elem,
     let x := a.toNat
     let nan : Prop := 0x7F800000 < x % 2 ^ 31
     (nan → ∀ m, floatAbs m x = 0x7FC00000) ∧
     (¬ nan → BitVec.ofNat 32 (floatAbs 0 x) = a &&& 0x7FFFFFFF ∧ BitVec.ofNat 32 (floatAbs 1 x) = (a ^^^ 0x80000000) ∧
       BitVec.ofNat 32 (floatAbs 2 x) = a ||| 0x80000000 ∧ BitVec.ofNat 32 (floatAbs 3 x) = a) ∧
     (nan → floatConvert 2 x = 0 ∧ floatConvert 3 x = 0 ∧ floatConvert 4 x = 0) ∧
     (x < 2 ^ 31 → 0x4F000000 ≤ x → ¬ nan → floatConvert 2 x = 0x7FFFFFFF ∧ floatConvert 3 x = 0x7FFFFFFF) ∧
     (x < 2 ^ 31 → 0x4F800000 ≤ x → ¬ nan → floatConvert 4 x = 0xFFFFFFFF) ∧
     (2 ^ 31 ≤ x → ¬ nan → floatConvert 4 x = 0) ∧
     floatConvert 5 x = floatConvert 5 (x % 2 ^ 16) ∧ floatConvert 6 x = floatConvert 6 (x % 2 ^ 16) ∧
     floatConvert 7 x < 2 ^ 16 ∧ floatConvert 8 x < 2 ^ 16 ∧ floatConvert 9 x < 2 ^ 16 ∧
     (0x47800000 ≤ x → x < 0x7F800000 → floatConvert 9 x = 0x7BFF ∧ floatConvert 7 x = 0x7C00)) ∧
   (∀ (m : Fin 4) (l : Token) (j : Nat), j < 16 →
     let b := (if m.val % 2 = 0 then 0 else 8) + j / 2
     let h := (l.at b).toNat / 2 ^ (16 * (j % 2)) % 2 ^ 16
     (unpkToken m.val l).ok j = l.ok b ∧
     (l.ok b = true → (unpkToken m.val l).at j =
       BitVec.ofNat 32 (convert (if m.val < 2 then .f16 else .bf16) .f32 .rne h))) ∧
   (∀ (m : Fin 3) (l r : Token) (i : Nat), i < 16 →
     let src := if i < 8 then l else r
     let narrow (j : Nat) : Nat := if src.ok j = false then 0 else
       convert .f32 (if m.val = 1 then .bf16 else .f16) (if m.val = 2 then .rtz else .rne) (src.at j).toNat
     let lo := 2 * (i % 8)
     (packToken m.val l r).ok i = (src.ok lo || src.ok (lo + 1)) ∧
     (src.ok lo = true ∨ src.ok (lo + 1) = true →
       (packToken m.val l r).at i = BitVec.ofNat 32 (narrow lo + narrow (lo + 1) * 2 ^ 16)))) ∧
  ((∀ n : Fin 276,
     let k : Int := (n.val : Int) - 148
     fexp2 (intToF32 k) = if k < -126 then 2 ^ (k + 149).toNat else (k + 127).toNat * 2 ^ 23) ∧
   fexp2 (intToF32 (-149)) = 1 ∧
   (∀ n : Fin 254, flog2 ((n.val + 1) * 2 ^ 23) = intToF32 ((n.val : Int) - 126)) ∧
   (∀ n : Fin 23, flog2 (2 ^ n.val) = intToF32 ((n.val : Int) - 149)) ∧
   fexp2 0xFF800000 = 0 ∧ fexp2 0x7F800000 = 0x7F800000 ∧
   flog2 0 = 0xFF800000 ∧ flog2 0x80000000 = 0xFF800000 ∧ flog2 0x7F800000 = 0x7F800000 ∧
   frcp 0 = 0x7F800000 ∧ frcp 0x80000000 = 0xFF800000 ∧ frcp 0x7F800000 = 0 ∧ frcp 0xFF800000 = 0x80000000 ∧
   frsq 0 = 0x7F800000 ∧ frsq 0x80000000 = 0xFF800000 ∧ frsq 0x7F800000 = 0 ∧
   ftanh 0 = 0 ∧ ftanh 0x80000000 = 0x80000000 ∧ ftanh 0x7F800000 = 0x3F800000 ∧ ftanh 0xFF800000 = 0xBF800000 ∧
   (∀ x, 0x80000000 < x → x ≤ 0xFF800000 → flog2 x = 0x7FC00000 ∧ frsq x = 0x7FC00000) ∧
   (∀ x, x < 2 ^ 32 → 0x7F800000 < x % 2 ^ 31 →
     ∀ g ∈ [fexp2, flog2, frcp, frsq, ftanh], g x = 0x7FC00000) ∧
   (∀ x, x ≤ 0x7F800000 → ftanh (x + 2 ^ 31) = ftanh x + 2 ^ 31) ∧
   (∀ (fn key v : Nat) (rising sign : Bool) (e : Int),
     let below := Fmt.f32.round .rtz false (2 * v + 1) (e - 193)
     let at' := if sign then 2 ^ 31 else 0
     faithful fn rising key sign v e = at' + below ∨ faithful fn rising key sign v e = at' + (below + 1)))

/-- R175 to R179: the lane and filter group. R176 to R179: what the filter group's results are. RMAX gives the largest
valid lane and RMIN the smallest, signed or unsigned; PSUM the wrapping sums of the valid lanes up to each; EXPD of
CMPK's two results gives back L with its unselected lanes cleared; NZSCAN gives the nonzero lanes with their
coordinates; JOIN gives for each lane the lowest match, and advances a side whose largest coordinate is not above the
other's. A lone NaN under PSUM.f is the model's reading (log 36). -/
def Obligations.CellLanes : Prop :=
  (∀ (f : C3),
     let k := f.m.val
     Result (.radd f) (fun x => Token.scalar (laneTreeSum (addOf k)
       ((List.range 16).map fun i => if x.l.ok i then (x.l.at i).toNat else 0))) ∧
     Result (.rmax f) (fun x => reduceToken (laneMax k) k x.l) ∧
     Result (.rmin f) (fun x => reduceToken (laneMin k) k x.l) ∧
     Result (.psum f) (fun x => psumToken k x.l) ∧
     Result (.perm f) (fun x => Token.lanes .data (fun i => x.r.ok i && x.l.ok ((x.r.at i).toNat % 16))
       fun i => x.l.at ((x.r.at i).toNat % 16)) ∧
     Result (.bcst f) (fun x => Token.lanes .data (fun _ => x.l.ok k) fun _ => x.l.at k) ∧
     Result (.lsh f) (fun x => Token.lanes .data (fun i => decide (i + k < 16) && x.l.ok (i + k)) fun i => x.l.at (i + k)) ∧
     Results (.cmpk f) (fun x => (cmpkTokens x.l x.r).1) (fun x => (cmpkTokens x.l x.r).2) ∧
     Result (.expd f) (fun x => expdToken x.l x.r) ∧
     Results (.nzscan f) (fun x => (nzscanTokens k x.l x.r).1) (fun x => (nzscanTokens k x.l x.r).2) ∧
     Results (.join f) (fun x => (joinTokens k x.l x.r).1) (fun x => (joinTokens k x.l x.r).2)) ∧
  (∀ (l r : Token),
     let zero (i : Nat) : Elem := if l.ok i && r.ok i && r.at i != 0 then l.at i else 0
     (∀ i, i < 16 → l.ok i = true →
       (l.at i).toInt ≤ ((reduceToken (laneMax 0) 0 l).at 0).toInt ∧
       (l.at i).toNat ≤ ((reduceToken (laneMax 1) 1 l).at 0).toNat ∧
       ((reduceToken (laneMin 0) 0 l).at 0).toInt ≤ (l.at i).toInt ∧
       ((reduceToken (laneMin 1) 1 l).at 0).toNat ≤ (l.at i).toNat ∧
       ∀ g ∈ [reduceToken (laneMax 0) 0 l, reduceToken (laneMax 1) 1 l, reduceToken (laneMin 0) 0 l,
           reduceToken (laneMin 1) 1 l], g.v = 1 ∧ ∃ j, j < 16 ∧ l.ok j = true ∧ g.at 0 = l.at j) ∧
     ((∀ i, i < 16 → l.ok i = false) → ∀ op m, (reduceToken op m l).v = 0) ∧
     (∀ i, i < 16 → (psumToken 0 l).ok i = l.ok i ∧ (l.ok i = true →
       (psumToken 0 l).at i = ((List.range (i + 1)).filter fun j => l.ok j).foldl (fun a j => a + l.at j) 0)) ∧
     (∀ i, i < 16 →
       let back := expdToken (cmpkTokens l r).1 (cmpkTokens l r).2
       back.ok i = (l.ok i && r.ok i && r.at i != 0) ∧ back.at i = zero i) ∧
     (∀ m : Fin 2,
       let sel := (List.range 16).filter fun i => l.ok i && l.at i != 0 && (m == 1 || l.at i != 0x80000000)
       let base := if r.ok 0 then r.at 0 else 0
       let (t0, t1) := nzscanTokens m.val l r
       ∀ j, j < 16 → t0.ok j = decide (j < sel.length) ∧ t1.ok j = decide (j < sel.length) ∧
         (j < sel.length → t0.at j = l.at (sel.getD j 0) ∧ t1.at j = base + BitVec.ofNat 32 (sel.getD j 0))) ∧
     (∀ t0 t1, joinTokens 0 l r = (t0, t1) →
       t1.v = 3 ∧
       (∀ i, i < 16 →
         ((∃ j, j < 16 ∧ r.ok j = true ∧ r.at j = l.at i) → l.ok i = true → l.at i ≠ 0xFFFFFFFF →
           t0.ok i = true ∧ r.ok (t0.at i).toNat = true ∧ r.at (t0.at i).toNat = l.at i ∧
           ∀ j, j < (t0.at i).toNat → r.ok j = true → r.at j ≠ l.at i) ∧
         (l.ok i = false ∨ l.at i = 0xFFFFFFFF ∨ (∀ j, j < 16 → r.ok j = true → r.at j ≠ l.at i) → t0.ok i = false)) ∧
       (∀ i j, i < 16 → j < 16 → l.ok i = true → r.ok j = true →
         (∀ k, k < 16 → l.ok k = true → (l.at k).toNat ≤ (l.at i).toNat) →
         (∀ k, k < 16 → r.ok k = true → (r.at k).toNat ≤ (r.at j).toNat) →
         t1.at 0 = (if (l.at i).toNat ≤ (r.at j).toNat then 1 else 0) ∧
         t1.at 1 = (if (r.at j).toNat ≤ (l.at i).toNat then 1 else 0))) ∧
     (joinTokens 1 l r).1 = (joinTokens 0 r l).1)

/-- R180 to R185, R149, R150, R152: a memory instruction whose capability and lanes pass their checks. A load, and an
atomic with a target, joins the queue of the cell's memory cell when it fires; a store, and an atomic without a
target, is held to the commit. R182: a failed check of the capability faults the block at lane 0 with its cause,
whatever the memory instruction. R186, R4, R162: the table instructions on the tag table of a compute cell of the same
die that is not retired: LOOKUP joins the queue; TAGSET, whose entries are right, and TAGCLR are held to the commit. A
memory cell or the other die raises PERM at lane 0. (That a retired cell's table does so too is the model's reading,
log 105.) -/
def Obligations.CellMemory : Prop :=
  (∀ (s u : State) (x : Ctx) (f : C3) (ls : List LaneAccess) (j : Instance),
     let cap := (s.cell x.c).c[f.m]
     let passes (kind : AccessKind) (acting : List Acting) : Prop :=
       cellCapCause cap kind false x.pl.x.tenant = none ∧ s.checkLanes x cap (kind != .read) [] acting = .ok u ls
     let queued (op : CellOp) : State := u.setMemQueue x.c.server (u.memQueue x.c.server ++
       [⟨x.c, x.pl.v, x.blk.num.val, x.slot, x.inst.num, .lanes op cap.space ls x.after, none⟩])
     let atomic (i : Instr) (op : CellOp) : Prop :=
       Fires i s x → passes .atomic (actBoth x) → x.inst.outputs < x.blk.outputs →
       (x.sh.t0 ≠ Target.none → Leaves i s x (queued op) (x.inst.output.mark x.slot .issued)) ∧
       (x.sh.t0 = Target.none →
         Leaves i s x u ((x.holding x.slot (.store x.slot op cap.space ls x.after)).output.mark x.slot .done))
     let store (i : Instr) (acting : List Acting) : Prop :=
       Fires i s x → passes .write acting → x.inst.outputs < x.blk.outputs →
       let held := (x.holding x.slot (.store x.slot .store cap.space ls x.after)).output
       let ord := Token.ofList .ord 0x0003 [0, ls.length]
       emit x.blk x.slot x.sh (some ord) (some ord) x.ports (x.slot :: x.after) (held.mark x.slot .done) = .ok j →
       Leaves i s x u j
     (Fires (.ld f) s x → passes .read (actLoad x) → Leaves (.ld f) s x (queued .load) (x.inst.mark x.slot .issued)) ∧
     (Fires (.ldc f) s x → passes .read (actLdc x) → Leaves (.ldc f) s x (queued .load) (x.inst.mark x.slot .issued)) ∧
     store (.st f) (actBoth x) ∧ store (.stc f) (actStc x) ∧
     atomic (.atadd f) .atadd ∧ atomic (.atfadd f) .atfadd ∧ atomic (.atmax f) .atmax) ∧
  (∀ (s : State) (x : Ctx) (f : C3) (c : Cause) (i : Instr) (kind : AccessKind),
     (i, kind) ∈ [(.ld f, .read), (.ldc f, .read), (.st f, .write), (.stc f, .write), (.atadd f, .atomic),
       (.atfadd f, .atomic), (.atmax f, .atomic)] →
     Fires i s x → cellCapCause (s.cell x.c).c[f.m] kind false x.pl.x.tenant = some c →
     exec i s = .next (s.raiseCell x.pl.v x.c ⟨c, x.slot, 0, 0, 0⟩ 0)) ∧
  (∀ (s : State) (x : Ctx) (f : C3) (j : Instance),
     let cap := (s.cell x.c).c[f.m]
     let t := scratchCell cap.base
     let there : Prop := t.isMem = false ∧ t.die = x.c.die ∧ field cap.base 56 31 = 0 ∧ field cap.base 23 18 ≤ 35 ∧
       s.isRetired t = false
     let body (op : TableOp) (both : Bool) : CellReqBody := .table op t (tableLanes x both) x.after
     let held (i : Instr) (op : TableOp) (both : Bool) : Prop :=
       let h := (x.holding x.slot (.table x.slot op t (tableLanes x both) x.after)).output
       let ord := Token.ofList .ord 0x0003 [0, (tableLanes x both).length]
       emit x.blk x.slot x.sh (some ord) (some ord) x.ports (x.slot :: x.after) (h.mark x.slot .done) = .ok j →
       Leaves i s x s j
     ((t.isMem = true ∨ t.die ≠ x.c.die ∨ s.isRetired t = true) → Fires (.lookup f) s x →
       cellCapCause cap .read true x.pl.x.tenant = none →
       exec (.lookup f) s = .next (s.raiseCell x.pl.v x.c ⟨.perm, x.slot, 0, 0, 0⟩ 0)) ∧
     (there →
     (Fires (.lookup f) s x → cellCapCause cap .read true x.pl.x.tenant = none →
       Leaves (.lookup f) s x (s.setMemQueue x.c.server (s.memQueue x.c.server ++
         [⟨x.c, x.pl.v, x.blk.num.val, x.slot, x.inst.num, body .lookup false, none⟩])) (x.inst.mark x.slot .issued)) ∧
     (cellCapCause cap .write true x.pl.x.tenant = none → x.inst.outputs < x.blk.outputs →
       (Fires (.tagset f) s x → (∀ l ∈ tableLanes x true, entryBad l.2.2 = false) → held (.tagset f) .set true) ∧
       (Fires (.tagclr f) s x → held (.tagclr f) .clear false))))

/-- R151, R187: RCV takes the next token of its port provisionally and delivers it as it is. -/
def Obligations.CellReceive : Prop :=
  ∀ (s : State) (x : Ctx) (f : C3) (t : Token) (j : Instance),
    let port : Fin 8 := Fin.ofNat 8 f.m.val
    Fires (.rcv f) s x → rcvToken (s.cell x.c) x.blk x.inst x.slot port = some t →
    emit x.blk x.slot x.sh (some t) (some t) [port] []
      (({ x.inst with taken := x.inst.taken ++ [(port, t)] } : Instance).mark x.slot .done) = .ok j →
    Leaves (.rcv f) s x s j

/-- R116 to R118, R131, R149: the posted fibre forms are held to the commit with the head row's address, and FPROBE
sends its request when it fires and takes an entry of its memory cell's queue. Each keeps the held effects that it is
ordered after (R322). (The head row's translation is cached.) R189, R337: XREQ and RCALL, whose descriptors and
capabilities pass their checks, are held to the commit, with the held effects that they are ordered after (R322), and
count one output. -/
def Obligations.CellRequests : Prop :=
  (∀ (s u : State) (x : Ctx) (f : C3) (p : Phys),
     let cap := (s.cell x.c).c[f.m]
     let cache := CacheId.memCell x.c.server
     let passes (allowed : Bool) : Prop := fibreCapTrap cap f.m.val x.pl.x.tenant allowed = none ∧ 64 ≤ cap.length ∧
       cap.base < 2 ^ 48 ∧ (∃ e, s.cached cache x.pl.x.tenant cap.base = some e) ∧
       s.translate cache x.pl.x.tenant (s.rootOf x.pl.x.tenant) cap.base false = (u, .ok p) ∧ p.fill = none
     let posted (i : Instr) (op : FibreOp) : Prop :=
       Leaves i s x u ((x.holding x.slot (.fibre x.slot op cap.base p.pa cap.length x.after)).output.mark x.slot .done)
     (x.inst.outputs < x.blk.outputs →
       (Fires (.cellFmrg f) s x → passes cap.pM → posted (.cellFmrg f) (.merge (mergePairs x))) ∧
       (Fires (.cellFscan f) s x → passes cap.pS → posted (.cellFscan f) (scanOp x.l))) ∧
     (Fires (.cellFprobe f) s x → passes cap.pS →
       let lanes := (List.range 16).filter x.l.ok
       let w := { u with fibreReqs := u.fibreReqs ++
         [fibreRequest x.c x.pl.v x.pl.x.tenant x.blk.num.val x.slot x.inst.num
           (.probe (lanes.map fun i => (x.l.at i).toNat)) cap.base p.pa cap.length lanes x.after] }
       Leaves (.cellFprobe f) s x (w.setMemQueue x.c.server (u.memQueue x.c.server ++
         [⟨x.c, x.pl.v, x.blk.num.val, x.slot, x.inst.num, .probe, none⟩])) (x.inst.mark x.slot .issued))) ∧
  (∀ (s : State) (x : Ctx) (f : C3),
     let cap := (s.cell x.c).c[f.m]
     let e (i : Nat) : Nat := (x.l.at i).toNat
     let count := e 1 / 2 % 4 + 1
     x.inst.outputs < x.blk.outputs →
     (Fires (.xreq f) s x → xreqFieldsOk x.l = true → cap.space ≠ .scratch →
       cellCapCause cap (if e 0 = 0 then .read else .write) false x.pl.x.tenant = none →
       e 1 + e 3 ≤ cap.length → e 2 + e 3 ≤ 131072 →
       Leaves (.xreq f) s x s ((x.holding x.slot
         (.xfer x.slot (e 0 == 0) cap (e 1) (e 2) (e 3) (x.l.at 4) x.after)).output.mark x.slot .done)) ∧
     (Fires (.cellRcall f) s x → cap.tag = true → cap.otype = 0 → cap.tenant = x.pl.x.tenant → cap.space ≠ .sys →
       x.l.ok 0 = true → x.l.ok 1 = true → payloadOk x.l count = true →
       Leaves (.cellRcall f) s x s ((x.holding x.slot (.call x.slot (e 0 % 2 ^ 12)
         (Vector.ofFn fun j : Fin 4 => payloadOf x.l count j.val) (bitAt (e 1) 0) cap x.after)).output.mark x.slot .done)))

/-- R280, R281, R294: MMA, MMAS, MMAP and ACCZ reserve an entry of the array's queue and are held to the commit, an
output counted where t0 is a port; ACCRD reads half a row outside any release: one that issues during a release has its
result only once that has left. -/
def Obligations.CellMatrix : Prop :=
  ∀ (s : State) (x : Ctx) (f : C3) (j : Instance),
    let y := s.cell x.c
    let held (i : Instr) (op : Fin 4) : Prop :=
      let h := x.holding x.slot (.matrix x.slot op x.l x.r x.p x.sh.t0)
      Fires i s x →
      (x.sh.t0 = Target.none →
        Leaves i s x (s.setCell x.c { y with reserved := y.reserved + 1 }) (h.mark x.slot .done)) ∧
      (∀ p, Target.port x.sh.t0 = some p → x.inst.outputs < x.blk.outputs →
        Leaves i s x (s.setCell x.c { y with reserved := y.reserved + 1 }) (h.output.mark x.slot .done))
    let row := (x.l.at 0).toNat
    let half := (x.l.at 1).toNat
    let at' (o : Nat) : Nat := 32 * row + 16 * half + o
    held (.mma f) 0 ∧ held (.mmas f) 1 ∧ held (.mmap f) 2 ∧ held (.accz f) 3 ∧
    (Fires (.accrd f) s x → x.l.ok 0 = true → x.l.ok 1 = true → row ≤ 15 → half ≤ 1 →
      ∀ q, y.release = some q → q.tile = true → Leaves (.accrd f) s x s (x.inst.mark x.slot .issued)) ∧
    (Fires (.accrd f) s x → x.l.ok 0 = true → x.l.ok 1 = true → row ≤ 15 → half ≤ 1 →
      (∀ q, y.release = some q → q.tile = false) → y.matrix = [] →
      x.sends (Token.ofList .data 0xFFFF ((List.range 16).map fun o => (y.acc.toList.getD (at' o) 0).toNat))
        (Token.ofList .data 0x0007 [0, y.counter % 2 ^ 32,
          (maskOf fun o => y.sat.toList.getD (at' o) false).toNat]) j →
      Leaves (.accrd f) s x s j)

/-! ### Loading and launching -/

/-- R408, R411, R412: CFGLD of records that pass every check gives the target cell their program, all of it and at
once; CFGCHK answers the same check without a write to the cell; CFGCLR returns the cell to its reset state but for
its call-number counter. CFGLD and CFGCLR first take the row of their cell, and act at the core's next turn (log 96).
R401, R402: VSIG of an image whose header fails its checks answers REJECTED; of one whose signature verifies, without
the request for a sealed entry, it answers OK and writes nothing but x[d]. (Whether a signature verifies is free.) -/
def Obligations.ImageInstructions : Prop :=
  (∀ (s u v : State) (k : CoreId) (d a b : XReg) (ca : CReg) (l : Loc) (bs : List Byte),
     let th := s.thread (.core k)
     let cap := th.cap ca
     let x := (th.get b).toNat
     let n := x % 2 ^ 16
     let c := targetCell x
     let rs := recordsOf bs n
     let s0 := s.dropWork k
     s.focus.thread = .core k → th.priv = true →
     (s0.access (.core k) cap 0 4 false = (u, .ok l) → 36 * n ≤ cap.length → targetOk k x = true → 1 ≤ n → n ≤ 1048 →
       u.isRetired c = false → u.capBytes (.core k) cap 0 4 (9 * n) = (v, .ok bs) →
       (u.rowBusy c.rowId = false → s.holdsRow k c = false →
         exec (.cfgld d ca b) s = .next (s0.setWork k (.cfgld d ca b) (.config c))) ∧
       (s.holdsRow k c = true → judge ⟨c, v.retired⟩ rs = none →
         exec (.cfgld d ca b) s = .next (((v.loadCell c (v.thread (.core k)).tenant
           (programOf rs (cap.pX && cap.pC) (v.thread (.core k)).tenant)).setX (.core k) d
             (resultWord rs.length .ok)).retire (.core k))) ∧
       (∀ f, s.holdsRow k c = true → judge ⟨c, v.retired⟩ rs = some f →
         exec (.cfgld d ca b) s = .next ((u.capUnmarked s0 (.core k) cap 0 4 (9 * n)).trap (.core k)
           ⟨.cfgReject, BitVec.ofNat 64 f.detail⟩)) ∧
       (u.rowBusy c.rowId = true → s.holdsRow k c = false →
         exec (.cfgld d ca b) s = .next ((u.setX (.core k) d (resultWord 0 .rowBusy)).retire (.core k))) ∧
       (judge ⟨c, v.retired⟩ rs = none →
         exec (.cfgchk d ca b) s = .next ((v.setX (.core k) d (resultWord rs.length .ok)).retire (.core k))) ∧
       (∀ f, judge ⟨c, v.retired⟩ rs = some f →
         exec (.cfgchk d ca b) s = .next ((v.setX (.core k) d (resultWord f.detail .rejected)).retire (.core k)))) ∧
     (let x := (th.get a).toNat
       let c := targetCell x
       targetOk k x = true → s.isRetired c = false →
       (s.rowBusy c.rowId = true → s.holdsRow k c = false →
         exec (.cfgclr d a) s = .next ((s0.setX (.core k) d (resultWord 0 .rowBusy)).retire (.core k))) ∧
       (s.rowBusy c.rowId = false → s.holdsRow k c = false →
         exec (.cfgclr d a) s = .next (s0.setWork k (.cfgclr d a) (.config c))) ∧
       (s.holdsRow k c = true → ∃ t, exec (.cfgclr d a) s = .next t ∧ t.cell c = { Cell.reset with callNum := (s.cell c).callNum } ∧
         (∀ e, e ≠ c → t.cell e = s.cell e) ∧ t.mem = s.mem))) ∧
  (∀ (s u v w : State) (k : CoreId) (d b : XReg) (ca : CReg) (l : Loc) (hdr body : List Byte),
     let th := s.thread (.core k)
     let cap := th.cap ca
     let xb := (th.get b).toNat
     let sig := wordAt hdr 7
     s.focus.thread = .core k → th.priv = true → xb < 32 → s.access (.core k) cap 0 64 false = (u, .ok l) →
     u.capBytes (.core k) cap 0 4 16 = (v, .ok hdr) →
     (vsigHeaderOk hdr cap (xb % 16) = false →
       exec (.vsig d ca b) s = .next ((v.setX (.core k) d (resultWord sig .rejected)).retire (.core k))) ∧
     (vsigHeaderOk hdr cap (xb % 16) = true → xb < 16 →
       v.capBytes (.core k) cap 0x40 4 ((sig - 0x40 + 8240) / 4) = (w, .ok body) →
       exec (.vsig d ca b) s = .next ((w.setX (.core k) d (resultWord sig
         (if Config.signaturesVerify (xb % 16) (hdr ++ body.take (sig - 0x40)) (body.drop (sig - 0x40)) then .ok
           else .rejected))).retire (.core k))))

/-- R239, R240, R228: LAUNCH of a descriptor that passes, without a predecessor, into a queue with room: the VP has
a new handle (which record it names is the model's choice, log 109), stands last in its queue, and x[d] holds the handle with OK. R241: SPLICE attaches it to the
predecessor's band. Both are releases. R238, R239: where the queue is full, LAUNCH waits with what it has read, and goes
on from that. R424: while no part record is verified, a scrolling VP joins no
band. (Which of a predecessor's stages count as resident is the model's reading, log 58; that SPLICE takes the
predecessor's queue, log 59; that a splice without a verified record is NO_BAND, log 61.) -/
def Obligations.LaunchAndSplice : Prop :=
  ∀ (s u v : State) (k : CoreId) (d b : XReg) (ca : CReg) (h : DescHead) (y : Vp) (q : Fin 16) (w p : VpId),
    let th := s.thread (.core k)
    let cap := th.cap ca
    let s1 := s.drain k
    let die := coreDie k
    let xb := ((s1.thread (.core k)).get b).toNat
    let answer (t : State) : Res := .next (((t.dropWork k).setX (.core k) d (resultWord w.handle .ok)).retire (.core k))
    s.focus.thread = .core k →
    (launchTrap cap th.tenant ca = none → s.callsAccepted (.core k) = true → s.work k = none →
      s1.thread (.core k) = th → s1.readHead (s1.coreReach k) cap = (u, .ok h) →
      u.readVp (s1.coreReach k) h = (v, .ok y) → y.tenant = th.tenant → v.newVp die y.tenant = some w →
      (u.launchQueue k xb = .ok q → y.tenant = (u.queue die q).tenant →
        v.findBand die (u.queue die q) [y] y.b false ≠ none → h.pred = 0 →
        ((v.queue die q).launches.length < 64 → exec (.launch d ca b) s =
          answer ((v.addVp w { v.withKrtime y with queue := q, stage := .queued }).enqueueLaunch w q false)) ∧
        (64 ≤ (v.queue die q).launches.length →
          exec (.launch d ca b) s = .next (v.setWork k (.launch d ca b) (.launch q (v.withKrtime y) 0 false)))) ∧
      (xb < 2 ^ 32 → xb ≠ 0 → h.pred = 0 ∨ h.pred = xb → v.named die th.tenant th.priv xb = some p →
        (v.cellsOpen y = true → v.spliceOk p y = true → exec (.splice d ca b) s =
          answer (v.attach p w { v.withKrtime y with queue := (v.vp p).queue })) ∧
        (v.recordOk = false → y.static = false → exec (.splice d ca b) s =
          .next (((v.dropWork k).setX (.core k) d (resultWord 0 .noBand)).retire (.core k))))) ∧
    (s.work k = some (.launch q y 0 false) → s.newVp die y.tenant = some w → (s.queue die q).launches.length < 64 →
      exec (.launch d ca b) s = answer ((s.addVp w { y with stage := .queued, queue := q }).enqueueLaunch w q false))

/-- R229: SBIND answers the old binding; a word with a nonzero reserved field, or rows in the wrong order, is
BAD_DESC, and a queue that holds launches REJECTED. R237: SBAR drops the kept images of free rows and answers how many
rows kept one. R244: BARW waits for the VP, a record or its end. (The order of its conditions is log 108.) R242, R243:
PREEMPT starts the pre-emption of a live VP whose context area is long enough, and takes a queued one out of its
queue, with an empty context; RESUME puts a pre-empted one into its queue again, and x[d] holds its handle. RESUME is
a release. (That a PREEMPT of spliced VPs wants room for each of their contexts is the model's reading, log 59, and so
is that BARW answers the lowest value whose condition holds, log 108.) -/
def Obligations.BandInstructions : Prop :=
  (∀ (s : State) (k : CoreId) (d a b : XReg),
     let t := ThreadId.core k
     let th := s.thread t
     let xa := (th.get a).toNat
     let xb := (th.get b).toNat
     let answer (u : State) (v : Nat) (st : Status) : Res := .next ((u.setX t d (resultWord v st)).retire t)
     s.focus.thread = t →
     (th.priv = true → xa < 16 →
       let q := s.queue (coreDie k) (Fin.ofNat 16 xa)
       (xb < 2 ^ 32 → bindingOk xb = true →
         (q.launches = [] → exec (.sbind d a b) s = answer (s.setQueue (coreDie k) (Fin.ofNat 16 xa)
           { q with binding := BitVec.ofNat 32 xb }) q.binding.toNat .ok) ∧
         (q.launches ≠ [] → exec (.sbind d a b) s = answer s q.binding.toNat .rejected)) ∧
       (2 ^ 32 ≤ xb ∨ bindingOk xb = false → exec (.sbind d a b) s = answer s q.binding.toNat .badDesc)) ∧
     (let lo := xa % 64
       let hi := xa / 256 % 64
       let rows := ((List.range 64).filter fun r => decide (lo ≤ r) && decide (r ≤ hi)).map fun r =>
         (⟨coreDie k, Fin.ofNat 64 r⟩ : RowId)
       let free := rows.filter fun r => !s.rowBusy r && s.rowKeeps r
       th.priv = true → xa / 64 % 4 = 0 → xa < 2 ^ 14 → lo ≤ hi →
       exec (.sbar d a) s = answer (free.foldl (fun s r => s.dropKept r) s) free.length .ok) ∧
     (2 ^ 32 ≤ xa → exec (.barw d a) s = answer s 0 .badDesc) ∧
     (xa < 2 ^ 32 → s.named (coreDie k) th.tenant th.priv xa = none → exec (.barw d a) s = answer s 0 .ok) ∧
     (∀ v, xa < 2 ^ 32 → s.named (coreDie k) th.tenant th.priv xa = some v →
       ((s.vp v).stage = .preempted → exec (.barw d a) s = answer s 1 .ok) ∧
       ((s.vp v).stage ≠ .preempted → (s.core k).events ≠ [] → exec (.barw d a) s = answer s 2 .ok) ∧
       ((s.vp v).stage ≠ .preempted → (s.core k).events = [] → exec (.barw d a) s = .next s))) ∧
  (∀ (s : State) (k : CoreId) (d a b : XReg) (ca : CReg) (v : VpId),
     let t := ThreadId.core k
     let th := s.thread t
     let die := coreDie k
     s.focus.thread = t →
     (s.named die th.tenant th.priv (th.get a).toNat = some v →
       (∀ w ∈ s.splicedWith v, (s.vp w).contextFits = true) →
       ((s.vp v).stage = .live →
         exec (.preempt d a) s = .next (((s.startPreempt v).setX t d (resultWord 0 .ok)).retire t)) ∧
       ((s.vp v).stage = .queued →
         exec (.preempt d a) s = .next (((s.preemptQueued k v).setX t d (resultWord 0 .ok)).retire t) ∧
         ((s.preemptQueued k v).vp v).stage = .preempted ∧ ((s.preemptQueued k v).vp v).context = false) ∧
       ((s.vp v).stage = .preempted → exec (.preempt d a) s = .next ((s.setX t d (resultWord 1 .ok)).retire t))) ∧
     (s.named die th.tenant th.priv (th.get a).toNat = none →
       exec (.preempt d a) s = .next ((s.setX t d (resultWord 0 .badDesc)).retire t)) ∧
     (let s1 := s.drain k
       let x := s1.vp v
       let cap := th.cap ca
       let vs := s1.splicedWith v
       s.callsAccepted t = true → s1.thread t = th → s1.named die th.tenant th.priv (th.get b).toNat = some v →
       x.stage = .preempted → cap.tag = true → cap.otype = 0 → cap.base = x.saveCap.base →
       cap.length = x.saveCap.length → cap.tenant = x.saveCap.tenant →
       s1.findBand die (s1.queue die x.queue) (vs.map s1.vp) x.b false ≠ none →
       (s1.queue die x.queue).launches.length < 64 →
       exec (.resume d ca b) s = .next ((((vs.foldl (fun s w => s.setVp w { s.vp w with stage := .queued }) s1).enqueueLaunch v
         x.queue true).setX t d (resultWord v.handle .ok)).retire t)))

/-! ### Fibres -/

/-- R110, R114, R115: a control fibre instruction whose checks pass sends its request to the owner of the head row,
with its operands read, and waits; a clear tag raises TAG, a wrong otype, tenant, space or permission PERM, and a head
row outside the capability BOUNDS, and then nothing is sent. -/
def Obligations.FibreIssue : Prop :=
  ∀ (s u : State) (k : CoreId) (d a b : XReg) (c : CReg) (n : Fin 4) (p : Phys),
    let t := ThreadId.core k
    let th := s.thread t
    let cap := th.cap c
    let xa := (th.get a).toNat
    let xd := (th.get d).toNat
    let h := xa % 2 ^ 32
    let off := 64 * h
    let here (off : Nat) : Prop := s.translate t.cache th.tenant (s.threadRoot t) (cap.base + off) false = (u, .ok p) ∧
      p.fill = none ∧ u.nonlocal t ⟨.fibre, p.pa, none⟩ = false
    let mine : Prop := cap.tag = true ∧ cap.otype = 0 ∧ cap.tenant = th.tenant ∧ cap.space = .fibre
    let sent (op : FibreOp) (off : Nat) (b : XReg) (n : Nat) : Res :=
      let q : FibreReq := ⟨.thread t d b n, op, cap.base + off, p.pa, th.tenant, cap.length, homeGrotto (localAddr p.pa),
        none, 0, false, none, []⟩
      .next ({ u with fibreReqs := u.fibreReqs ++ [q] }.setFibreWait t true)
    let regs {α : Type} (f : Word → α) : List α := (List.range (n.val + 1)).map fun i => f (th.get (b + Fin.ofNat 64 i))
    let coord (w : Word) : Nat := w.toNat / 2 ^ 32
    let all : List Instr := [.fnew d c a, .ffree d c a, .fmrg d c a b n, .fscan d c a b n, .fprobe d c a b n,
      .fdel d c a b n, .finfo d c a]
    s.focus.thread = t →
    (mine → here 0 → cap.pM = true → cap.pW = true →
      (2 ^ 63 ≤ xa → exec (.fnew d c a) s = sent (.format (xa == 2 ^ 63)) 0 0 0) ∧
      (xa < 2 ^ 63 → exec (.fnew d c a) s =
        sent (.new (xa % 16) (xa / 256 % 256) (xa / 16 % 16 == 0 && xa / 2 ^ 16 == 0)) 0 0 0)) ∧
    (mine → here off → off + 64 ≤ cap.length →
      (xa < 2 ^ 32 →
        (cap.pM = true → cap.pW = true → exec (.ffree d c a) s = sent .free off 0 0) ∧
        (cap.pM = true → exec (.fmrg d c a b n) s =
          sent (.merge (regs fun w => (w.toNat / 2 ^ 32, w.toNat % 2 ^ 32))) off b n.val) ∧
        (cap.pS = true → exec (.fscan d c a b n) s = sent (.scan (xd % 2 ^ 32) (n.val + 1) (xd / 2 ^ 62 % 2 == 1)) off b n.val) ∧
        (cap.pS = true → exec (.fprobe d c a b n) s = sent (.probe (regs coord)) off b n.val) ∧
        (cap.pM = true → exec (.fdel d c a b n) s = sent (.delete (regs coord)) off b n.val)) ∧
      (xa < 2 ^ 35 → cap.pS = true → exec (.finfo d c a) s = sent (.info (xa / 2 ^ 32)) off 0 0)) ∧
    (∀ i ∈ all, cap.tag = false → TrapsOn i k 4 (BitVec.ofNat 64 c.val) s) ∧
    (∀ i ∈ all, cap.tag = true → cap.otype ≠ 0 ∨ cap.tenant ≠ th.tenant ∨ cap.space ≠ .fibre ∨
      (cap.pM = false ∧ cap.pS = false) → TrapsOn i k 3 (BitVec.ofNat 64 c.val) s) ∧
    (∀ i ∈ all.tail, mine → cap.pM = true → cap.pW = true → cap.pS = true →
      (2 ^ 35 ≤ xa ∨ (2 ^ 32 ≤ xa ∧ i ≠ .finfo d c a) ∨ cap.length < off + 64) →
      TrapsOn i k 2 (BitVec.ofNat 64 off) s)

/-- R98, R100, R101, R105: a fibre unit's steps on a request of each operation. (`fibreStepOf` names the step:
FIBRE_FORMAT, FIBRE_NEW, FIBRE_FREE, FIBRE_MERGE, FIBRE_DELETE, FIBRE_SCAN_STEP, FIBRE_PROBE and FIBRE_INFO.) It
arrives after its agent's earlier ones, unless it waits behind another agent's hold where 64 already wait: then it is
refused back, and its issuer resends it in issue order. That a refusal to an issuer of another module leaves on a link while
the request keeps its place here, and that its resend step does nothing on this device, is the model's reading (log 100).
A cell's request waits for the held effects that it is ordered after (R322). The next request on
its fibre is performed whole; a merge that needs pool rows may be performed with their reservation, which lists its reply
(R119), and end later. A hold that has gone 65,536 cycles without a step lapses, and the holder's next step is TIMEOUT.
R318, R421: a request whose head row lies on another module leaves on a link, or is answered ECC_DROPPED
where no link reaches that module (the number it travels under, log 24).
That a fibre is known by the physical address of its head row is the model's reading (log 23), and so is how structures
that no check names end (log 25). -/
def Obligations.FibreUnits : Prop :=
  ∀ (s u : State) (j n : Nat) (q : FibreReq) (rows : List (Nat × Nat × List Byte)) (r : FibreReply),
    let i := fibreStepOf j q.op
    let waiting := s.fibreReqs.filter fun r => r.pa == q.pa && r.ticket.isSome && s.heldBack r
    s.fibreReqs[j]? = some q →
    (s.orderedBehind q = true → exec i s = .next s) ∧
    (s.orderedBehind q = false → s.isLocal q.pa = false → q.ticket = none →
      (∀ r ∈ s.fibreReqs.take j, r.sameRoute q = true → r.ticket ≠ none ∧ r.refused = false) →
      (s.reaches (q.pa / 2 ^ 40 % 4096) = true →
        ∃ t, exec i s = .next t ∧ t.mem = s.mem ∧ t.replies = s.replies ∧
          t.fibreReqs[j]? = some { q with ticket := some s.fresh, arrived := s.cycle } ∧
          t.outbox = s.outbox ++ [⟨s.linkOf q.pa, ⟨q.tenant, .other⟩, .fibreRequest s.fresh q, false⟩]) ∧
      (s.reaches (q.pa / 2 ^ 40 % 4096) = false →
        ∃ t, exec i s = .next t ∧ t.mem = s.mem ∧ t.fibreReqs = dropNth s.fibreReqs j ∧
          ∃ r, t.replies = s.replies ++ [r] ∧ r.agent = q.agent ∧ r.status = .eccDropped)) ∧
    (s.orderedBehind q = false → s.isLocal q.pa = true → q.ticket = none → q.refused = false → (∀ r ∈ s.fibreReqs.take j, r.sameRoute q = true → r.ticket ≠ none) →
      (s.heldBack q = false ∨ waiting.length < 64 →
        exec i s = .next ({ s with fresh := s.fresh + 1 }.setReq j { q with ticket := some s.fresh, arrived := s.cycle })) ∧
      (s.heldBack q = true → 64 ≤ waiting.length →
        let back := s.setReq j { q with refused := true }
        ((∀ d m id n, q.agent ≠ .module d m id n) → exec i s = .next back) ∧
        (∀ d m id n, q.agent = .module d m id n → exec i s =
          .next { back with outbox := s.outbox ++ [⟨none, ⟨n, .other⟩, .fibreRefusal d id, false⟩] }))) ∧
    (s.orderedBehind q = false → s.isLocal q.pa = true → q.ticket = some n → s.fibreNext q n = true →
      (q.reserved = none → s.lapsedFor q = false → s.fibrePlan q = (u, rows, r) →
        exec i s = .next ((u.writeRows (rows.map (·.2))).fibreDone j q r)) ∧
      (q.reserved = none → s.lapsedFor q = true →
        ∃ t r, exec i s = .next t ∧ t.mem = s.mem ∧ t.fibreReqs = dropNth s.fibreReqs j ∧
          t.replies = s.replies ++ [r] ∧ r.agent = q.agent ∧ r.status = .timeout ∧ r.pairs = []) ∧
      (q.reserved = some r → exec i s = .next { s with fibreReqs := dropNth s.fibreReqs j }) ∧
      (∀ ps, q.op = .merge ps → q.reserved = none → s.fibrePlan q = (u, rows, r) → r.status = .ok →
        ∀ pool, rows.find? (fun x => x.1 == 0) = some pool →
          let done := (u.writeRows (rows.map (·.2))).setReq j { q with reserved := some r }
          exec (.poolReservation j) s = .next { done with replies := done.replies ++ [r] })) ∧
    (s.isLocal q.pa = true → q.ticket = some n → s.fibreNext q n = false → exec i s = .next s) ∧
    (q.refused = true → (∀ r ∈ s.fibreReqs.take j, r.sameRoute q = true → r.refused = false) →
      (∀ d m id n, q.agent ≠ .module d m id n) →
      let again := { q with refused := false }
      (q.ticket = none → exec (.fibreRefusedResend j) s = .next (s.setReq j again)) ∧
      (q.ticket = some n → s.reaches (q.pa / 2 ^ 40 % 4096) = true → exec (.fibreRefusedResend j) s =
        .next { s.setReq j { again with arrived := s.cycle } with
          outbox := s.outbox ++ [⟨s.linkOf q.pa, ⟨q.tenant, .other⟩, .fibreRequest n again, false⟩] })) ∧
    (∀ d m id n, q.agent = .module d m id n → exec (.fibreRefusedResend j) s = .next s) ∧
    (∀ (m : Nat) (h : Hold), s.holds[m]? = some h → 65536 ≤ s.cycle - h.last →
      exec (.holdLapse m) s = .next { s with holds := setNth s.holds m { h with lapsed := true } })

/-- R102: an operation that fails (NOT_FOUND is no failure) leaves every row as it was: it plans no write. R107: the
cost word's status is the reply's. R93: a row of more than 6 items splits into as few parts as hold 6 each, in order,
the first ones longer by one. R92, R84: pairs are sorted by coordinate, stably, and the ones without a coordinate
dropped. -/
def Obligations.FibreRows : Prop :=
  (∀ (s u : State) (q : FibreReq) (rows : List (Nat × Nat × List Byte)) (r : FibreReply),
     s.fibrePlan q = (u, rows, r) →
     (r.status ≠ .ok → r.status ≠ .notFound → rows = [] ∧ r.splits = 0) ∧
     (∀ c n x, q.op = .scan c n x → r.status ≠ .ok → r.cursor = c ∧ r.pairs = [] ∧ r.endFlag = true) ∧
     r.cost.toNat / 2 ^ 48 = r.status.code) ∧
  ((∀ (l : List (Nat × Nat)), 6 < l.length →
     let k := (l.length + 5) / 6
     (parts l).flatten = l ∧ (parts l).length = k ∧
       ∀ i p, (parts l)[i]? = some p → p.length = l.length / k + (if i < l.length % k then 1 else 0) ∧ p.length ≤ 6) ∧
   (∀ (l : List (Nat × Nat)),
     (sortPairs l).Pairwise (fun a b => a.1 ≤ b.1) ∧
       ∀ c, (sortPairs l).filter (fun p => p.1 == c) = if c = 0xFFFFFFFF then [] else l.filter fun p => p.1 == c))

/-- R110, R113, R115: the reply to a control fibre instruction writes its registers, x[d] first, and it retires. (The
reply of a merge that has reserved its rows, R105, comes once the merge has ended.) R119, R120, R226, R382: the reply
to a posted FMRG or FSCAN arrives at the cell's REPLY port, as a head of kind ORD and for FSCAN two tokens more, after
its owner's earlier ones, and waits for room there; a route entry for REPLY passes it on (R406). A probe's results go
to its slot once its cell's earlier requests have been answered (R132); a reply for a VP that has left is an ORPHAN. A
walker of the die takes a parked access when it is its turn: the cache is filled, or the block of a cell's access
faults at its lane; another unit's failing walk leaves the queue. What an ORPHAN names as its source is the model's
reading (log 84), and so are that a probe's reply waits while its cell holds replies for a pending fault, of which
R371 says nothing (log 43), and how walks wait (log 110). -/
def Obligations.FibreReplies : Prop :=
  (∀ (s : State) (j : Nat) (k : CoreId) (r : FibreReply) (d b : XReg) (n : Nat),
     let u := { s with replies := dropNth s.replies j }
     let th := s.thread (.core k)
     let done (th : Thread) : Res := .next (((u.setCore k { u.core k with fibre := false }).setThread (.core k) th).retire
       (.core k))
     let pair (o : Option (Nat × Nat)) : Word := match o with
       | some p => BitVec.ofNat 64 (p.1 % 2 ^ 32 * 2 ^ 32 + p.2 % 2 ^ 32)
       | none => 0xFFFFFFFF00000000
     let words (f : Nat → Option (Nat × Nat)) : List Word := (List.range (n + 1)).map fun i => pair (f i)
     s.replies[j]? = some r → r.agent = .thread (.core k) d b n → (s.core k).fibre = true →
     (∀ q ∈ s.fibreReqs, q.reserved ≠ some r) →
     ((∃ o, r.op = .format o) ∨ (∃ c f o, r.op = .new c f o) ∨ (∃ x, r.op = .info x) → exec (.fibreReply j) s =
       done (th.set d (BitVec.ofNat 64 (r.value % 2 ^ 32 + r.work * 2 ^ 32 + r.status.code * 2 ^ 48)))) ∧
     (r.op = .free ∨ (∃ l, r.op = .merge l) ∨ (∃ l, r.op = .delete l) →
       exec (.fibreReply j) s = done (th.set d r.cost)) ∧
     (∀ c m x, r.op = .scan c m x → exec (.fibreReply j) s =
       done ((th.set d (BitVec.ofNat 64 (r.cursor % 2 ^ 32 + r.pairs.length * 2 ^ 32 +
         (if r.endFlag then 1 else 0) * 2 ^ 40))).setFrom b (words (fun i => r.pairs[i]?) ++ [r.cost]))) ∧
     (∀ cs, r.op = .probe cs → exec (.fibreReply j) s =
       done ((th.set d r.cost).setFrom b (words fun i => (r.found.getD i none).map fun v => (cs.getD i 0, v)))) ∧
     r.cost = BitVec.ofNat 64 (r.work + r.splits * 2 ^ 16 + r.wait * 2 ^ 32 + r.status.code * 2 ^ 48)) ∧
  (∀ (s u : State) (j : Nat) (r : FibreReply) (c : CellId) (v : VpId) (block slot inst : Nat) (lanes : List Nat),
     let out := { s with replies := dropNth s.replies j }
     let lo := r.cost.toNat % 2 ^ 32
     let hi := r.cost.toNat / 2 ^ 32
     let head (m : BitVec 16) (l : List Nat) : Token :=
       Token.ofList .ord m (l ++ List.replicate (14 - l.length) 0 ++ [slot, block])
     let on (i : Nat) : Bool := decide (i < r.pairs.length)
     s.replies[j]? = some r → r.agent = .cell c v block slot inst lanes →
     (∀ ts, ((∃ l, r.op = .merge l) ∧ ts = [head 0xC007 [r.status.code, lo, hi]]) ∨
         ((∃ a n x, r.op = .scan a n x) ∧ ts =
           [head 0xC03F [r.status.code, lo, hi, r.cursor, r.pairs.length, r.endFlag.toNat],
             Token.lanes .data on fun i => BitVec.ofNat 32 (r.pairs.getD i (0, 0)).1,
             Token.lanes .data on fun i => BitVec.ofNat 32 (r.pairs.getD i (0, 0)).2]) →
       (s.hosted v c = true → (∀ q ∈ s.replies.take j, q.sameStream r = false) → (∀ q ∈ s.fibreReqs, q.reserved ≠ some r) →
         (s.inRoutes c 6 = [] → s.portRoom c 6 ts.length = true →
           exec (.fibrePostedReply j) s = .next (ts.foldl (fun s t => s.putPort c 6 [t]) out)) ∧
         (s.inRoutes c 6 ≠ [] → exec (.fibrePostedReply j) s = .next ((out.arrive c 6 ts).getD s))) ∧
       (s.hosted v c = true →
         (∃ q ∈ s.replies.take j, q.sameStream r = true) ∨ (∃ q ∈ s.fibreReqs, q.reserved = some r) ∨
           (s.inRoutes c 6 = [] ∧ s.portRoom c 6 ts.length = false) →
         exec (.fibrePostedReply j) s = .next s) ∧
       (s.hosted v c = false → exec (.fibrePostedReply j) s = .next (out.dropOrphan v (c.src 0 0)))) ∧
     (∀ cs pl m q, r.op = .probe cs → out.place c = some pl → out.hosted v c = true →
       oldestOf c (s.memQueue c.server) 0 = some (m, q) →
       let gone := out.setMemQueue c.server (dropNth (s.memQueue c.server) m)
       (q.probeOf v slot inst = false ∨ (s.cell c).holdsReply = true → exec (.fprobeReply j) s = .next s) ∧
       (q.probeOf v slot inst = true → (s.cell c).holdsReply = false → r.status ≠ .badDesc → r.status ≠ .eccDropped →
         let value (i : Nat) : Option Nat := match lanes.findIdx? (· == i) with
           | none => none
           | some n => r.found.getD n none
         exec (.fprobeReply j) s = .next (gone.deliverResult v c inst slot
           (Token.lanes .data (fun i => (value i).isSome) fun i => BitVec.ofNat 32 ((value i).getD 0))
           (Token.ofList .ord 0x0007 [r.status.code, lo, hi]))) ∧
       (q.probeOf v slot inst = true → (s.cell c).holdsReply = false → r.status = .badDesc ∨ r.status = .eccDropped →
         exec (.fprobeReply j) s = .next ((gone.itemFailed v pl.wave c slot 0 r.status).deliverResult v c inst slot
           (Token.ofList .data 0 []) (Token.ofList .err 0x0001 [r.status.code])))) ∧
     (∀ cs, r.op = .probe cs → out.hosted v c = false →
       exec (.fprobeReply j) s = .next (out.dropOrphan v (c.src 0 0))) ∧
     (∀ m p cause ph i, s.parked[m]? = some p → s.walkerFree p m = true →
       (s.parkedWalk m p = (u, .ok ph) → exec (.pageWalk m) s = .next u) ∧
       (s.parkedWalk m p = (u, .error cause) →
         (∀ d slot lane, p.waiter = .cell d slot lane i.num → (u.cell d).inst = some i → (u.row d.rowId).host = some v →
           exec (.pageWalk m) s = .next (u.raiseCell v d ⟨cause, slot, lane, p.va, 0⟩ 0)) ∧
         (∀ root, p.waiter = .unit root → exec (.pageWalk m) s = .next u))) ∧
     (∀ m p, s.parked[m]? = some p → s.walkerFree p m = false → exec (.pageWalk m) s = .next s))

/-! ### Remote calls -/

/-- R336, R344, R348: RCALL whose checks pass takes the lowest free slot and the core's next call number, performs the
caller's earlier stores to the target's page (with the release flag everything earlier, at pod scope for a home on
another module, which it waits for: how acknowledgements come is log 17), sends the call to the target's home, and
x[d] holds the handle. A call without a reply is resent to that home at ¼, ½ and ¾ of KRTIME, and LOST at KRTIME.
Which free slot is taken is the model's choice (log 26). R346: RWAIT of a held slot's handle waits for the reply, then
writes the status and the results and frees the slot; of another handle it answers BAD_DESC with results 0. -/
def Obligations.RemoteCallers : Prop :=
  (∀ (s s1 : State) (k : CoreId) (d a b : XReg) (c : CReg) (rel : Bool) (e : Fin 32) (n : Fin 4) (home : Home) (l : Loc)
       (slot : Fin 16),
     let t := ThreadId.core k
     let th := s.thread t
     let cap := th.cap c
     let u := if rel then s1.drain k else s1.settle t l.space (l.addr / 4096 * 4096) 4096
     let num := (u.core k).callNum
     let call : Call :=
       ⟨(th.get (Fin.ofNat 64 e.val)).toNat % 2 ^ 12,
         Vector.ofFn fun i => if i.val ≤ n.val then th.get (b + Fin.ofNat 64 i.val) else 0,
         cap, th.tenant, num, .core k, home, false, false, rel, l.addr, []⟩
     let opened := u.setCore k { u.core k with
       callNum := if num = BitVec.allOnes 32 then 1 else num + 1
       slots := (u.core k).slots.set slot (some ⟨call, u.cycle, 0, none, false⟩) }
     s.focus.thread = t →
     (cap.tag = true → cap.otype = 0 → cap.tenant = th.tenant → cap.space ≠ .sys → cap.length ≠ 0 →
       s.targetHome t.cache th.tenant (s.threadRoot t) cap = (s1, .ok (home, l)) →
       (s1.core k).slots[slot] = none → (∀ j < slot, (s1.core k).slots[j] ≠ none) →
       (rel = true → s.callsAccepted t = true) →
       ((rel = true → home.isFar = true → (s.drain k).podDone t = true) →
         exec (.rcall d c rel e b n) s = .next (((opened.sendCall call).setX t d
           (BitVec.ofNat 64 (num.toNat + slot.val * 2 ^ 32))).retire t)) ∧
       (rel = true → home.isFar = true → (s.drain k).podDone t = false →
         exec (.rcall d c rel e b n) s = .next (s.drain k))) ∧
     (cap.tag = false → TrapsOn (.rcall d c rel e b n) k 4 (BitVec.ofNat 64 c.val) s) ∧
     (cap.tag = true → cap.otype ≠ 0 ∨ cap.tenant ≠ th.tenant ∨ cap.space = .sys →
       TrapsOn (.rcall d c rel e b n) k 3 (BitVec.ofNat 64 c.val) s) ∧
     (∀ (o : OpenCall), (s.core k).slots[slot] = some o → o.reply = none →
       let time := (s.core k).krtime.toNat * 800
       let put (o : OpenCall) : State := s.setCore k { s.core k with slots := (s.core k).slots.set slot (some o) }
       (o.resends < 3 → (o.resends + 1) * time ≤ 4 * (s.cycle - o.sentAt) →
         exec (.callResend (.core k) slot) s = .next ((put { o with resends := o.resends + 1 }).sendCall o.call)) ∧
       (o.resends < 3 → 4 * (s.cycle - o.sentAt) < (o.resends + 1) * time →
         exec (.callResend (.core k) slot) s = .next s) ∧
       (time ≤ s.cycle - o.sentAt →
         let v := put { o with reply := some ⟨o.call.caller, o.call.num, o.call.entry, 3, 0, 0⟩ }
         exec (.callLostTimeout (.core k) slot) s = .next { v with lost := (o.call.caller, o.call.num) :: v.lost }))) ∧
  (∀ (s : State) (k : CoreId) (d a b : XReg) (slot : Fin 16),
     let t := ThreadId.core k
     let h := ((s.thread t).get a).toNat
     let write (s : State) (st : Nat) (r0 r1 : Word) : Res :=
       .next ((((s.setX t d (BitVec.ofNat 64 (st * 2 ^ 48))).setX t b r0).setX t (b + 1) r1).retire t)
     s.focus.thread = t → slot.val = h / 2 ^ 32 % 16 →
     (∀ (o : OpenCall), (s.core k).slots[slot] = some o → h = o.call.num.toNat + slot.val * 2 ^ 32 →
       (∀ r, o.reply = some r → exec (.rwait d a b) s =
         write (s.setCore k { s.core k with slots := (s.core k).slots.set slot none }) r.status.toNat r.r0 r.r1) ∧
       (o.reply = none → exec (.rwait d a b) s = .next s)) ∧
     ((∀ (o : OpenCall), (s.core k).slots[slot] = some o → h ≠ o.call.num.toNat + slot.val * 2 ^ 32) →
       exec (.rwait d a b) s = write s 14 0 0))

/-- R322, R331, R333, R344, R348, R349: a call arrives at its unit after its caller's earlier ones, a cell's whatever its slot
and block, once what it covers and is ordered after has been performed. A repeat of an answered
call is answered with the kept reply, OK as REPLAYED; of one that runs it is dropped; a call older than the 256 kept
numbers is LOST; a new one is refused BUSY_POWER, or waits, or goes back to its caller's unit, also one on another module, where the unit is full. (That a
repeat is judged before the power budget, and what is kept of a forwarded call, is log 27. The size of a budget and what a call
costs are free values, log 78. That a refusal to a caller of another module leaves on a link while the call keeps its place
here, and that its resend step does nothing on this device, is log 100; that its acceptance leaves on a link too is log 17.) -/
def Obligations.RemoteArrival : Prop :=
  ∀ (s : State) (j : Nat) (c : Call) (u : UnitId),
    let x := s.unit u
    let out := { s with calls := dropNth s.calls j }
    let nums := (x.kept.filter fun q => q.caller.same c.caller).map (·.num)
    let lower (n : BitVec 32) : Prop := 0 < (n - c.num).toInt
    let answer (st : BitVec 16) (r0 r1 : Word) : State := out.sendReply ⟨c.caller, c.num, c.entry, st, r0, r1⟩
    let room : Nat := (match u with | .core _ => 8 | .grotto _ => 32)
    s.calls[j]? = some c → c.home = .unit u → c.refused = false →
    (s.callCovered c = false ∨ s.callOrdered c = false → exec (.remoteCallArrival j) s = .next s) ∧
    (s.callCovered c = true → s.callOrdered c = true →
    (∀ e ∈ s.calls.take j, e.caller.same c.caller = true → c.rel = false ∧ e.home ≠ c.home) →
    (∀ a b v w m n q r, (Caller.cell a v m n).same (.cell b w q r) = decide (a = b)) ∧
    (c.forwarded = false →
      (∀ q r, x.kept.find? (fun q => q.is c.caller c.num) = some q → q.reply = some r →
        exec (.remoteCallArrival j) s = .next (out.sendReply { r with status := if r.status = 0 then 11 else r.status })) ∧
      (∀ q, x.kept.find? (fun q => q.is c.caller c.num) = some q → q.reply = none →
        exec (.remoteCallArrival j) s = .next out)) ∧
    ((∀ q ∈ x.kept, q.is c.caller c.num = false) →
      (256 ≤ nums.length → (∀ n ∈ nums, lower n) → exec (.remoteCallArrival j) s = .next (answer 3 0 0)) ∧
      (nums.length < 256 →
        (∀ v, s.busyPower u c.tenant = (v, true) → exec (.remoteCallArrival j) s =
          .next ({ v with calls := dropNth v.calls j }.sendReply ⟨c.caller, c.num, c.entry, 1, 0, 0⟩)) ∧
        (∀ v, s.busyPower u c.tenant = (v, false) →
          let y := v.unit u
          ((y.waiting.length < room + (v.freeContexts u).length) →
            let t := { v with calls := dropNth v.calls j }.setUnit u { y with
              waiting := y.waiting ++ [c], kept := ⟨c.caller, c.num, none⟩ :: x.kept }
            ((∀ d w n, c.caller ≠ .module d w n) → exec (.remoteCallArrival j) s = .next t) ∧
            (∀ d w n, c.caller = .module d w n → exec (.remoteCallArrival j) s =
              .next { t with outbox := v.outbox ++ [⟨none, ⟨n, .other⟩, .callAccepted c, false⟩] })) ∧
          (room + (v.freeContexts u).length ≤ y.waiting.length →
            let back := { v with calls := setNth v.calls j { c with refused := true } }
            ((∀ d w n, c.caller ≠ .module d w n) → exec (.remoteCallArrival j) s = .next back) ∧
            (∀ d w n, c.caller = .module d w n → exec (.remoteCallArrival j) s =
              .next { back with outbox := v.outbox ++ [⟨none, ⟨c.tenant, .other⟩, .callRefusal c, false⟩] })))))) ∧
    (∀ k, s.busyPower (.core k) c.tenant = (s, false)) ∧
    (∀ g, s.held = true → s.busyPower (.grotto g) c.tenant = (s, true)) ∧
    (∀ g, s.held = false →
      let b := s.budgetOf g c.tenant
      let used := Config.activityNow s.fresh (alGet s.activity b 0) + Config.callCharge s.fresh
      let v := { s with fresh := s.fresh + 1 }
      (s.budgetLimit b < used → s.busyPower (.grotto g) c.tenant = (v, true)) ∧
      (used ≤ s.budgetLimit b →
        s.busyPower (.grotto g) c.tenant = ({ v with activity := alSet s.activity b used }, false))) ∧
    (∀ (i : Nat) (e : Call), s.calls[i]? = some e → e.refused = true →
      (∀ f ∈ s.calls.take i, f.refused = true → f.caller.same e.caller = true → f.home.mayBe e.home = false) →
      ((∀ d w n, e.caller ≠ .module d w n) →
        exec (.callRefusalResend i) s = .next { s with calls := setNth s.calls i { e with refused := false } }) ∧
      (∀ d w n, e.caller = .module d w n → exec (.callRefusalResend i) s = .next s))

/-- R334, R335, R339, R340, R341: a free context takes the oldest waiting call. A function of an entry from 64 starts
unprivileged at pc 0 of the table's capability with x1 to x7, c0 and c1 as R339 gives and a budget of 4,096
instructions; entries 4 to 63, built-ins at a control core and entries that fail are answered and do not run. With its
budget gone a function ends with REMOTE_BUDGET. R341, R342, R343: RRET ends a remote function with its status and
results; statuses 3, 4 and 11 fault it. RFWD ends it and passes its call on, with the original caller, number and
tenant, and faults a function that was itself forwarded. As releases both wait for the acknowledgements of what the
function has stored on other modules (log 17). In a control thread both raise ILLEGAL. -/
def Obligations.RemoteFunctions : Prop :=
  (∀ (s v : State) (u : UnitId) (c : Call) (rest : List Call) (i : Fin 8) (more : List (Fin 8)) (entry : Cap),
     let x := s.unit u
     let w := s.setUnit u { x with waiting := rest }
     let run (v : State) (t : Thread) : State :=
       v.setUnit u { v.unit u with ctx := (v.unit u).ctx.set i (some ⟨c, t, 4096, false, none, 0⟩) }
     let answer (v : State) (st : BitVec 16) : State :=
       let r : CallReply := ⟨c.caller, c.num, c.entry, st, 0, 0⟩
       (v.setUnit u ((v.unit u).keep r)).sendReply r
     let source : Nat := match c.caller with
       | .core k => s.kdevno.toNat * 2 ^ 32 + (coreDie k).val * 2 ^ 31 + 4 * coreNum k * 2 ^ 24 + 63 * 2 ^ 16 + coreNum k
       | .cell e _ _ _ => s.kdevno.toNat * 2 ^ 32 + e.die.val * 2 ^ 31 + e.row.val * 2 ^ 24 + e.col.val * 2 ^ 16
       | .module d src _ => d % 2 ^ 12 * 2 ^ 32 + src.toNat
     x.waiting = c :: rest → s.freeContexts u = i :: more →
     (∀ g, u = .grotto g → c.entry < 4 → exec (.remoteContextStart u) s = .next (run w .zero)) ∧
     (∀ k, u = .core k → c.entry < 4 → exec (.remoteContextStart u) s = .next (answer w 8)) ∧
     (4 ≤ c.entry → c.entry < 64 → exec (.remoteContextStart u) s = .next (answer w 8)) ∧
     (64 ≤ c.entry → ∀ st, w.readTable u c = (v, .error st) →
       exec (.remoteContextStart u) s = .next (answer v (BitVec.ofNat 16 st.code))) ∧
     (64 ≤ c.entry → w.readTable u c = (v, .ok entry) → v.kdevno = s.kdevno →
       ∃ t : Thread, exec (.remoteContextStart u) s = .next (run v t) ∧
         t.pcc = Cap.make entry.base entry.space entry.length entry.perms entry.tenant 0 entry.tag ∧ t.pc = 0 ∧
         t.priv = false ∧ t.tenant = c.tenant ∧ t.cap 0 = c.cap ∧ t.cap 1 = c.cap ∧
         (∀ r, 2 ≤ r.val → t.cap r = Cap.null) ∧
         (∀ n : Fin 4, t.get (Fin.ofNat 64 (n.val + 1)) = c.payload[n]) ∧ t.get 5 = BitVec.ofNat 64 c.entry ∧
         t.get 6 = BitVec.ofNat 64 source ∧ t.get 7 = c.num.setWidth 64 ∧ ∀ r : XReg, 8 ≤ r.val → t.get r = 0) ∧
     (∀ (j : Fin 8) (y : RemoteCtx), x.ctx[j] = some y → 64 ≤ y.call.entry →
       (y.budget = 0 → ∃ tv t, exec (.remoteBudgetExhausted ⟨u, j⟩) s = .next t ∧
         t = { s with fresh := s.fresh + 1 }.endRemote ⟨u, j⟩ 4 y.thread.pc (BitVec.ofNat 64 (12 + tv * 2 ^ 32))) ∧
       (y.budget ≠ 0 → exec (.remoteBudgetExhausted ⟨u, j⟩) s = .next s))) ∧
  (∀ (s v : State) (r : RemoteId) (x : RemoteCtx) (d a b : XReg) (ca : CReg) (home : Home) (l : Loc) (k : CoreId),
     let th := x.thread
     let cap := th.cap ca
     let st := (th.get d).toNat % 2 ^ 16
     let ended (s : State) (st : BitVec 16) (r0 r1 : Word) : State := s.endRemote r st r0 r1
     let faulted (i : Instr) : Prop := ∀ w, encode i = some w →
       exec i s = .next (ended s 4 th.pc (BitVec.ofNat 64 (1 + w % 2 ^ 32 * 2 ^ 32)))
     (s.focus.thread = .remote r → (s.unit r.unit).ctx[r.ctx] = some x →
       (st ≠ 3 → st ≠ 4 → st ≠ 11 → s.podDone (.remote r) = true →
         exec (.rret d a b) s = .next (ended s (BitVec.ofNat 16 st) (th.get a) (th.get b))) ∧
       (st ≠ 3 → st ≠ 4 → st ≠ 11 → s.podDone (.remote r) = false → exec (.rret d a b) s = .next s) ∧
       (st = 3 ∨ st = 4 ∨ st = 11 → faulted (.rret d a b)) ∧
       (x.call.forwarded = true → faulted (.rfwd ca b)) ∧
       (x.call.forwarded = false → cap.tag = true → cap.otype = 0 → cap.tenant = th.tenant → cap.space ≠ .sys →
         cap.length ≠ 0 →
         s.targetHome (ThreadId.remote r).cache th.tenant (s.threadRoot (.remote r)) cap = (v, .ok (home, l)) →
         (s.podDone (.remote r) = false → exec (.rfwd ca b) s = .next s) ∧
         (s.podDone (.remote r) = true → exec (.rfwd ca b) s = .next ((v.setUnit r.unit { v.unit r.unit with ctx := (v.unit r.unit).ctx.set r.ctx none }).sendCall
           { x.call with
             entry := (th.get b).toNat % 2 ^ 12, payload := #v[th.get 1, th.get 2, th.get 3, th.get 4], cap := cap,
             home := home, forwarded := true, refused := false, after := [] }))) ∧
       ∀ st r0 r1,
         let w := s.unit r.unit
         let q : CallReply := ⟨x.call.caller, x.call.num, x.call.entry, st, r0, r1⟩
         ended s st r0 r1 = (s.setUnit r.unit ({ w with ctx := w.ctx.set r.ctx none }.keep q)).sendReply q) ∧
     (s.focus.thread = .core k → Illegal (.rret d a b) k s ∧ Illegal (.rfwd ca b) k s))

/-- R338, R346, R348: a reply arrives at its caller: a held call without a reply takes it before KRTIME; from then on it is
LOST, whether or not its own step has said so (log 31), and for a call that was LOST a
REMOTE_LATE record is posted instead, for a cell with the control core of its row group as source (log 31). A cell's answered call becomes one ORD token at REPLY, or goes where the cell's
routes for that port say; for a VP that the row no longer hosts it is an ORPHAN, whose source is log 84. -/
def Obligations.RemoteReplies : Prop :=
  ∀ (s : State) (j : Nat) (r : CallReply),
    let out := { s with callBack := dropNth s.callBack j }
    s.callBack[j]? = some r → s.cleared.contains (r.caller, r.num) = false →
    let late (die group : Nat) : BitVec 128 := record 6 0 r.status.toNat
      (die * 2 ^ 31 + 4 * group * 2 ^ 24 + 63 * 2 ^ 16) (r.num.toNat + r.entry % 2 ^ 12 * 2 ^ 32)
    let lost (o : OpenCall) : OpenCall := { o with reply := some ⟨o.call.caller, o.call.num, o.call.entry, 3, 0, 0⟩ }
    (s.lost.contains (r.caller, r.num) = true → ∀ k, r.caller = .core k →
      exec (.callReplyArrival j) s = .next (out.post k (late (coreDie k).val (coreNum k)))) ∧
    (s.lost.contains (r.caller, r.num) = true → ∀ (c : CellId) v b m, r.caller = .cell c v b m →
      exec (.callReplyArrival j) s =
        .next (out.post (out.vp v).eventCore (late c.die.val (c.row.val / 4)))) ∧
    (s.lost.contains (r.caller, r.num) = false →
      (∀ k (slot : Fin 16) o, r.caller = .core k → (s.core k).slots[slot] = some o → o.call.num = r.num →
        o.call.caller = r.caller → o.reply = none →
        (∀ (i : Fin 16) q, (s.core k).slots[i] = some q → q.call.num = r.num → q.call.caller = r.caller → i = slot) →
        (s.cycle - o.sentAt < (s.core k).krtime.toNat * 800 →
          ∃ t, exec (.callReplyArrival j) s = .next t ∧ (t.core k).slots[slot] = some { o with reply := some r } ∧
            ∀ m, m ≠ k → t.core m = s.core m) ∧
        ((s.core k).krtime.toNat * 800 ≤ s.cycle - o.sentAt →
          let u := out.setCore k { s.core k with slots := (s.core k).slots.set slot (some (lost o)) }
          exec (.callReplyArrival j) s = .next
            ({ u with lost := (r.caller, r.num) :: s.lost }.post k (late (coreDie k).val (coreNum k))))) ∧
      (∀ c v b m (slot : Fin 16) o, r.caller = .cell c v b m → out.tooLate r = some (.cell c, slot, o) →
        let u := out.setCell c { s.cell c with calls := setNth (s.cell c).calls slot.val (lost o) }
        exec (.callReplyArrival j) s = .next ({ u with lost := (o.call.caller, o.call.num) :: s.lost }.post
          (out.vp v).eventCore (late c.die.val (c.row.val / 4)))) ∧
      (∀ c v b m, r.caller = .cell c v b m → out.tooLate r = none →
        exec (.callReplyArrival j) s = .next (out.setCell c { out.cell c with
          calls := (out.cell c).calls.map fun o =>
            if o.call.num = r.num ∧ o.call.caller = r.caller ∧ o.reply = none then { o with reply := some r } else o }))) ∧
    (∀ c v slot block o q rest, (s.cell c).calls = o :: rest → o.reply = some q → o.call.caller = .cell c v slot block →
      let u := s.setCell c { s.cell c with calls := rest }
      let lo (w : Word) : Nat := w.toNat % 2 ^ 32
      let hi (w : Word) : Nat := w.toNat / 2 ^ 32
      let token := Token.ofList .ord 0xC01F
        ([q.status.toNat, lo q.r0, hi q.r0, lo q.r1, hi q.r1] ++ List.replicate 9 0 ++ [slot, block])
      (s.hosted v c = true → s.inRoutes c 6 = [] → s.portRoom c 6 1 = true →
        exec (.callReplyToken c) s = .next (u.putPort c 6 [token])) ∧
      (s.hosted v c = true → s.inRoutes c 6 ≠ [] →
        exec (.callReplyToken c) s = .next ((u.arrive c 6 [token]).getD s)) ∧
      (s.hosted v c = true → s.inRoutes c 6 = [] → s.portRoom c 6 1 = false → exec (.callReplyToken c) s = .next s) ∧
      (s.hosted v c = false → exec (.callReplyToken c) s = .next (u.dropOrphan v (c.src 0 0))))

/-- R351 to R355: the built-in functions at a grotto. Each first makes its checks; REDUCE adds its sources as a tree
and ADAMW updates its arrays, 16 elements a step, each group's inputs read before any output is written; FILL and COPY
write 8 bytes a step; at the end, once what they have stored on other modules has been acknowledged (R351, R343: log 17), the
results are the count and, of REDUCE and ADAMW, the flag value. -/
def Obligations.BuiltIns : Prop :=
  ∀ (s u v : State) (g : GrottoId) (j : Fin 8) (x : RemoteCtx),
    let t : RemoteId := ⟨.grotto g, j⟩
    let cap := x.call.cap
    let p (i : Fin 4) : Nat := x.call.payload[i].toNat
    let ends (s : State) (st : BitVec 16) (r0 r1 : Nat) : State := s.endRemote t st (BitVec.ofNat 64 r0) (BitVec.ofNat 64 r1)
    let checked (ws : List Nat) : State := s.setCtx t { x with params := some ws }
    let who : Sender := ⟨x.call.tenant, .thread (.remote t)⟩
    (s.unit (.grotto g)).ctx[j] = some x →
    (∀ (i : Instr) (ok : Cap → List Nat → Bool),
      (x.call.entry = 0 ∧ i = .builtinReduce t ∧ ok = reduceOk) ∨ (x.call.entry = 1 ∧ i = .builtinAdamw t ∧ ok = adamwOk) →
      (x.params = none → cap.space ≠ .dense ∨ cap.pR = false ∨ cap.pW = false → exec i s = .next (ends s 6 0 0)) ∧
      (x.params = none → cap.space = .dense → cap.pR = true → cap.pW = true → p 0 % 8 = 0 → p 0 + 128 ≤ cap.length →
        ∀ ws, s.builtinWords t.unit x.call.tenant (cap.base + p 0) 32 = (u, .ok ws) →
          (ok cap ws = true → exec i s = .next (u.setCtx t { x with params := some ws })) ∧
          (ok cap ws = false → exec i s = .next (ends u 14 0 0))) ∧
      (∀ ws, x.params = some ws → blockWord ws 0 ≤ x.done →
        (blockWord ws 3 = 1 → s.podDone (.remote t) = true →
          exec i s = .next (ends s 0 (blockWord ws 0) (blockDouble ws 8))) ∧
        (s.podDone (.remote t) = false → exec i s = .next s))) ∧
    (x.call.entry = 0 → ∀ ws, x.params = some ws → x.done < blockWord ws 0 →
      exec (.builtinReduce t) s = .next (s.blockGroup t x ws (reduceSources ws) [blockDouble ws 4] fun cols =>
        [(List.range ((cols.headD []).length)).map fun i => treeSum (cols.map fun c => c.getD i 0)])) ∧
    (x.call.entry = 1 → ∀ ws, x.params = some ws → x.done < blockWord ws 0 →
      exec (.builtinAdamw t) s = .next (s.blockGroup t x ws
          [blockDouble ws 4, blockDouble ws 10, blockDouble ws 12, blockDouble ws 14]
          [blockDouble ws 4, blockDouble ws 12, blockDouble ws 14] fun cols =>
        let at' (j i : Nat) : Nat := (cols.map fun c => c.getD i 0).getD j 0
        let new := (List.range ((cols.headD []).length)).map fun i => adamwElem ws (at' 0 i) (at' 1 i) (at' 2 i) (at' 3 i)
        [new.map (·.1), new.map (·.2.1), new.map (·.2.2)])) ∧
    (∀ (ws : List Nat) (a b c d : Nat), adamwElem ws a b c d =
      let k (i : Nat) : Nat := blockWord ws (16 + i)
      let m := f32Add (f32Mul (k 0) c) (f32Mul (k 1) b)
      let w := f32Add (f32Mul (k 2) d) (f32Mul (k 3) (f32Mul b b))
      let den := f32Add (f32Sqrt (f32Mul w (k 5))) (k 6)
      let y := f32Div (f32Mul m (k 4)) den
      (f32Sub a (f32Mul (k 7) (f32Add y (f32Mul (k 8) a))), m, w)) ∧
    (x.call.entry = 2 →
      (x.params = none → cap.space = .dense → cap.pW = true → p 0 % 8 = 0 → p 1 % 8 = 0 → p 0 + p 1 ≤ cap.length →
        exec (.builtinFill t) s = .next (checked [])) ∧
      (x.params = none → cap.space ≠ .dense ∨ cap.pW = false → exec (.builtinFill t) s = .next (ends s 6 0 0)) ∧
      (∀ ws, x.params = some ws → p 1 ≤ x.done → s.podDone (.remote t) = true →
        exec (.builtinFill t) s = .next (ends s 0 (p 1) 0)) ∧
      (∀ ws a, x.params = some ws → x.done < p 1 →
        s.builtinTargets t.unit x.call.tenant .perm 8 [cap.base + p 0 + x.done] = (u, .ok [[(⟨.dense, a, none⟩, 8)]]) →
        exec (.builtinFill t) s = .next ((u.locWrite who ⟨.dense, a, none⟩ (leBytes 8 (p 2))).setCtx t
          { x with done := x.done + 8 }))) ∧
    (x.call.entry = 3 →
      (x.params = none → cap.space = .dense → cap.pR = true → cap.pW = true → p 0 % 8 = 0 → p 1 % 8 = 0 → p 2 % 8 = 0 →
        p 0 + p 2 ≤ cap.length → p 1 + p 2 ≤ cap.length → p 1 + p 2 ≤ p 0 ∨ p 0 + p 2 ≤ p 1 →
        exec (.builtinCopy t) s = .next (checked [])) ∧
      (x.params = none → cap.space = .dense → cap.pR = true → cap.pW = true → p 0 < p 1 + p 2 → p 1 < p 0 + p 2 →
        exec (.builtinCopy t) s = .next (ends s 14 0 0)) ∧
      (∀ ws, x.params = some ws → p 2 ≤ x.done → s.podDone (.remote t) = true →
        exec (.builtinCopy t) s = .next (ends s 0 (p 2) 0)) ∧
      (∀ ws bs a, x.params = some ws → x.done < p 2 →
        s.builtinRead t.unit x.call.tenant (cap.base + p 1 + x.done) 8 = (u, .ok bs) →
        u.builtinTargets t.unit x.call.tenant .perm 8 [cap.base + p 0 + x.done] = (v, .ok [[(⟨.dense, a, none⟩, 8)]]) →
        exec (.builtinCopy t) s = .next ((v.locWrite who ⟨.dense, a, none⟩ (leBytes 8 (leNat bs))).setCtx t
          { x with done := x.done + 8 }))) ∧
    (∀ a b c d e f h : Nat, treeSum [a, b, c, d, e] = f32Add (f32Add (f32Add a b) (f32Add c d)) e ∧
      treeSum [a, b, c, d, e, f, h] = f32Add (f32Add (f32Add a b) (f32Add c d)) (f32Add (f32Add e f) h))

/-! ### Cells between instructions -/

/-- R153, R155, R156, R157: a block instance commits once every register of its write mask is written, its outputs are
issued, one exit has fired, no drain is in progress, and the sends of the block before have left; until then the step
changes nothing. It waits for no load: what the memory cell has to perform ahead of its held effects is performed with it (how,
is the model's reading, log 42). With nothing held, its register writes then stand in g, the tokens that it took from N have left, and
BEND ends the cell's work for the wave. A quiescent instance that does not meet this raises EXIT_COUNT with source
kind 3. A cell whose fault waits for its answer does neither (R371). Held sends resume once what precedes them has been performed. -/
def Obligations.BlockCommit : Prop :=
  ∀ (s : State) (c : CellId) (pl : Place) (b : Block) (i : Instance),
    let x := s.cell c
    let met : Prop := (∀ r : Fin 64, b.mask.getLsbD r.val = true → ∃ t, (r, t) ∈ i.writes) ∧ i.outputs = b.outputs ∧
      i.exit ≠ none ∧ i.drains = []
    x.running = some (b, i) → s.place c = some pl →
    (x.pending = true → exec (.blockCommit c) s = .next s ∧ exec (.blockQuiescence c) s = .next s) ∧
    (x.pending = false → x.action = none →
    (∀ e, met → i.exit = some e → x.sendQ = [] →
      let rs := (sortHeld i.held).filterMap fun h => heldReq c pl.v i h.2
      exec (.blockCommit c) s = .next ((((s.performAhead c i rs).commit c pl i).resumeSends c).follow pl.v c e) ∧
      ((∀ a ∈ s.memQueue c.server, a.beforeCommit c i rs = false) → s.performAhead c i rs = s)) ∧
    (¬ met ∨ x.sendQ ≠ [] → exec (.blockCommit c) s = .next s) ∧
    (met → i.exit = some .bend → x.sendQ = [] → i.held = [] → (i.writes.map (·.1)).Nodup →
      (∀ a ∈ s.memQueue c.server, a.beforeCommit c i [] = false) → (∀ t ∈ i.taken, t.1 = 0) →
      ∃ t, exec (.blockCommit c) s = .next t ∧ (t.cell c).bend = true ∧ (t.cell c).inst = none ∧
        (∀ w ∈ i.writes, (t.cell c).g[w.1] = w.2) ∧
        (∀ r : Fin 64, (∀ w ∈ i.writes, w.1 ≠ r) → (t.cell c).g[r] = x.g[r]) ∧
        (t.cell c).ports[0] = x.ports[0].drop i.taken.length) ∧
    (¬ met → i.drains = [] → (∀ n < b.words.length, slotAlive b i n = false) →
      exec (.blockQuiescence c) s = .next (s.raiseCell pl.v c ⟨.exitCount, 0, 0, 0, 3⟩ 0)) ∧
    (met ∨ i.drains ≠ [] ∨ (∃ n < b.words.length, slotAlive b i n = true) → exec (.blockQuiescence c) s = .next s)) ∧
    (s.unreleased c = true → exec (.sendResume c) s = .next s) ∧
    (s.unreleased c = false → exec (.sendResume c) s = .next (s.drainSends c x.sendQ.length))

/-- R134, R137, R159, R160, R204, R226: the first flight of a route reaches its port when there is room and no route
passes it on; a retired cell passes what arrives at N on to S, and at S on to N; a damaged one arrives as an empty
DATA token and an ERR token of ECC_DROPPED, and counts as an error; one for a row that no longer hosts its VP is
dropped as an ORPHAN, whose source is log 84; and one on an edge to a row that has placed its RCF is discarded (log
50). R143: a drain takes the next token of its port and discards it; data counts in the block's discards. It ends at a
marker of its kind or at EOW, and a slot whose drains have all ended fires with its marker, or with the EOW that one
of them met in place of another marker. -/
def Obligations.TokenArrival : Prop :=
  (∀ (s : State) (j : Nat) (f : Flight) (ok : Bool),
     let out := { s with flights := dropNth s.flights j }
     let late := f.edge ≠ none ∧ (s.row f.dest.rowId).phase ∈ [.rcf, .taken, .saved, .left, .empty]
     s.flights[j]? = some f →
     (∀ g ∈ s.flights.take j, ¬ (g.src = f.src ∧ g.dest = f.dest ∧ g.port = f.port)) →
     (s.hosted f.vp f.dest = false →
       exec (.tokenReceive j ok) s = .next (out.dropOrphan f.vp (f.dest.src 0 0))) ∧
     (s.hosted f.vp f.dest = true → late → exec (.tokenReceive j ok) s = .next (out.setCell f.dest
       { s.cell f.dest with discard := (s.cell f.dest).discard + 1 })) ∧
     (∀ pl u, s.hosted f.vp f.dest = true → ¬ late → s.isRetired f.dest = true → ok = true → f.tok.k ≠ .eow →
       s.place f.dest = some pl → (f.port = 0 ∨ f.port = 2) →
       out.sendHop pl f.dest f.tok (if f.port = 0 then 2 * 2 ^ 24 else 0) = some u →
       exec (.tokenReceive j ok) s = .next (u.touch f.vp)) ∧
     (s.hosted f.vp f.dest = true → ¬ late → s.isRetired f.dest = false → passRoutes (s.cell f.dest).program.routes f.port = [] →
       (ok = true → out.portRoom f.dest f.port 1 = true →
         exec (.tokenReceive j ok) s = .next ((out.putPort f.dest f.port [f.tok]).touch f.vp)) ∧
       (ok = true → out.portRoom f.dest f.port 1 = false → exec (.tokenReceive j ok) s = .next s) ∧
       (ok = false → out.portRoom f.dest f.port 2 = true →
         exec (.tokenReceive j ok) s = .next ((((out.countError (.cell f.dest) true).putPort f.dest f.port
           [Token.ofList .data 0 []]).putPort f.dest f.port [Token.ofList .err 0x0001 [16]]).touch f.vp)))) ∧
  (∀ (s : State) (c : CellId) (port : Fin 8) (pl : Place) (b : Block) (i : Instance) (d : Drain) (t : Token),
     let x := s.cell c
     let stops : Bool := t.k == d.kind || t.k == .eow
     let d' : Drain := { d with fin := stops, eow := if t.k = .eow ∧ d.kind ≠ .eow then some t else none }
     x.running = some (b, i) → s.place c = some pl → i.drains = [d] → d.port = port → d.fin = false →
     (x.ports[port])[(i.taken.filter fun t => t.1 == port).length]? = some t → t.k ≠ .pre → t.k ≠ .rcf →
     x.arrayOwns port = false → x.pending = false → x.action = none →
     let j : Instance := { i with
       taken := i.taken ++ [(port, t)], drains := [d'], discards := i.discards + if t.k.isMarker then 0 else 1 }
     (stops = false → exec (.markerDrain c port) s = .next (s.setInst c j)) ∧
     (∀ ins sl sh m ds, stops = true → b.instr d.slot = some ins → i.slots[d.slot]? = some sl → instrShape ins = some sh →
       sh.judge (isTestk ins) sl.l sl.r sl.p = .marker m ds →
       let y := Ctx.of c pl b { j with drains := [] } d.slot sh sl
       exec (.markerDrain c port) s = .next ((y.forward ins (if t.k = .eow ∧ d.kind ≠ .eow then t else m) s).finish y)))

/-- R132, R161, R183, R184, R185, R322, R155, R376: a memory cell performs a queued request that no other must precede: one
received earlier that touches an element of it, or is an atomic on its scratchpads as this is one; or a held store that
this is ordered after, wherever that stands. A load's reply is its values and ORD; a store's lanes are written in ascending
order, and a damaged unit of which it writes both elements reads correctly from then on; an atomic is applied whole. A cell takes its replies in the order of its requests; the lanes that one dropped
are reported with it. A request that is ordered after a store on another module waits for its acknowledgement (R321; log 17). (That a held store goes first wherever it stands is log 42, the model's reading of R322 beside R132; slot and lane of the
ORPHAN of a reply that no VP waits for are log 84.) -/
def Obligations.MemoryCellSteps : Prop :=
  ∀ (s u : State) (m : CellId) (n : Nat) (r : CellReq),
    let q := s.memQueue m
    let whole (vs : List (Nat × Option Elem)) : Token × Token :=
      (Token.lanes .data (fun i => (laneValue vs i).isSome) (fun i => (laneValue vs i).getD 0),
        Token.ofList .ord 0x0003 [0, vs.length])
    let who : Sender := ⟨(s.vp r.vp).tenant, .cell r.cell r.inst r.slot⟩
    q[n]? = some r → r.reply = none →
    (s.storesFar r = true → exec (.memoryCellRequest m n) s = .next s ∧ exec (.atomicAtOwner m n) s = .next s) ∧
    (s.storesFar r = false → (∀ k e, q[k]? = some e → k ≠ n → mustPrecede e r (decide (k < n)) = false) →
      (∀ sp ls vs, r.body = .lanes .load sp ls [] → s.readLanes who [] sp ls = (u, vs) → (∀ v ∈ vs, v.2 ≠ none) →
        exec (.memoryCellRequest m n) s = .next (u.setMemQueue m (setNth (u.memQueue m) n { r with reply := some (whole vs) }))) ∧
      (∀ sp ls o, r.body = .lanes .store sp ls o →
        let u := ls.foldl (fun s l => s.locWrite who ⟨sp, l.addr, none⟩ (leBytes 4 l.data.toNat))
          (s.healStore (ls.map fun l => ⟨sp, l.addr, none⟩))
        exec (.memoryCellRequest m n) s = .next (u.setMemQueue m (dropNth (u.memQueue m) n))) ∧
      (∀ op sp ls vs, r.body = .lanes op sp ls [] → op ≠ .load → op ≠ .store → r.isHeld s = false →
        s.atomicLanes ⟨(s.vp r.vp).tenant, .other⟩ [] op sp [] ls = (u, vs) → (∀ v ∈ vs, v.2 ≠ none) →
        exec (.atomicAtOwner m n) s = .next (u.setMemQueue m (setNth (u.memQueue m) n { r with reply := some (whole vs) })))) ∧
    ((∃ k e, q[k]? = some e ∧ k ≠ n ∧ mustPrecede e r (decide (k < n)) = true) →
      exec (.memoryCellRequest m n) s = .next s ∧ exec (.atomicAtOwner m n) s = .next s) ∧
    (∀ (v : State) (ls : List Loc), v.mem.poison = [] → v.scratch.poison = [] → v.healStore ls = v) ∧
    (∀ (v : State) a, a % 8 = 0 → (v.healStore [⟨.scratch, a, none⟩, ⟨.scratch, a + 4, none⟩]).scratch.bad a 8 = false) ∧
    (∀ (a : CellReq) (first : Bool), a.reply = none → mustPrecede a r first =
      (r.orderedAfter a || (first && conflicting a r && !a.orderedAfter r))) ∧
    (∀ (old opd : Elem), cellAtomic .atadd old opd = old + opd ∧
      cellAtomic .atmax old opd = (if old.toInt < opd.toInt then opd else old) ∧
      cellAtomic .atfadd old opd = BitVec.ofNat 32 (f32Add old.toNat opd.toNat)) ∧
    (∀ c p (e : CellReq) t0 t1, (s.cell c).pending = false → (s.cell c).action = none → oldestOf c (s.memQueue c.server) 0 = some (p, e) → e.reply = some (t0, t1) →
      let v := s.setMemQueue c.server (dropNth (s.memQueue c.server) p)
      (v.hosted e.vp c = true → t1.k ≠ .err →
        exec (.memoryCellReply c) s = .next (v.deliverResult e.vp c e.inst e.slot t0 t1)) ∧
      (v.hosted e.vp c = true → t1.k = .err → exec (.memoryCellReply c) s =
        .next ((v.reportDropped e ((List.range 16).filter fun i => (t1.at 1).getLsbD i)).deliverResult e.vp c e.inst e.slot
          t0 t1)) ∧
      (v.hosted e.vp c = false → exec (.memoryCellReply c) s = .next (v.dropOrphan e.vp (c.src 0 0))))

/-- R189: a memory cell moves the next 64-byte line of a cell's oldest transfer; after the last line, or where a line
fails, the completion arrives at XFER with the status, the bytes moved and the descriptor's tag, and a failure is
ITEM_FAILED (with lane 0, the model's choice, log 113). A transfer waits for the held stores that it is ordered after (R322). R136,
R407: an address generator that sends puts the elements of its frame's lanes into a DATA token,
ends each run with EOT, and with EOW the frame; an EOW ends one that receives.
What a receiving generator does with markers is the model's reading (log 43). -/
def Obligations.TransfersAndGenerators : Prop :=
  ∀ (s u v : State) (c : CellId),
    (∀ n (t : Transfer), s.transfers.findIdx? (fun t => t.cell == c) = some n → s.transfers[n]? = some t →
      s.admits c 7 1 = true → u.inRoutes c 7 = [] →
      (s.storesWait c t.inst t.after = true → exec (.transferLine c) s = .next s) ∧
      (s.storesWait c t.inst t.after = false →
      (s.moveLine t = (u, .ok) → t.moved + 64 < t.len →
        exec (.transferLine c) s = .next { u with transfers := setNth u.transfers n { t with moved := t.moved + 64 } }) ∧
      (s.moveLine t = (u, .ok) → t.len ≤ t.moved + 64 → u.hosted t.vp c = true →
        exec (.transferLine c) s = .next ({ u with transfers := dropNth u.transfers n }.putPort c 7
          [Token.ofList .ord 0x0013 [0, t.moved + 64, 0, 0, t.tag.toNat]])) ∧
      (∀ st pl, s.moveLine t = (u, st) → st ≠ .ok → u.hosted t.vp c = true → u.place c = some pl →
        ∃ w, w = { u with transfers := dropNth u.transfers n }.putPort c 7
            [Token.ofList .ord 0x0013 [st.code, t.moved, 0, 0, t.tag.toNat]] ∧
          ∀ wp, w.place c = some wp → exec (.transferLine c) s = .next (w.itemFailed t.vp wp.wave c t.slot 0 st)))) ∧
    (∀ (gen : Fin 2) (a : Agen) (pl : Place), s.place c = some pl → (s.cell c).agens[gen] = some a → a.done = false →
      a.faulted = false → a.stop = false → (s.cell c).saved = false →
      let word (i : Fin 8) : Nat := (a.words[i]).toNat
      let port : Fin 8 := Fin.ofNat 8 (word 0 / 2 ^ 8 % 8)
      let lanes := (List.range 16).filter fun i => word 6 / 2 ^ i % 2 == 1
      (word 0 / 2 % 2 = 0 → pl.x.stage ≠ .preempting →
        (∀ ls vs, a.outer < word 5 → a.inner < word 3 → s.agenAccess c pl.x.tenant a false lanes = (u, .ok ls) →
          u.agenRead ⟨pl.x.tenant, .engine c⟩ ls = (v, vs) → (∀ e ∈ vs, e.2 ≠ none) →
          ∀ w, v.sendPort c port (Token.lanes .data (fun i => (laneValue vs i).isSome)
              (fun i => (laneValue vs i).getD 0)) = some w →
            exec (.addressGeneratorToken c gen) s = .next (w.setAgen c gen { a with inner := a.inner + 1 })) ∧
        (a.outer < word 5 → word 3 ≤ a.inner → s.sendPort c port (Token.marker .eot a.eots) = some u →
          exec (.addressGeneratorToken c gen) s = .next (u.setAgen c gen
            { a with outer := a.outer + 1, inner := 0, eots := a.eots + 1 })) ∧
        (word 5 ≤ a.outer → s.sendPort c port (Token.marker .eow pl.wave) = some u →
          exec (.addressGeneratorToken c gen) s = .next (u.setAgen c gen { a with done := true }))) ∧
      (∀ t rest, word 0 / 2 % 2 = 1 → (s.cell c).inst = none → (s.cell c).ports[port] = t :: rest → t.k = .eow →
        (s.cell c).arrayOwns port = false →
        exec (.addressGeneratorToken c gen) s = .next ((s.removeTokens c port 1).setAgen c gen { a with done := true })))

/-- R271, R282, R283, R287, R288, R291: the matrix array. Its first command starts once the last release has left, an MMAS with
its metadata read from the scratchpad; each
further step takes it on; a command whose operands are complete and well formed goes through its k indices and
completes, its release then being due. ACCZ clears the tile, its flags and the counter; a release that is due puts the
tile's tokens up and clears it, and leaves token by token. (When a packet's tokens are taken and passed on is log 44.) -/
def Obligations.MatrixArray : Prop :=
  ∀ (s u : State) (c : CellId) (pl : Place) (r : MatrixRun) (rest : List MatrixRun),
    let x := s.cell c
    s.place c = some pl → x.matrix = r :: rest →
    (x.release = none → x.due = none → r.cmd.op.val ≠ 3 →
      (r.started = false →
        let run (marks : List Nat) : MatrixRun :=
          { r with started := true, marks := marks, aDone := descE r.cmd.l 0 == 1, bDone := descE r.cmd.r 0 == 1 }
        let starts (v : State) (marks : List Nat) : Prop :=
          ((run marks).wellFormed false = true → exec (.matrixCommandStart c) s = .next (v.setRun c (run marks))) ∧
          ((run marks).wellFormed false = false →
            exec (.matrixCommandStart c) s = .next (v.badRun pl c (run marks) false false))
        (r.cmd.op.val = 0 ∨ r.cmd.op.val = 2 ∨ r.cmd.pattern = none → starts s []) ∧
        (∀ n m, r.cmd.op.val = 1 → r.cmd.pattern = some (n, m) →
          let total := r.cmd.windows * r.cmd.groups * n
          let at' := descE r.cmd.l 5
          (fieldsOk r.cmd = false ∨ r.cmd.l.ok 5 = false ∨ inScratch at' total = false →
            exec (.matrixCommandStart c) s = .next (s.badRun pl c (run []) false false)) ∧
          (fieldsOk r.cmd = true → r.cmd.l.ok 5 = true → inScratch at' total = true →
            (∀ v marks, s.ownReads c 1 ((List.range total).map fun i => at' + i) = (v, some marks) → starts v marks) ∧
            (∀ v, s.ownReads c 1 ((List.range total).map fun i => at' + i) = (v, none) →
              exec (.matrixCommandStart c) s = .next (v.eccRun pl c r))))) ∧
      (r.started = true → r.aDone = false ∨ r.bDone = false → exec (.matrixCommandStart c) s = .next s) ∧
      (r.started = true → r.aDone = true → r.bDone = true →
        (r.ready = false → exec (.matrixCommandStart c) s = .next (s.readyRun pl c r)) ∧
        (∀ t more, r.ready = true → r.fwd = (1, t) :: more → s.sendPort c 1 t = some u →
          exec (.matrixCommandStart c) s = .next (u.setRun c { r with fwd := more })) ∧
        (∀ t more, r.ready = true → r.fwd = (2, t) :: more → (∀ q ∈ more, q.1 ≠ 1) → s.sendPort c 2 t = some u →
          exec (.matrixCommandStart c) s = .next (u.setRun c { r with fwd := more })) ∧
        (∀ fa fb, r.ready = true → r.fwd = [] → r.fmtA = some fa → r.fmtB = some fb →
          (r.k < r.cmd.steps → s.matrixStep c r fa fb r.k = (u, true) →
            exec (.matrixCommandStart c) s = .next (u.setRun c { r with k := r.k + 1 })) ∧
          (r.cmd.steps ≤ r.k → exec (.matrixCommandStart c) s = .next (s.setCell c { x with
            matrix := rest, counter := x.counter + 1
            due := if r.cmd.count ≠ 0 ∧ r.cmd.count ≤ x.counter + 1 then some (r.cmd, fa == .i8) else none }))))) ∧
    (x.release = none → x.due = none → r.cmd.op.val = 3 → ∃ t, exec (.acczCommand c) s = .next t ∧
      (t.cell c).acc = Vector.replicate 512 0 ∧ (t.cell c).sat = Vector.replicate 512 false ∧ (t.cell c).counter = 0 ∧
      (t.cell c).matrix = rest ∧ (∀ e, e ≠ c → t.cell e = s.cell e) ∧ SameBytes s t) ∧
    (∀ cmd i8 port, x.release = none → x.due = some (cmd, i8) → Target.port cmd.t0 = some port →
      exec (.tileRelease c) s = .next (s.setCell c { x with
        acc := Vector.replicate 512 0, sat := Vector.replicate 512 false, counter := 0, due := none
        releases := x.releases + 1, release := some ⟨port, cmd.inst, releaseTokens x i8, true⟩ })) ∧
    (∀ q t more, x.release = some q → q.toks = t :: more → (∀ e ∈ x.sendQ, e.1 ≠ q.port) →
      s.sendPort c q.port t = some u →
      exec (.tileRelease c) s = .next (if more = [] then (u.setCell c { u.cell c with release := none }).takeSnapshots c
        else u.setCell c { u.cell c with release := some { q with toks := more } })) ∧
    (∀ (port : Fin 8) t more, x.ports[port] = t :: more → t.k ≠ .pre → t.k ≠ .rcf → x.inst = none →
      (x.skip.contains port = true → t.k = .data →
        exec (.matrixOperandTake c port) s = .next (s.removeTokens c port 1)) ∧
      (x.skip.contains port = true → t.k = .hdr →
        exec (.matrixOperandTake c port) s = .next (s.setCell c { x with skip := x.skip.filter (· != port) })) ∧
      (x.skip.contains port = false → r.started = true → r.aDone = false → descPort r.cmd.l = some port →
        exec (.matrixOperandTake c port) s = .next (s.takeOperand pl c r true port t)) ∧
      (x.skip.contains port = false → r.started = true → r.aDone = true → r.bDone = false → descPort r.cmd.r = some port →
        exec (.matrixOperandTake c port) s = .next (s.takeOperand pl c r false port t)))

/-! ### Virtual pipelines on their bands -/

/-- R201, R203: how a position leaves its row, step by step. Once every cell of each image has executed BEND, each
output port sends the wave's EOW and each input port's tokens are taken up to theirs; with that done the engines are
to drain, then what stands at REPLY and XFER is discarded; with what producers sent after their EOWs
discarded and every port clear RCF, with the position modulo 2^32, is
placed behind each port's last token, and taken at the row's next turn; the
kept state is saved, cell k's part at k times the cell part behind the records of the entries before it, its kept g
registers first, 72 bytes each (a damaged one is reported and not saved), then the tile, so that memory holds each part whose range can be written; and the position leaves, after which the row waits for its next position or is released. (What the
engines still send and take, and what a port holds when RCF is placed, is the model's reading: logs 49 and 50; that the rows
of a static rectangle share the first step and the record of its first row is log 48.) -/
def Obligations.PositionLeaves : Prop :=
  ∀ (s : State) (r : RowId) (v : VpId) (p : Nat),
    let row := s.row r
    let x := s.vp v
    let es := x.entriesAt p
    let cells := s.spanCells r
    row.host = some v → row.pos = some p → x.stage = .live ∨ x.stage = .preempting →
    (row.phase = .live ∨ row.phase = .markers → s.memFaulted r = false →
      (es ≠ [] → (∀ e ∈ es, ∃ c ∈ x.span r.die e p, (s.cell c.2).bend = false) →
        exec (.waveMarkerCompletion r) s = .next s) ∧
      (let t := es.foldl (fun s e => s.endWave v r.die p e) s
        let ended (c : Nat × CellId) : Prop :=
          (s.cell c.2).bend = true ∧ (s.cell c.2).pending = false ∧ (s.cell c.2).rejected = false ∧ (s.cell c.2).saved = false
        let marked (e : Nat) (c : Nat × CellId) : Prop :=
          (∀ q ∈ (t.vp v).outPorts e p c.1, q ∈ (t.cell c.2).sentEow) ∧
            ∀ q ∈ (t.vp v).inPorts e p c.1, q ∈ (t.cell c.2).gotEow
        (∀ e ∈ es, ∀ q ∈ p :: x.rowsOf e p, (q ∈ x.rowsOf e p → (s.row (x.rowOf r.die q)).phase ≠ .empty) ∧
          ∀ c ∈ x.span r.die e q, ended c) →
        ((∀ e ∈ es, ∀ c ∈ (t.vp v).span r.die e p, marked e c) →
          exec (.waveMarkerCompletion r) s = .next (t.setRow r { t.row r with phase := .draining })) ∧
        ((∃ e ∈ es, ∃ c ∈ (t.vp v).span r.die e p, ¬ marked e c) →
          exec (.waveMarkerCompletion r) s = .next (t.setRow r { t.row r with phase := .markers })))) ∧
    (row.phase = .draining →
      ((∀ c ∈ cells, s.cellDrained v c = true) → ∃ t, exec (.engineDrainEnd r) s = .next t ∧
        t = (cells.foldl (fun s c => s.dropReplies c) s).setRow r { row with phase := .drained } ∧
        ∀ c ∈ cells, (t.cell c).ports[6] = [] ∧ (t.cell c).ports[7] = []) ∧
      ((∃ c ∈ cells, s.cellDrained v c = false) → exec (.engineDrainEnd r) s = .next s)) ∧
    (row.phase = .drained →
      let d := cells.foldl State.dropLate s
      ((∀ c ∈ cells, d.portsClear c = true) → (∀ f ∈ d.flights, f.dest.isMem = true → f.dest.rowId ≠ r) →
        (d.vp v).static = false ∨ (∀ e ∈ (d.vp v).entriesAt p, ∀ q ∈ (d.vp v).rowsOf e p,
          let other := d.row ((d.vp v).rowOf r.die q)
          other.host ≠ some v ∨ other.phase ∈ [.drained, .rcf, .taken, .saved, .left]) →
        exec (.rcfPlacement r) s = .next ((cells.foldl (fun s c => s.placeRcf p c) d).setPhase r .rcf)) ∧
      ((∃ c ∈ cells, d.portsClear c = false) ∨ (∃ f ∈ d.flights, f.dest.isMem = true ∧ f.dest.rowId = r) → exec (.rcfPlacement r) s = .next d)) ∧
    (∀ (u : State) (c : CellId) (port : Fin 8) (pl : Place), u.place c = some pl → u.ingressAt c port = none →
      pl.x.inPorts pl.entry pl.pos pl.k = [port] → port ∈ (u.cell c).gotEow → (u.cell c).engineTakes port = false →
      (∀ t ∈ (u.cell c).ports[port], t.k ≠ .pre ∧ t.k ≠ .rcf) → ((u.dropLate c).cell c).ports[port] = [] ∧
        ((u.dropLate c).cell c).discard = (u.cell c).discard +
          BitVec.ofNat 64 ((u.cell c).ports[port].filter fun t => !t.k.isMarker).length) ∧
    (row.phase = .rcf → exec (.rcfPlacement r) s =
      .next ((cells.foldl (fun s c => s.takeRcf c) s).setPhase r .taken)) ∧
    (∀ (u : State) (c : CellId) (port : Fin 8) (pl : Place), u.place c = some pl → port.val < 6 →
      ((u.placeRcf p c).cell c).ports[port] = (u.cell c).ports[port] ++ [Token.ofList .rcf 1 [p % 2 ^ 32]] ∧
      ((u.takeRcf c).cell c).ports[port] = (u.cell c).ports[port].filter fun t => t.k ≠ .rcf) ∧
    (row.phase = .taken → ∃ t, exec (.stateSave r) s = .next t ∧ (t.row r).phase = .saved ∧
      (t.row r).saveLen = ((es.filter fun e => x.relRow e p == 0).map fun e =>
        (x.image e).width * (x.image e).rawBytes).sum ∧
      (x.static = false → t = (((x.span r.die (x.entryOf p) p).foldl (fun u c => u.saveCell v (x.waveOf p) c.2
        (x.image (x.entryOf p)) (x.saveCap.base + ((x.images.take (x.entryOf p)).map fun i => i.width * i.cellBytes).sum +
          c.1 * (x.image (x.entryOf p)).cellBytes)) s).setRow r { row with
        phase := .saved, saveLen := (x.image (x.entryOf p)).width * (x.image (x.entryOf p)).rawBytes }))) ∧
    (∀ (u w : State) (reach : Reach) wave c va pa (bs : List Byte), u.isLocal pa = true → bs ≠ [] →
      u.areaLocs reach .write (pagesOf va bs.length) = (w, .ok [(⟨.dense, pa, none⟩, bs.length)]) →
      w.isLocal pa = true → (u.savePart reach v wave c va bs).mem.read (pa % 2 ^ 40) bs.length = bs) ∧
    (∀ (u : State) (reach : Reach) wave c va i rest, i < 64 → (u.cell c).badRegs = [] → ∃ bs, bs.length = 72 ∧
      u.saveRegs reach v wave c va (i :: rest) = (u.savePart reach v wave c va bs).saveRegs reach v wave c (va + 72) rest ∧
      ∀ j, j < 16 → leNat ((bs.drop (4 * j)).take 4) = (((u.cell c).g.toList.getD i .nul).at j).toNat) ∧
    (∀ (u : State) (reach : Reach) wave c va (i : Fin 64) rest, i ∈ (u.cell c).badRegs →
      u.saveRegs reach v wave c va (i.val :: rest) =
        ((u.countError (.cell c) true).itemFailed v wave c 0 0 .eccDropped).saveRegs reach v wave c (va + 72) rest) ∧
    (∀ (u : State) wave c (e : ImageEntry) va, let reach := u.edgeReach c.rowId (u.vp v).tenant
      e.keptScr = 0 → u.saveCell v wave c e va =
        (let w := u.saveRegs reach v wave c va e.regs
          if e.keptAcc then w.savePart reach v wave c (va + 72 * e.regs.length) (w.cell c).tileBytes else w)) ∧
    (row.phase = .saved →
      (x.static = false → p + x.b < x.total → exec (.positionLeave r) s = .next (s.setRow r
        { row with phase := .left, leftAt := s.cycle, nextPos := some (p + x.b) })) ∧
      (x.static = true ∨ x.total ≤ p + x.b → exec (.positionLeave r) s = .next (s.releaseRow r)))

/-- R163, R202, R205, R206: a row's next position goes live once its images' previous position has been saved (and,
under wave quiesce, the wave before has ended): its image (of a position of one) is switched in and each cell starts;
until then the step changes nothing. A row preloads the image of the position that follows into the back banks until step 6 of
R201 ends.
That under wave quiesce every position of a wave waits is the model's reading (log 62). -/
def Obligations.PositionGoesLive : Prop :=
  ∀ (s u : State) (r : RowId) (v : VpId) (p e : Nat),
    let row := s.row r
    let x := s.vp v
    row.host = some v →
    (row.nextPos = some p → x.stage = .live → row.phase = .empty ∨ row.phase = .left → x.static = true ∨ p < x.total →
      x.static = true ∨ p < x.perWave ∨ s.posState v (p - x.perWave) = .gone ∨
        ((s.row (x.rowOf v.die (p - x.perWave))).host = some v ∧
          (s.row (x.rowOf v.die (p - x.perWave))).pos = some (p - x.perWave) ∧
          (s.row (x.rowOf v.die (p - x.perWave))).phase = .saved) →
      x.static = true ∨ x.quiesce = false ∨ x.waveOf p ≤ x.waveDone →
      ∃ t, exec (.positionGoLive r) s = .next t ∧ (t.row r).pos = some p ∧ (t.row r).phase = .live ∧
        (t.row r).nextPos = none ∧ (t.row r).liveAt = s.cycle ∧ (t.row r).host = some v ∧ t.scheds = s.scheds) ∧
    (row.nextPos = some p → x.stage = .live → x.static = false → x.quiesce = true → x.waveDone < x.waveOf p →
      exec (.positionGoLive r) s = .next s) ∧
    (row.nextPos = some p → x.stage = .live →
      (row.phase = .empty → x.static = true ∨ p < x.perWave → x.static = true ∨ p < x.total →
        x.static = true ∨ x.quiesce = false → x.entriesAt p = [e] →
        let live := s.setRow r { row with pos := some p, phase := .live, nextPos := none, liveAt := s.cycle }
        exec (.positionGoLive r) s = .next (live.loadSpan v e p (x.spanAll r.die e p)).1) ∧
      (row.phase ≠ .empty → row.phase ≠ .left → exec (.positionGoLive r) s = .next s) ∧
      (x.static = false → x.perWave ≤ p → s.posState v (p - x.perWave) = .notYet →
        (s.row (x.rowOf v.die (p - x.perWave))).pos ≠ some (p - x.perWave) → exec (.positionGoLive r) s = .next s)) ∧
    (∀ t, row.pos = some p → row.phase ∈ [.live, .markers, .draining, .drained, .rcf, .taken] → x.stage = .live → x.static = false → p + x.b < x.total →
      s.readImage r x (x.entryOf (p + x.b)) = (u, .ok t) →
      let e := x.entryOf (p + x.b)
      let cells := (x.spanAll r.die e (p + x.b)).map fun c => c.2
      (∀ (before after : List CellId) c k, cells = before ++ c :: after → (∀ d ∈ before, u.preloadOf x e t d = none) →
        u.preloadOf x e t c = some k → exec (.imagePreload r) s = .next (u.setCell c ((u.cell c).fill k))) ∧
      ((∀ c ∈ cells, u.preloadOf x e t c = none) → exec (.imagePreload r) s = .next u)) ∧
    (∀ (y : Cell) (k : KeptImage) n, y.partly k.cap k.tenant = some (k, n) →
      (k.program.records ≤ n + 4 → (y.fill k).back = some k ∧ (y.fill k).filling = none) ∧
      (n + 4 < k.program.records → (y.fill k).back = none ∧ (y.fill k).filling = some (k, n + 4))) ∧
    (∀ (y : Vp) (q : Program) (i : Fin 64), (initRegs y q)[i] =
      if i.val = 63 then { e := y.args, v := 0xFFFF, k := .data } else if q.regInit.getLsbD i.val then Token.scalar 0
      else .nul)

/-- R134, R198, R204, R210, R213, R225, R226: a ring delivers its first token to a resident position with room that has not
completed the wave's markers (in place of a damaged one an empty DATA and an ERR token), discards and
counts one whose position has left, and keeps one whose position is yet to come or is leaving, while an earlier token of
the edge is still on the stream to that cell, and while the VP stands on no band. An ingress binding feeds its buffer's
next token, and none while the VP stands on no band; one whose counts differ by more than its slots stops with BAD_DESC as soon as its port has room for the
ERR, and none takes a token before its port has room. An egress binding writes the token
that it holds and advances the tail. A token that has lost its VP is an ORPHAN. (That the stopped binding waits for that
room is log 57, and that a leaving row takes no more is log 50; what a ring token whose position has left counts in, and
an ORPHAN's source, is log 84: the model's readings.) -/
def Obligations.RingsAndBindings : Prop :=
  ∀ (s u w : State) (v : VpId) (n : Nat),
    let x := s.vp v
    (∀ (e : Edge) k wave t rest, x.edges[n]? = some e → e.ring = (k, wave, t) :: rest → e.bad = [] ∨ e.bad = [0] →
      let p := x.ringPos e wave
      let c := x.cellOf v.die (x.dstEntry e) p k
      let out := (s.setVp v { x with edges := setNth x.edges n { e with ring := rest, bad := [] } }).touch v
      (e.bad = [0] → s.posState v p = .resident → s.portRoom c e.toPort 2 = true → s.inRoutes c e.toPort = [] →
        x.stage = .live → (s.row c.rowId).phase = .live ∨ (s.row c.rowId).phase = .markers →
        (∀ f ∈ s.flights, ¬ (f.vp = v ∧ f.edge = some n ∧ f.dest = c)) →
        exec (.ringDelivery v n) s = .next (((out.countError (.cell c) true).putPort c e.toPort
          [Token.ofList .data 0 []]).putPort c e.toPort [Token.ofList .err 0x0001 [16]])) ∧
      (e.bad = [] → s.posState v p = .resident → s.portRoom c e.toPort 1 = true → x.stage ≠ .preempting →
        s.inRoutes c e.toPort = [] → x.stage = .live →
        (s.row c.rowId).phase = .live ∨ (s.row c.rowId).phase = .markers →
        (∀ f ∈ s.flights, ¬ (f.vp = v ∧ f.edge = some n ∧ f.dest = c)) →
        exec (.ringDelivery v n) s = .next (out.putPort c e.toPort [t])) ∧
      ((∃ f ∈ s.flights, f.vp = v ∧ f.edge = some n ∧ f.dest = c) → s.posState v p = .resident → rest = [] →
        exec (.ringDelivery v n) s = .next s) ∧
      (x.stage ≠ .live → x.stage ≠ .preempting → rest = [] → exec (.ringDelivery v n) s = .next s) ∧
      ((s.row c.rowId).phase ∈ [.drained, .rcf, .taken, .saved] → s.posState v p = .resident → rest = [] →
        exec (.ringDelivery v n) s = .next s) ∧
      (s.posState v p = .gone → x.stage = .live → t.k ≠ .pre →
        exec (.ringDelivery v n) s = .next (out.setCell c { s.cell c with discard := (s.cell c).discard + 1 })) ∧
      (s.posState v p = .notYet → rest = [] → exec (.ringDelivery v n) s = .next s)) ∧
    (∀ (b : Binding) head tail, x.ingress[n]? = some b →
      let p := x.entryPos b.image b.eows
      let c := x.boundCell v.die b p
      let seen := b.slots.sum
      let held := (tail + 2 ^ 64 - head) % 2 ^ 64
      (x.stage ≠ .live → x.stage ≠ .preempting → exec (.ingressBindingTake v n) s = .next s) ∧
      (b.stopped = false → s.posState v p = .resident → x.stage = .live → s.admits c 5 1 = true → b.eows < x.w →
      (s.row c.rowId).phase = .live ∨ (s.row c.rowId).phase = .markers →
      s.counts (s.edgeReach c.rowId x.tenant) b = (u, .ok (head, tail)) →
      (∀ t, held ≤ b.size → seen < held →
        u.slotToken (s.edgeReach c.rowId x.tenant) c (b.slotAt ((head + seen) % 2 ^ 64)) = (w, .ok [t]) →
        w.admits c 5 1 = true → ∀ y,
        (w.setIngress v n { b with eows := if t.k = .eow then b.eows + 1 else b.eows }).arriveFrom c 5 [t] [1] = some y →
        (y.vp v).stage ≠ .preempting → exec (.ingressBindingTake v n) s = .next y) ∧
      (held ≤ b.size → held ≤ seen → exec (.ingressBindingTake v n) s = .next u) ∧
      (∀ y, b.size < held →
        (u.setIngress v n { b with stopped := true }).stopBinding v c b.eows .badDesc = some y →
        exec (.ingressBindingTake v n) s = .next y)) ∧
      (s.admits c 5 1 = false → exec (.ingressBindingTake v n) s = .next s)) ∧
    (∀ (b : Binding) r p t head tail, x.egress[n]? = some b → b.out = some t → b.stopped = false →
      s.rowOfEntry v b.image = some (r, p) → s.counts (s.edgeReach r x.tenant) b = (u, .ok (head, tail)) →
      let held := (tail + 2 ^ 64 - head) % 2 ^ 64
      (held < b.size → u.areaWrite (s.edgeReach r x.tenant) (b.slotAt tail) t.toBytes = (w, none) →
        let y := w.advance v r b.cap 8 1
        exec (.egressBindingWrite v n) s = .next ((y.setVp v { y.vp v with
          egress := setNth (y.vp v).egress n { b with out := none } }).touch v)) ∧
      (held = b.size → exec (.egressBindingWrite v n) s = .next u)) ∧
    (∀ c port j (f : Flight), (s.flights.findIdx? fun f => f.dest == c && f.port == port && !s.hosted f.vp f.dest) = some j →
      s.flights[j]? = some f → exec (.orphanTokenDrop c port) s =
        .next ({ s with flights := dropNth s.flights j }.dropOrphan f.vp (c.src 0 0)))

/-- R216, R221: a VP whose phase has ended and whose positions have all left ends: its rows are released, VP_DONE is
posted and its handle freed. A VP in whose band nothing has moved for 2^20 cycles while it has work raises DEADLOCK,
or SPILL_FULL where a producer stands before a full ring, and is pre-empted where its context has room, else torn
down. The source and payload of the records of a band are the model's reading (log 63). R222, R223, R224: a VP that is
pre-empted gets its PREs, and ends its pre-emption once every compute cell of its rows, and of those spliced with it,
has saved. A resident cell saves at its first moment, abandoning its uncommitted instance, and sends PRE on; the other
cells of the band's rows save once the rows stand still. (What that moment is for a stream that carries no marker
more, and for a cell that a fault has stopped, is the model's reading, log 55.) -/
def Obligations.VpEnds : Prop :=
  (∀ (s : State) (v : VpId),
     let x := s.vp v
     let src := v.die.val * 2 ^ 31 + (x.dieRow 0).val * 2 ^ 24
     (x.stage = .live → s.phaseEnded v = true → x.quiesce = false ∨ x.w ≤ x.waveDone + 1 →
       (s.allLeft v = true → exec (.vpCompletion v) s = .next (s.setVp v { x with stage := .ending })) ∧
       (s.allLeft v = false → exec (.vpCompletion v) s = .next s)) ∧
     (x.stage = .live → s.phaseEnded v = false → exec (.vpCompletion v) s = .next s) ∧
     (x.stage = .ending → exec (.vpCompletion v) s =
       .next (((s.releaseRows v).postVp v (record 1 0 0 ((s.releaseRows v).bandSrc v) v.handle)).freeVp v)) ∧
     (x.stage = .live → (∀ m ∈ s.mates v, (s.vp m).pausedAt = none) → s.lastMove v + 2 ^ 20 ≤ s.cycle → s.census v ≠ 0 ∨ s.portHolds v = true →
       let cause := if s.spillHeld v then Cause.spillFull else Cause.deadlock
       ((∀ m ∈ s.mates v, (s.vp m).contextFits = true) → exec (.deadlockTimeout v) s =
         .next ((s.postVp v (record 3 cause.code 0 src v.handle)).startPreempt v)) ∧
       ((∃ m ∈ s.mates v, (s.vp m).contextFits = false) → exec (.deadlockTimeout v) s =
         .next (s.teardown v cause src v.handle))) ∧
     (x.stage = .preempting → (∀ m ∈ s.mates v, (s.vp m).pausedAt = none) → s.lastMove v + 2 ^ 20 ≤ s.cycle →
       s.census v ≠ 0 → exec (.deadlockTimeout v) s = .next ((s.postVp v
         (record 3 (if s.spillHeld v then Cause.spillFull else Cause.deadlock).code 0 src v.handle)).touch v)) ∧
     (x.stage = .live → s.cycle < s.lastMove v + 2 ^ 20 → exec (.deadlockTimeout v) s = .next s)) ∧
  (∀ (s : State) (v : VpId) (c : CellId) (pl : Place),
     let x := s.vp v
     let t := s.putPres v (x.preAt ++ s.dryPorts v)
     (x.stage = .preempting →
       ((∀ m ∈ s.mates v, t.allSaved m = true) →
         exec (.preInsertion v) s = .next ((s.mates v).foldl (fun s w => s.endPreempt w) t)) ∧
       ((∃ m ∈ s.mates v, t.allSaved m = false) → exec (.preInsertion v) s = .next t)) ∧
     (x.stage ≠ .preempting → exec (.preInsertion v) s = .next s) ∧
     (s.place c = some pl → (s.row c.rowId).host = some v → x.stage = .preempting →
       (s.row c.rowId).phase = .live ∨ (s.row c.rowId).phase = .markers →
       (s.maySave pl c = true → ∃ t, exec (.cellContextSave c) s = .next t ∧ (t.cell c).saved = true ∧
         (t.cell c).inst = none ∧ ∃ u, u = (((s.abandonFault c).unpauseBand v).writeContext v pl.wave c).takePres c ∧
           (t.cell c).sendQ = (u.cell c).sendQ ++ (pl.x.outPorts pl.entry pl.pos pl.k).map fun p =>
             (p, Token.marker .pre pl.x.preempts)) ∧
       (s.maySave pl c = false → exec (.cellContextSave c) s = .next s)) ∧
     ((s.row c.rowId).host = some v → x.stage = .preempting →
       (s.row c.rowId).phase = .left ∨ (s.row c.rowId).phase = .empty → c.isMem = false → (s.cell c).saved = false →
       s.rowsSaved v = true → ∃ t, exec (.cellContextSave c) s = .next t ∧ t = ((s.writeContext v 0 c).setCell c
         { (s.writeContext v 0 c).cell c with saved := true })))

/-- R372, R373, R374: a replay that a handler has asked for restarts the cell's block from its start; a tear-down
drops the VP's tokens, releases its rows and posts its last record, a FAULT with BAD_DESC; a fault that stays pending
for 2^26 cycles tears the VP down with WATCHDOG.
The source and payload of the final record are the model's reading (log 63). -/
def Obligations.CellFaultAnswers : Prop :=
  ∀ (s : State) (c : CellId) (v : VpId),
    let x := s.cell c
    let payload := v.handle + x.block.val * 2 ^ 32 + x.srcKind.val * 2 ^ 37
    (s.row c.rowId).host = some v →
    (∀ b, x.action = some true → x.rejected = false → x.inst = none → x.next = some b → x.bend = false →
      exec (.faultReplay c) s = .next ((s.setCell c { x with
        action := none, agens := Vector.ofFn fun i => x.agens[i].map fun a => { a with faulted := false } }).startBlock v c b.val)) ∧
    (∀ cause, x.action = some false → x.cause = some cause → exec (.faultTeardown c) s =
      .next ((s.setCell c { x with action := none }).teardown v cause (c.src x.slot.val x.lane.val) payload)) ∧
    (x.pending = true → x.faultAt + 2 ^ 26 ≤ s.cycle → exec (.faultWatchdog c) s =
      .next ((s.setCell c { x with pending := false }).teardown v .watchdog (c.src x.slot.val x.lane.val) payload)) ∧
    (x.pending = false ∨ s.cycle < x.faultAt + 2 ^ 26 → exec (.faultWatchdog c) s = .next s) ∧
    ∀ (u : State) cause src payload, u.mates v = [v] ∨ u.mates v = [] → u.teardown v cause src payload =
      (((u.dropRequests v).dropVp v).postVp v (record 3 cause.code 14 src payload)).freeVp v

/-- R230, R231, R232: a queue's head gains one effective priority for every 64 µs up to 3; the candidate is the head
of the highest effective priority, the first from the pointer among equals; it is admitted where a band is free,
unless the module is held at its power limit, and the pointer moves past its queue. R385: in strict mode each partition
has its own pointer and candidate, among its own launches, in its own slots. (R230, R231 and R232 are stated; that 64 µs
are 51,200 cycles is log 64, that a cycle belongs to one partition's slot log 86, the model's readings.) -/
def Obligations.Scheduling : Prop :=
  ∀ (s : State) (die : Fin 2),
    let d := s.sched die
    (∃ t, exec (.priorityAging die) s = .next t ∧ ∀ q : Fin 16, ∀ l rest, (d.queues[q]).launches = l :: rest →
      ((t.sched die).queues[q]) = { d.queues[q] with
        effective := min 3 (l.priority + (s.cycle - (d.queues[q]).headSince) / 51200) }) ∧
    (s.kstrict = false → d.candidate ≠ none → exec (.candidateChoice die) s = .next s) ∧
    (s.kstrict = false → d.candidate = none → ∃ t, exec (.candidateChoice die) s = .next t ∧
      let e := (s.age die).sched die
      let waits (q : Fin 16) : Prop := (e.queues[q]).enabled = true ∧ (e.queues[q]).launches ≠ []
      (∀ q, (t.sched die).candidate = some q → waits q ∧
        ∀ p, waits p → (e.queues[p]).effective ≤ (e.queues[q]).effective ∧
          ((e.queues[p]).effective = (e.queues[q]).effective → (q - e.pointer).val ≤ (p - e.pointer).val)) ∧
      ((t.sched die).candidate = none → ∀ p, ¬ waits p)) ∧
    (s.kstrict = true → let t := Config.strictSlot s.cycle
      ((d.turn (some t)).2 ≠ none → exec (.candidateChoice die) s = .next s) ∧
      ((d.turn (some t)).2 = none → ∃ u, exec (.candidateChoice die) s = .next u ∧
        (∀ o, o ≠ t → (u.sched die).turn (some o) = d.turn (some o)) ∧
        ∀ q, ((u.sched die).turn (some t)).2 = some q → ∃ l rest, (d.queues[q]).launches = l :: rest ∧
          (s.vp l.vp).tenant = t)) ∧
    (∀ q l rest, s.kstrict = false → d.candidate = some q → (d.queues[q]).launches = l :: rest →
      (s.held = true → exec (.admission die) s = .next s) ∧
      (s.held = false →
        (∀ base, s.findBand die (s.queue die q) ((s.splicedWith l.vp).map s.vp) (s.vp l.vp).b true = some base →
          exec (.admission die) s = .next ((s.popCandidate die q rest).admitVp l.vp base)) ∧
        (s.findBand die (s.queue die q) ((s.splicedWith l.vp).map s.vp) (s.vp l.vp).b true = none →
          exec (.admission die) s = .next s))) ∧
    ∀ q rest, s.kstrict = false → ((s.popCandidate die q rest).sched die).pointer = q + 1 ∧
      ((s.popCandidate die q rest).sched die).candidate = none

/-! ### The package -/

/-- R328, R390, R392: a store to a register that stands first in a core's queue is performed: the half or the whole of
the register takes the data; the store to a post trigger enqueues the record whose low half the core has staged. The
serialising token goes to the next node of its cycle, past the cores that a reset of their partition has halted
(R387), unless functions run there (log 65). R384, R414, R419: a commit takes the written table into force where it
passes its checks, else keeps the one in force, and the result says so; a start record's trigger starts a halted core
at its range and tenant, privileged, with c0 over all of dense space, its page tables, and its call numbers kept; a
core that is not halted is left alone. BAD_DESC for other bits of the launch trigger is the model's reading (log 69),
and so are the pcc of a range past 2^57, which is untagged (log 90), the record of a commit (log 66) and what else a
start clears (log 70). -/
def Obligations.RegistersAndTriggers : Prop :=
  (∀ (s : State) (k m : CoreId) (q : QueuedStore) (rest : List QueuedStore),
     let out := s.setCore k { s.core k with storeQ := rest }
     let data := BitVec.ofNat 64 (leNat q.bytes)
     (s.core k).storeQ = q :: rest → q.space = .sys →
     (sysReg q.addr = .staging m → q.bytes.length = 8 →
       exec (.registerWrite k 0) s = .next { out with
         staging := (k.val, m, data) :: out.staging.filter fun x => !(x.1 == k.val && x.2.1 == m) }) ∧
     (∀ c, sysReg q.addr = .discard c →
       exec (.registerWrite k 0) s = .next (out.setCell c { s.cell c with
         discard := if q.bytes.length = 8 then data
           else if q.addr % 8 = 0 then BitVec.ofNat 64 ((s.cell c).discard.toNat / 2 ^ 32 * 2 ^ 32 + data.toNat % 2 ^ 32)
           else BitVec.ofNat 64 ((s.cell c).discard.toNat % 2 ^ 32 + data.toNat % 2 ^ 32 * 2 ^ 32) })) ∧
     (sysReg q.addr = .trigger m →
       exec (.postTrigger k 0) s = .next (out.setCore m ((out.core m).enqueue m (data ++ out.staged? k.val m)))) ∧
     (∀ node, node = s.nextScNode → exec (.scTokenVisit node) s = .next { s with scNode := node, scCount := 0 }) ∧
     (∀ node, node ≠ s.nextScNode → exec (.scTokenVisit node) s = .next s) ∧
     (s.scSkip = [] → s.nextScNode = (s.scNode + 1) % 288) ∧
     (∀ j ∈ s.scSkip, (s.unit (.core j)).ctx.toList.all (·.isNone) = true → s.nextScNode ≠ j.val)) ∧
  (∀ (s : State) (h : Fin 24) (k : CoreId) (tenant : BitVec 8) (data : Word),
     let x := s.hart h
     let done := s.setHart h { x with trigger := none }
     (x.trigger = some .commit →
       (tableOk s.staged.toList = true → exec (.partitionCommit h) s =
         .next ({ done with partitions := some s.staged, commitResult := 0 }.reportCommit .ok)) ∧
       (tableOk s.staged.toList = false → exec (.partitionCommit h) s =
         .next ({ done with commitResult := BitVec.ofNat 64 (8 * 2 ^ 48) }.reportCommit .rejected))) ∧
     (x.trigger = some (.coreStart k tenant) →
       ((s.core k).halted = false → exec (.coreStart h) s = .next done) ∧
       ((s.core k).halted = true → ∃ t, exec (.coreStart h) s = .next t ∧
         let c := t.core k
         let base := (s.startRec[k])[1].toNat % 2 ^ 57
         let length := (s.startRec[k])[2].toNat % 2 ^ 40
         c.halted = false ∧ c.thread.pc = 0 ∧ c.thread.priv = true ∧ c.thread.tenant = tenant ∧
         c.thread.pcc = Cap.make base .dense length 0x85 tenant 0 (decide (base + length ≤ 2 ^ 57)) ∧
         c.thread.cap 0 = Cap.make 0 .dense (2 ^ 40 - 1) 0xFF tenant 0 true ∧
         c.kptbase = BitVec.ofNat 64 ((s.startRec[k])[0].toNat / 2 ^ 12 % 2 ^ 40 * 2 ^ 12) ∧
         c.callNum = (s.core k).callNum ∧ (∀ r, c.thread.get r = 0) ∧ c.events = [] ∧ c.storeQ = [])) ∧
     (x.trigger = some (.launch data) → ∃ u w t, s.spireLaunch x.staging.toNat data.toNat = (u, w) ∧
       exec (.launchTrigger h) s = .next t ∧ t = u.setHart h { u.hart h with trigger := none, result := w } ∧
       (data.toNat / 32 ≠ 0 → u = s ∧ w = BitVec.ofNat 64 (14 * 2 ^ 48))))

/-- R387, R350: a virtual-function reset halts the partition's cores with their event queues and call slots empty, and
leaves no record for them and no call or reply of theirs on its way. R425: a window of 80,000 cycles, 100 µs, ends with
the module held above 1,200 W or 95 °C and released below 1,140 W and 90 °C. R422 to R424: boot goes its steps in order:
copy A of the first-stage image in the flash is taken where its signatures verify with key slot 0, else copy B, and a
module with neither stays in reset; the accepted image's SHA-384 is measured and hart 0 runs; the part record names the
retired cells where it verifies, and none else; then the compute dies leave reset.
That the reset is one step is log 71; that the first window begins at cycle 0 and each later one
where the one before it ended, in cycles of the model's clock, is log 98; what the flash holds of an image and a record is
read as logs 73, 75 and 76 say. All these are the model's readings. -/
def Obligations.PackageEvents : Prop :=
  ∀ (s : State) (tenant : BitVec 8) (mW tempC : Nat) (c : Fin 2) (b : BootInput),
    let seen (held : Bool) : State := { s with
      powerMw := mW, tempC := tempC, held := held, overTemp := decide (95 < tempC), windowAt := s.windowAt + 80000 }
    (∀ p, s.partitionOf tenant = some p → ∃ t, exec (.vfReset tenant) s = .next t ∧
      ∀ k ∈ p.coreList, (t.core k).halted = true ∧ (t.core k).events = [] ∧ (t.core k).slots = Vector.replicate 16 none ∧
        (∀ r ∈ t.records, r.1 ≠ k) ∧ (∀ c ∈ t.calls, c.caller ≠ .core k) ∧ ∀ r ∈ t.callBack, r.caller ≠ .core k) ∧
    (s.partitionOf tenant = none → exec (.vfReset tenant) s = .next s) ∧
    (s.windowAt + 80000 ≤ s.cycle →
      (1200000 < mW ∨ 95 < tempC → exec (.powerWindowEnd mW tempC) s = .next (seen true)) ∧
      (mW < 1140000 → tempC < 90 → exec (.powerWindowEnd mW tempC) s = .next (seen false)) ∧
      (mW ≤ 1200000 → tempC ≤ 95 → 1140000 ≤ mW ∨ 90 ≤ tempC → exec (.powerWindowEnd mW tempC) s = .next (seen s.held))) ∧
    (s.cycle < s.windowAt + 80000 → exec (.powerWindowEnd mW tempC) s = .next s) ∧
    (95 < tempC → exec (.overTemperature tempC) s = .next { s with tempC := tempC, held := true, overTemp := true }) ∧
    (let verified (n : Nat) (copy : Fin 2) : Bool :=
        Config.keySlotHeld 0 && Config.signaturesVerify 0 (s.flash.read (0x1000000 * copy.val) n)
          (s.flash.read (0x1000000 * copy.val + n) 8240)
      let image (copy : Fin 2) : Option Nat := bootImage (s.flash.read (0x1000000 * copy.val) 64)
      let record := s.flash.read 0x2000000 0x10000
      (s.boot = .off → exec (.moduleBoot b) s = .next { s with boot := .powered }) ∧
      (s.boot = .powered →
        (∀ n, image 0 = some n → verified n 0 = true →
          exec (.moduleBoot b) s = .next { s with boot := .accepted 0 (s.flash.read 0 n) }) ∧
        (∀ n, (∀ m, image 0 = some m → verified m 0 = false) → image 1 = some n → verified n 1 = true →
          exec (.moduleBoot b) s = .next { s with boot := .accepted 1 (s.flash.read 0x1000000 n) }) ∧
        ((∀ (copy : Fin 2) n, image copy = some n → verified n copy = false) →
          exec (.moduleBoot b) s = .next { s with boot := .failed })) ∧
      (∀ bs, s.boot = .accepted c bs → ∃ t, exec (.moduleBoot b) s = .next t ∧
        t.boot = .measured ∧ t.measure0 = sha384 bs ∧ t.hartRuns 0 = true ∧
        (∀ h : Fin 24, h ≠ 0 → t.hartRuns h = false) ∧ t.cores = s.cores ∧ t.mem = s.mem) ∧
      (s.boot = .measured →
        (∀ r n, partRecord record = some (r, n) →
          (Config.keySlotHeld 1 && Config.signaturesVerify 1 (record.take n) ((record.drop n).take 8240)) = true →
          exec (.moduleBoot b) s = .next { s with
            boot := .trained, recordOk := true, speedGrade := r.speedGrade, gddrMiB := r.gddrMiB, retired := r.retired }) ∧
        (partRecord record = none ∨ (∃ r n, partRecord record = some (r, n) ∧
            (Config.keySlotHeld 1 && Config.signaturesVerify 1 (record.take n) ((record.drop n).take 8240)) = false) →
          ∃ t, exec (.moduleBoot b) s = .next t ∧ t.boot = .trained ∧ t.recordOk = false ∧
            t.retired = [] ∧ t.speedGrade = 0 ∧ t.gddrMiB = b.trainedMiB)) ∧
      (s.boot = .trained → exec (.moduleBoot b) s =
        .next { s with boot := .firmware, dieStart := Vector.replicate 2 s.cycle })) ∧
    (s.boot = .failed → step s = .fault .stayedInReset)

/-- R420: an inbound PCIe request of the physical function of port 4 as an endpoint reads and writes physical memory; of
a virtual function it
reaches what its partition's page tables map; one that fails has an unsuccessful completion and writes nothing.
R329, R416: a hart's fetch, load, store, AMO, load-reserved and store-conditional, at the physical address that its page tables
give, which in machine mode is the address itself; an access that the tables refuse is a page fault.
What a failing request or access answers, and the format of the tables, are the model's readings (logs 67, 72, 97, 99). -/
def Obligations.HostAndHarts : Prop :=
  ∀ (s u w : State) (h : Fin 24) (m : HartMode) (va pa n size : Nat) (bs : List Byte) (data b expected : Word) (op : AmoOp),
    let x := w.hart h
    let loc : Loc := ⟨.dense, pa, none⟩
    let answer (s : State) (bs : List Byte) : Res := .next { s with outbox := s.outbox ++ [⟨none, .device, .pcieRead bs, false⟩] }
    let there (k : HartAccess) : Prop := s.hartReach h m k va size = (w, .ok [(pa, size)])
    s.boot = .firmware → s.endpoint = true →
    (s.physOk pa n = true → s.isLocal pa = true → s.locRead .device loc n = (u, some bs) →
      exec (.pcieInboundRequest (.read none pa n)) s = answer u bs) ∧
    (s.physOk pa n = false → exec (.pcieInboundRequest (.read none pa n)) s = answer s []) ∧
    (s.physOk pa bs.length = true → s.isLocal pa = true →
      exec (.pcieInboundRequest (.write none pa bs)) s = .next (s.locWrite .device loc bs)) ∧
    (∀ (l : Loc) k, l.fill = none → s.isLocal l.addr = false → l.addr % 64 + k ≤ 64 → 0 < k →
      s.piece l k = [(⟨.dense, l.addr, none⟩, k)]) ∧
    (∀ (l : Loc), l.fill = none → s.isLocal l.addr = false → l.addr % 64 = 0 →
      s.piece l 256 = [(⟨.dense, l.addr, none⟩, 64), (⟨.dense, l.addr + 64, none⟩, 64), (⟨.dense, l.addr + 128, none⟩, 64),
        (⟨.dense, l.addr + 192, none⟩, 64)]) ∧
    (s.physOk pa bs.length = false → exec (.pcieInboundRequest (.write none pa bs)) s = .next s) ∧
    (∀ vf p, s.partitionOfVf vf = some p →
      (s.areaRead ⟨.spire, p.tenant, p.root⟩ .read pa n = (u, .ok bs) →
        exec (.pcieInboundRequest (.read (some vf) pa n)) s = answer u bs) ∧
      (∀ st, s.areaWrite ⟨.spire, p.tenant, p.root⟩ pa bs = (u, st) →
        exec (.pcieInboundRequest (.write (some vf) pa bs)) s = .next u)) ∧
    ((s.hart h).trigger = none → w.sysOfPa pa = none → w.physOk pa size = true → size = 4 ∨ size = 8 → va % size = 0 → pa % size = 0 →
      (there .fetch → size = 4 → w.locRead .device loc size = (u, some bs) →
        exec (.spireHartInstruction h (.fetch m va size)) s =
          .next (u.setHart h { u.hart h with data := BitVec.ofNat 64 (leNat bs), fault := none })) ∧
      (there .load → w.locRead .device loc size = (u, some bs) → bs.length = size →
        exec (.spireHartInstruction h (.load m va size)) s =
          .next (u.setHart h { u.hart h with data := BitVec.ofNat 64 (leNat bs), fault := none })) ∧
      (there .store → ∀ v, w.locWrite .device loc (leBytes size data.toNat) = v →
        exec (.spireHartInstruction h (.store m va size data)) s =
          .next (v.setHart h { v.hart h with reserved := x.reserved, fault := none })) ∧
      (there .store → ∀ old,
        amoAt op size .device loc (b.toNat % 2 ^ (8 * size)) (expected.toNat % 2 ^ (8 * size)) w = (u, some old) →
        exec (.spireHartInstruction h (.amo m op va size b expected)) s =
          .next (u.setHart h { u.hart h with data := BitVec.ofNat 64 old, fault := none })) ∧
      (there .load → w.isLocal pa = true → w.locRead .device loc size = (u, some bs) → u.isLocal pa = true →
        ∃ t, exec (.spireHartInstruction h (.loadReserved m va size)) s = .next t ∧
          (t.hart h).data = BitVec.ofNat 64 (leNat bs) ∧ (t.hart h).reserved = some (pa % 2 ^ 40 / 64)) ∧
      (there .store → x.reserved ≠ some (pa % 2 ^ 40 / 64) →
        exec (.spireHartInstruction h (.storeConditional m va size data)) s =
          .next (w.setHart h { x with reserved := none, data := 1, fault := none })) ∧
      (there .store → w.isLocal pa = true → x.reserved = some (pa % 2 ^ 40 / 64) →
        ∃ t, exec (.spireHartInstruction h (.storeConditional m va size data)) s = .next t ∧ (t.hart h).reserved = none ∧
          ((t.hart h).data = 1 ∧ t.mem = w.mem ∨
            (t.hart h).data = 0 ∧ t.mem = (w.memWrite (pa % 2 ^ 40) (leBytes size data.toNat)).mem))) ∧
    ((s.hart h).trigger = none → there .load → w.sysOfPa pa = none → w.physOk pa size = false → size = 4 ∨ size = 8 →
      exec (.spireHartInstruction h (.load m va size)) s = .next (w.setHart h { x with fault := some .access })) ∧
    (∀ k, s.hartReach h .machine k va size = (s, .ok [(va, size)])) ∧
    ((s.hart h).trigger = none → size = 4 ∨ size = 8 → s.hartReach h m .load va size = (w, .error .page) →
      exec (.spireHartInstruction h (.load m va size)) s = .next (w.setHart h { x with fault := some .page }))

/-- R318, R421: an intact flit of another module reads and writes memory of this device, brings the reply to a fibre
request of this device, or refuses a request or a call of it back (log 100); a flit that is not intact, or
of a dead link, does nothing. A link that fails is dead from then on, and the error core of die 0 hears of it.
R321: a store of another module is acknowledged, and the acknowledgement of a store of this device, or the acceptance of a
call of it, is noted; what waits for an acknowledgement of a module that no link reaches more waits no longer.
The record of a link failure, its source and its error core are the model's readings (logs 13, 74), and so is what
an acknowledgement and an acceptance are (log 17). -/
def Obligations.FirelLinks : Prop :=
  ∀ (s u : State) (f : Flit) (pa n : Nat) (bs : List Byte) (link : Fin 12),
    let loc : Loc := ⟨.dense, pa, none⟩
    let live : Prop := s.boot = .firmware ∧ f.crcOk = true ∧ s.deadLinks.contains f.link = false
    let out (s : State) (o : Outbound) : Res := .next { s with outbox := s.outbox ++ [⟨none, ⟨f.tenant, .other⟩, o, false⟩] }
    (¬ live → exec (.firelFlitReceive f) s = .next s) ∧
    (live → s.isLocal pa = true → s.physOk pa n = true → f.body = .read pa n → s.locRead .device loc n = (u, some bs) →
      (n ≠ 16 → exec (.firelFlitReceive f) s = out u (.readReply f.source bs false)) ∧
      (n = 16 →
        let r := u.locTag loc (BitVec.ofNat 128 (leNat bs))
        exec (.firelFlitReceive f) s = out r.1 (.readReply f.source bs r.2))) ∧
    (∀ (j id st w x y v : Nat) (pairs : List (Nat × Nat)) (found : List (Option Nat)) (cur : Nat) (e : Bool)
        (q : FibreReq) (status : Status),
      live → f.body = .fibreReply id st w x y v pairs found cur e → Status.ofCode st = some status →
      s.fibreReqs[j]? = some q → q.ticket = some id → s.isLocal q.pa = false →
      (∀ r ∈ s.fibreReqs.take j, r.ticket = some id → s.isLocal r.pa = true) →
      exec (.firelFlitReceive f) s = .next { s with
        fibreReqs := dropNth s.fibreReqs j
        replies := s.replies ++ [⟨q.agent, q.op, status, min w 0xFFFF, min x 0xFFFF, min y 0xFFFF, v, pairs, found, cur,
          e, q.owner⟩] }) ∧
    (∀ (j id : Nat) (q : FibreReq), live → f.body = .fibreRefusal id → s.fibreReqs[j]? = some q → q.ticket = some id →
      s.isLocal q.pa = false → (∀ r ∈ s.fibreReqs.take j, r.ticket = some id → s.isLocal r.pa = true) →
      exec (.firelFlitReceive f) s = .next (s.setReq j { q with refused := true })) ∧
    (∀ (a i num : Nat) (k : CoreId) (cap : BitVec 128) (ps : List Word) (rel fwd : Bool), live →
      f.body = .callRefusal a i num (.core k) cap ps rel fwd →
      exec (.firelFlitReceive f) s = .next { s with calls := insertCall ⟨i, Vector.ofFn fun n => ps.getD n.val 0,
        ⟨cap, true⟩, f.tenant, BitVec.ofNat 32 num, .core k, .module a, fwd, true, rel, a, []⟩ s.calls }) ∧
    (live → s.isLocal pa = true → s.physOk pa bs.length = true → f.body = .write pa bs →
      exec (.firelFlitReceive f) s = out (s.memWrite (pa % 2 ^ 40) bs) (.ack f.source pa)) ∧
    (live → s.isLocal pa = false → f.body = .write pa bs → exec (.firelFlitReceive f) s = out s (.ack f.source pa)) ∧
    (∀ (i : Nat) (x : Sent), live → f.body = .ack pa → s.outbox[i]? = some x → x.due = true → x.body.target = some pa →
      (∀ y ∈ s.outbox.take i, y.due = true → y.body.target ≠ some pa) →
      exec (.firelFlitReceive f) s = .next { s with outbox := setNth s.outbox i { x with due := false } }) ∧
    (∀ (k : CoreId) (num : Nat), live → f.body = .callAccepted (.core k) num →
      exec (.firelFlitReceive f) s = .next (s.setCore k { s.core k with 
        slots := (s.core k).slots.map fun o => o.map fun o => o.acceptedAs (BitVec.ofNat 32 num) })) ∧
    (∀ (o : OpenCall) num, o.call.num = num → (o.acceptedAs num).accepted = true) ∧
    (∀ (o : OpenCall) num, o.call.num ≠ num → o.acceptedAs num = o) ∧
    (s.deadLinks.contains link = false →
      let v := { s with
        deadLinks := link :: s.deadLinks, routes := s.routes.map fun r => (r.1, r.2 &&& ~~~(1#12 <<< link.val)) }
      let w := v.dropCutOff
      let ec := w.errorCore[(0 : Fin 2)]
      (∀ x ∈ w.outbox, x.due = true → ∀ a, x.body.target = some a → w.reaches (a / 2 ^ 40 % 4096) = true) ∧
      ((∀ x ∈ v.outbox, x.due = true → ∀ a, x.body.target = some a → v.reaches (a / 2 ^ 40 % 4096) = true) → w = v) ∧
      (ec.getLsbD 4 = false → exec (.firelLinkFailure link) s = .next w) ∧
      (ec.getLsbD 4 = true → exec (.firelLinkFailure link) s = .next (w.post (coreOf 0 (ec.toNat % 16))
        (record 9 0 0 (48 * 2 ^ 16) (alGet w.errors .link .zero).uncorrectable.toNat)))) ∧
    (s.deadLinks.contains link = true → exec (.firelLinkFailure link) s = .next s) ∧
    (s.isLocal pa = false →
      (s.linksTo (pa / 2 ^ 40 % 4096) = [] → ∀ who, s.locWrite who loc bs = s.countError .link true) ∧
      (∀ i, s.linkOf pa = some i →
        (∀ who, s.locWrite who loc bs = { s with outbox := s.outbox ++ [⟨some i, who, .write pa bs, true⟩] }) ∧
        (alGet s.routes (pa / 2 ^ 40 % 4096) 0).getLsbD i.val = true ∧ i ∉ s.deadLinks ∧
        ∀ b, b / 64 = pa / 64 → b / 2 ^ 40 = pa / 2 ^ 40 → s.linkOf b = some i))

/-! ### The machine -/

/-- R17, R18, R27, R42: the word of every well-formed instruction, with every operand at every value, decodes to that
instruction and to no other. -/
def Obligations.DecodeOfEncode : Prop :=
  ∀ (i : Instr) (w : Nat), i.wellFormed = true → encode i = some w → decode w = .ok i ∧
    ∀ j, j.wellFormed = true → encode j = some w → j = i

/-- Words of the specification and what they decode to: `addi x8, x0, 64`; `rcall.rel x9, c2, x0, x12, 1`; `amoswp.w
x5, [c1 + x2], x6`; `fence.dev`; `fprobe x7, c3, x4, x10, 2`; `ldsc x3, [ca + xb]`; the cell words `rcv.n`, `add`,
`testk.eow`, `bend.pt`, `bxi.pf 0` of the marker example; `fscan c2`; and a word that no row of the opcode map holds. -/
def Obligations.DecodedWords : Prop :=
  decode 0x81200040 = .ok (.addi 8 0 64) ∧ decode 0xBB24A030 = .ok (.rcall 9 2 true 0 12 0) ∧
  decode 0xA1144218 = .ok (.amoswp 5 1 2 6 false false) ∧ decode 0xBE000004 = .ok (.fence .dev) ∧
  decode 0xB21CC429 = .ok (.fprobe 7 3 4 10 1) ∧ decode 0xBF0C124A = .ok (.ldsc 3 1 9) ∧
  decode 0x63005FF0 = .ok (.rcv ⟨.always, ⟨.l, 2⟩, ⟨.out, 127⟩, 0⟩) ∧
  decode 0x10384030 = .ok (.cellAdd ⟨.always, ⟨.out, 66⟩, ⟨.l, 3⟩, 0⟩) ∧
  decode 0x0C209053 = .ok (.testk ⟨.always, ⟨.p, 4⟩, ⟨.p, 5⟩, 3⟩) ∧ decode 0x03400000 = .ok (.bend ⟨.onTrue, 0⟩) ∧
  decode 0x02800000 = .ok (.bxi ⟨.onFalse, 0⟩) ∧ decode 0x623FFFF2 = .ok (.cellFscan ⟨.always, ⟨.out, 127⟩, ⟨.out, 127⟩, 2⟩) ∧
  (∃ r, decode 0xFF000000 = .error r)

/-- R46, R52, R147: a step whose turn is a ready core's, or a remote context's with budget left, runs the instruction
that the fetched word decodes to; a word that decodes to nothing raises ILLEGAL with KTVAL the word, and a fetch that
fails its fetch trap. A step whose turn is a slot's runs the instruction of the slot. Time passes with the turn. A
core in the middle of an instruction goes on with it (log 96). A slot whose word is damaged faults as it is to fire
(R376; log 85). The step answers what the instruction answers, where that has missed no translation cache or a walker
was free for each miss; else the unit waits, its access parked behind those that have missed before it (R382; log
110). Before it acts, `watch` notes what has become of the bands' buffers (R216; log 63). The schedule that gives
turns is the model's own (logs 1, 4); when a write of KEVQ empties the queue is log 7. R52, R369: the checks of a
fetch in their order, and a failing fetch at KTVEC halts the core and reports it to the next core of its die;
elsewhere it traps with KTVAL the pc. -/
def Obligations.StepRunsInstruction : Prop :=
  (∀ (s : State) (dt : Nat) (a : Action) (rest : List Turn),
     let v : State := { s.watch with script := rest, cycle := s.cycle + dt, misses := [] }
     let runs (x : State) (t : ThreadId) : Prop :=
       (∀ u w i, x.fetch t = (u, .ok w) → decodeControl w.toNat = .ok i → step s = v.orWait (exec i (u.onThread t))) ∧
       (∀ u w r, x.fetch t = (u, .ok w) → decodeControl w.toNat = .error r →
         step s = v.orWait (.next (u.trap t ⟨.illegal, w.setWidth 64⟩))) ∧
       ∀ u c, x.fetch t = (u, .error c) → step s = v.orWait (.next (u.fetchTrap t c))
     s.boot ≠ .failed → s.script = ⟨dt, a⟩ :: rest →
     (∀ t : State,
       (t.misses = [] → v.orWait (.next t) = .next t) ∧
       (t.misses ≠ [] → (∀ m ∈ t.misses, v.mayWalk m = true) → v.orWait (.next t) =
         .next { t with parked := t.parked.filter fun q => !t.misses.contains q, misses := [] }) ∧
       (∀ l m r, t.misses = l ++ m :: r → (∀ q ∈ l, v.mayWalk q = true) → v.mayWalk m = false →
         (v.parked.contains m = true → v.orWait (.next t) = .next v) ∧
         (v.parked.contains m = false → v.orWait (.next t) = .next { v with parked := s.parked ++ [m] }))) ∧
     (∀ k, a = .core k → (s.core k).halted = false → (s.core k).fibre = false → (s.core k).wfeSince = none →
       (∀ i, s.midway k = some i → step s = v.orWait (exec i (v.onThread (.core k)))) ∧
       (s.midway k = none → (s.core k).kevqPending = false → runs v (.core k)) ∧
       (s.midway k = none → (s.core k).kevqPending = true → runs (v.setCore k (s.core k).emptyEvents) (.core k))) ∧
     (∀ k, a = .core k → (s.core k).halted = true ∨ (s.core k).fibre = true → step s = .next v) ∧
     (∀ t x, a = .remote t → (s.unit t.unit).ctx[t.ctx] = some x → x.fibre = false → 64 ≤ x.call.entry → x.budget ≠ 0 →
       runs v (.remote t)) ∧
     (∀ c n b i ins, a = .slot c n → (s.cell c).running = some (b, i) → b.instr n = some ins →
       ((s.cell c).wordBad b.num n = false → step s = v.orWait (exec ins (v.onSlot c n))) ∧
       ((s.cell c).wordBad b.num n = true → step s = v.orWait (.next (v.fireBad c b i n ins)))) ∧
     ∀ i, a = .event i → encode i = none → step s = v.orWait (exec i v)) ∧
  (∀ (s : State) (k : CoreId) (c : Cause),
     let th := s.thread (.core k)
     let p := th.pcc
     (p.tag = false → s.fetch (.core k) = (s, .error .tag)) ∧
     (p.tag = true → p.otype ≠ 0 ∨ p.space ≠ .dense ∨ p.pX = false ∨ p.tenant ≠ th.tenant →
       s.fetch (.core k) = (s, .error .perm)) ∧
     (p.tag = true → p.otype = 0 → p.space = .dense → p.pX = true → p.tenant = th.tenant →
       (p.length < th.pc.toNat + 4 → s.fetch (.core k) = (s, .error .bounds)) ∧
       (th.pc.toNat + 4 ≤ p.length → (p.base + th.pc.toNat) % 4 ≠ 0 → s.fetch (.core k) = (s, .error .misalign))) ∧
     (th.pc ≠ (s.core k).ktvec → Traps k c.code th.pc s (s.fetchTrap (.core k) c)) ∧
     (th.pc = (s.core k).ktvec → s.fetchTrap (.core k) c = (s.setCore k { s.core k with halted := true }).post
       (Fin.ofNat 32 (k.val / 16 * 16 + (k.val + 1) % 16)) (record 3 c.code 0 (coreSrc k) 0)))

/-- R315, R328, R336, R389, R419: after reset every core is halted and privileged with call number 1, KRTIME 100 and
its trap, vector, scratch, page-table and KINSTR registers 0, every tag is 0, no launch queue is enabled, every cell
is idle, and the module is off. (Register values for which no rule gives a reset value are the model's: log 2.) -/
def Obligations.ResetState : Prop :=
  let s := State.reset
  (∀ k : CoreId, (s.core k).halted = true ∧ (s.core k).callNum = 1 ∧
    s.sreg k .kstat = 1 ∧ s.sreg k .krtime = 100 ∧ s.sreg k .kcause = 0 ∧ s.sreg k .kepc = 0 ∧ s.sreg k .ktval = 0 ∧
    s.sreg k .ktvec = 0 ∧ s.sreg k .kscratch = 0 ∧ s.sreg k .kptbase = 0 ∧ s.sreg k .kinstr = 0 ∧
    (s.core k).events = [] ∧ ∀ i : Fin 16, (s.core k).slots[i] = none) ∧
  (∀ a, s.mem.tagAt a = false ∧ s.scratch.tagAt a = false) ∧
  (∀ (d : Fin 2) (q : Fin 16), (s.queue d q).binding = 0 ∧ (s.queue d q).enabled = false ∧ (s.queue d q).launches = []) ∧
  (∀ c, (s.cell c).inst = none ∧ (s.cell c).program = .empty ∧ (s.cell c).callNum = 1) ∧ s.boot = .off ∧
  s.calls = [] ∧ s.fibreReqs = [] ∧ s.records = []

/-- The memories of the reset state list nothing that reads as an unlisted byte does, and its event queues are within
their bounds: the invariants of StepKeepsMemory and EventQueues hold there. -/
def Obligations.ResetInvariants : Prop :=
  State.reset.memWf = true ∧ State.reset.queuesBounded = true

/-- Every step keeps the canonical form of both memories, so that equal memories are equal data. -/
def Obligations.StepKeepsMemory : Prop :=
  ∀ s t : State, s.memWf = true → step s = .next t → t.memWf = true

/-- R352 to R355: how the built-in functions complete. Where a group's elements can be read and its outputs' addresses
found, REDUCE writes the tree sums of its sources and ADAMW the new parameters and moments, up to 16 elements a step;
after the last group, unless flags[0] is set, the flag value is stored and the result is OK with the count and the flag
value, once other modules have acknowledged what it has stored there (log 17: the model's reading). FILL writes its pattern and COPY the source's bytes, 8 a step, over however many pages the unit lies on. -/
def Obligations.BuiltInsComplete : Prop :=
  ∀ (s u v : State) (g : GrottoId) (j : Fin 8) (x : RemoteCtx) (ws : List Nat) (cols : List (List Nat))
      (ps : List (List (Loc × Nat))),
    let t : RemoteId := ⟨.grotto g, j⟩
    let tenant := x.call.tenant
    let count := blockWord ws 0
    let n := min 16 (count - x.done)
    let k := (cols.headD []).length
    let at' (j i : Nat) : Nat := (cols.map fun c => c.getD i 0).getD j 0
    let places (va : Nat) : List Nat := (List.range n).map fun i => va + 4 * (x.done + i)
    let p (i : Fin 4) : Nat := x.call.payload[i].toNat
    let base := x.call.cap.base
    let moved (s : State) (size : Nat) (data : List Nat) (m : Nat) : State :=
      (s.builtinPut t tenant size (ps.zip data)).setCtx t { x with done := x.done + m }
    (s.unit (.grotto g)).ctx[j] = some x → x.params = some ws →
    (x.call.entry = 0 → x.done < count →
      s.builtinCols t.unit tenant x.done n (reduceSources ws) = (u, .ok cols) →
      u.builtinTargets t.unit tenant .badDesc 4 (places (blockDouble ws 4)) = (v, .ok ps) →
      exec (.builtinReduce t) s =
        .next (moved v 4 ((List.range k).map fun i => treeSum (cols.map fun c => c.getD i 0)) n)) ∧
    (x.call.entry = 1 → x.done < count →
      s.builtinCols t.unit tenant x.done n [blockDouble ws 4, blockDouble ws 10, blockDouble ws 12, blockDouble ws 14] =
        (u, .ok cols) →
      u.builtinTargets t.unit tenant .badDesc 4
        (places (blockDouble ws 4) ++ (places (blockDouble ws 12) ++ places (blockDouble ws 14))) = (v, .ok ps) →
      let new := (List.range k).map fun i => adamwElem ws (at' 0 i) (at' 1 i) (at' 2 i) (at' 3 i)
      exec (.builtinAdamw t) s =
        .next (moved v 4 (new.map (fun y => y.1) ++ (new.map (fun y => y.2.1) ++ new.map fun y => y.2.2)) n)) ∧
    (∀ i : Instr, (x.call.entry = 0 ∧ i = .builtinReduce t) ∨ (x.call.entry = 1 ∧ i = .builtinAdamw t) →
      let stored := u.builtinPut t tenant 8 (ps.map fun q => (q, blockDouble ws 8))
      let ended (y : State) : Res := .next (y.endRemote t 0 (BitVec.ofNat 64 count) (BitVec.ofNat 64 (blockDouble ws 8)))
      (count = x.done → blockWord ws 3 ≠ 1 → s.podDone (.remote t) = true →
        s.builtinTargets t.unit tenant .badDesc 8 [blockDouble ws 6] = (u, .ok ps) →
        (stored.podDone (.remote t) = true → exec i s = ended stored) ∧
        (stored.podDone (.remote t) = false → exec i s = .next (stored.setCtx t { x with done := count + 1 }))) ∧
      (s.podDone (.remote t) = true → (count = x.done ∧ blockWord ws 3 = 1) ∨ count < x.done → exec i s = ended s) ∧
      (count ≤ x.done → s.podDone (.remote t) = false → exec i s = .next s)) ∧
    (x.call.entry = 2 → x.done < p 1 →
      s.builtinTargets t.unit tenant .perm 8 [base + p 0 + x.done] = (u, .ok ps) →
      exec (.builtinFill t) s = .next ((u.builtinPut t tenant 8 (ps.map fun q => (q, p 2))).setCtx t { x with done := x.done + 8 })) ∧
    (∀ bs, x.call.entry = 3 → x.done < p 2 → s.builtinRead t.unit tenant (base + p 1 + x.done) 8 = (u, .ok bs) →
      u.builtinTargets t.unit tenant .perm 8 [base + p 0 + x.done] = (v, .ok ps) →
      exec (.builtinCopy t) s =
        .next ((v.builtinPut t tenant 8 (ps.map fun q => (q, leNat bs))).setCtx t { x with done := x.done + 8 }))
end

