-- ==== Sys2Proof/Laws/State.lean ====
section
/-!
SUPPORT. What each update of the state leaves: one lemma per field per update, so that no proof unfolds a record
update.
-/

namespace Sys2Proof.Machine
open Sys2Proof

set_option Elab.async false

/-! ### Updates of one component -/
section
variable (s : State) (k : CoreId) (c : Core)
@[simp] theorem State.setCore_cycle : (s.setCore k c).cycle = s.cycle := rfl
@[simp] theorem State.setCore_dieStart : (s.setCore k c).dieStart = s.dieStart := rfl
@[simp] theorem State.setCore_fresh : (s.setCore k c).fresh = s.fresh := rfl
@[simp] theorem State.setCore_script : (s.setCore k c).script = s.script := rfl
@[simp] theorem State.setCore_focus : (s.setCore k c).focus = s.focus := rfl
@[simp] theorem State.setCore_mem : (s.setCore k c).mem = s.mem := rfl
@[simp] theorem State.setCore_scratch : (s.setCore k c).scratch = s.scratch := rfl
@[simp] theorem State.setCore_tlb : (s.setCore k c).tlb = s.tlb := rfl
@[simp] theorem State.setCore_spent : (s.setCore k c).spent = s.spent := rfl
@[simp] theorem State.setCore_cores : (s.setCore k c).cores = s.cores.set k c := rfl
@[simp] theorem State.setCore_works : (s.setCore k c).works = s.works := rfl
@[simp] theorem State.setCore_units : (s.setCore k c).units = s.units := rfl
@[simp] theorem State.setCore_cells : (s.setCore k c).cells = s.cells := rfl
@[simp] theorem State.setCore_memQueues : (s.setCore k c).memQueues = s.memQueues := rfl
@[simp] theorem State.setCore_transfers : (s.setCore k c).transfers = s.transfers := rfl
@[simp] theorem State.setCore_parked : (s.setCore k c).parked = s.parked := rfl
@[simp] theorem State.setCore_misses : (s.setCore k c).misses = s.misses := rfl
@[simp] theorem State.setCore_flights : (s.setCore k c).flights = s.flights := rfl
@[simp] theorem State.setCore_rows : (s.setCore k c).rows = s.rows := rfl
@[simp] theorem State.setCore_vps : (s.setCore k c).vps = s.vps := rfl
@[simp] theorem State.setCore_scheds : (s.setCore k c).scheds = s.scheds := rfl
@[simp] theorem State.setCore_fibreReqs : (s.setCore k c).fibreReqs = s.fibreReqs := rfl
@[simp] theorem State.setCore_replies : (s.setCore k c).replies = s.replies := rfl
@[simp] theorem State.setCore_holds : (s.setCore k c).holds = s.holds := rfl
@[simp] theorem State.setCore_calls : (s.setCore k c).calls = s.calls := rfl
@[simp] theorem State.setCore_callBack : (s.setCore k c).callBack = s.callBack := rfl
@[simp] theorem State.setCore_lost : (s.setCore k c).lost = s.lost := rfl
@[simp] theorem State.setCore_cleared : (s.setCore k c).cleared = s.cleared := rfl
@[simp] theorem State.setCore_records : (s.setCore k c).records = s.records := rfl
@[simp] theorem State.setCore_errors : (s.setCore k c).errors = s.errors := rfl
@[simp] theorem State.setCore_errorCore : (s.setCore k c).errorCore = s.errorCore := rfl
@[simp] theorem State.setCore_staging : (s.setCore k c).staging = s.staging := rfl
@[simp] theorem State.setCore_kdevno : (s.setCore k c).kdevno = s.kdevno := rfl
@[simp] theorem State.setCore_kstrict : (s.setCore k c).kstrict = s.kstrict := rfl
@[simp] theorem State.setCore_staged : (s.setCore k c).staged = s.staged := rfl
@[simp] theorem State.setCore_partitions : (s.setCore k c).partitions = s.partitions := rfl
@[simp] theorem State.setCore_commitResult : (s.setCore k c).commitResult = s.commitResult := rfl
@[simp] theorem State.setCore_startRec : (s.setCore k c).startRec = s.startRec := rfl
@[simp] theorem State.setCore_harts : (s.setCore k c).harts = s.harts := rfl
@[simp] theorem State.setCore_routes : (s.setCore k c).routes = s.routes := rfl
@[simp] theorem State.setCore_deadLinks : (s.setCore k c).deadLinks = s.deadLinks := rfl
@[simp] theorem State.setCore_scNode : (s.setCore k c).scNode = s.scNode := rfl
@[simp] theorem State.setCore_scCount : (s.setCore k c).scCount = s.scCount := rfl
@[simp] theorem State.setCore_scSkip : (s.setCore k c).scSkip = s.scSkip := rfl
@[simp] theorem State.setCore_outbox : (s.setCore k c).outbox = s.outbox := rfl
@[simp] theorem State.setCore_powerMw : (s.setCore k c).powerMw = s.powerMw := rfl
@[simp] theorem State.setCore_tempC : (s.setCore k c).tempC = s.tempC := rfl
@[simp] theorem State.setCore_held : (s.setCore k c).held = s.held := rfl
@[simp] theorem State.setCore_overTemp : (s.setCore k c).overTemp = s.overTemp := rfl
@[simp] theorem State.setCore_boot : (s.setCore k c).boot = s.boot := rfl
@[simp] theorem State.setCore_measure0 : (s.setCore k c).measure0 = s.measure0 := rfl
@[simp] theorem State.setCore_deviceKey : (s.setCore k c).deviceKey = s.deviceKey := rfl
@[simp] theorem State.setCore_flash : (s.setCore k c).flash = s.flash := rfl
@[simp] theorem State.setCore_ports : (s.setCore k c).ports = s.ports := rfl
@[simp] theorem State.setCore_endpoint : (s.setCore k c).endpoint = s.endpoint := rfl
@[simp] theorem State.setCore_windowAt : (s.setCore k c).windowAt = s.windowAt := rfl
@[simp] theorem State.setCore_activity : (s.setCore k c).activity = s.activity := rfl
@[simp] theorem State.setCore_recordOk : (s.setCore k c).recordOk = s.recordOk := rfl
@[simp] theorem State.setCore_speedGrade : (s.setCore k c).speedGrade = s.speedGrade := rfl
@[simp] theorem State.setCore_gddrMiB : (s.setCore k c).gddrMiB = s.gddrMiB := rfl
@[simp] theorem State.setCore_retired : (s.setCore k c).retired = s.retired := rfl
@[simp] theorem State.setCore_dropped : (s.setCore k c).dropped = s.dropped := rfl
end

section
variable (s : State) (u : UnitId) (x : Unit)
@[simp] theorem State.setUnit_cycle : (s.setUnit u x).cycle = s.cycle := rfl
@[simp] theorem State.setUnit_dieStart : (s.setUnit u x).dieStart = s.dieStart := rfl
@[simp] theorem State.setUnit_fresh : (s.setUnit u x).fresh = s.fresh := rfl
@[simp] theorem State.setUnit_script : (s.setUnit u x).script = s.script := rfl
@[simp] theorem State.setUnit_focus : (s.setUnit u x).focus = s.focus := rfl
@[simp] theorem State.setUnit_mem : (s.setUnit u x).mem = s.mem := rfl
@[simp] theorem State.setUnit_scratch : (s.setUnit u x).scratch = s.scratch := rfl
@[simp] theorem State.setUnit_tlb : (s.setUnit u x).tlb = s.tlb := rfl
@[simp] theorem State.setUnit_spent : (s.setUnit u x).spent = s.spent := rfl
@[simp] theorem State.setUnit_cores : (s.setUnit u x).cores = s.cores := rfl
@[simp] theorem State.setUnit_works : (s.setUnit u x).works = s.works := rfl
@[simp] theorem State.setUnit_units : (s.setUnit u x).units = alSet s.units u x := rfl
@[simp] theorem State.setUnit_cells : (s.setUnit u x).cells = s.cells := rfl
@[simp] theorem State.setUnit_memQueues : (s.setUnit u x).memQueues = s.memQueues := rfl
@[simp] theorem State.setUnit_transfers : (s.setUnit u x).transfers = s.transfers := rfl
@[simp] theorem State.setUnit_parked : (s.setUnit u x).parked = s.parked := rfl
@[simp] theorem State.setUnit_misses : (s.setUnit u x).misses = s.misses := rfl
@[simp] theorem State.setUnit_flights : (s.setUnit u x).flights = s.flights := rfl
@[simp] theorem State.setUnit_rows : (s.setUnit u x).rows = s.rows := rfl
@[simp] theorem State.setUnit_vps : (s.setUnit u x).vps = s.vps := rfl
@[simp] theorem State.setUnit_scheds : (s.setUnit u x).scheds = s.scheds := rfl
@[simp] theorem State.setUnit_fibreReqs : (s.setUnit u x).fibreReqs = s.fibreReqs := rfl
@[simp] theorem State.setUnit_replies : (s.setUnit u x).replies = s.replies := rfl
@[simp] theorem State.setUnit_holds : (s.setUnit u x).holds = s.holds := rfl
@[simp] theorem State.setUnit_calls : (s.setUnit u x).calls = s.calls := rfl
@[simp] theorem State.setUnit_callBack : (s.setUnit u x).callBack = s.callBack := rfl
@[simp] theorem State.setUnit_lost : (s.setUnit u x).lost = s.lost := rfl
@[simp] theorem State.setUnit_cleared : (s.setUnit u x).cleared = s.cleared := rfl
@[simp] theorem State.setUnit_records : (s.setUnit u x).records = s.records := rfl
@[simp] theorem State.setUnit_errors : (s.setUnit u x).errors = s.errors := rfl
@[simp] theorem State.setUnit_errorCore : (s.setUnit u x).errorCore = s.errorCore := rfl
@[simp] theorem State.setUnit_staging : (s.setUnit u x).staging = s.staging := rfl
@[simp] theorem State.setUnit_kdevno : (s.setUnit u x).kdevno = s.kdevno := rfl
@[simp] theorem State.setUnit_kstrict : (s.setUnit u x).kstrict = s.kstrict := rfl
@[simp] theorem State.setUnit_staged : (s.setUnit u x).staged = s.staged := rfl
@[simp] theorem State.setUnit_partitions : (s.setUnit u x).partitions = s.partitions := rfl
@[simp] theorem State.setUnit_commitResult : (s.setUnit u x).commitResult = s.commitResult := rfl
@[simp] theorem State.setUnit_startRec : (s.setUnit u x).startRec = s.startRec := rfl
@[simp] theorem State.setUnit_harts : (s.setUnit u x).harts = s.harts := rfl
@[simp] theorem State.setUnit_routes : (s.setUnit u x).routes = s.routes := rfl
@[simp] theorem State.setUnit_deadLinks : (s.setUnit u x).deadLinks = s.deadLinks := rfl
@[simp] theorem State.setUnit_scNode : (s.setUnit u x).scNode = s.scNode := rfl
@[simp] theorem State.setUnit_scCount : (s.setUnit u x).scCount = s.scCount := rfl
@[simp] theorem State.setUnit_scSkip : (s.setUnit u x).scSkip = s.scSkip := rfl
@[simp] theorem State.setUnit_outbox : (s.setUnit u x).outbox = s.outbox := rfl
@[simp] theorem State.setUnit_powerMw : (s.setUnit u x).powerMw = s.powerMw := rfl
@[simp] theorem State.setUnit_tempC : (s.setUnit u x).tempC = s.tempC := rfl
@[simp] theorem State.setUnit_held : (s.setUnit u x).held = s.held := rfl
@[simp] theorem State.setUnit_overTemp : (s.setUnit u x).overTemp = s.overTemp := rfl
@[simp] theorem State.setUnit_boot : (s.setUnit u x).boot = s.boot := rfl
@[simp] theorem State.setUnit_measure0 : (s.setUnit u x).measure0 = s.measure0 := rfl
@[simp] theorem State.setUnit_deviceKey : (s.setUnit u x).deviceKey = s.deviceKey := rfl
@[simp] theorem State.setUnit_flash : (s.setUnit u x).flash = s.flash := rfl
@[simp] theorem State.setUnit_ports : (s.setUnit u x).ports = s.ports := rfl
@[simp] theorem State.setUnit_endpoint : (s.setUnit u x).endpoint = s.endpoint := rfl
@[simp] theorem State.setUnit_windowAt : (s.setUnit u x).windowAt = s.windowAt := rfl
@[simp] theorem State.setUnit_activity : (s.setUnit u x).activity = s.activity := rfl
@[simp] theorem State.setUnit_recordOk : (s.setUnit u x).recordOk = s.recordOk := rfl
@[simp] theorem State.setUnit_speedGrade : (s.setUnit u x).speedGrade = s.speedGrade := rfl
@[simp] theorem State.setUnit_gddrMiB : (s.setUnit u x).gddrMiB = s.gddrMiB := rfl
@[simp] theorem State.setUnit_retired : (s.setUnit u x).retired = s.retired := rfl
@[simp] theorem State.setUnit_dropped : (s.setUnit u x).dropped = s.dropped := rfl
end

section
variable (s : State) (c : CellId) (x : Cell)
@[simp] theorem State.setCell_cycle : (s.setCell c x).cycle = s.cycle := rfl
@[simp] theorem State.setCell_dieStart : (s.setCell c x).dieStart = s.dieStart := rfl
@[simp] theorem State.setCell_fresh : (s.setCell c x).fresh = s.fresh := rfl
@[simp] theorem State.setCell_script : (s.setCell c x).script = s.script := rfl
@[simp] theorem State.setCell_focus : (s.setCell c x).focus = s.focus := rfl
@[simp] theorem State.setCell_mem : (s.setCell c x).mem = s.mem := rfl
@[simp] theorem State.setCell_scratch : (s.setCell c x).scratch = s.scratch := rfl
@[simp] theorem State.setCell_tlb : (s.setCell c x).tlb = s.tlb := rfl
@[simp] theorem State.setCell_spent : (s.setCell c x).spent = s.spent := rfl
@[simp] theorem State.setCell_cores : (s.setCell c x).cores = s.cores := rfl
@[simp] theorem State.setCell_works : (s.setCell c x).works = s.works := rfl
@[simp] theorem State.setCell_units : (s.setCell c x).units = s.units := rfl
@[simp] theorem State.setCell_cells : (s.setCell c x).cells = alSet s.cells c x := rfl
@[simp] theorem State.setCell_memQueues : (s.setCell c x).memQueues = s.memQueues := rfl
@[simp] theorem State.setCell_transfers : (s.setCell c x).transfers = s.transfers := rfl
@[simp] theorem State.setCell_parked : (s.setCell c x).parked = s.parked := rfl
@[simp] theorem State.setCell_misses : (s.setCell c x).misses = s.misses := rfl
@[simp] theorem State.setCell_flights : (s.setCell c x).flights = s.flights := rfl
@[simp] theorem State.setCell_rows : (s.setCell c x).rows = s.rows := rfl
@[simp] theorem State.setCell_vps : (s.setCell c x).vps = s.vps := rfl
@[simp] theorem State.setCell_scheds : (s.setCell c x).scheds = s.scheds := rfl
@[simp] theorem State.setCell_fibreReqs : (s.setCell c x).fibreReqs = s.fibreReqs := rfl
@[simp] theorem State.setCell_replies : (s.setCell c x).replies = s.replies := rfl
@[simp] theorem State.setCell_holds : (s.setCell c x).holds = s.holds := rfl
@[simp] theorem State.setCell_calls : (s.setCell c x).calls = s.calls := rfl
@[simp] theorem State.setCell_callBack : (s.setCell c x).callBack = s.callBack := rfl
@[simp] theorem State.setCell_lost : (s.setCell c x).lost = s.lost := rfl
@[simp] theorem State.setCell_cleared : (s.setCell c x).cleared = s.cleared := rfl
@[simp] theorem State.setCell_records : (s.setCell c x).records = s.records := rfl
@[simp] theorem State.setCell_errors : (s.setCell c x).errors = s.errors := rfl
@[simp] theorem State.setCell_errorCore : (s.setCell c x).errorCore = s.errorCore := rfl
@[simp] theorem State.setCell_staging : (s.setCell c x).staging = s.staging := rfl
@[simp] theorem State.setCell_kdevno : (s.setCell c x).kdevno = s.kdevno := rfl
@[simp] theorem State.setCell_kstrict : (s.setCell c x).kstrict = s.kstrict := rfl
@[simp] theorem State.setCell_staged : (s.setCell c x).staged = s.staged := rfl
@[simp] theorem State.setCell_partitions : (s.setCell c x).partitions = s.partitions := rfl
@[simp] theorem State.setCell_commitResult : (s.setCell c x).commitResult = s.commitResult := rfl
@[simp] theorem State.setCell_startRec : (s.setCell c x).startRec = s.startRec := rfl
@[simp] theorem State.setCell_harts : (s.setCell c x).harts = s.harts := rfl
@[simp] theorem State.setCell_routes : (s.setCell c x).routes = s.routes := rfl
@[simp] theorem State.setCell_deadLinks : (s.setCell c x).deadLinks = s.deadLinks := rfl
@[simp] theorem State.setCell_scNode : (s.setCell c x).scNode = s.scNode := rfl
@[simp] theorem State.setCell_scCount : (s.setCell c x).scCount = s.scCount := rfl
@[simp] theorem State.setCell_scSkip : (s.setCell c x).scSkip = s.scSkip := rfl
@[simp] theorem State.setCell_outbox : (s.setCell c x).outbox = s.outbox := rfl
@[simp] theorem State.setCell_powerMw : (s.setCell c x).powerMw = s.powerMw := rfl
@[simp] theorem State.setCell_tempC : (s.setCell c x).tempC = s.tempC := rfl
@[simp] theorem State.setCell_held : (s.setCell c x).held = s.held := rfl
@[simp] theorem State.setCell_overTemp : (s.setCell c x).overTemp = s.overTemp := rfl
@[simp] theorem State.setCell_boot : (s.setCell c x).boot = s.boot := rfl
@[simp] theorem State.setCell_measure0 : (s.setCell c x).measure0 = s.measure0 := rfl
@[simp] theorem State.setCell_deviceKey : (s.setCell c x).deviceKey = s.deviceKey := rfl
@[simp] theorem State.setCell_flash : (s.setCell c x).flash = s.flash := rfl
@[simp] theorem State.setCell_ports : (s.setCell c x).ports = s.ports := rfl
@[simp] theorem State.setCell_endpoint : (s.setCell c x).endpoint = s.endpoint := rfl
@[simp] theorem State.setCell_windowAt : (s.setCell c x).windowAt = s.windowAt := rfl
@[simp] theorem State.setCell_activity : (s.setCell c x).activity = s.activity := rfl
@[simp] theorem State.setCell_recordOk : (s.setCell c x).recordOk = s.recordOk := rfl
@[simp] theorem State.setCell_speedGrade : (s.setCell c x).speedGrade = s.speedGrade := rfl
@[simp] theorem State.setCell_gddrMiB : (s.setCell c x).gddrMiB = s.gddrMiB := rfl
@[simp] theorem State.setCell_retired : (s.setCell c x).retired = s.retired := rfl
@[simp] theorem State.setCell_dropped : (s.setCell c x).dropped = s.dropped := rfl
end

section
variable (s : State) (r : RowId) (x : Row)
@[simp] theorem State.setRow_cycle : (s.setRow r x).cycle = s.cycle := rfl
@[simp] theorem State.setRow_dieStart : (s.setRow r x).dieStart = s.dieStart := rfl
@[simp] theorem State.setRow_fresh : (s.setRow r x).fresh = s.fresh := rfl
@[simp] theorem State.setRow_script : (s.setRow r x).script = s.script := rfl
@[simp] theorem State.setRow_focus : (s.setRow r x).focus = s.focus := rfl
@[simp] theorem State.setRow_mem : (s.setRow r x).mem = s.mem := rfl
@[simp] theorem State.setRow_scratch : (s.setRow r x).scratch = s.scratch := rfl
@[simp] theorem State.setRow_tlb : (s.setRow r x).tlb = s.tlb := rfl
@[simp] theorem State.setRow_spent : (s.setRow r x).spent = s.spent := rfl
@[simp] theorem State.setRow_cores : (s.setRow r x).cores = s.cores := rfl
@[simp] theorem State.setRow_works : (s.setRow r x).works = s.works := rfl
@[simp] theorem State.setRow_units : (s.setRow r x).units = s.units := rfl
@[simp] theorem State.setRow_cells : (s.setRow r x).cells = s.cells := rfl
@[simp] theorem State.setRow_memQueues : (s.setRow r x).memQueues = s.memQueues := rfl
@[simp] theorem State.setRow_transfers : (s.setRow r x).transfers = s.transfers := rfl
@[simp] theorem State.setRow_parked : (s.setRow r x).parked = s.parked := rfl
@[simp] theorem State.setRow_misses : (s.setRow r x).misses = s.misses := rfl
@[simp] theorem State.setRow_flights : (s.setRow r x).flights = s.flights := rfl
@[simp] theorem State.setRow_rows : (s.setRow r x).rows = alSet s.rows r x := rfl
@[simp] theorem State.setRow_vps : (s.setRow r x).vps = s.vps := rfl
@[simp] theorem State.setRow_scheds : (s.setRow r x).scheds = s.scheds := rfl
@[simp] theorem State.setRow_fibreReqs : (s.setRow r x).fibreReqs = s.fibreReqs := rfl
@[simp] theorem State.setRow_replies : (s.setRow r x).replies = s.replies := rfl
@[simp] theorem State.setRow_holds : (s.setRow r x).holds = s.holds := rfl
@[simp] theorem State.setRow_calls : (s.setRow r x).calls = s.calls := rfl
@[simp] theorem State.setRow_callBack : (s.setRow r x).callBack = s.callBack := rfl
@[simp] theorem State.setRow_lost : (s.setRow r x).lost = s.lost := rfl
@[simp] theorem State.setRow_cleared : (s.setRow r x).cleared = s.cleared := rfl
@[simp] theorem State.setRow_records : (s.setRow r x).records = s.records := rfl
@[simp] theorem State.setRow_errors : (s.setRow r x).errors = s.errors := rfl
@[simp] theorem State.setRow_errorCore : (s.setRow r x).errorCore = s.errorCore := rfl
@[simp] theorem State.setRow_staging : (s.setRow r x).staging = s.staging := rfl
@[simp] theorem State.setRow_kdevno : (s.setRow r x).kdevno = s.kdevno := rfl
@[simp] theorem State.setRow_kstrict : (s.setRow r x).kstrict = s.kstrict := rfl
@[simp] theorem State.setRow_staged : (s.setRow r x).staged = s.staged := rfl
@[simp] theorem State.setRow_partitions : (s.setRow r x).partitions = s.partitions := rfl
@[simp] theorem State.setRow_commitResult : (s.setRow r x).commitResult = s.commitResult := rfl
@[simp] theorem State.setRow_startRec : (s.setRow r x).startRec = s.startRec := rfl
@[simp] theorem State.setRow_harts : (s.setRow r x).harts = s.harts := rfl
@[simp] theorem State.setRow_routes : (s.setRow r x).routes = s.routes := rfl
@[simp] theorem State.setRow_deadLinks : (s.setRow r x).deadLinks = s.deadLinks := rfl
@[simp] theorem State.setRow_scNode : (s.setRow r x).scNode = s.scNode := rfl
@[simp] theorem State.setRow_scCount : (s.setRow r x).scCount = s.scCount := rfl
@[simp] theorem State.setRow_scSkip : (s.setRow r x).scSkip = s.scSkip := rfl
@[simp] theorem State.setRow_outbox : (s.setRow r x).outbox = s.outbox := rfl
@[simp] theorem State.setRow_powerMw : (s.setRow r x).powerMw = s.powerMw := rfl
@[simp] theorem State.setRow_tempC : (s.setRow r x).tempC = s.tempC := rfl
@[simp] theorem State.setRow_held : (s.setRow r x).held = s.held := rfl
@[simp] theorem State.setRow_overTemp : (s.setRow r x).overTemp = s.overTemp := rfl
@[simp] theorem State.setRow_boot : (s.setRow r x).boot = s.boot := rfl
@[simp] theorem State.setRow_measure0 : (s.setRow r x).measure0 = s.measure0 := rfl
@[simp] theorem State.setRow_deviceKey : (s.setRow r x).deviceKey = s.deviceKey := rfl
@[simp] theorem State.setRow_flash : (s.setRow r x).flash = s.flash := rfl
@[simp] theorem State.setRow_ports : (s.setRow r x).ports = s.ports := rfl
@[simp] theorem State.setRow_endpoint : (s.setRow r x).endpoint = s.endpoint := rfl
@[simp] theorem State.setRow_windowAt : (s.setRow r x).windowAt = s.windowAt := rfl
@[simp] theorem State.setRow_activity : (s.setRow r x).activity = s.activity := rfl
@[simp] theorem State.setRow_recordOk : (s.setRow r x).recordOk = s.recordOk := rfl
@[simp] theorem State.setRow_speedGrade : (s.setRow r x).speedGrade = s.speedGrade := rfl
@[simp] theorem State.setRow_gddrMiB : (s.setRow r x).gddrMiB = s.gddrMiB := rfl
@[simp] theorem State.setRow_retired : (s.setRow r x).retired = s.retired := rfl
@[simp] theorem State.setRow_dropped : (s.setRow r x).dropped = s.dropped := rfl
end

section
variable (s : State) (v : VpId) (x : Vp)
@[simp] theorem State.setVp_cycle : (s.setVp v x).cycle = s.cycle := rfl
@[simp] theorem State.setVp_dieStart : (s.setVp v x).dieStart = s.dieStart := rfl
@[simp] theorem State.setVp_fresh : (s.setVp v x).fresh = s.fresh := rfl
@[simp] theorem State.setVp_script : (s.setVp v x).script = s.script := rfl
@[simp] theorem State.setVp_focus : (s.setVp v x).focus = s.focus := rfl
@[simp] theorem State.setVp_mem : (s.setVp v x).mem = s.mem := rfl
@[simp] theorem State.setVp_scratch : (s.setVp v x).scratch = s.scratch := rfl
@[simp] theorem State.setVp_tlb : (s.setVp v x).tlb = s.tlb := rfl
@[simp] theorem State.setVp_spent : (s.setVp v x).spent = s.spent := rfl
@[simp] theorem State.setVp_cores : (s.setVp v x).cores = s.cores := rfl
@[simp] theorem State.setVp_works : (s.setVp v x).works = s.works := rfl
@[simp] theorem State.setVp_units : (s.setVp v x).units = s.units := rfl
@[simp] theorem State.setVp_cells : (s.setVp v x).cells = s.cells := rfl
@[simp] theorem State.setVp_memQueues : (s.setVp v x).memQueues = s.memQueues := rfl
@[simp] theorem State.setVp_transfers : (s.setVp v x).transfers = s.transfers := rfl
@[simp] theorem State.setVp_parked : (s.setVp v x).parked = s.parked := rfl
@[simp] theorem State.setVp_misses : (s.setVp v x).misses = s.misses := rfl
@[simp] theorem State.setVp_flights : (s.setVp v x).flights = s.flights := rfl
@[simp] theorem State.setVp_rows : (s.setVp v x).rows = s.rows := rfl
@[simp] theorem State.setVp_vps : (s.setVp v x).vps = alSet s.vps v x := rfl
@[simp] theorem State.setVp_scheds : (s.setVp v x).scheds = s.scheds := rfl
@[simp] theorem State.setVp_fibreReqs : (s.setVp v x).fibreReqs = s.fibreReqs := rfl
@[simp] theorem State.setVp_replies : (s.setVp v x).replies = s.replies := rfl
@[simp] theorem State.setVp_holds : (s.setVp v x).holds = s.holds := rfl
@[simp] theorem State.setVp_calls : (s.setVp v x).calls = s.calls := rfl
@[simp] theorem State.setVp_callBack : (s.setVp v x).callBack = s.callBack := rfl
@[simp] theorem State.setVp_lost : (s.setVp v x).lost = s.lost := rfl
@[simp] theorem State.setVp_cleared : (s.setVp v x).cleared = s.cleared := rfl
@[simp] theorem State.setVp_records : (s.setVp v x).records = s.records := rfl
@[simp] theorem State.setVp_errors : (s.setVp v x).errors = s.errors := rfl
@[simp] theorem State.setVp_errorCore : (s.setVp v x).errorCore = s.errorCore := rfl
@[simp] theorem State.setVp_staging : (s.setVp v x).staging = s.staging := rfl
@[simp] theorem State.setVp_kdevno : (s.setVp v x).kdevno = s.kdevno := rfl
@[simp] theorem State.setVp_kstrict : (s.setVp v x).kstrict = s.kstrict := rfl
@[simp] theorem State.setVp_staged : (s.setVp v x).staged = s.staged := rfl
@[simp] theorem State.setVp_partitions : (s.setVp v x).partitions = s.partitions := rfl
@[simp] theorem State.setVp_commitResult : (s.setVp v x).commitResult = s.commitResult := rfl
@[simp] theorem State.setVp_startRec : (s.setVp v x).startRec = s.startRec := rfl
@[simp] theorem State.setVp_harts : (s.setVp v x).harts = s.harts := rfl
@[simp] theorem State.setVp_routes : (s.setVp v x).routes = s.routes := rfl
@[simp] theorem State.setVp_deadLinks : (s.setVp v x).deadLinks = s.deadLinks := rfl
@[simp] theorem State.setVp_scNode : (s.setVp v x).scNode = s.scNode := rfl
@[simp] theorem State.setVp_scCount : (s.setVp v x).scCount = s.scCount := rfl
@[simp] theorem State.setVp_scSkip : (s.setVp v x).scSkip = s.scSkip := rfl
@[simp] theorem State.setVp_outbox : (s.setVp v x).outbox = s.outbox := rfl
@[simp] theorem State.setVp_powerMw : (s.setVp v x).powerMw = s.powerMw := rfl
@[simp] theorem State.setVp_tempC : (s.setVp v x).tempC = s.tempC := rfl
@[simp] theorem State.setVp_held : (s.setVp v x).held = s.held := rfl
@[simp] theorem State.setVp_overTemp : (s.setVp v x).overTemp = s.overTemp := rfl
@[simp] theorem State.setVp_boot : (s.setVp v x).boot = s.boot := rfl
@[simp] theorem State.setVp_measure0 : (s.setVp v x).measure0 = s.measure0 := rfl
@[simp] theorem State.setVp_deviceKey : (s.setVp v x).deviceKey = s.deviceKey := rfl
@[simp] theorem State.setVp_flash : (s.setVp v x).flash = s.flash := rfl
@[simp] theorem State.setVp_ports : (s.setVp v x).ports = s.ports := rfl
@[simp] theorem State.setVp_endpoint : (s.setVp v x).endpoint = s.endpoint := rfl
@[simp] theorem State.setVp_windowAt : (s.setVp v x).windowAt = s.windowAt := rfl
@[simp] theorem State.setVp_activity : (s.setVp v x).activity = s.activity := rfl
@[simp] theorem State.setVp_recordOk : (s.setVp v x).recordOk = s.recordOk := rfl
@[simp] theorem State.setVp_speedGrade : (s.setVp v x).speedGrade = s.speedGrade := rfl
@[simp] theorem State.setVp_gddrMiB : (s.setVp v x).gddrMiB = s.gddrMiB := rfl
@[simp] theorem State.setVp_retired : (s.setVp v x).retired = s.retired := rfl
@[simp] theorem State.setVp_dropped : (s.setVp v x).dropped = s.dropped := rfl
end

section
variable (s : State) (c : CellId) (q : List CellReq)
@[simp] theorem State.setMemQueue_cycle : (s.setMemQueue c q).cycle = s.cycle := rfl
@[simp] theorem State.setMemQueue_dieStart : (s.setMemQueue c q).dieStart = s.dieStart := rfl
@[simp] theorem State.setMemQueue_fresh : (s.setMemQueue c q).fresh = s.fresh := rfl
@[simp] theorem State.setMemQueue_script : (s.setMemQueue c q).script = s.script := rfl
@[simp] theorem State.setMemQueue_focus : (s.setMemQueue c q).focus = s.focus := rfl
@[simp] theorem State.setMemQueue_mem : (s.setMemQueue c q).mem = s.mem := rfl
@[simp] theorem State.setMemQueue_scratch : (s.setMemQueue c q).scratch = s.scratch := rfl
@[simp] theorem State.setMemQueue_tlb : (s.setMemQueue c q).tlb = s.tlb := rfl
@[simp] theorem State.setMemQueue_spent : (s.setMemQueue c q).spent = s.spent := rfl
@[simp] theorem State.setMemQueue_cores : (s.setMemQueue c q).cores = s.cores := rfl
@[simp] theorem State.setMemQueue_works : (s.setMemQueue c q).works = s.works := rfl
@[simp] theorem State.setMemQueue_units : (s.setMemQueue c q).units = s.units := rfl
@[simp] theorem State.setMemQueue_cells : (s.setMemQueue c q).cells = s.cells := rfl
@[simp] theorem State.setMemQueue_memQueues : (s.setMemQueue c q).memQueues = alSet s.memQueues c q := rfl
@[simp] theorem State.setMemQueue_transfers : (s.setMemQueue c q).transfers = s.transfers := rfl
@[simp] theorem State.setMemQueue_parked : (s.setMemQueue c q).parked = s.parked := rfl
@[simp] theorem State.setMemQueue_misses : (s.setMemQueue c q).misses = s.misses := rfl
@[simp] theorem State.setMemQueue_flights : (s.setMemQueue c q).flights = s.flights := rfl
@[simp] theorem State.setMemQueue_rows : (s.setMemQueue c q).rows = s.rows := rfl
@[simp] theorem State.setMemQueue_vps : (s.setMemQueue c q).vps = s.vps := rfl
@[simp] theorem State.setMemQueue_scheds : (s.setMemQueue c q).scheds = s.scheds := rfl
@[simp] theorem State.setMemQueue_fibreReqs : (s.setMemQueue c q).fibreReqs = s.fibreReqs := rfl
@[simp] theorem State.setMemQueue_replies : (s.setMemQueue c q).replies = s.replies := rfl
@[simp] theorem State.setMemQueue_holds : (s.setMemQueue c q).holds = s.holds := rfl
@[simp] theorem State.setMemQueue_calls : (s.setMemQueue c q).calls = s.calls := rfl
@[simp] theorem State.setMemQueue_callBack : (s.setMemQueue c q).callBack = s.callBack := rfl
@[simp] theorem State.setMemQueue_lost : (s.setMemQueue c q).lost = s.lost := rfl
@[simp] theorem State.setMemQueue_cleared : (s.setMemQueue c q).cleared = s.cleared := rfl
@[simp] theorem State.setMemQueue_records : (s.setMemQueue c q).records = s.records := rfl
@[simp] theorem State.setMemQueue_errors : (s.setMemQueue c q).errors = s.errors := rfl
@[simp] theorem State.setMemQueue_errorCore : (s.setMemQueue c q).errorCore = s.errorCore := rfl
@[simp] theorem State.setMemQueue_staging : (s.setMemQueue c q).staging = s.staging := rfl
@[simp] theorem State.setMemQueue_kdevno : (s.setMemQueue c q).kdevno = s.kdevno := rfl
@[simp] theorem State.setMemQueue_kstrict : (s.setMemQueue c q).kstrict = s.kstrict := rfl
@[simp] theorem State.setMemQueue_staged : (s.setMemQueue c q).staged = s.staged := rfl
@[simp] theorem State.setMemQueue_partitions : (s.setMemQueue c q).partitions = s.partitions := rfl
@[simp] theorem State.setMemQueue_commitResult : (s.setMemQueue c q).commitResult = s.commitResult := rfl
@[simp] theorem State.setMemQueue_startRec : (s.setMemQueue c q).startRec = s.startRec := rfl
@[simp] theorem State.setMemQueue_harts : (s.setMemQueue c q).harts = s.harts := rfl
@[simp] theorem State.setMemQueue_routes : (s.setMemQueue c q).routes = s.routes := rfl
@[simp] theorem State.setMemQueue_deadLinks : (s.setMemQueue c q).deadLinks = s.deadLinks := rfl
@[simp] theorem State.setMemQueue_scNode : (s.setMemQueue c q).scNode = s.scNode := rfl
@[simp] theorem State.setMemQueue_scCount : (s.setMemQueue c q).scCount = s.scCount := rfl
@[simp] theorem State.setMemQueue_scSkip : (s.setMemQueue c q).scSkip = s.scSkip := rfl
@[simp] theorem State.setMemQueue_outbox : (s.setMemQueue c q).outbox = s.outbox := rfl
@[simp] theorem State.setMemQueue_powerMw : (s.setMemQueue c q).powerMw = s.powerMw := rfl
@[simp] theorem State.setMemQueue_tempC : (s.setMemQueue c q).tempC = s.tempC := rfl
@[simp] theorem State.setMemQueue_held : (s.setMemQueue c q).held = s.held := rfl
@[simp] theorem State.setMemQueue_overTemp : (s.setMemQueue c q).overTemp = s.overTemp := rfl
@[simp] theorem State.setMemQueue_boot : (s.setMemQueue c q).boot = s.boot := rfl
@[simp] theorem State.setMemQueue_measure0 : (s.setMemQueue c q).measure0 = s.measure0 := rfl
@[simp] theorem State.setMemQueue_deviceKey : (s.setMemQueue c q).deviceKey = s.deviceKey := rfl
@[simp] theorem State.setMemQueue_flash : (s.setMemQueue c q).flash = s.flash := rfl
@[simp] theorem State.setMemQueue_ports : (s.setMemQueue c q).ports = s.ports := rfl
@[simp] theorem State.setMemQueue_endpoint : (s.setMemQueue c q).endpoint = s.endpoint := rfl
@[simp] theorem State.setMemQueue_windowAt : (s.setMemQueue c q).windowAt = s.windowAt := rfl
@[simp] theorem State.setMemQueue_activity : (s.setMemQueue c q).activity = s.activity := rfl
@[simp] theorem State.setMemQueue_recordOk : (s.setMemQueue c q).recordOk = s.recordOk := rfl
@[simp] theorem State.setMemQueue_speedGrade : (s.setMemQueue c q).speedGrade = s.speedGrade := rfl
@[simp] theorem State.setMemQueue_gddrMiB : (s.setMemQueue c q).gddrMiB = s.gddrMiB := rfl
@[simp] theorem State.setMemQueue_retired : (s.setMemQueue c q).retired = s.retired := rfl
@[simp] theorem State.setMemQueue_dropped : (s.setMemQueue c q).dropped = s.dropped := rfl
end

section
variable (s : State) (d : Fin 2) (x : Scheduler)
@[simp] theorem State.setSched_cycle : (s.setSched d x).cycle = s.cycle := rfl
@[simp] theorem State.setSched_dieStart : (s.setSched d x).dieStart = s.dieStart := rfl
@[simp] theorem State.setSched_fresh : (s.setSched d x).fresh = s.fresh := rfl
@[simp] theorem State.setSched_script : (s.setSched d x).script = s.script := rfl
@[simp] theorem State.setSched_focus : (s.setSched d x).focus = s.focus := rfl
@[simp] theorem State.setSched_mem : (s.setSched d x).mem = s.mem := rfl
@[simp] theorem State.setSched_scratch : (s.setSched d x).scratch = s.scratch := rfl
@[simp] theorem State.setSched_tlb : (s.setSched d x).tlb = s.tlb := rfl
@[simp] theorem State.setSched_spent : (s.setSched d x).spent = s.spent := rfl
@[simp] theorem State.setSched_cores : (s.setSched d x).cores = s.cores := rfl
@[simp] theorem State.setSched_works : (s.setSched d x).works = s.works := rfl
@[simp] theorem State.setSched_units : (s.setSched d x).units = s.units := rfl
@[simp] theorem State.setSched_cells : (s.setSched d x).cells = s.cells := rfl
@[simp] theorem State.setSched_memQueues : (s.setSched d x).memQueues = s.memQueues := rfl
@[simp] theorem State.setSched_transfers : (s.setSched d x).transfers = s.transfers := rfl
@[simp] theorem State.setSched_parked : (s.setSched d x).parked = s.parked := rfl
@[simp] theorem State.setSched_misses : (s.setSched d x).misses = s.misses := rfl
@[simp] theorem State.setSched_flights : (s.setSched d x).flights = s.flights := rfl
@[simp] theorem State.setSched_rows : (s.setSched d x).rows = s.rows := rfl
@[simp] theorem State.setSched_vps : (s.setSched d x).vps = s.vps := rfl
@[simp] theorem State.setSched_scheds : (s.setSched d x).scheds = s.scheds.set d x := rfl
@[simp] theorem State.setSched_fibreReqs : (s.setSched d x).fibreReqs = s.fibreReqs := rfl
@[simp] theorem State.setSched_replies : (s.setSched d x).replies = s.replies := rfl
@[simp] theorem State.setSched_holds : (s.setSched d x).holds = s.holds := rfl
@[simp] theorem State.setSched_calls : (s.setSched d x).calls = s.calls := rfl
@[simp] theorem State.setSched_callBack : (s.setSched d x).callBack = s.callBack := rfl
@[simp] theorem State.setSched_lost : (s.setSched d x).lost = s.lost := rfl
@[simp] theorem State.setSched_cleared : (s.setSched d x).cleared = s.cleared := rfl
@[simp] theorem State.setSched_records : (s.setSched d x).records = s.records := rfl
@[simp] theorem State.setSched_errors : (s.setSched d x).errors = s.errors := rfl
@[simp] theorem State.setSched_errorCore : (s.setSched d x).errorCore = s.errorCore := rfl
@[simp] theorem State.setSched_staging : (s.setSched d x).staging = s.staging := rfl
@[simp] theorem State.setSched_kdevno : (s.setSched d x).kdevno = s.kdevno := rfl
@[simp] theorem State.setSched_kstrict : (s.setSched d x).kstrict = s.kstrict := rfl
@[simp] theorem State.setSched_staged : (s.setSched d x).staged = s.staged := rfl
@[simp] theorem State.setSched_partitions : (s.setSched d x).partitions = s.partitions := rfl
@[simp] theorem State.setSched_commitResult : (s.setSched d x).commitResult = s.commitResult := rfl
@[simp] theorem State.setSched_startRec : (s.setSched d x).startRec = s.startRec := rfl
@[simp] theorem State.setSched_harts : (s.setSched d x).harts = s.harts := rfl
@[simp] theorem State.setSched_routes : (s.setSched d x).routes = s.routes := rfl
@[simp] theorem State.setSched_deadLinks : (s.setSched d x).deadLinks = s.deadLinks := rfl
@[simp] theorem State.setSched_scNode : (s.setSched d x).scNode = s.scNode := rfl
@[simp] theorem State.setSched_scCount : (s.setSched d x).scCount = s.scCount := rfl
@[simp] theorem State.setSched_scSkip : (s.setSched d x).scSkip = s.scSkip := rfl
@[simp] theorem State.setSched_outbox : (s.setSched d x).outbox = s.outbox := rfl
@[simp] theorem State.setSched_powerMw : (s.setSched d x).powerMw = s.powerMw := rfl
@[simp] theorem State.setSched_tempC : (s.setSched d x).tempC = s.tempC := rfl
@[simp] theorem State.setSched_held : (s.setSched d x).held = s.held := rfl
@[simp] theorem State.setSched_overTemp : (s.setSched d x).overTemp = s.overTemp := rfl
@[simp] theorem State.setSched_boot : (s.setSched d x).boot = s.boot := rfl
@[simp] theorem State.setSched_measure0 : (s.setSched d x).measure0 = s.measure0 := rfl
@[simp] theorem State.setSched_deviceKey : (s.setSched d x).deviceKey = s.deviceKey := rfl
@[simp] theorem State.setSched_flash : (s.setSched d x).flash = s.flash := rfl
@[simp] theorem State.setSched_ports : (s.setSched d x).ports = s.ports := rfl
@[simp] theorem State.setSched_endpoint : (s.setSched d x).endpoint = s.endpoint := rfl
@[simp] theorem State.setSched_windowAt : (s.setSched d x).windowAt = s.windowAt := rfl
@[simp] theorem State.setSched_activity : (s.setSched d x).activity = s.activity := rfl
@[simp] theorem State.setSched_recordOk : (s.setSched d x).recordOk = s.recordOk := rfl
@[simp] theorem State.setSched_speedGrade : (s.setSched d x).speedGrade = s.speedGrade := rfl
@[simp] theorem State.setSched_gddrMiB : (s.setSched d x).gddrMiB = s.gddrMiB := rfl
@[simp] theorem State.setSched_retired : (s.setSched d x).retired = s.retired := rfl
@[simp] theorem State.setSched_dropped : (s.setSched d x).dropped = s.dropped := rfl
end

section
variable (s : State) (k : CoreId) (r : BitVec 128)
@[simp] theorem State.post_cycle : (s.post k r).cycle = s.cycle := rfl
@[simp] theorem State.post_dieStart : (s.post k r).dieStart = s.dieStart := rfl
@[simp] theorem State.post_fresh : (s.post k r).fresh = s.fresh := rfl
@[simp] theorem State.post_script : (s.post k r).script = s.script := rfl
@[simp] theorem State.post_focus : (s.post k r).focus = s.focus := rfl
@[simp] theorem State.post_mem : (s.post k r).mem = s.mem := rfl
@[simp] theorem State.post_scratch : (s.post k r).scratch = s.scratch := rfl
@[simp] theorem State.post_tlb : (s.post k r).tlb = s.tlb := rfl
@[simp] theorem State.post_spent : (s.post k r).spent = s.spent := rfl
@[simp] theorem State.post_cores : (s.post k r).cores = s.cores := rfl
@[simp] theorem State.post_works : (s.post k r).works = s.works := rfl
@[simp] theorem State.post_units : (s.post k r).units = s.units := rfl
@[simp] theorem State.post_cells : (s.post k r).cells = s.cells := rfl
@[simp] theorem State.post_memQueues : (s.post k r).memQueues = s.memQueues := rfl
@[simp] theorem State.post_transfers : (s.post k r).transfers = s.transfers := rfl
@[simp] theorem State.post_parked : (s.post k r).parked = s.parked := rfl
@[simp] theorem State.post_misses : (s.post k r).misses = s.misses := rfl
@[simp] theorem State.post_flights : (s.post k r).flights = s.flights := rfl
@[simp] theorem State.post_rows : (s.post k r).rows = s.rows := rfl
@[simp] theorem State.post_vps : (s.post k r).vps = s.vps := rfl
@[simp] theorem State.post_scheds : (s.post k r).scheds = s.scheds := rfl
@[simp] theorem State.post_fibreReqs : (s.post k r).fibreReqs = s.fibreReqs := rfl
@[simp] theorem State.post_replies : (s.post k r).replies = s.replies := rfl
@[simp] theorem State.post_holds : (s.post k r).holds = s.holds := rfl
@[simp] theorem State.post_calls : (s.post k r).calls = s.calls := rfl
@[simp] theorem State.post_callBack : (s.post k r).callBack = s.callBack := rfl
@[simp] theorem State.post_lost : (s.post k r).lost = s.lost := rfl
@[simp] theorem State.post_cleared : (s.post k r).cleared = s.cleared := rfl
@[simp] theorem State.post_records : (s.post k r).records = s.records ++ [(k, r)] := rfl
@[simp] theorem State.post_errors : (s.post k r).errors = s.errors := rfl
@[simp] theorem State.post_errorCore : (s.post k r).errorCore = s.errorCore := rfl
@[simp] theorem State.post_staging : (s.post k r).staging = s.staging := rfl
@[simp] theorem State.post_kdevno : (s.post k r).kdevno = s.kdevno := rfl
@[simp] theorem State.post_kstrict : (s.post k r).kstrict = s.kstrict := rfl
@[simp] theorem State.post_staged : (s.post k r).staged = s.staged := rfl
@[simp] theorem State.post_partitions : (s.post k r).partitions = s.partitions := rfl
@[simp] theorem State.post_commitResult : (s.post k r).commitResult = s.commitResult := rfl
@[simp] theorem State.post_startRec : (s.post k r).startRec = s.startRec := rfl
@[simp] theorem State.post_harts : (s.post k r).harts = s.harts := rfl
@[simp] theorem State.post_routes : (s.post k r).routes = s.routes := rfl
@[simp] theorem State.post_deadLinks : (s.post k r).deadLinks = s.deadLinks := rfl
@[simp] theorem State.post_scNode : (s.post k r).scNode = s.scNode := rfl
@[simp] theorem State.post_scCount : (s.post k r).scCount = s.scCount := rfl
@[simp] theorem State.post_scSkip : (s.post k r).scSkip = s.scSkip := rfl
@[simp] theorem State.post_outbox : (s.post k r).outbox = s.outbox := rfl
@[simp] theorem State.post_powerMw : (s.post k r).powerMw = s.powerMw := rfl
@[simp] theorem State.post_tempC : (s.post k r).tempC = s.tempC := rfl
@[simp] theorem State.post_held : (s.post k r).held = s.held := rfl
@[simp] theorem State.post_overTemp : (s.post k r).overTemp = s.overTemp := rfl
@[simp] theorem State.post_boot : (s.post k r).boot = s.boot := rfl
@[simp] theorem State.post_measure0 : (s.post k r).measure0 = s.measure0 := rfl
@[simp] theorem State.post_deviceKey : (s.post k r).deviceKey = s.deviceKey := rfl
@[simp] theorem State.post_flash : (s.post k r).flash = s.flash := rfl
@[simp] theorem State.post_ports : (s.post k r).ports = s.ports := rfl
@[simp] theorem State.post_endpoint : (s.post k r).endpoint = s.endpoint := rfl
@[simp] theorem State.post_windowAt : (s.post k r).windowAt = s.windowAt := rfl
@[simp] theorem State.post_activity : (s.post k r).activity = s.activity := rfl
@[simp] theorem State.post_recordOk : (s.post k r).recordOk = s.recordOk := rfl
@[simp] theorem State.post_speedGrade : (s.post k r).speedGrade = s.speedGrade := rfl
@[simp] theorem State.post_gddrMiB : (s.post k r).gddrMiB = s.gddrMiB := rfl
@[simp] theorem State.post_retired : (s.post k r).retired = s.retired := rfl
@[simp] theorem State.post_dropped : (s.post k r).dropped = s.dropped := rfl
end

/-! ### Association lists -/

@[simp] theorem alGet_alSet_same [DecidableEq α] (l : List (α × β)) (k : α) (v d : β) :
    alGet (alSet l k v) k d = v := by
  induction l with
  | nil => simp [alSet, alGet]
  | cons q t ih => obtain ⟨k', v'⟩ := q; by_cases h : k' = k <;> simp [alSet, alGet, h, ih]

theorem alGet_alSet_other [DecidableEq α] (l : List (α × β)) {k k' : α} (v d : β) (h : k' ≠ k) :
    alGet (alSet l k v) k' d = alGet l k' d := by
  induction l with
  | nil => simp [alSet, alGet, Ne.symm h]
  | cons q t ih =>
    obtain ⟨k₀, v₀⟩ := q
    by_cases h₀ : k₀ = k
    · subst h₀; simp [alSet, alGet, Ne.symm h]
    · simp [alSet, alGet, h₀, ih]

/-- The last of two updates of one key remains. -/
@[simp] theorem alSet_alSet [DecidableEq α] (l : List (α × β)) (k : α) (v w : β) :
    alSet (alSet l k v) k w = alSet l k w := by
  induction l with
  | nil => simp [alSet]
  | cons q t ih => obtain ⟨k', v'⟩ := q; by_cases h : k' = k <;> simp [alSet, h, ih]

/-! ### One component read after an update of one -/

section
variable (s : State)

@[simp] theorem State.core_setCore_same (k : CoreId) (c : Core) : (s.setCore k c).core k = c := by
  simp [State.core, State.setCore]

theorem State.core_setCore_other {k j : CoreId} (c : Core) (h : j ≠ k) : (s.setCore k c).core j = s.core j := by
  have : (k : Nat) ≠ j := fun e => h (Fin.ext e.symm)
  simp [State.core, State.setCore, this]

/-- The last of two updates of one core remains. -/
@[simp] theorem State.setCore_setCore (k : CoreId) (c d : Core) : (s.setCore k c).setCore k d = s.setCore k d := by
  simp [State.setCore]

@[simp] theorem State.setCore_core_self (k : CoreId) : s.setCore k (s.core k) = s := by
  simp [State.setCore, State.core]

@[simp] theorem State.cell_setCell_same (c : CellId) (x : Cell) : (s.setCell c x).cell c = x :=
  alGet_alSet_same ..

@[simp] theorem State.setCell_setCell (c : CellId) (x y : Cell) : (s.setCell c x).setCell c y = s.setCell c y := by
  simp [State.setCell]

theorem State.cell_setCell_other {c d : CellId} (x : Cell) (h : d ≠ c) : (s.setCell c x).cell d = s.cell d :=
  alGet_alSet_other _ _ _ h

@[simp] theorem State.row_setRow_same (r : RowId) (x : Row) : (s.setRow r x).row r = x :=
  alGet_alSet_same ..

theorem State.row_setRow_other {r q : RowId} (x : Row) (h : q ≠ r) : (s.setRow r x).row q = s.row q :=
  alGet_alSet_other _ _ _ h

@[simp] theorem State.vp_setVp_same (v : VpId) (x : Vp) : (s.setVp v x).vp v = x := alGet_alSet_same ..

theorem State.vp_setVp_other {v w : VpId} (x : Vp) (h : w ≠ v) : (s.setVp v x).vp w = s.vp w :=
  alGet_alSet_other _ _ _ h

@[simp] theorem State.unit_setUnit_same (u : UnitId) (x : Unit) : (s.setUnit u x).unit u = x :=
  alGet_alSet_same ..

theorem State.unit_setUnit_other {u w : UnitId} (x : Unit) (h : w ≠ u) : (s.setUnit u x).unit w = s.unit w :=
  alGet_alSet_other _ _ _ h

@[simp] theorem State.memQueue_setMemQueue_same (c : CellId) (q : List CellReq) :
    (s.setMemQueue c q).memQueue c = q := alGet_alSet_same ..

@[simp] theorem State.core_setUnit (k' : CoreId) (u : UnitId) (x : Unit) : (s.setUnit u x).core k' = s.core k' := rfl
@[simp] theorem State.core_setCell (k' : CoreId) (c : CellId) (x : Cell) : (s.setCell c x).core k' = s.core k' := rfl
@[simp] theorem State.core_setRow (k' : CoreId) (r : RowId) (x : Row) : (s.setRow r x).core k' = s.core k' := rfl
@[simp] theorem State.core_setVp (k' : CoreId) (v : VpId) (x : Vp) : (s.setVp v x).core k' = s.core k' := rfl
@[simp] theorem State.core_setMemQueue (k' : CoreId) (c : CellId) (q : List CellReq) : (s.setMemQueue c q).core k' = s.core k' := rfl
@[simp] theorem State.core_setSched (k' : CoreId) (d : Fin 2) (x : Scheduler) : (s.setSched d x).core k' = s.core k' := rfl
@[simp] theorem State.core_post (k' : CoreId) (k : CoreId) (r : BitVec 128) : (s.post k r).core k' = s.core k' := rfl
@[simp] theorem State.unit_setCore (u' : UnitId) (k : CoreId) (c : Core) : (s.setCore k c).unit u' = s.unit u' := rfl
@[simp] theorem State.unit_setCell (u' : UnitId) (c : CellId) (x : Cell) : (s.setCell c x).unit u' = s.unit u' := rfl
@[simp] theorem State.unit_setRow (u' : UnitId) (r : RowId) (x : Row) : (s.setRow r x).unit u' = s.unit u' := rfl
@[simp] theorem State.unit_setVp (u' : UnitId) (v : VpId) (x : Vp) : (s.setVp v x).unit u' = s.unit u' := rfl
@[simp] theorem State.unit_setMemQueue (u' : UnitId) (c : CellId) (q : List CellReq) : (s.setMemQueue c q).unit u' = s.unit u' := rfl
@[simp] theorem State.unit_setSched (u' : UnitId) (d : Fin 2) (x : Scheduler) : (s.setSched d x).unit u' = s.unit u' := rfl
@[simp] theorem State.unit_post (u' : UnitId) (k : CoreId) (r : BitVec 128) : (s.post k r).unit u' = s.unit u' := rfl
@[simp] theorem State.cell_setCore (c' : CellId) (k : CoreId) (c : Core) : (s.setCore k c).cell c' = s.cell c' := rfl
@[simp] theorem State.cell_setUnit (c' : CellId) (u : UnitId) (x : Unit) : (s.setUnit u x).cell c' = s.cell c' := rfl
@[simp] theorem State.cell_setRow (c' : CellId) (r : RowId) (x : Row) : (s.setRow r x).cell c' = s.cell c' := rfl
@[simp] theorem State.cell_setVp (c' : CellId) (v : VpId) (x : Vp) : (s.setVp v x).cell c' = s.cell c' := rfl
@[simp] theorem State.cell_setMemQueue (c' : CellId) (c : CellId) (q : List CellReq) : (s.setMemQueue c q).cell c' = s.cell c' := rfl
@[simp] theorem State.cell_setSched (c' : CellId) (d : Fin 2) (x : Scheduler) : (s.setSched d x).cell c' = s.cell c' := rfl
@[simp] theorem State.cell_post (c' : CellId) (k : CoreId) (r : BitVec 128) : (s.post k r).cell c' = s.cell c' := rfl
@[simp] theorem State.row_setCore (r' : RowId) (k : CoreId) (c : Core) : (s.setCore k c).row r' = s.row r' := rfl
@[simp] theorem State.row_setUnit (r' : RowId) (u : UnitId) (x : Unit) : (s.setUnit u x).row r' = s.row r' := rfl
@[simp] theorem State.row_setCell (r' : RowId) (c : CellId) (x : Cell) : (s.setCell c x).row r' = s.row r' := rfl
@[simp] theorem State.row_setVp (r' : RowId) (v : VpId) (x : Vp) : (s.setVp v x).row r' = s.row r' := rfl
@[simp] theorem State.row_setMemQueue (r' : RowId) (c : CellId) (q : List CellReq) : (s.setMemQueue c q).row r' = s.row r' := rfl
@[simp] theorem State.row_setSched (r' : RowId) (d : Fin 2) (x : Scheduler) : (s.setSched d x).row r' = s.row r' := rfl
@[simp] theorem State.row_post (r' : RowId) (k : CoreId) (r : BitVec 128) : (s.post k r).row r' = s.row r' := rfl
@[simp] theorem State.vp_setCore (v' : VpId) (k : CoreId) (c : Core) : (s.setCore k c).vp v' = s.vp v' := rfl
@[simp] theorem State.vp_setUnit (v' : VpId) (u : UnitId) (x : Unit) : (s.setUnit u x).vp v' = s.vp v' := rfl
@[simp] theorem State.vp_setCell (v' : VpId) (c : CellId) (x : Cell) : (s.setCell c x).vp v' = s.vp v' := rfl
@[simp] theorem State.vp_setRow (v' : VpId) (r : RowId) (x : Row) : (s.setRow r x).vp v' = s.vp v' := rfl
@[simp] theorem State.vp_setMemQueue (v' : VpId) (c : CellId) (q : List CellReq) : (s.setMemQueue c q).vp v' = s.vp v' := rfl
@[simp] theorem State.vp_setSched (v' : VpId) (d : Fin 2) (x : Scheduler) : (s.setSched d x).vp v' = s.vp v' := rfl
@[simp] theorem State.vp_post (v' : VpId) (k : CoreId) (r : BitVec 128) : (s.post k r).vp v' = s.vp v' := rfl
@[simp] theorem State.memQueue_setCore (c' : CellId) (k : CoreId) (c : Core) : (s.setCore k c).memQueue c' = s.memQueue c' := rfl
@[simp] theorem State.memQueue_setUnit (c' : CellId) (u : UnitId) (x : Unit) : (s.setUnit u x).memQueue c' = s.memQueue c' := rfl
@[simp] theorem State.memQueue_setCell (c' : CellId) (c : CellId) (x : Cell) : (s.setCell c x).memQueue c' = s.memQueue c' := rfl
@[simp] theorem State.memQueue_setRow (c' : CellId) (r : RowId) (x : Row) : (s.setRow r x).memQueue c' = s.memQueue c' := rfl
@[simp] theorem State.memQueue_setVp (c' : CellId) (v : VpId) (x : Vp) : (s.setVp v x).memQueue c' = s.memQueue c' := rfl
@[simp] theorem State.memQueue_setSched (c' : CellId) (d : Fin 2) (x : Scheduler) : (s.setSched d x).memQueue c' = s.memQueue c' := rfl
@[simp] theorem State.memQueue_post (c' : CellId) (k : CoreId) (r : BitVec 128) : (s.post k r).memQueue c' = s.memQueue c' := rfl
@[simp] theorem State.sched_setCore (d' : Fin 2) (k : CoreId) (c : Core) : (s.setCore k c).sched d' = s.sched d' := rfl
@[simp] theorem State.sched_setUnit (d' : Fin 2) (u : UnitId) (x : Unit) : (s.setUnit u x).sched d' = s.sched d' := rfl
@[simp] theorem State.sched_setCell (d' : Fin 2) (c : CellId) (x : Cell) : (s.setCell c x).sched d' = s.sched d' := rfl
@[simp] theorem State.sched_setRow (d' : Fin 2) (r : RowId) (x : Row) : (s.setRow r x).sched d' = s.sched d' := rfl
@[simp] theorem State.sched_setVp (d' : Fin 2) (v : VpId) (x : Vp) : (s.setVp v x).sched d' = s.sched d' := rfl
@[simp] theorem State.sched_setMemQueue (d' : Fin 2) (c : CellId) (q : List CellReq) : (s.setMemQueue c q).sched d' = s.sched d' := rfl
@[simp] theorem State.sched_post (d' : Fin 2) (k : CoreId) (r : BitVec 128) : (s.post k r).sched d' = s.sched d' := rfl
end

/-! ### Registers of a thread -/

section
variable (t : Thread) (r : XReg) (v : Word)

@[simp] theorem Thread.set_c : (t.set r v).c = t.c := by unfold Thread.set; split <;> rfl
@[simp] theorem Thread.set_pcc : (t.set r v).pcc = t.pcc := by unfold Thread.set; split <;> rfl
@[simp] theorem Thread.set_pc : (t.set r v).pc = t.pc := by unfold Thread.set; split <;> rfl
@[simp] theorem Thread.set_priv : (t.set r v).priv = t.priv := by unfold Thread.set; split <;> rfl
@[simp] theorem Thread.set_tenant : (t.set r v).tenant = t.tenant := by unfold Thread.set; split <;> rfl

/-- x0 reads zero whatever was written to it (R48). -/
@[simp] theorem Thread.get_zero : t.get 0 = 0 := rfl

@[simp] theorem Thread.set_zero : t.set 0 v = t := rfl

@[simp] theorem Thread.get_set_same (h : r ≠ 0) : (t.set r v).get r = v := by
  simp [Thread.get, Thread.set, h]

theorem Thread.get_set_other {q : XReg} (h : q ≠ r) : (t.set r v).get q = t.get q := by
  have : (r : Nat) ≠ q := fun e => h (Fin.ext e.symm)
  unfold Thread.get Thread.set
  by_cases hr : r = 0
  · simp [hr]
  · by_cases hq : q = 0
    · simp [hq]
    · simp [hr, hq, this]

end

/-! ### Threads of the state -/

section
variable (s : State) (k : CoreId)

@[simp] theorem State.thread_core : s.thread (.core k) = (s.core k).thread := rfl

@[simp] theorem State.setThread_core (x : Thread) :
    s.setThread (.core k) x = s.setCore k { s.core k with thread := x } := rfl

theorem State.setX_core (r : XReg) (v : Word) :
    s.setX (.core k) r v = s.setCore k { s.core k with thread := (s.core k).thread.set r v } := rfl

theorem State.setC_core (r : CReg) (v : Cap) :
    s.setC (.core k) r v = s.setCore k { s.core k with thread := (s.core k).thread.setCap r v } := rfl

theorem State.retireTo_core (p : Word) :
    s.retireTo (.core k) p =
      s.setCore k { s.core k with
        thread := { (s.core k).thread with pc := p }
        kinstr := (s.core k).kinstr + 1 } := rfl

@[simp] theorem State.setThread_cycle (t : ThreadId) (x : Thread) : (s.setThread t x).cycle = s.cycle := by
  unfold State.setThread; split
  · rfl
  · dsimp only; split <;> rfl
@[simp] theorem State.setThread_dieStart (t : ThreadId) (x : Thread) : (s.setThread t x).dieStart = s.dieStart := by
  unfold State.setThread; split
  · rfl
  · dsimp only; split <;> rfl
@[simp] theorem State.setThread_fresh (t : ThreadId) (x : Thread) : (s.setThread t x).fresh = s.fresh := by
  unfold State.setThread; split
  · rfl
  · dsimp only; split <;> rfl
@[simp] theorem State.setThread_script (t : ThreadId) (x : Thread) : (s.setThread t x).script = s.script := by
  unfold State.setThread; split
  · rfl
  · dsimp only; split <;> rfl
@[simp] theorem State.setThread_focus (t : ThreadId) (x : Thread) : (s.setThread t x).focus = s.focus := by
  unfold State.setThread; split
  · rfl
  · dsimp only; split <;> rfl
@[simp] theorem State.setThread_mem (t : ThreadId) (x : Thread) : (s.setThread t x).mem = s.mem := by
  unfold State.setThread; split
  · rfl
  · dsimp only; split <;> rfl
@[simp] theorem State.setThread_scratch (t : ThreadId) (x : Thread) : (s.setThread t x).scratch = s.scratch := by
  unfold State.setThread; split
  · rfl
  · dsimp only; split <;> rfl
@[simp] theorem State.setThread_tlb (t : ThreadId) (x : Thread) : (s.setThread t x).tlb = s.tlb := by
  unfold State.setThread; split
  · rfl
  · dsimp only; split <;> rfl
@[simp] theorem State.setThread_spent (t : ThreadId) (x : Thread) : (s.setThread t x).spent = s.spent := by
  unfold State.setThread; split
  · rfl
  · dsimp only; split <;> rfl
@[simp] theorem State.setThread_works (t : ThreadId) (x : Thread) : (s.setThread t x).works = s.works := by
  unfold State.setThread; split
  · rfl
  · dsimp only; split <;> rfl
@[simp] theorem State.setThread_cells (t : ThreadId) (x : Thread) : (s.setThread t x).cells = s.cells := by
  unfold State.setThread; split
  · rfl
  · dsimp only; split <;> rfl
@[simp] theorem State.setThread_memQueues (t : ThreadId) (x : Thread) : (s.setThread t x).memQueues = s.memQueues := by
  unfold State.setThread; split
  · rfl
  · dsimp only; split <;> rfl
@[simp] theorem State.setThread_transfers (t : ThreadId) (x : Thread) : (s.setThread t x).transfers = s.transfers := by
  unfold State.setThread; split
  · rfl
  · dsimp only; split <;> rfl
@[simp] theorem State.setThread_parked (t : ThreadId) (x : Thread) : (s.setThread t x).parked = s.parked := by
  unfold State.setThread; split
  · rfl
  · dsimp only; split <;> rfl
@[simp] theorem State.setThread_misses (t : ThreadId) (x : Thread) : (s.setThread t x).misses = s.misses := by
  unfold State.setThread; split
  · rfl
  · dsimp only; split <;> rfl
@[simp] theorem State.setThread_flights (t : ThreadId) (x : Thread) : (s.setThread t x).flights = s.flights := by
  unfold State.setThread; split
  · rfl
  · dsimp only; split <;> rfl
@[simp] theorem State.setThread_rows (t : ThreadId) (x : Thread) : (s.setThread t x).rows = s.rows := by
  unfold State.setThread; split
  · rfl
  · dsimp only; split <;> rfl
@[simp] theorem State.setThread_vps (t : ThreadId) (x : Thread) : (s.setThread t x).vps = s.vps := by
  unfold State.setThread; split
  · rfl
  · dsimp only; split <;> rfl
@[simp] theorem State.setThread_scheds (t : ThreadId) (x : Thread) : (s.setThread t x).scheds = s.scheds := by
  unfold State.setThread; split
  · rfl
  · dsimp only; split <;> rfl
@[simp] theorem State.setThread_fibreReqs (t : ThreadId) (x : Thread) : (s.setThread t x).fibreReqs = s.fibreReqs := by
  unfold State.setThread; split
  · rfl
  · dsimp only; split <;> rfl
@[simp] theorem State.setThread_replies (t : ThreadId) (x : Thread) : (s.setThread t x).replies = s.replies := by
  unfold State.setThread; split
  · rfl
  · dsimp only; split <;> rfl
@[simp] theorem State.setThread_holds (t : ThreadId) (x : Thread) : (s.setThread t x).holds = s.holds := by
  unfold State.setThread; split
  · rfl
  · dsimp only; split <;> rfl
@[simp] theorem State.setThread_calls (t : ThreadId) (x : Thread) : (s.setThread t x).calls = s.calls := by
  unfold State.setThread; split
  · rfl
  · dsimp only; split <;> rfl
@[simp] theorem State.setThread_callBack (t : ThreadId) (x : Thread) : (s.setThread t x).callBack = s.callBack := by
  unfold State.setThread; split
  · rfl
  · dsimp only; split <;> rfl
@[simp] theorem State.setThread_lost (t : ThreadId) (x : Thread) : (s.setThread t x).lost = s.lost := by
  unfold State.setThread; split
  · rfl
  · dsimp only; split <;> rfl
@[simp] theorem State.setThread_cleared (t : ThreadId) (x : Thread) : (s.setThread t x).cleared = s.cleared := by
  unfold State.setThread; split
  · rfl
  · dsimp only; split <;> rfl
@[simp] theorem State.setThread_records (t : ThreadId) (x : Thread) : (s.setThread t x).records = s.records := by
  unfold State.setThread; split
  · rfl
  · dsimp only; split <;> rfl
@[simp] theorem State.setThread_errors (t : ThreadId) (x : Thread) : (s.setThread t x).errors = s.errors := by
  unfold State.setThread; split
  · rfl
  · dsimp only; split <;> rfl
@[simp] theorem State.setThread_errorCore (t : ThreadId) (x : Thread) : (s.setThread t x).errorCore = s.errorCore := by
  unfold State.setThread; split
  · rfl
  · dsimp only; split <;> rfl
@[simp] theorem State.setThread_staging (t : ThreadId) (x : Thread) : (s.setThread t x).staging = s.staging := by
  unfold State.setThread; split
  · rfl
  · dsimp only; split <;> rfl
@[simp] theorem State.setThread_kdevno (t : ThreadId) (x : Thread) : (s.setThread t x).kdevno = s.kdevno := by
  unfold State.setThread; split
  · rfl
  · dsimp only; split <;> rfl
@[simp] theorem State.setThread_kstrict (t : ThreadId) (x : Thread) : (s.setThread t x).kstrict = s.kstrict := by
  unfold State.setThread; split
  · rfl
  · dsimp only; split <;> rfl
@[simp] theorem State.setThread_staged (t : ThreadId) (x : Thread) : (s.setThread t x).staged = s.staged := by
  unfold State.setThread; split
  · rfl
  · dsimp only; split <;> rfl
@[simp] theorem State.setThread_partitions (t : ThreadId) (x : Thread) : (s.setThread t x).partitions = s.partitions := by
  unfold State.setThread; split
  · rfl
  · dsimp only; split <;> rfl
@[simp] theorem State.setThread_commitResult (t : ThreadId) (x : Thread) : (s.setThread t x).commitResult = s.commitResult := by
  unfold State.setThread; split
  · rfl
  · dsimp only; split <;> rfl
@[simp] theorem State.setThread_startRec (t : ThreadId) (x : Thread) : (s.setThread t x).startRec = s.startRec := by
  unfold State.setThread; split
  · rfl
  · dsimp only; split <;> rfl
@[simp] theorem State.setThread_harts (t : ThreadId) (x : Thread) : (s.setThread t x).harts = s.harts := by
  unfold State.setThread; split
  · rfl
  · dsimp only; split <;> rfl
@[simp] theorem State.setThread_routes (t : ThreadId) (x : Thread) : (s.setThread t x).routes = s.routes := by
  unfold State.setThread; split
  · rfl
  · dsimp only; split <;> rfl
@[simp] theorem State.setThread_deadLinks (t : ThreadId) (x : Thread) : (s.setThread t x).deadLinks = s.deadLinks := by
  unfold State.setThread; split
  · rfl
  · dsimp only; split <;> rfl
@[simp] theorem State.setThread_scNode (t : ThreadId) (x : Thread) : (s.setThread t x).scNode = s.scNode := by
  unfold State.setThread; split
  · rfl
  · dsimp only; split <;> rfl
@[simp] theorem State.setThread_scCount (t : ThreadId) (x : Thread) : (s.setThread t x).scCount = s.scCount := by
  unfold State.setThread; split
  · rfl
  · dsimp only; split <;> rfl
@[simp] theorem State.setThread_scSkip (t : ThreadId) (x : Thread) : (s.setThread t x).scSkip = s.scSkip := by
  unfold State.setThread; split
  · rfl
  · dsimp only; split <;> rfl
@[simp] theorem State.setThread_outbox (t : ThreadId) (x : Thread) : (s.setThread t x).outbox = s.outbox := by
  unfold State.setThread; split
  · rfl
  · dsimp only; split <;> rfl
@[simp] theorem State.setThread_powerMw (t : ThreadId) (x : Thread) : (s.setThread t x).powerMw = s.powerMw := by
  unfold State.setThread; split
  · rfl
  · dsimp only; split <;> rfl
@[simp] theorem State.setThread_tempC (t : ThreadId) (x : Thread) : (s.setThread t x).tempC = s.tempC := by
  unfold State.setThread; split
  · rfl
  · dsimp only; split <;> rfl
@[simp] theorem State.setThread_held (t : ThreadId) (x : Thread) : (s.setThread t x).held = s.held := by
  unfold State.setThread; split
  · rfl
  · dsimp only; split <;> rfl
@[simp] theorem State.setThread_overTemp (t : ThreadId) (x : Thread) : (s.setThread t x).overTemp = s.overTemp := by
  unfold State.setThread; split
  · rfl
  · dsimp only; split <;> rfl
@[simp] theorem State.setThread_boot (t : ThreadId) (x : Thread) : (s.setThread t x).boot = s.boot := by
  unfold State.setThread; split
  · rfl
  · dsimp only; split <;> rfl
@[simp] theorem State.setThread_measure0 (t : ThreadId) (x : Thread) : (s.setThread t x).measure0 = s.measure0 := by
  unfold State.setThread; split
  · rfl
  · dsimp only; split <;> rfl
@[simp] theorem State.setThread_deviceKey (t : ThreadId) (x : Thread) : (s.setThread t x).deviceKey = s.deviceKey := by
  unfold State.setThread; split
  · rfl
  · dsimp only; split <;> rfl
@[simp] theorem State.setThread_flash (t : ThreadId) (x : Thread) : (s.setThread t x).flash = s.flash := by
  unfold State.setThread; split
  · rfl
  · dsimp only; split <;> rfl
@[simp] theorem State.setThread_ports (t : ThreadId) (x : Thread) : (s.setThread t x).ports = s.ports := by
  unfold State.setThread; split
  · rfl
  · dsimp only; split <;> rfl
@[simp] theorem State.setThread_endpoint (t : ThreadId) (x : Thread) : (s.setThread t x).endpoint = s.endpoint := by
  unfold State.setThread; split
  · rfl
  · dsimp only; split <;> rfl
@[simp] theorem State.setThread_windowAt (t : ThreadId) (x : Thread) : (s.setThread t x).windowAt = s.windowAt := by
  unfold State.setThread; split
  · rfl
  · dsimp only; split <;> rfl
@[simp] theorem State.setThread_activity (t : ThreadId) (x : Thread) : (s.setThread t x).activity = s.activity := by
  unfold State.setThread; split
  · rfl
  · dsimp only; split <;> rfl
@[simp] theorem State.setThread_recordOk (t : ThreadId) (x : Thread) : (s.setThread t x).recordOk = s.recordOk := by
  unfold State.setThread; split
  · rfl
  · dsimp only; split <;> rfl
@[simp] theorem State.setThread_speedGrade (t : ThreadId) (x : Thread) : (s.setThread t x).speedGrade = s.speedGrade := by
  unfold State.setThread; split
  · rfl
  · dsimp only; split <;> rfl
@[simp] theorem State.setThread_gddrMiB (t : ThreadId) (x : Thread) : (s.setThread t x).gddrMiB = s.gddrMiB := by
  unfold State.setThread; split
  · rfl
  · dsimp only; split <;> rfl
@[simp] theorem State.setThread_retired (t : ThreadId) (x : Thread) : (s.setThread t x).retired = s.retired := by
  unfold State.setThread; split
  · rfl
  · dsimp only; split <;> rfl
@[simp] theorem State.setThread_dropped (t : ThreadId) (x : Thread) : (s.setThread t x).dropped = s.dropped := by
  unfold State.setThread; split
  · rfl
  · dsimp only; split <;> rfl
@[simp] theorem State.retireTo_cycle (t : ThreadId) (p : Word) : (s.retireTo t p).cycle = s.cycle := by
  unfold State.retireTo; split
  · rfl
  · dsimp only; split <;> rfl
@[simp] theorem State.retireTo_dieStart (t : ThreadId) (p : Word) : (s.retireTo t p).dieStart = s.dieStart := by
  unfold State.retireTo; split
  · rfl
  · dsimp only; split <;> rfl
@[simp] theorem State.retireTo_fresh (t : ThreadId) (p : Word) : (s.retireTo t p).fresh = s.fresh := by
  unfold State.retireTo; split
  · rfl
  · dsimp only; split <;> rfl
@[simp] theorem State.retireTo_script (t : ThreadId) (p : Word) : (s.retireTo t p).script = s.script := by
  unfold State.retireTo; split
  · rfl
  · dsimp only; split <;> rfl
@[simp] theorem State.retireTo_focus (t : ThreadId) (p : Word) : (s.retireTo t p).focus = s.focus := by
  unfold State.retireTo; split
  · rfl
  · dsimp only; split <;> rfl
@[simp] theorem State.retireTo_mem (t : ThreadId) (p : Word) : (s.retireTo t p).mem = s.mem := by
  unfold State.retireTo; split
  · rfl
  · dsimp only; split <;> rfl
@[simp] theorem State.retireTo_scratch (t : ThreadId) (p : Word) : (s.retireTo t p).scratch = s.scratch := by
  unfold State.retireTo; split
  · rfl
  · dsimp only; split <;> rfl
@[simp] theorem State.retireTo_tlb (t : ThreadId) (p : Word) : (s.retireTo t p).tlb = s.tlb := by
  unfold State.retireTo; split
  · rfl
  · dsimp only; split <;> rfl
@[simp] theorem State.retireTo_spent (t : ThreadId) (p : Word) : (s.retireTo t p).spent = s.spent := by
  unfold State.retireTo; split
  · rfl
  · dsimp only; split <;> rfl
@[simp] theorem State.retireTo_works (t : ThreadId) (p : Word) : (s.retireTo t p).works = s.works := by
  unfold State.retireTo; split
  · rfl
  · dsimp only; split <;> rfl
@[simp] theorem State.retireTo_cells (t : ThreadId) (p : Word) : (s.retireTo t p).cells = s.cells := by
  unfold State.retireTo; split
  · rfl
  · dsimp only; split <;> rfl
@[simp] theorem State.retireTo_memQueues (t : ThreadId) (p : Word) : (s.retireTo t p).memQueues = s.memQueues := by
  unfold State.retireTo; split
  · rfl
  · dsimp only; split <;> rfl
@[simp] theorem State.retireTo_transfers (t : ThreadId) (p : Word) : (s.retireTo t p).transfers = s.transfers := by
  unfold State.retireTo; split
  · rfl
  · dsimp only; split <;> rfl
@[simp] theorem State.retireTo_parked (t : ThreadId) (p : Word) : (s.retireTo t p).parked = s.parked := by
  unfold State.retireTo; split
  · rfl
  · dsimp only; split <;> rfl
@[simp] theorem State.retireTo_misses (t : ThreadId) (p : Word) : (s.retireTo t p).misses = s.misses := by
  unfold State.retireTo; split
  · rfl
  · dsimp only; split <;> rfl
@[simp] theorem State.retireTo_flights (t : ThreadId) (p : Word) : (s.retireTo t p).flights = s.flights := by
  unfold State.retireTo; split
  · rfl
  · dsimp only; split <;> rfl
@[simp] theorem State.retireTo_rows (t : ThreadId) (p : Word) : (s.retireTo t p).rows = s.rows := by
  unfold State.retireTo; split
  · rfl
  · dsimp only; split <;> rfl
@[simp] theorem State.retireTo_vps (t : ThreadId) (p : Word) : (s.retireTo t p).vps = s.vps := by
  unfold State.retireTo; split
  · rfl
  · dsimp only; split <;> rfl
@[simp] theorem State.retireTo_scheds (t : ThreadId) (p : Word) : (s.retireTo t p).scheds = s.scheds := by
  unfold State.retireTo; split
  · rfl
  · dsimp only; split <;> rfl
@[simp] theorem State.retireTo_fibreReqs (t : ThreadId) (p : Word) : (s.retireTo t p).fibreReqs = s.fibreReqs := by
  unfold State.retireTo; split
  · rfl
  · dsimp only; split <;> rfl
@[simp] theorem State.retireTo_replies (t : ThreadId) (p : Word) : (s.retireTo t p).replies = s.replies := by
  unfold State.retireTo; split
  · rfl
  · dsimp only; split <;> rfl
@[simp] theorem State.retireTo_holds (t : ThreadId) (p : Word) : (s.retireTo t p).holds = s.holds := by
  unfold State.retireTo; split
  · rfl
  · dsimp only; split <;> rfl
@[simp] theorem State.retireTo_calls (t : ThreadId) (p : Word) : (s.retireTo t p).calls = s.calls := by
  unfold State.retireTo; split
  · rfl
  · dsimp only; split <;> rfl
@[simp] theorem State.retireTo_callBack (t : ThreadId) (p : Word) : (s.retireTo t p).callBack = s.callBack := by
  unfold State.retireTo; split
  · rfl
  · dsimp only; split <;> rfl
@[simp] theorem State.retireTo_lost (t : ThreadId) (p : Word) : (s.retireTo t p).lost = s.lost := by
  unfold State.retireTo; split
  · rfl
  · dsimp only; split <;> rfl
@[simp] theorem State.retireTo_cleared (t : ThreadId) (p : Word) : (s.retireTo t p).cleared = s.cleared := by
  unfold State.retireTo; split
  · rfl
  · dsimp only; split <;> rfl
@[simp] theorem State.retireTo_records (t : ThreadId) (p : Word) : (s.retireTo t p).records = s.records := by
  unfold State.retireTo; split
  · rfl
  · dsimp only; split <;> rfl
@[simp] theorem State.retireTo_errors (t : ThreadId) (p : Word) : (s.retireTo t p).errors = s.errors := by
  unfold State.retireTo; split
  · rfl
  · dsimp only; split <;> rfl
@[simp] theorem State.retireTo_errorCore (t : ThreadId) (p : Word) : (s.retireTo t p).errorCore = s.errorCore := by
  unfold State.retireTo; split
  · rfl
  · dsimp only; split <;> rfl
@[simp] theorem State.retireTo_staging (t : ThreadId) (p : Word) : (s.retireTo t p).staging = s.staging := by
  unfold State.retireTo; split
  · rfl
  · dsimp only; split <;> rfl
@[simp] theorem State.retireTo_kdevno (t : ThreadId) (p : Word) : (s.retireTo t p).kdevno = s.kdevno := by
  unfold State.retireTo; split
  · rfl
  · dsimp only; split <;> rfl
@[simp] theorem State.retireTo_kstrict (t : ThreadId) (p : Word) : (s.retireTo t p).kstrict = s.kstrict := by
  unfold State.retireTo; split
  · rfl
  · dsimp only; split <;> rfl
@[simp] theorem State.retireTo_staged (t : ThreadId) (p : Word) : (s.retireTo t p).staged = s.staged := by
  unfold State.retireTo; split
  · rfl
  · dsimp only; split <;> rfl
@[simp] theorem State.retireTo_partitions (t : ThreadId) (p : Word) : (s.retireTo t p).partitions = s.partitions := by
  unfold State.retireTo; split
  · rfl
  · dsimp only; split <;> rfl
@[simp] theorem State.retireTo_commitResult (t : ThreadId) (p : Word) : (s.retireTo t p).commitResult = s.commitResult := by
  unfold State.retireTo; split
  · rfl
  · dsimp only; split <;> rfl
@[simp] theorem State.retireTo_startRec (t : ThreadId) (p : Word) : (s.retireTo t p).startRec = s.startRec := by
  unfold State.retireTo; split
  · rfl
  · dsimp only; split <;> rfl
@[simp] theorem State.retireTo_harts (t : ThreadId) (p : Word) : (s.retireTo t p).harts = s.harts := by
  unfold State.retireTo; split
  · rfl
  · dsimp only; split <;> rfl
@[simp] theorem State.retireTo_routes (t : ThreadId) (p : Word) : (s.retireTo t p).routes = s.routes := by
  unfold State.retireTo; split
  · rfl
  · dsimp only; split <;> rfl
@[simp] theorem State.retireTo_deadLinks (t : ThreadId) (p : Word) : (s.retireTo t p).deadLinks = s.deadLinks := by
  unfold State.retireTo; split
  · rfl
  · dsimp only; split <;> rfl
@[simp] theorem State.retireTo_scNode (t : ThreadId) (p : Word) : (s.retireTo t p).scNode = s.scNode := by
  unfold State.retireTo; split
  · rfl
  · dsimp only; split <;> rfl
@[simp] theorem State.retireTo_scCount (t : ThreadId) (p : Word) : (s.retireTo t p).scCount = s.scCount := by
  unfold State.retireTo; split
  · rfl
  · dsimp only; split <;> rfl
@[simp] theorem State.retireTo_scSkip (t : ThreadId) (p : Word) : (s.retireTo t p).scSkip = s.scSkip := by
  unfold State.retireTo; split
  · rfl
  · dsimp only; split <;> rfl
@[simp] theorem State.retireTo_outbox (t : ThreadId) (p : Word) : (s.retireTo t p).outbox = s.outbox := by
  unfold State.retireTo; split
  · rfl
  · dsimp only; split <;> rfl
@[simp] theorem State.retireTo_powerMw (t : ThreadId) (p : Word) : (s.retireTo t p).powerMw = s.powerMw := by
  unfold State.retireTo; split
  · rfl
  · dsimp only; split <;> rfl
@[simp] theorem State.retireTo_tempC (t : ThreadId) (p : Word) : (s.retireTo t p).tempC = s.tempC := by
  unfold State.retireTo; split
  · rfl
  · dsimp only; split <;> rfl
@[simp] theorem State.retireTo_held (t : ThreadId) (p : Word) : (s.retireTo t p).held = s.held := by
  unfold State.retireTo; split
  · rfl
  · dsimp only; split <;> rfl
@[simp] theorem State.retireTo_overTemp (t : ThreadId) (p : Word) : (s.retireTo t p).overTemp = s.overTemp := by
  unfold State.retireTo; split
  · rfl
  · dsimp only; split <;> rfl
@[simp] theorem State.retireTo_boot (t : ThreadId) (p : Word) : (s.retireTo t p).boot = s.boot := by
  unfold State.retireTo; split
  · rfl
  · dsimp only; split <;> rfl
@[simp] theorem State.retireTo_measure0 (t : ThreadId) (p : Word) : (s.retireTo t p).measure0 = s.measure0 := by
  unfold State.retireTo; split
  · rfl
  · dsimp only; split <;> rfl
@[simp] theorem State.retireTo_deviceKey (t : ThreadId) (p : Word) : (s.retireTo t p).deviceKey = s.deviceKey := by
  unfold State.retireTo; split
  · rfl
  · dsimp only; split <;> rfl
@[simp] theorem State.retireTo_flash (t : ThreadId) (p : Word) : (s.retireTo t p).flash = s.flash := by
  unfold State.retireTo; split
  · rfl
  · dsimp only; split <;> rfl
@[simp] theorem State.retireTo_ports (t : ThreadId) (p : Word) : (s.retireTo t p).ports = s.ports := by
  unfold State.retireTo; split
  · rfl
  · dsimp only; split <;> rfl
@[simp] theorem State.retireTo_endpoint (t : ThreadId) (p : Word) : (s.retireTo t p).endpoint = s.endpoint := by
  unfold State.retireTo; split
  · rfl
  · dsimp only; split <;> rfl
@[simp] theorem State.retireTo_windowAt (t : ThreadId) (p : Word) : (s.retireTo t p).windowAt = s.windowAt := by
  unfold State.retireTo; split
  · rfl
  · dsimp only; split <;> rfl
@[simp] theorem State.retireTo_activity (t : ThreadId) (p : Word) : (s.retireTo t p).activity = s.activity := by
  unfold State.retireTo; split
  · rfl
  · dsimp only; split <;> rfl
@[simp] theorem State.retireTo_recordOk (t : ThreadId) (p : Word) : (s.retireTo t p).recordOk = s.recordOk := by
  unfold State.retireTo; split
  · rfl
  · dsimp only; split <;> rfl
@[simp] theorem State.retireTo_speedGrade (t : ThreadId) (p : Word) : (s.retireTo t p).speedGrade = s.speedGrade := by
  unfold State.retireTo; split
  · rfl
  · dsimp only; split <;> rfl
@[simp] theorem State.retireTo_gddrMiB (t : ThreadId) (p : Word) : (s.retireTo t p).gddrMiB = s.gddrMiB := by
  unfold State.retireTo; split
  · rfl
  · dsimp only; split <;> rfl
@[simp] theorem State.retireTo_retired (t : ThreadId) (p : Word) : (s.retireTo t p).retired = s.retired := by
  unfold State.retireTo; split
  · rfl
  · dsimp only; split <;> rfl
@[simp] theorem State.retireTo_dropped (t : ThreadId) (p : Word) : (s.retireTo t p).dropped = s.dropped := by
  unfold State.retireTo; split
  · rfl
  · dsimp only; split <;> rfl
@[simp] theorem State.setX_cycle (t : ThreadId) (r : XReg) (v : Word) : (s.setX t r v).cycle = s.cycle := by simp [State.setX]
@[simp] theorem State.setX_dieStart (t : ThreadId) (r : XReg) (v : Word) : (s.setX t r v).dieStart = s.dieStart := by simp [State.setX]
@[simp] theorem State.setX_fresh (t : ThreadId) (r : XReg) (v : Word) : (s.setX t r v).fresh = s.fresh := by simp [State.setX]
@[simp] theorem State.setX_script (t : ThreadId) (r : XReg) (v : Word) : (s.setX t r v).script = s.script := by simp [State.setX]
@[simp] theorem State.setX_focus (t : ThreadId) (r : XReg) (v : Word) : (s.setX t r v).focus = s.focus := by simp [State.setX]
@[simp] theorem State.setX_mem (t : ThreadId) (r : XReg) (v : Word) : (s.setX t r v).mem = s.mem := by simp [State.setX]
@[simp] theorem State.setX_scratch (t : ThreadId) (r : XReg) (v : Word) : (s.setX t r v).scratch = s.scratch := by simp [State.setX]
@[simp] theorem State.setX_tlb (t : ThreadId) (r : XReg) (v : Word) : (s.setX t r v).tlb = s.tlb := by simp [State.setX]
@[simp] theorem State.setX_spent (t : ThreadId) (r : XReg) (v : Word) : (s.setX t r v).spent = s.spent := by simp [State.setX]
@[simp] theorem State.setX_works (t : ThreadId) (r : XReg) (v : Word) : (s.setX t r v).works = s.works := by simp [State.setX]
@[simp] theorem State.setX_cells (t : ThreadId) (r : XReg) (v : Word) : (s.setX t r v).cells = s.cells := by simp [State.setX]
@[simp] theorem State.setX_memQueues (t : ThreadId) (r : XReg) (v : Word) : (s.setX t r v).memQueues = s.memQueues := by simp [State.setX]
@[simp] theorem State.setX_transfers (t : ThreadId) (r : XReg) (v : Word) : (s.setX t r v).transfers = s.transfers := by simp [State.setX]
@[simp] theorem State.setX_parked (t : ThreadId) (r : XReg) (v : Word) : (s.setX t r v).parked = s.parked := by simp [State.setX]
@[simp] theorem State.setX_misses (t : ThreadId) (r : XReg) (v : Word) : (s.setX t r v).misses = s.misses := by simp [State.setX]
@[simp] theorem State.setX_flights (t : ThreadId) (r : XReg) (v : Word) : (s.setX t r v).flights = s.flights := by simp [State.setX]
@[simp] theorem State.setX_rows (t : ThreadId) (r : XReg) (v : Word) : (s.setX t r v).rows = s.rows := by simp [State.setX]
@[simp] theorem State.setX_vps (t : ThreadId) (r : XReg) (v : Word) : (s.setX t r v).vps = s.vps := by simp [State.setX]
@[simp] theorem State.setX_scheds (t : ThreadId) (r : XReg) (v : Word) : (s.setX t r v).scheds = s.scheds := by simp [State.setX]
@[simp] theorem State.setX_fibreReqs (t : ThreadId) (r : XReg) (v : Word) : (s.setX t r v).fibreReqs = s.fibreReqs := by simp [State.setX]
@[simp] theorem State.setX_replies (t : ThreadId) (r : XReg) (v : Word) : (s.setX t r v).replies = s.replies := by simp [State.setX]
@[simp] theorem State.setX_holds (t : ThreadId) (r : XReg) (v : Word) : (s.setX t r v).holds = s.holds := by simp [State.setX]
@[simp] theorem State.setX_calls (t : ThreadId) (r : XReg) (v : Word) : (s.setX t r v).calls = s.calls := by simp [State.setX]
@[simp] theorem State.setX_callBack (t : ThreadId) (r : XReg) (v : Word) : (s.setX t r v).callBack = s.callBack := by simp [State.setX]
@[simp] theorem State.setX_lost (t : ThreadId) (r : XReg) (v : Word) : (s.setX t r v).lost = s.lost := by simp [State.setX]
@[simp] theorem State.setX_cleared (t : ThreadId) (r : XReg) (v : Word) : (s.setX t r v).cleared = s.cleared := by simp [State.setX]
@[simp] theorem State.setX_records (t : ThreadId) (r : XReg) (v : Word) : (s.setX t r v).records = s.records := by simp [State.setX]
@[simp] theorem State.setX_errors (t : ThreadId) (r : XReg) (v : Word) : (s.setX t r v).errors = s.errors := by simp [State.setX]
@[simp] theorem State.setX_errorCore (t : ThreadId) (r : XReg) (v : Word) : (s.setX t r v).errorCore = s.errorCore := by simp [State.setX]
@[simp] theorem State.setX_staging (t : ThreadId) (r : XReg) (v : Word) : (s.setX t r v).staging = s.staging := by simp [State.setX]
@[simp] theorem State.setX_kdevno (t : ThreadId) (r : XReg) (v : Word) : (s.setX t r v).kdevno = s.kdevno := by simp [State.setX]
@[simp] theorem State.setX_kstrict (t : ThreadId) (r : XReg) (v : Word) : (s.setX t r v).kstrict = s.kstrict := by simp [State.setX]
@[simp] theorem State.setX_staged (t : ThreadId) (r : XReg) (v : Word) : (s.setX t r v).staged = s.staged := by simp [State.setX]
@[simp] theorem State.setX_partitions (t : ThreadId) (r : XReg) (v : Word) : (s.setX t r v).partitions = s.partitions := by simp [State.setX]
@[simp] theorem State.setX_commitResult (t : ThreadId) (r : XReg) (v : Word) : (s.setX t r v).commitResult = s.commitResult := by simp [State.setX]
@[simp] theorem State.setX_startRec (t : ThreadId) (r : XReg) (v : Word) : (s.setX t r v).startRec = s.startRec := by simp [State.setX]
@[simp] theorem State.setX_harts (t : ThreadId) (r : XReg) (v : Word) : (s.setX t r v).harts = s.harts := by simp [State.setX]
@[simp] theorem State.setX_routes (t : ThreadId) (r : XReg) (v : Word) : (s.setX t r v).routes = s.routes := by simp [State.setX]
@[simp] theorem State.setX_deadLinks (t : ThreadId) (r : XReg) (v : Word) : (s.setX t r v).deadLinks = s.deadLinks := by simp [State.setX]
@[simp] theorem State.setX_scNode (t : ThreadId) (r : XReg) (v : Word) : (s.setX t r v).scNode = s.scNode := by simp [State.setX]
@[simp] theorem State.setX_scCount (t : ThreadId) (r : XReg) (v : Word) : (s.setX t r v).scCount = s.scCount := by simp [State.setX]
@[simp] theorem State.setX_scSkip (t : ThreadId) (r : XReg) (v : Word) : (s.setX t r v).scSkip = s.scSkip := by simp [State.setX]
@[simp] theorem State.setX_outbox (t : ThreadId) (r : XReg) (v : Word) : (s.setX t r v).outbox = s.outbox := by simp [State.setX]
@[simp] theorem State.setX_powerMw (t : ThreadId) (r : XReg) (v : Word) : (s.setX t r v).powerMw = s.powerMw := by simp [State.setX]
@[simp] theorem State.setX_tempC (t : ThreadId) (r : XReg) (v : Word) : (s.setX t r v).tempC = s.tempC := by simp [State.setX]
@[simp] theorem State.setX_held (t : ThreadId) (r : XReg) (v : Word) : (s.setX t r v).held = s.held := by simp [State.setX]
@[simp] theorem State.setX_overTemp (t : ThreadId) (r : XReg) (v : Word) : (s.setX t r v).overTemp = s.overTemp := by simp [State.setX]
@[simp] theorem State.setX_boot (t : ThreadId) (r : XReg) (v : Word) : (s.setX t r v).boot = s.boot := by simp [State.setX]
@[simp] theorem State.setX_measure0 (t : ThreadId) (r : XReg) (v : Word) : (s.setX t r v).measure0 = s.measure0 := by simp [State.setX]
@[simp] theorem State.setX_deviceKey (t : ThreadId) (r : XReg) (v : Word) : (s.setX t r v).deviceKey = s.deviceKey := by simp [State.setX]
@[simp] theorem State.setX_flash (t : ThreadId) (r : XReg) (v : Word) : (s.setX t r v).flash = s.flash := by simp [State.setX]
@[simp] theorem State.setX_ports (t : ThreadId) (r : XReg) (v : Word) : (s.setX t r v).ports = s.ports := by simp [State.setX]
@[simp] theorem State.setX_endpoint (t : ThreadId) (r : XReg) (v : Word) : (s.setX t r v).endpoint = s.endpoint := by simp [State.setX]
@[simp] theorem State.setX_windowAt (t : ThreadId) (r : XReg) (v : Word) : (s.setX t r v).windowAt = s.windowAt := by simp [State.setX]
@[simp] theorem State.setX_activity (t : ThreadId) (r : XReg) (v : Word) : (s.setX t r v).activity = s.activity := by simp [State.setX]
@[simp] theorem State.setX_recordOk (t : ThreadId) (r : XReg) (v : Word) : (s.setX t r v).recordOk = s.recordOk := by simp [State.setX]
@[simp] theorem State.setX_speedGrade (t : ThreadId) (r : XReg) (v : Word) : (s.setX t r v).speedGrade = s.speedGrade := by simp [State.setX]
@[simp] theorem State.setX_gddrMiB (t : ThreadId) (r : XReg) (v : Word) : (s.setX t r v).gddrMiB = s.gddrMiB := by simp [State.setX]
@[simp] theorem State.setX_retired (t : ThreadId) (r : XReg) (v : Word) : (s.setX t r v).retired = s.retired := by simp [State.setX]
@[simp] theorem State.setX_dropped (t : ThreadId) (r : XReg) (v : Word) : (s.setX t r v).dropped = s.dropped := by simp [State.setX]
@[simp] theorem State.setC_cycle (t : ThreadId) (r : CReg) (v : Cap) : (s.setC t r v).cycle = s.cycle := by simp [State.setC]
@[simp] theorem State.setC_dieStart (t : ThreadId) (r : CReg) (v : Cap) : (s.setC t r v).dieStart = s.dieStart := by simp [State.setC]
@[simp] theorem State.setC_fresh (t : ThreadId) (r : CReg) (v : Cap) : (s.setC t r v).fresh = s.fresh := by simp [State.setC]
@[simp] theorem State.setC_script (t : ThreadId) (r : CReg) (v : Cap) : (s.setC t r v).script = s.script := by simp [State.setC]
@[simp] theorem State.setC_focus (t : ThreadId) (r : CReg) (v : Cap) : (s.setC t r v).focus = s.focus := by simp [State.setC]
@[simp] theorem State.setC_mem (t : ThreadId) (r : CReg) (v : Cap) : (s.setC t r v).mem = s.mem := by simp [State.setC]
@[simp] theorem State.setC_scratch (t : ThreadId) (r : CReg) (v : Cap) : (s.setC t r v).scratch = s.scratch := by simp [State.setC]
@[simp] theorem State.setC_tlb (t : ThreadId) (r : CReg) (v : Cap) : (s.setC t r v).tlb = s.tlb := by simp [State.setC]
@[simp] theorem State.setC_spent (t : ThreadId) (r : CReg) (v : Cap) : (s.setC t r v).spent = s.spent := by simp [State.setC]
@[simp] theorem State.setC_works (t : ThreadId) (r : CReg) (v : Cap) : (s.setC t r v).works = s.works := by simp [State.setC]
@[simp] theorem State.setC_cells (t : ThreadId) (r : CReg) (v : Cap) : (s.setC t r v).cells = s.cells := by simp [State.setC]
@[simp] theorem State.setC_memQueues (t : ThreadId) (r : CReg) (v : Cap) : (s.setC t r v).memQueues = s.memQueues := by simp [State.setC]
@[simp] theorem State.setC_transfers (t : ThreadId) (r : CReg) (v : Cap) : (s.setC t r v).transfers = s.transfers := by simp [State.setC]
@[simp] theorem State.setC_parked (t : ThreadId) (r : CReg) (v : Cap) : (s.setC t r v).parked = s.parked := by simp [State.setC]
@[simp] theorem State.setC_misses (t : ThreadId) (r : CReg) (v : Cap) : (s.setC t r v).misses = s.misses := by simp [State.setC]
@[simp] theorem State.setC_flights (t : ThreadId) (r : CReg) (v : Cap) : (s.setC t r v).flights = s.flights := by simp [State.setC]
@[simp] theorem State.setC_rows (t : ThreadId) (r : CReg) (v : Cap) : (s.setC t r v).rows = s.rows := by simp [State.setC]
@[simp] theorem State.setC_vps (t : ThreadId) (r : CReg) (v : Cap) : (s.setC t r v).vps = s.vps := by simp [State.setC]
@[simp] theorem State.setC_scheds (t : ThreadId) (r : CReg) (v : Cap) : (s.setC t r v).scheds = s.scheds := by simp [State.setC]
@[simp] theorem State.setC_fibreReqs (t : ThreadId) (r : CReg) (v : Cap) : (s.setC t r v).fibreReqs = s.fibreReqs := by simp [State.setC]
@[simp] theorem State.setC_replies (t : ThreadId) (r : CReg) (v : Cap) : (s.setC t r v).replies = s.replies := by simp [State.setC]
@[simp] theorem State.setC_holds (t : ThreadId) (r : CReg) (v : Cap) : (s.setC t r v).holds = s.holds := by simp [State.setC]
@[simp] theorem State.setC_calls (t : ThreadId) (r : CReg) (v : Cap) : (s.setC t r v).calls = s.calls := by simp [State.setC]
@[simp] theorem State.setC_callBack (t : ThreadId) (r : CReg) (v : Cap) : (s.setC t r v).callBack = s.callBack := by simp [State.setC]
@[simp] theorem State.setC_lost (t : ThreadId) (r : CReg) (v : Cap) : (s.setC t r v).lost = s.lost := by simp [State.setC]
@[simp] theorem State.setC_cleared (t : ThreadId) (r : CReg) (v : Cap) : (s.setC t r v).cleared = s.cleared := by simp [State.setC]
@[simp] theorem State.setC_records (t : ThreadId) (r : CReg) (v : Cap) : (s.setC t r v).records = s.records := by simp [State.setC]
@[simp] theorem State.setC_errors (t : ThreadId) (r : CReg) (v : Cap) : (s.setC t r v).errors = s.errors := by simp [State.setC]
@[simp] theorem State.setC_errorCore (t : ThreadId) (r : CReg) (v : Cap) : (s.setC t r v).errorCore = s.errorCore := by simp [State.setC]
@[simp] theorem State.setC_staging (t : ThreadId) (r : CReg) (v : Cap) : (s.setC t r v).staging = s.staging := by simp [State.setC]
@[simp] theorem State.setC_kdevno (t : ThreadId) (r : CReg) (v : Cap) : (s.setC t r v).kdevno = s.kdevno := by simp [State.setC]
@[simp] theorem State.setC_kstrict (t : ThreadId) (r : CReg) (v : Cap) : (s.setC t r v).kstrict = s.kstrict := by simp [State.setC]
@[simp] theorem State.setC_staged (t : ThreadId) (r : CReg) (v : Cap) : (s.setC t r v).staged = s.staged := by simp [State.setC]
@[simp] theorem State.setC_partitions (t : ThreadId) (r : CReg) (v : Cap) : (s.setC t r v).partitions = s.partitions := by simp [State.setC]
@[simp] theorem State.setC_commitResult (t : ThreadId) (r : CReg) (v : Cap) : (s.setC t r v).commitResult = s.commitResult := by simp [State.setC]
@[simp] theorem State.setC_startRec (t : ThreadId) (r : CReg) (v : Cap) : (s.setC t r v).startRec = s.startRec := by simp [State.setC]
@[simp] theorem State.setC_harts (t : ThreadId) (r : CReg) (v : Cap) : (s.setC t r v).harts = s.harts := by simp [State.setC]
@[simp] theorem State.setC_routes (t : ThreadId) (r : CReg) (v : Cap) : (s.setC t r v).routes = s.routes := by simp [State.setC]
@[simp] theorem State.setC_deadLinks (t : ThreadId) (r : CReg) (v : Cap) : (s.setC t r v).deadLinks = s.deadLinks := by simp [State.setC]
@[simp] theorem State.setC_scNode (t : ThreadId) (r : CReg) (v : Cap) : (s.setC t r v).scNode = s.scNode := by simp [State.setC]
@[simp] theorem State.setC_scCount (t : ThreadId) (r : CReg) (v : Cap) : (s.setC t r v).scCount = s.scCount := by simp [State.setC]
@[simp] theorem State.setC_scSkip (t : ThreadId) (r : CReg) (v : Cap) : (s.setC t r v).scSkip = s.scSkip := by simp [State.setC]
@[simp] theorem State.setC_outbox (t : ThreadId) (r : CReg) (v : Cap) : (s.setC t r v).outbox = s.outbox := by simp [State.setC]
@[simp] theorem State.setC_powerMw (t : ThreadId) (r : CReg) (v : Cap) : (s.setC t r v).powerMw = s.powerMw := by simp [State.setC]
@[simp] theorem State.setC_tempC (t : ThreadId) (r : CReg) (v : Cap) : (s.setC t r v).tempC = s.tempC := by simp [State.setC]
@[simp] theorem State.setC_held (t : ThreadId) (r : CReg) (v : Cap) : (s.setC t r v).held = s.held := by simp [State.setC]
@[simp] theorem State.setC_overTemp (t : ThreadId) (r : CReg) (v : Cap) : (s.setC t r v).overTemp = s.overTemp := by simp [State.setC]
@[simp] theorem State.setC_boot (t : ThreadId) (r : CReg) (v : Cap) : (s.setC t r v).boot = s.boot := by simp [State.setC]
@[simp] theorem State.setC_measure0 (t : ThreadId) (r : CReg) (v : Cap) : (s.setC t r v).measure0 = s.measure0 := by simp [State.setC]
@[simp] theorem State.setC_deviceKey (t : ThreadId) (r : CReg) (v : Cap) : (s.setC t r v).deviceKey = s.deviceKey := by simp [State.setC]
@[simp] theorem State.setC_flash (t : ThreadId) (r : CReg) (v : Cap) : (s.setC t r v).flash = s.flash := by simp [State.setC]
@[simp] theorem State.setC_ports (t : ThreadId) (r : CReg) (v : Cap) : (s.setC t r v).ports = s.ports := by simp [State.setC]
@[simp] theorem State.setC_endpoint (t : ThreadId) (r : CReg) (v : Cap) : (s.setC t r v).endpoint = s.endpoint := by simp [State.setC]
@[simp] theorem State.setC_windowAt (t : ThreadId) (r : CReg) (v : Cap) : (s.setC t r v).windowAt = s.windowAt := by simp [State.setC]
@[simp] theorem State.setC_activity (t : ThreadId) (r : CReg) (v : Cap) : (s.setC t r v).activity = s.activity := by simp [State.setC]
@[simp] theorem State.setC_recordOk (t : ThreadId) (r : CReg) (v : Cap) : (s.setC t r v).recordOk = s.recordOk := by simp [State.setC]
@[simp] theorem State.setC_speedGrade (t : ThreadId) (r : CReg) (v : Cap) : (s.setC t r v).speedGrade = s.speedGrade := by simp [State.setC]
@[simp] theorem State.setC_gddrMiB (t : ThreadId) (r : CReg) (v : Cap) : (s.setC t r v).gddrMiB = s.gddrMiB := by simp [State.setC]
@[simp] theorem State.setC_retired (t : ThreadId) (r : CReg) (v : Cap) : (s.setC t r v).retired = s.retired := by simp [State.setC]
@[simp] theorem State.setC_dropped (t : ThreadId) (r : CReg) (v : Cap) : (s.setC t r v).dropped = s.dropped := by simp [State.setC]
@[simp] theorem State.retire_cycle (t : ThreadId) : (s.retire t).cycle = s.cycle := by simp [State.retire]
@[simp] theorem State.retire_dieStart (t : ThreadId) : (s.retire t).dieStart = s.dieStart := by simp [State.retire]
@[simp] theorem State.retire_fresh (t : ThreadId) : (s.retire t).fresh = s.fresh := by simp [State.retire]
@[simp] theorem State.retire_script (t : ThreadId) : (s.retire t).script = s.script := by simp [State.retire]
@[simp] theorem State.retire_focus (t : ThreadId) : (s.retire t).focus = s.focus := by simp [State.retire]
@[simp] theorem State.retire_mem (t : ThreadId) : (s.retire t).mem = s.mem := by simp [State.retire]
@[simp] theorem State.retire_scratch (t : ThreadId) : (s.retire t).scratch = s.scratch := by simp [State.retire]
@[simp] theorem State.retire_tlb (t : ThreadId) : (s.retire t).tlb = s.tlb := by simp [State.retire]
@[simp] theorem State.retire_spent (t : ThreadId) : (s.retire t).spent = s.spent := by simp [State.retire]
@[simp] theorem State.retire_works (t : ThreadId) : (s.retire t).works = s.works := by simp [State.retire]
@[simp] theorem State.retire_cells (t : ThreadId) : (s.retire t).cells = s.cells := by simp [State.retire]
@[simp] theorem State.retire_memQueues (t : ThreadId) : (s.retire t).memQueues = s.memQueues := by simp [State.retire]
@[simp] theorem State.retire_transfers (t : ThreadId) : (s.retire t).transfers = s.transfers := by simp [State.retire]
@[simp] theorem State.retire_parked (t : ThreadId) : (s.retire t).parked = s.parked := by simp [State.retire]
@[simp] theorem State.retire_misses (t : ThreadId) : (s.retire t).misses = s.misses := by simp [State.retire]
@[simp] theorem State.retire_flights (t : ThreadId) : (s.retire t).flights = s.flights := by simp [State.retire]
@[simp] theorem State.retire_rows (t : ThreadId) : (s.retire t).rows = s.rows := by simp [State.retire]
@[simp] theorem State.retire_vps (t : ThreadId) : (s.retire t).vps = s.vps := by simp [State.retire]
@[simp] theorem State.retire_scheds (t : ThreadId) : (s.retire t).scheds = s.scheds := by simp [State.retire]
@[simp] theorem State.retire_fibreReqs (t : ThreadId) : (s.retire t).fibreReqs = s.fibreReqs := by simp [State.retire]
@[simp] theorem State.retire_replies (t : ThreadId) : (s.retire t).replies = s.replies := by simp [State.retire]
@[simp] theorem State.retire_holds (t : ThreadId) : (s.retire t).holds = s.holds := by simp [State.retire]
@[simp] theorem State.retire_calls (t : ThreadId) : (s.retire t).calls = s.calls := by simp [State.retire]
@[simp] theorem State.retire_callBack (t : ThreadId) : (s.retire t).callBack = s.callBack := by simp [State.retire]
@[simp] theorem State.retire_lost (t : ThreadId) : (s.retire t).lost = s.lost := by simp [State.retire]
@[simp] theorem State.retire_cleared (t : ThreadId) : (s.retire t).cleared = s.cleared := by simp [State.retire]
@[simp] theorem State.retire_records (t : ThreadId) : (s.retire t).records = s.records := by simp [State.retire]
@[simp] theorem State.retire_errors (t : ThreadId) : (s.retire t).errors = s.errors := by simp [State.retire]
@[simp] theorem State.retire_errorCore (t : ThreadId) : (s.retire t).errorCore = s.errorCore := by simp [State.retire]
@[simp] theorem State.retire_staging (t : ThreadId) : (s.retire t).staging = s.staging := by simp [State.retire]
@[simp] theorem State.retire_kdevno (t : ThreadId) : (s.retire t).kdevno = s.kdevno := by simp [State.retire]
@[simp] theorem State.retire_kstrict (t : ThreadId) : (s.retire t).kstrict = s.kstrict := by simp [State.retire]
@[simp] theorem State.retire_staged (t : ThreadId) : (s.retire t).staged = s.staged := by simp [State.retire]
@[simp] theorem State.retire_partitions (t : ThreadId) : (s.retire t).partitions = s.partitions := by simp [State.retire]
@[simp] theorem State.retire_commitResult (t : ThreadId) : (s.retire t).commitResult = s.commitResult := by simp [State.retire]
@[simp] theorem State.retire_startRec (t : ThreadId) : (s.retire t).startRec = s.startRec := by simp [State.retire]
@[simp] theorem State.retire_harts (t : ThreadId) : (s.retire t).harts = s.harts := by simp [State.retire]
@[simp] theorem State.retire_routes (t : ThreadId) : (s.retire t).routes = s.routes := by simp [State.retire]
@[simp] theorem State.retire_deadLinks (t : ThreadId) : (s.retire t).deadLinks = s.deadLinks := by simp [State.retire]
@[simp] theorem State.retire_scNode (t : ThreadId) : (s.retire t).scNode = s.scNode := by simp [State.retire]
@[simp] theorem State.retire_scCount (t : ThreadId) : (s.retire t).scCount = s.scCount := by simp [State.retire]
@[simp] theorem State.retire_scSkip (t : ThreadId) : (s.retire t).scSkip = s.scSkip := by simp [State.retire]
@[simp] theorem State.retire_outbox (t : ThreadId) : (s.retire t).outbox = s.outbox := by simp [State.retire]
@[simp] theorem State.retire_powerMw (t : ThreadId) : (s.retire t).powerMw = s.powerMw := by simp [State.retire]
@[simp] theorem State.retire_tempC (t : ThreadId) : (s.retire t).tempC = s.tempC := by simp [State.retire]
@[simp] theorem State.retire_held (t : ThreadId) : (s.retire t).held = s.held := by simp [State.retire]
@[simp] theorem State.retire_overTemp (t : ThreadId) : (s.retire t).overTemp = s.overTemp := by simp [State.retire]
@[simp] theorem State.retire_boot (t : ThreadId) : (s.retire t).boot = s.boot := by simp [State.retire]
@[simp] theorem State.retire_measure0 (t : ThreadId) : (s.retire t).measure0 = s.measure0 := by simp [State.retire]
@[simp] theorem State.retire_deviceKey (t : ThreadId) : (s.retire t).deviceKey = s.deviceKey := by simp [State.retire]
@[simp] theorem State.retire_flash (t : ThreadId) : (s.retire t).flash = s.flash := by simp [State.retire]
@[simp] theorem State.retire_ports (t : ThreadId) : (s.retire t).ports = s.ports := by simp [State.retire]
@[simp] theorem State.retire_endpoint (t : ThreadId) : (s.retire t).endpoint = s.endpoint := by simp [State.retire]
@[simp] theorem State.retire_windowAt (t : ThreadId) : (s.retire t).windowAt = s.windowAt := by simp [State.retire]
@[simp] theorem State.retire_activity (t : ThreadId) : (s.retire t).activity = s.activity := by simp [State.retire]
@[simp] theorem State.retire_recordOk (t : ThreadId) : (s.retire t).recordOk = s.recordOk := by simp [State.retire]
@[simp] theorem State.retire_speedGrade (t : ThreadId) : (s.retire t).speedGrade = s.speedGrade := by simp [State.retire]
@[simp] theorem State.retire_gddrMiB (t : ThreadId) : (s.retire t).gddrMiB = s.gddrMiB := by simp [State.retire]
@[simp] theorem State.retire_retired (t : ThreadId) : (s.retire t).retired = s.retired := by simp [State.retire]
@[simp] theorem State.retire_dropped (t : ThreadId) : (s.retire t).dropped = s.dropped := by simp [State.retire]
end

end Sys2Proof.Machine
end

