-- ==== Sys2Proof/Laws/Cell.lean ====
section
/-!
SUPPORT. What a cell instruction that fires answers, said once for every instruction.
-/

namespace Sys2Proof.Machine
open Sys2Proof

set_option Elab.async false

/-! ### Faults (R158, R371) -/

/-- What pausing a band leaves. -/
theorem State.pauseBand_frame (s : State) (v : VpId) :
    (s.pauseBand v).cells = s.cells ∧ (s.pauseBand v).mem = s.mem ∧ (s.pauseBand v).scratch = s.scratch ∧
      (s.pauseBand v).records = s.records ∧ ∀ w, ((s.pauseBand v).vp w).eventCore = (s.vp w).eventCore := by
  unfold State.pauseBand
  generalize s.mates v = l
  induction l generalizing s with
  | nil => simp
  | cons a l ih =>
    simp only [List.foldl_cons]
    obtain ⟨h1, h2, h3, h4, h5⟩ :=
      ih (if (s.vp a).pausedAt.isSome then s else s.setVp a { s.vp a with pausedAt := some s.cycle })
    refine ⟨h1.trans ?_, h2.trans ?_, h3.trans ?_, h4.trans ?_, fun w => (h5 w).trans ?_⟩
    all_goals split <;> simp
    by_cases hw : w = a
    · subst hw; simp
    · rw [State.vp_setVp_other _ _ hw]

section
variable (s : State) (v : VpId) (c : CellId) (f : CellFault) (st : Nat)

/-- The cell after a fault. -/
theorem State.raiseCell_cell : (s.raiseCell v c f st).cell c =
    { s.cell c with
      inst := if f.kind = 1 || f.kind = 2 then (s.cell c).inst else none
      next := if f.kind = 1 || f.kind = 2 then (s.cell c).next
        else some (if f.kind = 1 || f.kind = 2 then 0 else (s.cell c).blockNum)
      cause := some f.cause
      pending := true
      srcKind := f.kind
      lane := Fin.ofNat 16 f.lane
      slot := Fin.ofNat 128 f.slot
      block := if f.kind = 1 || f.kind = 2 then 0 else (s.cell c).blockNum
      faultVal := if f.cause.hasValue then BitVec.ofNat 64 f.value else 0
      action := none
      faultAt := s.cycle
      reserved := if f.kind = 1 || f.kind = 2 then (s.cell c).reserved else 0 } := by
  show alGet (State.pauseBand _ v).cells c .reset = _
  rw [(State.pauseBand_frame _ v).1]
  exact State.cell_setCell_same ..

/-- The record that it posts. -/
theorem State.raiseCell_records : (s.raiseCell v c f st).records = s.records ++
    [((s.vp v).eventCore, record 3 f.cause.code st (c.src f.slot f.lane)
      (faultPayload v.handle (if f.kind = 1 || f.kind = 2 then (0 : Fin 32) else (s.cell c).blockNum).val f.kind.val))] := by
  unfold State.raiseCell
  show (State.pauseBand _ v).records ++ [((State.vp (State.pauseBand _ v) v).eventCore, _)] = _
  rw [(State.pauseBand_frame _ v).2.2.2.1, (State.pauseBand_frame _ v).2.2.2.2]
  rfl

@[simp] theorem State.raiseCell_mem : (s.raiseCell v c f st).mem = s.mem := by
  show (State.pauseBand _ v).mem = _
  rw [(State.pauseBand_frame _ v).2.1]; rfl
@[simp] theorem State.raiseCell_scratch : (s.raiseCell v c f st).scratch = s.scratch := by
  show (State.pauseBand _ v).scratch = _
  rw [(State.pauseBand_frame _ v).2.2.1]; rfl

end

/-! ### Firing -/

/-- Every instruction with operands and targets fires in the one frame. -/
theorem exec_fires {i : Instr} (h : (instrShape i).isSome = true) :
    ∃ body, ∀ s, exec i s = fireCell i body s := by
  cases i with
  | bx f => exact ⟨_, fun s => (rfl : execBx f s = fireCell (.bx f) _ s)⟩
  | bxi f => exact ⟨_, fun s => (rfl : execBxi f s = fireCell (.bxi f) _ s)⟩
  | bend f => exact ⟨_, fun s => (rfl : execBend f s = fireCell (.bend f) _ s)⟩
  | mov f => exact ⟨_, fun s => (rfl : execMov f s = fireCell (.mov f) _ s)⟩
  | movi f => exact ⟨_, fun s => (rfl : execMovi f s = fireCell (.movi f) _ s)⟩
  | movh f => exact ⟨_, fun s => (rfl : execMovh f s = fireCell (.movh f) _ s)⟩
  | null f => exact ⟨_, fun s => (rfl : execNull f s = fireCell (.null f) _ s)⟩
  | iota f => exact ⟨_, fun s => (rfl : execIota f s = fireCell (.iota f) _ s)⟩
  | cid f => exact ⟨_, fun s => (rfl : execCid f s = fireCell (.cid f) _ s)⟩
  | cellCyc f => exact ⟨_, fun s => (rfl : execCellCyc f s = fireCell (.cellCyc f) _ s)⟩
  | cellTrap f => exact ⟨_, fun s => (rfl : execCellTrap f s = fireCell (.cellTrap f) _ s)⟩
  | testk f => exact ⟨_, fun s => (rfl : execTestk f s = fireCell (.testk f) _ s)⟩
  | sel f => exact ⟨_, fun s => (rfl : execSel f s = fireCell (.sel f) _ s)⟩
  | setv f => exact ⟨_, fun s => (rfl : execSetv f s = fireCell (.setv f) _ s)⟩
  | getv f => exact ⟨_, fun s => (rfl : execGetv f s = fireCell (.getv f) _ s)⟩
  | cellAdd f => exact ⟨_, fun s => by show execCellAdd f s = _; unfold execCellAdd fireInt2; rfl⟩
  | cellSub f => exact ⟨_, fun s => by show execCellSub f s = _; unfold execCellSub fireInt2; rfl⟩
  | cellMul f => exact ⟨_, fun s => by show execCellMul f s = _; unfold execCellMul fireInt2; rfl⟩
  | cellMulh f => exact ⟨_, fun s => by show execCellMulh f s = _; unfold execCellMulh fireInt2; rfl⟩
  | cellMin f => exact ⟨_, fun s => by show execCellMin f s = _; unfold execCellMin fireInt2; rfl⟩
  | cellMax f => exact ⟨_, fun s => by show execCellMax f s = _; unfold execCellMax fireInt2; rfl⟩
  | cellAnd f => exact ⟨_, fun s => by show execCellAnd f s = _; unfold execCellAnd fireInt2; rfl⟩
  | cellOr f => exact ⟨_, fun s => by show execCellOr f s = _; unfold execCellOr fireInt2; rfl⟩
  | cellXor f => exact ⟨_, fun s => by show execCellXor f s = _; unfold execCellXor fireInt2; rfl⟩
  | cellShl f => exact ⟨_, fun s => by show execCellShl f s = _; unfold execCellShl fireInt2; rfl⟩
  | cellShr f => exact ⟨_, fun s => by show execCellShr f s = _; unfold execCellShr fireInt2; rfl⟩
  | cellSar f => exact ⟨_, fun s => by show execCellSar f s = _; unfold execCellSar fireInt2; rfl⟩
  | cellClz f => exact ⟨_, fun s => by show execCellClz f s = _; unfold execCellClz fireInt1; rfl⟩
  | cellPopc f => exact ⟨_, fun s => by show execCellPopc f s = _; unfold execCellPopc fireInt1; rfl⟩
  | cmp f => exact ⟨_, fun s => (rfl : execCmp f s = fireCell (.cmp f) _ s)⟩
  | cellAddi f => exact ⟨_, fun s => by show execCellAddi f s = _; unfold execCellAddi fireImm; rfl⟩
  | cellAndi f => exact ⟨_, fun s => by show execCellAndi f s = _; unfold execCellAndi fireImm; rfl⟩
  | cellOri f => exact ⟨_, fun s => by show execCellOri f s = _; unfold execCellOri fireImm; rfl⟩
  | cellShli f => exact ⟨_, fun s => by show execCellShli f s = _; unfold execCellShli fireImm; rfl⟩
  | cellShri f => exact ⟨_, fun s => by show execCellShri f s = _; unfold execCellShri fireImm; rfl⟩
  | cellSari f => exact ⟨_, fun s => by show execCellSari f s = _; unfold execCellSari fireImm; rfl⟩
  | fadd f => exact ⟨_, fun s => by show execFadd f s = _; unfold execFadd fireFloat2; rfl⟩
  | fsub f => exact ⟨_, fun s => by show execFsub f s = _; unfold execFsub fireFloat2; rfl⟩
  | fmul f => exact ⟨_, fun s => by show execFmul f s = _; unfold execFmul fireFloat2; rfl⟩
  | fma f => exact ⟨_, fun s => (rfl : execFma f s = fireCell (.fma f) _ s)⟩
  | fmin f => exact ⟨_, fun s => by show execFmin f s = _; unfold execFmin fireFloat2; rfl⟩
  | fmax f => exact ⟨_, fun s => by show execFmax f s = _; unfold execFmax fireFloat2; rfl⟩
  | fabs f => exact ⟨_, fun s => by show execFabs f s = _; unfold execFabs fireFloat1; rfl⟩
  | fcmp f => exact ⟨_, fun s => by show execFcmp f s = _; unfold execFcmp fireFloat2; rfl⟩
  | fcvt f => exact ⟨_, fun s => by show execFcvt f s = _; unfold execFcvt fireFloat1; rfl⟩
  | unpk f => exact ⟨_, fun s => (rfl : execUnpk f s = fireCell (.unpk f) _ s)⟩
  | pack f => exact ⟨_, fun s => (rfl : execPack f s = fireCell (.pack f) _ s)⟩
  | fexp2 f => exact ⟨_, fun s => by show execFexp2 f s = _; unfold execFexp2 fireFloat1; rfl⟩
  | flog2 f => exact ⟨_, fun s => by show execFlog2 f s = _; unfold execFlog2 fireFloat1; rfl⟩
  | frcp f => exact ⟨_, fun s => by show execFrcp f s = _; unfold execFrcp fireFloat1; rfl⟩
  | frsq f => exact ⟨_, fun s => by show execFrsq f s = _; unfold execFrsq fireFloat1; rfl⟩
  | ftanh f => exact ⟨_, fun s => by show execFtanh f s = _; unfold execFtanh fireFloat1; rfl⟩
  | radd f => exact ⟨_, fun s => by show execRadd f s = _; unfold execRadd fireLane1; rfl⟩
  | rmax f => exact ⟨_, fun s => by show execRmax f s = _; unfold execRmax fireLane1; rfl⟩
  | rmin f => exact ⟨_, fun s => by show execRmin f s = _; unfold execRmin fireLane1; rfl⟩
  | psum f => exact ⟨_, fun s => by show execPsum f s = _; unfold execPsum fireLane1; rfl⟩
  | perm f => exact ⟨_, fun s => by show execPerm f s = _; unfold execPerm fireLane2; rfl⟩
  | bcst f => exact ⟨_, fun s => by show execBcst f s = _; unfold execBcst fireLane1; rfl⟩
  | lsh f => exact ⟨_, fun s => by show execLsh f s = _; unfold execLsh fireLane1; rfl⟩
  | cmpk f => exact ⟨_, fun s => by show execCmpk f s = _; unfold execCmpk fireLane2; rfl⟩
  | expd f => exact ⟨_, fun s => by show execExpd f s = _; unfold execExpd fireLane2; rfl⟩
  | nzscan f => exact ⟨_, fun s => by show execNzscan f s = _; unfold execNzscan fireLane2; rfl⟩
  | join f => exact ⟨_, fun s => by show execJoin f s = _; unfold execJoin fireLane2; rfl⟩
  | ld f => exact ⟨_, fun s => (rfl : execLd f s = fireCell (.ld f) _ s)⟩
  | ldc f => exact ⟨_, fun s => (rfl : execLdc f s = fireCell (.ldc f) _ s)⟩
  | st f => exact ⟨_, fun s => (rfl : execSt f s = fireCell (.st f) _ s)⟩
  | stc f => exact ⟨_, fun s => (rfl : execStc f s = fireCell (.stc f) _ s)⟩
  | atadd f => exact ⟨_, fun s => (rfl : execAtadd f s = fireCell (.atadd f) _ s)⟩
  | atfadd f => exact ⟨_, fun s => (rfl : execAtfadd f s = fireCell (.atfadd f) _ s)⟩
  | atmax f => exact ⟨_, fun s => (rfl : execAtmax f s = fireCell (.atmax f) _ s)⟩
  | lookup f => exact ⟨_, fun s => (rfl : execLookup f s = fireCell (.lookup f) _ s)⟩
  | tagset f => exact ⟨_, fun s => (rfl : execTagset f s = fireCell (.tagset f) _ s)⟩
  | tagclr f => exact ⟨_, fun s => (rfl : execTagclr f s = fireCell (.tagclr f) _ s)⟩
  | cellFmrg f => exact ⟨_, fun s => (rfl : execCellFmrg f s = fireCell (.cellFmrg f) _ s)⟩
  | cellFprobe f => exact ⟨_, fun s => (rfl : execCellFprobe f s = fireCell (.cellFprobe f) _ s)⟩
  | cellFscan f => exact ⟨_, fun s => (rfl : execCellFscan f s = fireCell (.cellFscan f) _ s)⟩
  | rcv f => exact ⟨_, fun s => (rfl : execRcv f s = fireCell (.rcv f) _ s)⟩
  | mark f => exact ⟨_, fun s => (rfl : execMark f s = fireCell (.mark f) _ s)⟩
  | xreq f => exact ⟨_, fun s => (rfl : execXreq f s = fireCell (.xreq f) _ s)⟩
  | cellRcall f => exact ⟨_, fun s => (rfl : execCellRcall f s = fireCell (.cellRcall f) _ s)⟩
  | joinp f => exact ⟨_, fun s => (rfl : execJoinp f s = fireCell (.joinp f) _ s)⟩
  | mma f => exact ⟨_, fun s => (rfl : execMma f s = fireCell (.mma f) _ s)⟩
  | mmas f => exact ⟨_, fun s => (rfl : execMmas f s = fireCell (.mmas f) _ s)⟩
  | mmap f => exact ⟨_, fun s => (rfl : execMmap f s = fireCell (.mmap f) _ s)⟩
  | accrd f => exact ⟨_, fun s => (rfl : execAccrd f s = fireCell (.accrd f) _ s)⟩
  | accz f => exact ⟨_, fun s => (rfl : execAccz f s = fireCell (.accz f) _ s)⟩
  | _ => cases h

/-- Where an instruction fires and computes, its body decides what is left. -/
theorem fire_compute {ins : Instr} {body : Ctx → State → Fired} {s : State} {x : Ctx} (h : Fires ins s x) :
    fireCell ins body s = .next ((body x s).finish x) := by
  obtain ⟨sl, h1, h2, h3, h4, h5, h6, h7, h8⟩ := h
  unfold fireCell
  simp only [h1, h2, h3, h4, h5, h6, h7]
  simp [← h8]

/-- Where the kinds of its operands decide it, NUL, ERR or a marker is what it sends. -/
theorem fire_propagate {ins : Instr} {body : Ctx → State → Fired} {s : State} {x : Ctx} {t : Token}
    (h : FiresAs (.propagate t) ins s x) : fireCell ins body s = .next ((x.forward ins t s).finish x) := by
  obtain ⟨sl, h1, h2, h3, h4, h5, h6, h7, h8⟩ := h
  unfold fireCell
  simp only [h1, h2, h3, h4, h5, h6, h7]
  simp [← h8]
theorem fire_marker {ins : Instr} {body : Ctx → State → Fired} {s : State} {x : Ctx} {m : Token} {ds : List Operand}
    (h : FiresAs (.marker m ds) ins s x) : fireCell ins body s = .next ((x.meetMarker ins m ds s).finish x) := by
  obtain ⟨sl, h1, h2, h3, h4, h5, h6, h7, h8⟩ := h
  unfold fireCell
  simp only [h1, h2, h3, h4, h5, h6, h7]
  simp [← h8]

/-- Results that reach their targets. -/
theorem Ctx.results_of_sends {x : Ctx} {t0 t1 : Token} {j : Instance} (h : x.sends t0 t1 j) (s : State) :
    x.results t0 t1 s = .done s j := by
  unfold Ctx.sends at h
  simp only [Ctx.results, h]
theorem Ctx.result_of_sends {x : Ctx} {t : Token} {j : Instance} (h : x.sends t t j) (s : State) :
    x.result t s = .done s j := Ctx.results_of_sends h s

/-- What is sent in place of a result, of an instruction that neither exits nor counts an output. -/
theorem Ctx.forward_of_sends {x : Ctx} {ins : Instr} {t : Token} {j : Instance} (h : x.sends t t j) (s : State)
    (h1 : isExit ins = false) (h2 : isOutput ins = false) : x.forward ins t s = .done s j := by
  unfold Ctx.sends at h
  simp only [Ctx.forward, h1, h2, Bool.false_eq_true, if_false, h]

/-- An instruction whose body is a pair of results has those results. -/
theorem results_of {ins : Instr} {t0 t1 : Ctx → Token}
    (h : ∀ s, exec ins s = fireCell ins (fun x s => x.results (t0 x) (t1 x) s) s) : Results ins t0 t1 := by
  intro s x j hf hs
  rw [h, fire_compute hf, Ctx.results_of_sends hs]
  rfl

/-! ### What a memory cell performs ahead of a commit -/

@[simp] theorem neededFirst_nil (q : List CellReq) (n : Nat) : neededFirst q n [] = [] := by
  induction n with
  | zero => rfl
  | succ n ih =>
    simp only [neededFirst]
    rw [List.filter_eq_nil_iff.2, ih]
    intro k _
    cases q[k]? <;> simp

/-- With nothing of the queue needed, nothing is performed. -/
theorem State.performNeeded_none (s : State) (m : CellId) (need : CellReq → Bool) (n : Nat)
    (h : ∀ a ∈ s.memQueue m, need a = false) : s.performNeeded m need n = s := by
  cases n with
  | zero => rfl
  | succ n =>
    simp only [State.performNeeded]
    rw [List.filter_eq_nil_iff.2]
    · simp
    · intro k _
      cases e : (s.memQueue m)[k]? with
      | none => simp
      | some r => simp [h r (List.mem_of_getElem? e)]

end Sys2Proof.Machine
end

