-- ==== Sys2Proof/Laws/Memory.lean ====
section
/-!
SUPPORT. Reads after writes of one memory, and the canonical form that every memory operation keeps.
-/

namespace Sys2Proof.Machine
open Sys2Proof

set_option Elab.async false

/-! ### Lists of bytes -/

/-- Every address of the list is above n. -/
abbrev Above (n : Nat) (l : List Host.Cell) : Prop := ∀ q ∈ l, n < q.1

theorem bytesWf_cons {k : Nat} {b : Byte} {t : List Host.Cell} :
    bytesWf ((k, b) :: t) = true ↔ b ≠ 0 ∧ Above k t ∧ bytesWf t = true := by
  induction t generalizing k b with
  | nil => simp [bytesWf, Above]
  | cons q t ih =>
    obtain ⟨k', b'⟩ := q
    simp only [bytesWf, Bool.and_eq_true, decide_eq_true_eq, bne_iff_ne, ne_eq, Above, List.mem_cons,
      forall_eq_or_imp]
    constructor
    · rintro ⟨⟨h1, h2⟩, h3⟩
      exact ⟨h2, ⟨h1, fun q hq => Nat.lt_trans h1 ((ih.1 h3).2.1 q hq)⟩, h3⟩
    · rintro ⟨h2, ⟨h1, -⟩, h3⟩
      exact ⟨⟨h1, h2⟩, h3⟩

theorem bytesGet_above {n a : Nat} {l : List Host.Cell} (h : Above n l) (ha : a ≤ n) : bytesGet l a = 0 := by
  induction l with
  | nil => rfl
  | cons q t ih =>
    obtain ⟨k, b⟩ := q
    have hk := h (k, b) (by simp)
    simp only [bytesGet]
    rw [if_neg (by simp at hk; omega)]
    exact ih fun q hq => h q (by simp [hq])

theorem above_bytesSet {n a : Nat} {v : Byte} {l : List Host.Cell} (h : Above n l) (ha : n < a) :
    Above n (bytesSet l a v) := by
  induction l with
  | nil => unfold bytesSet; split <;> simp [ha]
  | cons q t ih =>
    obtain ⟨k, b⟩ := q
    have hk := h (k, b) (by simp)
    have ht : Above n t := fun q hq => h q (by simp [hq])
    have := ih ht
    unfold bytesSet
    split
    · intro q hq; simp only [List.mem_cons] at hq; rcases hq with rfl | hq
      · exact hk
      · exact this q hq
    · split
      · split
        · exact ht
        · intro q hq; simp only [List.mem_cons] at hq; rcases hq with rfl | hq
          · exact ha
          · exact ht q hq
      · split
        · exact h
        · intro q hq; simp only [List.mem_cons] at hq; rcases hq with rfl | hq
          · exact ha
          · exact h q (by simpa using hq)

/-- A write of one byte keeps the canonical form. -/
theorem bytesWf_bytesSet {l : List Host.Cell} (h : bytesWf l = true) (a : Nat) (v : Byte) :
    bytesWf (bytesSet l a v) = true := by
  induction l with
  | nil => unfold bytesSet; split <;> simp_all [bytesWf]
  | cons q t ih =>
    obtain ⟨k, b⟩ := q
    obtain ⟨h1, h2, h3⟩ := bytesWf_cons.1 h
    unfold bytesSet
    split
    · next hk => exact bytesWf_cons.2 ⟨h1, above_bytesSet h2 hk, ih h3⟩
    · split
      · next hk =>
        subst hk
        split
        · exact h3
        · next hv => exact bytesWf_cons.2 ⟨hv, h2, h3⟩
      · next h4 h5 =>
        split
        · exact h
        · next hv =>
          refine bytesWf_cons.2 ⟨hv, ?_, h⟩
          intro q hq
          simp only [List.mem_cons] at hq
          rcases hq with rfl | hq
          · show a < k; omega
          · have := h2 q hq; omega

/-- What a byte reads after a write of one byte. -/
theorem bytesGet_bytesSet {l : List Host.Cell} (h : bytesWf l = true) (a : Nat) (v : Byte) (x : Nat) :
    bytesGet (bytesSet l a v) x = if x = a then v else bytesGet l x := by
  induction l with
  | nil =>
    unfold bytesSet
    by_cases hv : v = 0
    · simp [bytesGet, hv]
    · simp only [bytesGet, hv, if_false, eq_comm (a := x)]
  | cons q t ih =>
    obtain ⟨k, b⟩ := q
    obtain ⟨h1, h2, h3⟩ := bytesWf_cons.1 h
    have ih := ih h3
    unfold bytesSet
    split
    · next hk =>
      simp only [bytesGet, ih]
      by_cases hx : k = x
      · rw [if_pos hx, if_pos hx, if_neg (by omega)]
      · rw [if_neg hx, if_neg hx]
    · split
      · next hk =>
        subst hk
        split
        · next hv =>
          by_cases hx : x = k
          · subst hx; rw [if_pos rfl, hv]; exact bytesGet_above h2 (Nat.le_refl x)
          · simp [bytesGet, hx, Ne.symm hx]
        · by_cases hx : x = k
          · simp [bytesGet, hx]
          · simp [bytesGet, hx, Ne.symm hx]
      · next h4 h5 =>
        split
        · next hv =>
          by_cases hx : x = a
          · subst hx
            rw [if_pos rfl, hv]
            have : k ≠ x := by omega
            simp only [bytesGet, this, if_false]
            exact bytesGet_above h2 (by omega)
          · rw [if_neg hx]
        · by_cases hx : x = a
          · simp [bytesGet, hx]
          · simp [bytesGet, hx, Ne.symm hx]

theorem bytesWf_bytesPut {l : List Host.Cell} (h : bytesWf l = true) (a : Nat) (bs : List Byte) :
    bytesWf (bytesPut l a bs) = true := by
  induction bs generalizing l a with
  | nil => exact h
  | cons b bs ih => exact ih (bytesWf_bytesSet h a b) _

/-- What a byte reads after a list of bytes has been written. -/
theorem bytesGet_bytesPut {l : List Host.Cell} (h : bytesWf l = true) (a : Nat) (bs : List Byte) (x : Nat) :
    bytesGet (bytesPut l a bs) x = if a ≤ x then (bs[x - a]?).getD (bytesGet l x) else bytesGet l x := by
  induction bs generalizing l a with
  | nil => simp [bytesPut]
  | cons b bs ih =>
    rw [bytesPut, ih (bytesWf_bytesSet h a b), bytesGet_bytesSet h]
    by_cases hx : x = a
    · subst hx; rw [if_neg (by omega)]; simp
    · by_cases hl : a ≤ x
      · have : a + 1 ≤ x := by omega
        rw [if_pos this, if_neg hx, if_pos hl]
        obtain ⟨n, hn⟩ : ∃ n, x - a = n + 1 := ⟨x - a - 1, by omega⟩
        rw [hn, List.getElem?_cons_succ, show x - (a + 1) = n by omega]
      · rw [if_neg (by omega), if_neg hx, if_neg hl]

/-! ### Lists of numbers -/

theorem natsWf_iff {l : List Nat} : natsWf l = true ↔ l.Pairwise (· < ·) := by
  induction l with
  | nil => simp [natsWf]
  | cons k t ih =>
    cases t with
    | nil => simp [natsWf]
    | cons k' t =>
      rw [natsWf, Bool.and_eq_true, ih, decide_eq_true_eq, List.pairwise_cons (a := k)]
      constructor
      · rintro ⟨h1, h2⟩
        refine ⟨fun q hq => ?_, h2⟩
        rcases List.mem_cons.1 hq with rfl | hq
        · exact h1
        · exact Nat.lt_trans h1 (List.rel_of_pairwise_cons h2 hq)
      · rintro ⟨h1, h2⟩
        exact ⟨h1 k' (by simp), h2⟩

theorem mem_natInsert {l : List Nat} {n q : Nat} : q ∈ natInsert l n ↔ q = n ∨ q ∈ l := by
  induction l with
  | nil => simp [natInsert]
  | cons k t ih =>
    unfold natInsert
    split
    · simp only [List.mem_cons, ih]; grind
    · split
      · next h => subst h; simp
      · simp

theorem natsWf_natInsert {l : List Nat} (h : natsWf l = true) (n : Nat) : natsWf (natInsert l n) = true := by
  rw [natsWf_iff] at h ⊢
  induction l with
  | nil => simp [natInsert]
  | cons k t ih =>
    obtain ⟨h1, h2⟩ := List.pairwise_cons.1 h
    unfold natInsert
    split
    · next hk =>
      refine List.pairwise_cons.2 ⟨fun q hq => ?_, ih h2⟩
      rcases mem_natInsert.1 hq with rfl | hq
      · exact hk
      · exact h1 q hq
    · split
      · exact h
      · refine List.pairwise_cons.2 ⟨fun q hq => ?_, h⟩
        rcases List.mem_cons.1 hq with rfl | hq
        · omega
        · have := h1 q hq; omega

theorem natsWf_natsOutside {l : List Nat} (h : natsWf l = true) (lo hi : Nat) :
    natsWf (natsOutside l lo hi) = true := by
  rw [natsWf_iff] at h ⊢
  exact h.sublist List.filter_sublist

/-! ### One memory -/

theorem Memory.wf_iff {m : Memory} :
    m.wf = true ↔ bytesWf m.bytes = true ∧ natsWf m.tags = true ∧ natsWf m.poison = true ∧ natsWf m.badTags = true := by
  simp [Memory.wf, and_assoc]

theorem Memory.wf_empty : Memory.empty.wf = true := rfl

/-- A write keeps the canonical form. -/
theorem Memory.wf_write {m : Memory} (h : m.wf = true) (a : Nat) (bs : List Byte) : (m.write a bs).wf = true := by
  obtain ⟨h1, h2, h3, h4⟩ := wf_iff.1 h
  unfold Memory.write
  split
  · exact h
  · exact wf_iff.2 ⟨bytesWf_bytesPut h1 .., natsWf_natsOutside h2 .., natsWf_natsOutside h3 .., natsWf_natsOutside h4 ..⟩

theorem Memory.wf_writeNat {m : Memory} (h : m.wf = true) (a n v : Nat) : (m.writeNat a n v).wf = true :=
  wf_write h ..

theorem Memory.wf_setTag {m : Memory} (h : m.wf = true) (a : Nat) : (m.setTag a).wf = true := by
  obtain ⟨h1, h2, h3, h4⟩ := wf_iff.1 h
  exact wf_iff.2 ⟨h1, natsWf_natInsert h2 _, h3, natsWf_iff.2 ((natsWf_iff.1 h4).sublist List.filter_sublist)⟩

theorem Memory.wf_strike {m : Memory} (h : m.wf = true) (u : Nat) : (m.strike u).wf = true := by
  obtain ⟨h1, h2, h3, h4⟩ := wf_iff.1 h
  exact wf_iff.2 ⟨h1, h2, natsWf_natInsert h3 _, h4⟩

theorem Memory.wf_heal {m : Memory} (h : m.wf = true) (us : List Nat) : (m.heal us).wf = true := by
  obtain ⟨h1, h2, h3, h4⟩ := wf_iff.1 h
  exact wf_iff.2 ⟨h1, h2, natsWf_iff.2 ((natsWf_iff.1 h3).sublist List.filter_sublist), h4⟩

theorem Memory.wf_strikeTag {m : Memory} (h : m.wf = true) (g : Nat) : (m.strikeTag g).wf = true := by
  obtain ⟨h1, h2, h3, h4⟩ := wf_iff.1 h
  exact wf_iff.2 ⟨h1, h2, h3, natsWf_natInsert h4 _⟩

/-- A byte after a write: the one written, or the one before. -/
theorem Memory.byte_write {m : Memory} (h : m.wf = true) (a : Nat) (bs : List Byte) (x : Nat) :
    (m.write a bs).byte x = if a ≤ x then (bs[x - a]?).getD (m.byte x) else m.byte x := by
  unfold Memory.write
  split
  · simp
  · exact bytesGet_bytesPut (wf_iff.1 h).1 ..

/-- A write leaves every byte outside it. -/
theorem Memory.byte_write_outside {m : Memory} (h : m.wf = true) {a : Nat} {bs : List Byte} {x : Nat}
    (hx : x < a ∨ a + bs.length ≤ x) : (m.write a bs).byte x = m.byte x := by
  rw [byte_write h]
  split
  · rw [List.getElem?_eq_none (by omega)]; rfl
  · rfl

@[simp] theorem Memory.byte_setTag (m : Memory) (a x : Nat) : (m.setTag a).byte x = m.byte x := rfl
@[simp] theorem Memory.byte_strike (m : Memory) (u x : Nat) : (m.strike u).byte x = m.byte x := rfl
@[simp] theorem Memory.byte_strikeTag (m : Memory) (g x : Nat) : (m.strikeTag g).byte x = m.byte x := rfl

theorem Memory.length_read (m : Memory) (a n : Nat) : (m.read a n).length = n := by
  induction n generalizing a with
  | zero => rfl
  | succ n ih => simp [Memory.read, ih]

theorem Memory.getElem?_read (m : Memory) (a n i : Nat) (h : i < n) : (m.read a n)[i]? = some (m.byte (a + i)) := by
  induction n generalizing a i with
  | zero => omega
  | succ n ih =>
    cases i with
    | zero => rfl
    | succ i => rw [Memory.read, List.getElem?_cons_succ, ih _ _ (by omega), show a + 1 + i = a + (i + 1) by omega]

/-- A read of the bytes just written. -/
theorem Memory.read_write_same {m : Memory} (h : m.wf = true) (a : Nat) (bs : List Byte) :
    (m.write a bs).read a bs.length = bs := by
  apply List.ext_getElem?
  intro i
  by_cases hi : i < bs.length
  · rw [getElem?_read _ _ _ _ hi, byte_write h, if_pos (by omega), show a + i - a = i by omega,
      List.getElem?_eq_getElem hi]
    rfl
  · rw [List.getElem?_eq_none (by rw [length_read]; omega), List.getElem?_eq_none (by omega)]

/-- A read that meets no written byte. -/
theorem Memory.read_write_outside {m : Memory} (h : m.wf = true) {a b n : Nat} {bs : List Byte}
    (hd : b + n ≤ a ∨ a + bs.length ≤ b) : (m.write a bs).read b n = m.read b n := by
  apply List.ext_getElem?
  intro i
  by_cases hi : i < n
  · rw [getElem?_read _ _ _ _ hi, getElem?_read _ _ _ _ hi, byte_write_outside h (by omega)]
  · rw [List.getElem?_eq_none (by rw [length_read]; omega), List.getElem?_eq_none (by rw [length_read]; omega)]

/-- A write clears the tag of each granule that it touches (R315). -/
theorem Memory.tagAt_write {m : Memory} {a : Nat} {bs : List Byte} {x : Nat} (hx : a / 16 ≤ x / 16)
    (hy : x / 16 < (a + bs.length + 15) / 16) (hb : bs ≠ []) : (m.write a bs).tagAt x = false := by
  unfold Memory.write
  split
  · exact absurd rfl hb
  · simp only [Memory.tagAt, natsOutside, Bool.and_eq_false_imp]
    intro h1
    have h2 := List.contains_iff_mem.1 h1
    simp only [List.mem_filter, Bool.or_eq_true, decide_eq_true_eq] at h2
    omega

/-! ### Little-endian bytes (R5) -/

@[simp] theorem length_leBytes (n v : Nat) : (leBytes n v).length = n := by
  induction n generalizing v with
  | zero => rfl
  | succ n ih => simp [leBytes, ih]

/-- The number that its bytes stand for. -/
theorem leNat_leBytes (n v : Nat) : leNat (leBytes n v) = v % 256 ^ n := by
  induction n generalizing v with
  | zero => simp [leBytes, leNat, Nat.mod_one]
  | succ n ih =>
    rw [leBytes, leNat, ih, BitVec.toNat_ofNat]
    rw [show (2 : Nat) ^ 8 = 256 from rfl, Nat.pow_succ, Nat.mul_comm (256 ^ n), Nat.mod_mul]

/-- A number read back from where it has been written. -/
theorem Memory.readNat_writeNat {m : Memory} (h : m.wf = true) (a n v : Nat) :
    (m.writeNat a n v).readNat a n = v % 256 ^ n := by
  have := read_write_same h a (leBytes n v)
  rw [length_leBytes] at this
  rw [Memory.readNat, Memory.writeNat, this, leNat_leBytes]

end Sys2Proof.Machine
end

