-- ==== Sys2Proof/Laws/Keep.lean ====
section
/-!
SUPPORT. The shared operations keep both memories in their canonical form (R5, R315): one lemma per operation, which a
proof about a step cites instead of unfolding the operation.
-/

namespace Sys2Proof.Machine
set_option Elab.async false
open Sys2Proof

/-- Two memories in their canonical form. -/
theorem memWf2 {s : State} (h : s.mem.wf = true ∧ s.scratch.wf = true) : s.memWf = true := by
  simpa [State.memWf] using h
theorem memWf2_of {s : State} (h : s.memWf = true) : s.mem.wf = true ∧ s.scratch.wf = true := by
  simpa [State.memWf] using h
theorem memWf2_write {m c : Memory} {a : Nat} {bs : List Byte} (h : m.wf = true ∧ c.wf = true) :
    (m.write a bs).wf = true ∧ c.wf = true := ⟨Memory.wf_write h.1 a bs, h.2⟩
theorem memWf2_scratchWrite {m c : Memory} {a : Nat} {bs : List Byte} (h : m.wf = true ∧ c.wf = true) :
    m.wf = true ∧ (c.write a bs).wf = true := ⟨h.1, Memory.wf_write h.2 a bs⟩
theorem memWf2_setTag {m c : Memory} {a : Nat} (h : m.wf = true ∧ c.wf = true) :
    (m.setTag a).wf = true ∧ c.wf = true := ⟨Memory.wf_setTag h.1 a, h.2⟩
theorem memWf2_scratchSetTag {m c : Memory} {a : Nat} (h : m.wf = true ∧ c.wf = true) :
    m.wf = true ∧ (c.setTag a).wf = true := ⟨h.1, Memory.wf_setTag h.2 a⟩
/-- A fold whose step keeps it. -/
theorem memWf_foldl {α : Type} {f : State → α → State} {l : List α} {s : State} (h : s.memWf = true)
    (hf : ∀ s a, s.memWf = true → (f s a).memWf = true) : (l.foldl f s).memWf = true := by
  induction l generalizing s with
  | nil => exact h
  | cons a t ih => exact ih (hf _ _ h)
/-- The state of an answer with a state in front, or behind. -/
theorem memWf_fst {α : Type} {p : State × α} {t : State} {y : α} (e : p = (t, y)) (h : p.1.memWf = true) :
    t.memWf = true := by subst e; exact h
theorem memWf_snd {α : Type} {p : α × State} {t : State} {y : α} (e : p = (y, t)) (h : p.2.memWf = true) :
    t.memWf = true := by subst e; exact h

theorem State.memWf_setCore (s : State) (k : CoreId) (c : Core) (h : s.memWf = true) :
    (s.setCore k c).memWf = true := h
theorem State.memWf_setUnit (s : State) (u : UnitId) (x : Unit) (h : s.memWf = true) :
    (s.setUnit u x).memWf = true := h
theorem State.memWf_setCell (s : State) (c : CellId) (x : Cell) (h : s.memWf = true) :
    (s.setCell c x).memWf = true := h
theorem State.memWf_setRow (s : State) (r : RowId) (x : Row) (h : s.memWf = true) : (s.setRow r x).memWf = true := h
theorem State.memWf_setVp (s : State) (v : VpId) (x : Vp) (h : s.memWf = true) : (s.setVp v x).memWf = true := h
theorem State.memWf_setMemQueue (s : State) (c : CellId) (q : List CellReq) (h : s.memWf = true) :
    (s.setMemQueue c q).memWf = true := h
theorem State.memWf_setSched (s : State) (d : Fin 2) (x : Scheduler) (h : s.memWf = true) :
    (s.setSched d x).memWf = true := h
theorem State.memWf_draw (s : State) (h : s.memWf = true) : (s.draw).2.memWf = true := h
theorem State.memWf_leave (s : State) (who : Sender) (pa : Nat) (o : Outbound) (h : s.memWf = true) :
    (s.leave who pa o).memWf = true := h
theorem State.memWf_withMisses (s t : State) (h : s.memWf = true) : (s.withMisses t).memWf = true := h
theorem State.memWf_setThread (s : State) (t : ThreadId) (x : Thread) (h : s.memWf = true) :
    (s.setThread t x).memWf = true := by
  unfold State.setThread
  with_reducible repeat'
    first
      | assumption | apply State.memWf_setUnit | apply State.memWf_setCore | split
      | (apply memWf2; dsimp only; apply memWf2_of)
theorem State.memWf_setX (s : State) (t : ThreadId) (r : XReg) (v : Word) (h : s.memWf = true) :
    (s.setX t r v).memWf = true := by
  unfold State.setX
  with_reducible repeat'
    first
      | assumption | apply State.memWf_setThread
theorem State.memWf_setC (s : State) (t : ThreadId) (r : CReg) (v : Cap) (h : s.memWf = true) :
    (s.setC t r v).memWf = true := by
  unfold State.setC
  with_reducible repeat'
    first
      | assumption | apply State.memWf_setThread
theorem State.memWf_retireTo (s : State) (t : ThreadId) (p : Word) (h : s.memWf = true) :
    (s.retireTo t p).memWf = true := by
  unfold State.retireTo
  with_reducible repeat'
    first
      | assumption | apply State.memWf_setUnit | apply State.memWf_setCore | split
      | (apply memWf2; dsimp only; apply memWf2_of)
theorem State.memWf_retire (s : State) (t : ThreadId) (h : s.memWf = true) : (s.retire t).memWf = true := by
  unfold State.retire
  with_reducible repeat'
    first
      | assumption | apply State.memWf_retireTo
theorem State.memWf_post (s : State) (k : CoreId) (r : BitVec 128) (h : s.memWf = true) :
    (s.post k r).memWf = true := h
theorem State.memWf_countError (s : State) (site : ErrorSite) (uncorrectable : Bool) (h : s.memWf = true) :
    (s.countError site uncorrectable).memWf = true := by
  unfold State.countError
  with_reducible repeat'
    first
      | assumption | apply State.memWf_post | split | (apply memWf2; dsimp only; apply memWf2_of)
theorem State.memWf_memWrite (s : State) (a : Nat) (bs : List Byte) (h : s.memWf = true) :
    (s.memWrite a bs).memWf = true := by
  unfold State.memWrite
  with_reducible repeat'
    first
      | assumption | apply State.memWf_countError | apply memWf2_of | split
      | (apply memWf2; dsimp only
         first
           | apply memWf2_of | apply memWf2_write | apply memWf2_setTag
           | apply memWf2_scratchWrite | apply memWf2_scratchSetTag)
theorem State.memWf_mark (s : State) (e : TlbEntry) (bits : Nat) (h : s.memWf = true) :
    (s.mark e bits).memWf = true := by
  unfold State.mark
  dsimp only
  with_reducible repeat'
    first
      | assumption | apply State.memWf_memWrite | split
theorem State.memWf_fillTlb (s : State) (e : TlbEntry) (h : s.memWf = true) : (s.fillTlb e).memWf = true := by
  unfold State.fillTlb
  dsimp only
  (repeat' split) <;> exact h
theorem State.memWf_translate (s : State) (cache : CacheId) (tenant : BitVec 8) (root va : Nat) (write : Bool)
    (h : s.memWf = true) : (s.translate cache tenant root va write).1.memWf = true := by
  unfold State.translate
  with_reducible repeat'
    first
      | assumption | apply State.memWf_mark | apply State.memWf_fillTlb | apply State.memWf_countError | split
      | (apply memWf2; dsimp only; apply memWf2_of)
theorem State.memWf_sendReply (s : State) (r : CallReply) (h : s.memWf = true) : (s.sendReply r).memWf = true := by
  unfold State.sendReply
  with_reducible repeat'
    first
      | assumption | split | (apply memWf2; dsimp only; apply memWf2_of)
theorem State.memWf_endRemote (s : State) (t : RemoteId) (status : BitVec 16) (r0 r1 : Word) (h : s.memWf = true) :
    (s.endRemote t status r0 r1).memWf = true := by
  unfold State.endRemote
  with_reducible repeat'
    first
      | assumption | apply State.memWf_sendReply | apply State.memWf_setUnit | split
      | (apply memWf2; dsimp only; apply memWf2_of)
theorem State.memWf_trap (s : State) (t : ThreadId) (x : Trap) (h : s.memWf = true) : (s.trap t x).memWf = true := by
  unfold State.trap
  with_reducible repeat'
    first
      | assumption | apply State.memWf_endRemote | apply State.memWf_setCore | split
theorem State.memWf_fetchTrap (s : State) (t : ThreadId) (cause : Cause) (h : s.memWf = true) :
    (s.fetchTrap t cause).memWf = true := by
  unfold State.fetchTrap
  with_reducible repeat'
    first
      | assumption | apply State.memWf_trap | apply State.memWf_post | apply State.memWf_setCore | split
      | (apply memWf2; dsimp only; apply memWf2_of)
theorem State.memWf_illegal (s : State) (t : ThreadId) (i : Instr) (h : s.memWf = true) :
    (s.illegal t i).memWf = true := by
  unfold State.illegal
  with_reducible repeat'
    first
      | assumption | apply State.memWf_trap
theorem State.memWf_pauseBand (s : State) (v : VpId) (h : s.memWf = true) : (s.pauseBand v).memWf = true := by
  unfold State.pauseBand
  with_reducible repeat'
    first
      | assumption | apply State.memWf_setVp | apply memWf_foldl | intro _ | split
      | (apply memWf2; dsimp only; apply memWf2_of)
theorem State.memWf_unpauseBand (s : State) (v : VpId) (h : s.memWf = true) : (s.unpauseBand v).memWf = true := by
  unfold State.unpauseBand
  with_reducible repeat'
    first
      | assumption | apply State.memWf_setVp | apply memWf_foldl | intro _ | split
      | (apply memWf2; dsimp only; apply memWf2_of)
theorem State.memWf_faultAction (s : State) (c : CellId) (replay : Bool) (h : s.memWf = true) :
    (s.faultAction c replay).memWf = true := by
  unfold State.faultAction
  with_reducible repeat'
    first
      | assumption | apply State.memWf_unpauseBand | apply State.memWf_setCell | split
      | (apply memWf2; dsimp only; apply memWf2_of)
theorem State.memWf_sysWrite (s : State) (agent a size : Nat) (data : Word) (h : s.memWf = true) :
    (s.sysWrite agent a size data).memWf = true := by
  unfold State.sysWrite
  with_reducible repeat'
    first
      | assumption | apply State.memWf_faultAction | apply State.memWf_setRow | apply State.memWf_setCell
      | apply State.memWf_setCore | split | (apply memWf2; dsimp only; apply memWf2_of)
theorem State.memWf_scratchWrite (s : State) (a : Nat) (bs : List Byte) (h : s.memWf = true) :
    (s.scratchWrite a bs).memWf = true := by
  unfold State.scratchWrite
  with_reducible repeat'
    first
      | assumption | apply State.memWf_countError | apply memWf2_of | split
      | (apply memWf2; dsimp only
         first
           | apply memWf2_of | apply memWf2_write | apply memWf2_setTag
           | apply memWf2_scratchWrite | apply memWf2_scratchSetTag)
theorem State.memWf_locWrite (s : State) (who : Sender) (l : Loc) (bs : List Byte) (h : s.memWf = true) :
    (s.locWrite who l bs).memWf = true := by
  unfold State.locWrite
  with_reducible repeat'
    first
      | assumption | apply State.memWf_leave | apply State.memWf_scratchWrite | apply State.memWf_memWrite
      | apply State.memWf_countError | split | (apply memWf2; dsimp only; apply memWf2_of)
theorem State.memWf_locRead (s : State) (who : Sender) (l : Loc) (n : Nat) (h : s.memWf = true) :
    (s.locRead who l n).1.memWf = true := by
  unfold State.locRead
  with_reducible repeat'
    first
      | assumption | apply State.memWf_leave | apply State.memWf_countError | apply State.memWf_draw | (apply memWf_snd; assumption)
      | split | (apply memWf2; dsimp only; apply memWf2_of)
theorem State.memWf_nonlocalTrap {α : Type} (s : State) (h : s.memWf = true) :
    (State.nonlocalTrap (α := α) s).1.memWf = true := h
theorem State.memWf_access (s : State) (t : ThreadId) (cap : Cap) (off : Word) (size : Nat) (write : Bool)
    (h : s.memWf = true) : (s.access t cap off size write).1.memWf = true := by
  unfold State.access
  with_reducible repeat'
    first
      | assumption | apply State.memWf_nonlocalTrap | apply State.memWf_withMisses | apply State.memWf_translate
      | (apply memWf_fst; assumption) | split | (apply memWf2; dsimp only; apply memWf2_of)
theorem State.memWf_healStore (s : State) (ls : List Loc) (h : s.memWf = true) : (s.healStore ls).memWf = true :=
  memWf2 ⟨Memory.wf_heal (memWf2_of h).1 _, Memory.wf_heal (memWf2_of h).2 _⟩
theorem State.memWf_halfWrite (s : State) (t : ThreadId) (q : QueuedStore) (h : s.memWf = true) :
    (s.halfWrite t q).memWf = true := by
  refine memWf2 ⟨(memWf2_of h).1, Memory.wf_write ?_ _ _⟩
  have key (c : Prop) [Decidable c] : (if c then s.scratch else s.scratch.heal [q.addr / 8]).wf = true := by
    split
    · exact (memWf2_of h).2
    · exact Memory.wf_heal (memWf2_of h).2 _
  exact key _
theorem State.memWf_performOne (s : State) (t : ThreadId) (q : QueuedStore) (h : s.memWf = true) :
    (s.performOne t q).memWf = true := by
  unfold State.performOne
  with_reducible repeat'
    first
      | assumption | apply State.memWf_leave | apply State.memWf_locWrite | apply State.memWf_scratchWrite
      | apply State.memWf_halfWrite | apply State.memWf_memWrite | apply State.memWf_sysWrite | apply State.memWf_countError | apply memWf2_of
      | split
      | (apply memWf2; dsimp only
         first
           | apply memWf2_of | apply memWf2_write | apply memWf2_setTag
           | apply memWf2_scratchWrite | apply memWf2_scratchSetTag)
theorem State.memWf_performList (s : State) (k : CoreId) (l : List QueuedStore) (h : s.memWf = true) :
    (s.performList k l).memWf = true := by
  induction l generalizing s with
  | nil => exact h
  | cons q qs ih => exact ih _ (State.memWf_performOne _ _ _ h)
theorem State.memWf_drain (s : State) (k : CoreId) (h : s.memWf = true) : (s.drain k).memWf = true := by
  unfold State.drain
  with_reducible repeat'
    first
      | assumption | apply State.memWf_performList | apply State.memWf_setCore
theorem State.memWf_drainThread (s : State) (t : ThreadId) (h : s.memWf = true) : (s.drainThread t).memWf = true := by
  unfold State.drainThread
  with_reducible repeat'
    first
      | assumption | apply State.memWf_drain | split
theorem State.memWf_drainSys (s : State) (k : CoreId) (a : Nat) (h : s.memWf = true) :
    (s.drainSys k a).memWf = true := by
  unfold State.drainSys
  with_reducible repeat'
    first
      | assumption | apply State.memWf_performList | apply State.memWf_setCore
theorem State.memWf_settle (s : State) (t : ThreadId) (space : Space) (a n : Nat) (h : s.memWf = true) :
    (s.settle t space a n).memWf = true := by
  unfold State.settle
  with_reducible repeat'
    first
      | assumption | apply State.memWf_performList | apply State.memWf_setCore | split
theorem State.memWf_makeRoom (s : State) (k : CoreId) (need n : Nat) (h : s.memWf = true) :
    (s.makeRoom k need n).memWf = true := by
  induction n generalizing s with
  | zero => exact h
  | succ n ih =>
    unfold State.makeRoom
    split
    · exact h
    · split
      · exact h
      · exact ih _ (State.memWf_performOne _ _ _ (State.memWf_setCore _ _ _ h))
theorem State.memWf_enqueueAll (s : State) (k : CoreId) (qs : List QueuedStore) (h : s.memWf = true) :
    (s.enqueueAll k qs).memWf = true := State.memWf_setCore _ _ _ (State.memWf_makeRoom _ _ _ _ h)
theorem State.memWf_enqueueStore (s : State) (t : ThreadId) (q : QueuedStore) (h : s.memWf = true) :
    (s.enqueueStore t q).memWf = true := by
  unfold State.enqueueStore
  with_reducible repeat'
    first
      | assumption | apply State.memWf_enqueueAll | apply State.memWf_performOne | split
theorem State.memWf_threadRead (s : State) (t : ThreadId) (l : Loc) (n : Nat) (h : s.memWf = true) :
    (s.threadRead t l n).1.memWf = true := by
  unfold State.threadRead
  with_reducible repeat'
    first
      | assumption | apply State.memWf_settle | apply State.memWf_locRead | split

end Sys2Proof.Machine
end

