-- ==== Sys2Proof/Laws/Ops.lean ====
section
/-!
SUPPORT. What the shared operations over memory and threads answer, said once each.
-/

namespace Sys2Proof.Machine
open Sys2Proof

set_option Elab.async false

/-! ### Bits -/

theorem bitAt_toNat {w : Nat} (x : BitVec w) (i : Nat) : bitAt x.toNat i = x.getLsbD i := by
  simp only [bitAt, BitVec.getLsbD, Nat.testBit, Nat.shiftRight_eq_div_pow]
  rcases Nat.mod_two_eq_zero_or_one (x.toNat / 2 ^ i) with h | h <;> simp [h, Nat.and_comm 1]

/-! ### The store queue -/

/-- A store retires behind the others where the queue has room (R370). -/
theorem State.enqueueAll_room {s : State} {k : CoreId} (qs : List QueuedStore)
    (h : (s.core k).storeQ.length + qs.length ≤ 16) :
    s.enqueueAll k qs = s.setCore k { s.core k with storeQ := (s.core k).storeQ ++ qs } := by
  have room : ∀ n, s.makeRoom k qs.length n = s := by
    intro n
    cases n with
    | zero => rfl
    | succ n =>
      unfold State.makeRoom
      split
      · rfl
      · next x xs hx =>
        have : xs.length + 1 + qs.length ≤ storeQueueDepth := by rw [hx] at h; simpa [storeQueueDepth] using h
        rw [if_pos this]
  unfold State.enqueueAll
  rw [room]

/-! ### What counting an error and writing bytes leave -/

/-- What counting an error changes. -/
theorem State.countError_shape (s : State) (site : ErrorSite) (u : Bool) :
    ∃ e r, s.countError site u = { s with errors := e, records := r } := by
  have key : ∀ (c : Prop) [Decidable c] (e : List (ErrorSite × ErrorUnit)) (k : CoreId) (r : BitVec 128),
      ∃ e' r', (if c then ({ s with errors := e } : State).post k r else { s with errors := e }) =
        { s with errors := e', records := r' } := by
    intro c _ e k r
    by_cases h : c
    · rw [if_pos h]; exact ⟨_, _, rfl⟩
    · rw [if_neg h]; exact ⟨_, _, rfl⟩
  exact key _ _ _ _

section
variable (s : State) (site : ErrorSite) (u : Bool)
@[simp] theorem State.countError_cycle : (s.countError site u).cycle = s.cycle := by
  obtain ⟨e, r, h⟩ := s.countError_shape site u; rw [h]
@[simp] theorem State.countError_dieStart : (s.countError site u).dieStart = s.dieStart := by
  obtain ⟨e, r, h⟩ := s.countError_shape site u; rw [h]
@[simp] theorem State.countError_fresh : (s.countError site u).fresh = s.fresh := by
  obtain ⟨e, r, h⟩ := s.countError_shape site u; rw [h]
@[simp] theorem State.countError_script : (s.countError site u).script = s.script := by
  obtain ⟨e, r, h⟩ := s.countError_shape site u; rw [h]
@[simp] theorem State.countError_focus : (s.countError site u).focus = s.focus := by
  obtain ⟨e, r, h⟩ := s.countError_shape site u; rw [h]
@[simp] theorem State.countError_mem : (s.countError site u).mem = s.mem := by
  obtain ⟨e, r, h⟩ := s.countError_shape site u; rw [h]
@[simp] theorem State.countError_scratch : (s.countError site u).scratch = s.scratch := by
  obtain ⟨e, r, h⟩ := s.countError_shape site u; rw [h]
@[simp] theorem State.countError_tlb : (s.countError site u).tlb = s.tlb := by
  obtain ⟨e, r, h⟩ := s.countError_shape site u; rw [h]
@[simp] theorem State.countError_spent : (s.countError site u).spent = s.spent := by
  obtain ⟨e, r, h⟩ := s.countError_shape site u; rw [h]
@[simp] theorem State.countError_cores : (s.countError site u).cores = s.cores := by
  obtain ⟨e, r, h⟩ := s.countError_shape site u; rw [h]
@[simp] theorem State.countError_works : (s.countError site u).works = s.works := by
  obtain ⟨e, r, h⟩ := s.countError_shape site u; rw [h]
@[simp] theorem State.countError_units : (s.countError site u).units = s.units := by
  obtain ⟨e, r, h⟩ := s.countError_shape site u; rw [h]
@[simp] theorem State.countError_cells : (s.countError site u).cells = s.cells := by
  obtain ⟨e, r, h⟩ := s.countError_shape site u; rw [h]
@[simp] theorem State.countError_memQueues : (s.countError site u).memQueues = s.memQueues := by
  obtain ⟨e, r, h⟩ := s.countError_shape site u; rw [h]
@[simp] theorem State.countError_transfers : (s.countError site u).transfers = s.transfers := by
  obtain ⟨e, r, h⟩ := s.countError_shape site u; rw [h]
@[simp] theorem State.countError_parked : (s.countError site u).parked = s.parked := by
  obtain ⟨e, r, h⟩ := s.countError_shape site u; rw [h]
@[simp] theorem State.countError_misses : (s.countError site u).misses = s.misses := by
  obtain ⟨e, r, h⟩ := s.countError_shape site u; rw [h]
@[simp] theorem State.countError_flights : (s.countError site u).flights = s.flights := by
  obtain ⟨e, r, h⟩ := s.countError_shape site u; rw [h]
@[simp] theorem State.countError_rows : (s.countError site u).rows = s.rows := by
  obtain ⟨e, r, h⟩ := s.countError_shape site u; rw [h]
@[simp] theorem State.countError_vps : (s.countError site u).vps = s.vps := by
  obtain ⟨e, r, h⟩ := s.countError_shape site u; rw [h]
@[simp] theorem State.countError_scheds : (s.countError site u).scheds = s.scheds := by
  obtain ⟨e, r, h⟩ := s.countError_shape site u; rw [h]
@[simp] theorem State.countError_fibreReqs : (s.countError site u).fibreReqs = s.fibreReqs := by
  obtain ⟨e, r, h⟩ := s.countError_shape site u; rw [h]
@[simp] theorem State.countError_replies : (s.countError site u).replies = s.replies := by
  obtain ⟨e, r, h⟩ := s.countError_shape site u; rw [h]
@[simp] theorem State.countError_holds : (s.countError site u).holds = s.holds := by
  obtain ⟨e, r, h⟩ := s.countError_shape site u; rw [h]
@[simp] theorem State.countError_calls : (s.countError site u).calls = s.calls := by
  obtain ⟨e, r, h⟩ := s.countError_shape site u; rw [h]
@[simp] theorem State.countError_callBack : (s.countError site u).callBack = s.callBack := by
  obtain ⟨e, r, h⟩ := s.countError_shape site u; rw [h]
@[simp] theorem State.countError_lost : (s.countError site u).lost = s.lost := by
  obtain ⟨e, r, h⟩ := s.countError_shape site u; rw [h]
@[simp] theorem State.countError_cleared : (s.countError site u).cleared = s.cleared := by
  obtain ⟨e, r, h⟩ := s.countError_shape site u; rw [h]
@[simp] theorem State.countError_errorCore : (s.countError site u).errorCore = s.errorCore := by
  obtain ⟨e, r, h⟩ := s.countError_shape site u; rw [h]
@[simp] theorem State.countError_staging : (s.countError site u).staging = s.staging := by
  obtain ⟨e, r, h⟩ := s.countError_shape site u; rw [h]
@[simp] theorem State.countError_kdevno : (s.countError site u).kdevno = s.kdevno := by
  obtain ⟨e, r, h⟩ := s.countError_shape site u; rw [h]
@[simp] theorem State.countError_kstrict : (s.countError site u).kstrict = s.kstrict := by
  obtain ⟨e, r, h⟩ := s.countError_shape site u; rw [h]
@[simp] theorem State.countError_staged : (s.countError site u).staged = s.staged := by
  obtain ⟨e, r, h⟩ := s.countError_shape site u; rw [h]
@[simp] theorem State.countError_partitions : (s.countError site u).partitions = s.partitions := by
  obtain ⟨e, r, h⟩ := s.countError_shape site u; rw [h]
@[simp] theorem State.countError_commitResult : (s.countError site u).commitResult = s.commitResult := by
  obtain ⟨e, r, h⟩ := s.countError_shape site u; rw [h]
@[simp] theorem State.countError_startRec : (s.countError site u).startRec = s.startRec := by
  obtain ⟨e, r, h⟩ := s.countError_shape site u; rw [h]
@[simp] theorem State.countError_harts : (s.countError site u).harts = s.harts := by
  obtain ⟨e, r, h⟩ := s.countError_shape site u; rw [h]
@[simp] theorem State.countError_routes : (s.countError site u).routes = s.routes := by
  obtain ⟨e, r, h⟩ := s.countError_shape site u; rw [h]
@[simp] theorem State.countError_deadLinks : (s.countError site u).deadLinks = s.deadLinks := by
  obtain ⟨e, r, h⟩ := s.countError_shape site u; rw [h]
@[simp] theorem State.countError_scNode : (s.countError site u).scNode = s.scNode := by
  obtain ⟨e, r, h⟩ := s.countError_shape site u; rw [h]
@[simp] theorem State.countError_scCount : (s.countError site u).scCount = s.scCount := by
  obtain ⟨e, r, h⟩ := s.countError_shape site u; rw [h]
@[simp] theorem State.countError_scSkip : (s.countError site u).scSkip = s.scSkip := by
  obtain ⟨e, r, h⟩ := s.countError_shape site u; rw [h]
@[simp] theorem State.countError_outbox : (s.countError site u).outbox = s.outbox := by
  obtain ⟨e, r, h⟩ := s.countError_shape site u; rw [h]
@[simp] theorem State.countError_powerMw : (s.countError site u).powerMw = s.powerMw := by
  obtain ⟨e, r, h⟩ := s.countError_shape site u; rw [h]
@[simp] theorem State.countError_tempC : (s.countError site u).tempC = s.tempC := by
  obtain ⟨e, r, h⟩ := s.countError_shape site u; rw [h]
@[simp] theorem State.countError_held : (s.countError site u).held = s.held := by
  obtain ⟨e, r, h⟩ := s.countError_shape site u; rw [h]
@[simp] theorem State.countError_overTemp : (s.countError site u).overTemp = s.overTemp := by
  obtain ⟨e, r, h⟩ := s.countError_shape site u; rw [h]
@[simp] theorem State.countError_boot : (s.countError site u).boot = s.boot := by
  obtain ⟨e, r, h⟩ := s.countError_shape site u; rw [h]
@[simp] theorem State.countError_measure0 : (s.countError site u).measure0 = s.measure0 := by
  obtain ⟨e, r, h⟩ := s.countError_shape site u; rw [h]
@[simp] theorem State.countError_deviceKey : (s.countError site u).deviceKey = s.deviceKey := by
  obtain ⟨e, r, h⟩ := s.countError_shape site u; rw [h]
@[simp] theorem State.countError_flash : (s.countError site u).flash = s.flash := by
  obtain ⟨e, r, h⟩ := s.countError_shape site u; rw [h]
@[simp] theorem State.countError_ports : (s.countError site u).ports = s.ports := by
  obtain ⟨e, r, h⟩ := s.countError_shape site u; rw [h]
@[simp] theorem State.countError_endpoint : (s.countError site u).endpoint = s.endpoint := by
  obtain ⟨e, r, h⟩ := s.countError_shape site u; rw [h]
@[simp] theorem State.countError_windowAt : (s.countError site u).windowAt = s.windowAt := by
  obtain ⟨e, r, h⟩ := s.countError_shape site u; rw [h]
@[simp] theorem State.countError_activity : (s.countError site u).activity = s.activity := by
  obtain ⟨e, r, h⟩ := s.countError_shape site u; rw [h]
@[simp] theorem State.countError_recordOk : (s.countError site u).recordOk = s.recordOk := by
  obtain ⟨e, r, h⟩ := s.countError_shape site u; rw [h]
@[simp] theorem State.countError_speedGrade : (s.countError site u).speedGrade = s.speedGrade := by
  obtain ⟨e, r, h⟩ := s.countError_shape site u; rw [h]
@[simp] theorem State.countError_gddrMiB : (s.countError site u).gddrMiB = s.gddrMiB := by
  obtain ⟨e, r, h⟩ := s.countError_shape site u; rw [h]
@[simp] theorem State.countError_retired : (s.countError site u).retired = s.retired := by
  obtain ⟨e, r, h⟩ := s.countError_shape site u; rw [h]
@[simp] theorem State.countError_dropped : (s.countError site u).dropped = s.dropped := by
  obtain ⟨e, r, h⟩ := s.countError_shape site u; rw [h]
end

section
variable (s : State) (a : Nat) (bs : List Byte)
@[simp] theorem State.memWrite_cycle : (s.memWrite a bs).cycle = s.cycle := by
  unfold State.memWrite; split <;> simp
@[simp] theorem State.memWrite_dieStart : (s.memWrite a bs).dieStart = s.dieStart := by
  unfold State.memWrite; split <;> simp
@[simp] theorem State.memWrite_fresh : (s.memWrite a bs).fresh = s.fresh := by
  unfold State.memWrite; split <;> simp
@[simp] theorem State.memWrite_script : (s.memWrite a bs).script = s.script := by
  unfold State.memWrite; split <;> simp
@[simp] theorem State.memWrite_focus : (s.memWrite a bs).focus = s.focus := by
  unfold State.memWrite; split <;> simp
@[simp] theorem State.memWrite_scratch : (s.memWrite a bs).scratch = s.scratch := by
  unfold State.memWrite; split <;> simp
@[simp] theorem State.memWrite_tlb : (s.memWrite a bs).tlb = s.tlb := by
  unfold State.memWrite; split <;> simp
@[simp] theorem State.memWrite_spent : (s.memWrite a bs).spent = s.spent := by
  unfold State.memWrite; split <;> simp
@[simp] theorem State.memWrite_cores : (s.memWrite a bs).cores = s.cores := by
  unfold State.memWrite; split <;> simp
@[simp] theorem State.memWrite_works : (s.memWrite a bs).works = s.works := by
  unfold State.memWrite; split <;> simp
@[simp] theorem State.memWrite_units : (s.memWrite a bs).units = s.units := by
  unfold State.memWrite; split <;> simp
@[simp] theorem State.memWrite_cells : (s.memWrite a bs).cells = s.cells := by
  unfold State.memWrite; split <;> simp
@[simp] theorem State.memWrite_memQueues : (s.memWrite a bs).memQueues = s.memQueues := by
  unfold State.memWrite; split <;> simp
@[simp] theorem State.memWrite_transfers : (s.memWrite a bs).transfers = s.transfers := by
  unfold State.memWrite; split <;> simp
@[simp] theorem State.memWrite_parked : (s.memWrite a bs).parked = s.parked := by
  unfold State.memWrite; split <;> simp
@[simp] theorem State.memWrite_misses : (s.memWrite a bs).misses = s.misses := by
  unfold State.memWrite; split <;> simp
@[simp] theorem State.memWrite_flights : (s.memWrite a bs).flights = s.flights := by
  unfold State.memWrite; split <;> simp
@[simp] theorem State.memWrite_rows : (s.memWrite a bs).rows = s.rows := by
  unfold State.memWrite; split <;> simp
@[simp] theorem State.memWrite_vps : (s.memWrite a bs).vps = s.vps := by
  unfold State.memWrite; split <;> simp
@[simp] theorem State.memWrite_scheds : (s.memWrite a bs).scheds = s.scheds := by
  unfold State.memWrite; split <;> simp
@[simp] theorem State.memWrite_fibreReqs : (s.memWrite a bs).fibreReqs = s.fibreReqs := by
  unfold State.memWrite; split <;> simp
@[simp] theorem State.memWrite_replies : (s.memWrite a bs).replies = s.replies := by
  unfold State.memWrite; split <;> simp
@[simp] theorem State.memWrite_holds : (s.memWrite a bs).holds = s.holds := by
  unfold State.memWrite; split <;> simp
@[simp] theorem State.memWrite_calls : (s.memWrite a bs).calls = s.calls := by
  unfold State.memWrite; split <;> simp
@[simp] theorem State.memWrite_callBack : (s.memWrite a bs).callBack = s.callBack := by
  unfold State.memWrite; split <;> simp
@[simp] theorem State.memWrite_lost : (s.memWrite a bs).lost = s.lost := by
  unfold State.memWrite; split <;> simp
@[simp] theorem State.memWrite_cleared : (s.memWrite a bs).cleared = s.cleared := by
  unfold State.memWrite; split <;> simp
@[simp] theorem State.memWrite_errorCore : (s.memWrite a bs).errorCore = s.errorCore := by
  unfold State.memWrite; split <;> simp
@[simp] theorem State.memWrite_staging : (s.memWrite a bs).staging = s.staging := by
  unfold State.memWrite; split <;> simp
@[simp] theorem State.memWrite_kdevno : (s.memWrite a bs).kdevno = s.kdevno := by
  unfold State.memWrite; split <;> simp
@[simp] theorem State.memWrite_kstrict : (s.memWrite a bs).kstrict = s.kstrict := by
  unfold State.memWrite; split <;> simp
@[simp] theorem State.memWrite_staged : (s.memWrite a bs).staged = s.staged := by
  unfold State.memWrite; split <;> simp
@[simp] theorem State.memWrite_partitions : (s.memWrite a bs).partitions = s.partitions := by
  unfold State.memWrite; split <;> simp
@[simp] theorem State.memWrite_commitResult : (s.memWrite a bs).commitResult = s.commitResult := by
  unfold State.memWrite; split <;> simp
@[simp] theorem State.memWrite_startRec : (s.memWrite a bs).startRec = s.startRec := by
  unfold State.memWrite; split <;> simp
@[simp] theorem State.memWrite_routes : (s.memWrite a bs).routes = s.routes := by
  unfold State.memWrite; split <;> simp
@[simp] theorem State.memWrite_deadLinks : (s.memWrite a bs).deadLinks = s.deadLinks := by
  unfold State.memWrite; split <;> simp
@[simp] theorem State.memWrite_scNode : (s.memWrite a bs).scNode = s.scNode := by
  unfold State.memWrite; split <;> simp
@[simp] theorem State.memWrite_scCount : (s.memWrite a bs).scCount = s.scCount := by
  unfold State.memWrite; split <;> simp
@[simp] theorem State.memWrite_scSkip : (s.memWrite a bs).scSkip = s.scSkip := by
  unfold State.memWrite; split <;> simp
@[simp] theorem State.memWrite_outbox : (s.memWrite a bs).outbox = s.outbox := by
  unfold State.memWrite; split <;> simp
@[simp] theorem State.memWrite_powerMw : (s.memWrite a bs).powerMw = s.powerMw := by
  unfold State.memWrite; split <;> simp
@[simp] theorem State.memWrite_tempC : (s.memWrite a bs).tempC = s.tempC := by
  unfold State.memWrite; split <;> simp
@[simp] theorem State.memWrite_held : (s.memWrite a bs).held = s.held := by
  unfold State.memWrite; split <;> simp
@[simp] theorem State.memWrite_overTemp : (s.memWrite a bs).overTemp = s.overTemp := by
  unfold State.memWrite; split <;> simp
@[simp] theorem State.memWrite_boot : (s.memWrite a bs).boot = s.boot := by
  unfold State.memWrite; split <;> simp
@[simp] theorem State.memWrite_measure0 : (s.memWrite a bs).measure0 = s.measure0 := by
  unfold State.memWrite; split <;> simp
@[simp] theorem State.memWrite_deviceKey : (s.memWrite a bs).deviceKey = s.deviceKey := by
  unfold State.memWrite; split <;> simp
@[simp] theorem State.memWrite_flash : (s.memWrite a bs).flash = s.flash := by
  unfold State.memWrite; split <;> simp
@[simp] theorem State.memWrite_ports : (s.memWrite a bs).ports = s.ports := by
  unfold State.memWrite; split <;> simp
@[simp] theorem State.memWrite_endpoint : (s.memWrite a bs).endpoint = s.endpoint := by
  unfold State.memWrite; split <;> simp
@[simp] theorem State.memWrite_windowAt : (s.memWrite a bs).windowAt = s.windowAt := by
  unfold State.memWrite; split <;> simp
@[simp] theorem State.memWrite_activity : (s.memWrite a bs).activity = s.activity := by
  unfold State.memWrite; split <;> simp
@[simp] theorem State.memWrite_recordOk : (s.memWrite a bs).recordOk = s.recordOk := by
  unfold State.memWrite; split <;> simp
@[simp] theorem State.memWrite_speedGrade : (s.memWrite a bs).speedGrade = s.speedGrade := by
  unfold State.memWrite; split <;> simp
@[simp] theorem State.memWrite_gddrMiB : (s.memWrite a bs).gddrMiB = s.gddrMiB := by
  unfold State.memWrite; split <;> simp
@[simp] theorem State.memWrite_retired : (s.memWrite a bs).retired = s.retired := by
  unfold State.memWrite; split <;> simp
@[simp] theorem State.memWrite_dropped : (s.memWrite a bs).dropped = s.dropped := by
  unfold State.memWrite; split <;> simp
end

@[simp] theorem State.memWrite_mem (s : State) (a : Nat) (bs : List Byte) :
    (s.memWrite a bs).mem = s.mem.write a bs := by
  unfold State.memWrite; split <;> simp

section
variable (s : State) (a : Nat) (bs : List Byte)
@[simp] theorem State.scratchWrite_cycle : (s.scratchWrite a bs).cycle = s.cycle := by
  unfold State.scratchWrite; split <;> simp
@[simp] theorem State.scratchWrite_dieStart : (s.scratchWrite a bs).dieStart = s.dieStart := by
  unfold State.scratchWrite; split <;> simp
@[simp] theorem State.scratchWrite_fresh : (s.scratchWrite a bs).fresh = s.fresh := by
  unfold State.scratchWrite; split <;> simp
@[simp] theorem State.scratchWrite_script : (s.scratchWrite a bs).script = s.script := by
  unfold State.scratchWrite; split <;> simp
@[simp] theorem State.scratchWrite_focus : (s.scratchWrite a bs).focus = s.focus := by
  unfold State.scratchWrite; split <;> simp
@[simp] theorem State.scratchWrite_mem : (s.scratchWrite a bs).mem = s.mem := by
  unfold State.scratchWrite; split <;> simp
@[simp] theorem State.scratchWrite_tlb : (s.scratchWrite a bs).tlb = s.tlb := by
  unfold State.scratchWrite; split <;> simp
@[simp] theorem State.scratchWrite_spent : (s.scratchWrite a bs).spent = s.spent := by
  unfold State.scratchWrite; split <;> simp
@[simp] theorem State.scratchWrite_cores : (s.scratchWrite a bs).cores = s.cores := by
  unfold State.scratchWrite; split <;> simp
@[simp] theorem State.scratchWrite_works : (s.scratchWrite a bs).works = s.works := by
  unfold State.scratchWrite; split <;> simp
@[simp] theorem State.scratchWrite_units : (s.scratchWrite a bs).units = s.units := by
  unfold State.scratchWrite; split <;> simp
@[simp] theorem State.scratchWrite_cells : (s.scratchWrite a bs).cells = s.cells := by
  unfold State.scratchWrite; split <;> simp
@[simp] theorem State.scratchWrite_memQueues : (s.scratchWrite a bs).memQueues = s.memQueues := by
  unfold State.scratchWrite; split <;> simp
@[simp] theorem State.scratchWrite_transfers : (s.scratchWrite a bs).transfers = s.transfers := by
  unfold State.scratchWrite; split <;> simp
@[simp] theorem State.scratchWrite_parked : (s.scratchWrite a bs).parked = s.parked := by
  unfold State.scratchWrite; split <;> simp
@[simp] theorem State.scratchWrite_misses : (s.scratchWrite a bs).misses = s.misses := by
  unfold State.scratchWrite; split <;> simp
@[simp] theorem State.scratchWrite_flights : (s.scratchWrite a bs).flights = s.flights := by
  unfold State.scratchWrite; split <;> simp
@[simp] theorem State.scratchWrite_rows : (s.scratchWrite a bs).rows = s.rows := by
  unfold State.scratchWrite; split <;> simp
@[simp] theorem State.scratchWrite_vps : (s.scratchWrite a bs).vps = s.vps := by
  unfold State.scratchWrite; split <;> simp
@[simp] theorem State.scratchWrite_scheds : (s.scratchWrite a bs).scheds = s.scheds := by
  unfold State.scratchWrite; split <;> simp
@[simp] theorem State.scratchWrite_fibreReqs : (s.scratchWrite a bs).fibreReqs = s.fibreReqs := by
  unfold State.scratchWrite; split <;> simp
@[simp] theorem State.scratchWrite_replies : (s.scratchWrite a bs).replies = s.replies := by
  unfold State.scratchWrite; split <;> simp
@[simp] theorem State.scratchWrite_holds : (s.scratchWrite a bs).holds = s.holds := by
  unfold State.scratchWrite; split <;> simp
@[simp] theorem State.scratchWrite_calls : (s.scratchWrite a bs).calls = s.calls := by
  unfold State.scratchWrite; split <;> simp
@[simp] theorem State.scratchWrite_callBack : (s.scratchWrite a bs).callBack = s.callBack := by
  unfold State.scratchWrite; split <;> simp
@[simp] theorem State.scratchWrite_lost : (s.scratchWrite a bs).lost = s.lost := by
  unfold State.scratchWrite; split <;> simp
@[simp] theorem State.scratchWrite_cleared : (s.scratchWrite a bs).cleared = s.cleared := by
  unfold State.scratchWrite; split <;> simp
@[simp] theorem State.scratchWrite_errorCore : (s.scratchWrite a bs).errorCore = s.errorCore := by
  unfold State.scratchWrite; split <;> simp
@[simp] theorem State.scratchWrite_staging : (s.scratchWrite a bs).staging = s.staging := by
  unfold State.scratchWrite; split <;> simp
@[simp] theorem State.scratchWrite_kdevno : (s.scratchWrite a bs).kdevno = s.kdevno := by
  unfold State.scratchWrite; split <;> simp
@[simp] theorem State.scratchWrite_kstrict : (s.scratchWrite a bs).kstrict = s.kstrict := by
  unfold State.scratchWrite; split <;> simp
@[simp] theorem State.scratchWrite_staged : (s.scratchWrite a bs).staged = s.staged := by
  unfold State.scratchWrite; split <;> simp
@[simp] theorem State.scratchWrite_partitions : (s.scratchWrite a bs).partitions = s.partitions := by
  unfold State.scratchWrite; split <;> simp
@[simp] theorem State.scratchWrite_commitResult : (s.scratchWrite a bs).commitResult = s.commitResult := by
  unfold State.scratchWrite; split <;> simp
@[simp] theorem State.scratchWrite_startRec : (s.scratchWrite a bs).startRec = s.startRec := by
  unfold State.scratchWrite; split <;> simp
@[simp] theorem State.scratchWrite_harts : (s.scratchWrite a bs).harts = s.harts := by
  unfold State.scratchWrite; split <;> simp
@[simp] theorem State.scratchWrite_routes : (s.scratchWrite a bs).routes = s.routes := by
  unfold State.scratchWrite; split <;> simp
@[simp] theorem State.scratchWrite_deadLinks : (s.scratchWrite a bs).deadLinks = s.deadLinks := by
  unfold State.scratchWrite; split <;> simp
@[simp] theorem State.scratchWrite_scNode : (s.scratchWrite a bs).scNode = s.scNode := by
  unfold State.scratchWrite; split <;> simp
@[simp] theorem State.scratchWrite_scCount : (s.scratchWrite a bs).scCount = s.scCount := by
  unfold State.scratchWrite; split <;> simp
@[simp] theorem State.scratchWrite_scSkip : (s.scratchWrite a bs).scSkip = s.scSkip := by
  unfold State.scratchWrite; split <;> simp
@[simp] theorem State.scratchWrite_outbox : (s.scratchWrite a bs).outbox = s.outbox := by
  unfold State.scratchWrite; split <;> simp
@[simp] theorem State.scratchWrite_powerMw : (s.scratchWrite a bs).powerMw = s.powerMw := by
  unfold State.scratchWrite; split <;> simp
@[simp] theorem State.scratchWrite_tempC : (s.scratchWrite a bs).tempC = s.tempC := by
  unfold State.scratchWrite; split <;> simp
@[simp] theorem State.scratchWrite_held : (s.scratchWrite a bs).held = s.held := by
  unfold State.scratchWrite; split <;> simp
@[simp] theorem State.scratchWrite_overTemp : (s.scratchWrite a bs).overTemp = s.overTemp := by
  unfold State.scratchWrite; split <;> simp
@[simp] theorem State.scratchWrite_boot : (s.scratchWrite a bs).boot = s.boot := by
  unfold State.scratchWrite; split <;> simp
@[simp] theorem State.scratchWrite_measure0 : (s.scratchWrite a bs).measure0 = s.measure0 := by
  unfold State.scratchWrite; split <;> simp
@[simp] theorem State.scratchWrite_deviceKey : (s.scratchWrite a bs).deviceKey = s.deviceKey := by
  unfold State.scratchWrite; split <;> simp
@[simp] theorem State.scratchWrite_flash : (s.scratchWrite a bs).flash = s.flash := by
  unfold State.scratchWrite; split <;> simp
@[simp] theorem State.scratchWrite_ports : (s.scratchWrite a bs).ports = s.ports := by
  unfold State.scratchWrite; split <;> simp
@[simp] theorem State.scratchWrite_endpoint : (s.scratchWrite a bs).endpoint = s.endpoint := by
  unfold State.scratchWrite; split <;> simp
@[simp] theorem State.scratchWrite_windowAt : (s.scratchWrite a bs).windowAt = s.windowAt := by
  unfold State.scratchWrite; split <;> simp
@[simp] theorem State.scratchWrite_activity : (s.scratchWrite a bs).activity = s.activity := by
  unfold State.scratchWrite; split <;> simp
@[simp] theorem State.scratchWrite_recordOk : (s.scratchWrite a bs).recordOk = s.recordOk := by
  unfold State.scratchWrite; split <;> simp
@[simp] theorem State.scratchWrite_speedGrade : (s.scratchWrite a bs).speedGrade = s.speedGrade := by
  unfold State.scratchWrite; split <;> simp
@[simp] theorem State.scratchWrite_gddrMiB : (s.scratchWrite a bs).gddrMiB = s.gddrMiB := by
  unfold State.scratchWrite; split <;> simp
@[simp] theorem State.scratchWrite_retired : (s.scratchWrite a bs).retired = s.retired := by
  unfold State.scratchWrite; split <;> simp
@[simp] theorem State.scratchWrite_dropped : (s.scratchWrite a bs).dropped = s.dropped := by
  unfold State.scratchWrite; split <;> simp
end

@[simp] theorem State.scratchWrite_scratch (s : State) (a : Nat) (bs : List Byte) :
    (s.scratchWrite a bs).scratch = s.scratch.write a bs := by
  unfold State.scratchWrite; split <;> simp

section
variable (s : State) (who : Sender) (pa : Nat) (x : Outbound)
@[simp] theorem State.leave_cycle : (s.leave who pa x).cycle = s.cycle := by
  rfl
@[simp] theorem State.leave_dieStart : (s.leave who pa x).dieStart = s.dieStart := by
  rfl
@[simp] theorem State.leave_fresh : (s.leave who pa x).fresh = s.fresh := by
  rfl
@[simp] theorem State.leave_script : (s.leave who pa x).script = s.script := by
  rfl
@[simp] theorem State.leave_focus : (s.leave who pa x).focus = s.focus := by
  rfl
@[simp] theorem State.leave_mem : (s.leave who pa x).mem = s.mem := by
  rfl
@[simp] theorem State.leave_scratch : (s.leave who pa x).scratch = s.scratch := by
  rfl
@[simp] theorem State.leave_tlb : (s.leave who pa x).tlb = s.tlb := by
  rfl
@[simp] theorem State.leave_spent : (s.leave who pa x).spent = s.spent := by
  rfl
@[simp] theorem State.leave_cores : (s.leave who pa x).cores = s.cores := by
  rfl
@[simp] theorem State.leave_works : (s.leave who pa x).works = s.works := by
  rfl
@[simp] theorem State.leave_units : (s.leave who pa x).units = s.units := by
  rfl
@[simp] theorem State.leave_cells : (s.leave who pa x).cells = s.cells := by
  rfl
@[simp] theorem State.leave_memQueues : (s.leave who pa x).memQueues = s.memQueues := by
  rfl
@[simp] theorem State.leave_transfers : (s.leave who pa x).transfers = s.transfers := by
  rfl
@[simp] theorem State.leave_parked : (s.leave who pa x).parked = s.parked := by
  rfl
@[simp] theorem State.leave_misses : (s.leave who pa x).misses = s.misses := by
  rfl
@[simp] theorem State.leave_flights : (s.leave who pa x).flights = s.flights := by
  rfl
@[simp] theorem State.leave_rows : (s.leave who pa x).rows = s.rows := by
  rfl
@[simp] theorem State.leave_vps : (s.leave who pa x).vps = s.vps := by
  rfl
@[simp] theorem State.leave_scheds : (s.leave who pa x).scheds = s.scheds := by
  rfl
@[simp] theorem State.leave_fibreReqs : (s.leave who pa x).fibreReqs = s.fibreReqs := by
  rfl
@[simp] theorem State.leave_replies : (s.leave who pa x).replies = s.replies := by
  rfl
@[simp] theorem State.leave_holds : (s.leave who pa x).holds = s.holds := by
  rfl
@[simp] theorem State.leave_calls : (s.leave who pa x).calls = s.calls := by
  rfl
@[simp] theorem State.leave_callBack : (s.leave who pa x).callBack = s.callBack := by
  rfl
@[simp] theorem State.leave_lost : (s.leave who pa x).lost = s.lost := by
  rfl
@[simp] theorem State.leave_cleared : (s.leave who pa x).cleared = s.cleared := by
  rfl
@[simp] theorem State.leave_records : (s.leave who pa x).records = s.records := by
  rfl
@[simp] theorem State.leave_errors : (s.leave who pa x).errors = s.errors := by
  rfl
@[simp] theorem State.leave_errorCore : (s.leave who pa x).errorCore = s.errorCore := by
  rfl
@[simp] theorem State.leave_staging : (s.leave who pa x).staging = s.staging := by
  rfl
@[simp] theorem State.leave_kdevno : (s.leave who pa x).kdevno = s.kdevno := by
  rfl
@[simp] theorem State.leave_kstrict : (s.leave who pa x).kstrict = s.kstrict := by
  rfl
@[simp] theorem State.leave_staged : (s.leave who pa x).staged = s.staged := by
  rfl
@[simp] theorem State.leave_partitions : (s.leave who pa x).partitions = s.partitions := by
  rfl
@[simp] theorem State.leave_commitResult : (s.leave who pa x).commitResult = s.commitResult := by
  rfl
@[simp] theorem State.leave_startRec : (s.leave who pa x).startRec = s.startRec := by
  rfl
@[simp] theorem State.leave_harts : (s.leave who pa x).harts = s.harts := by
  rfl
@[simp] theorem State.leave_routes : (s.leave who pa x).routes = s.routes := by
  rfl
@[simp] theorem State.leave_deadLinks : (s.leave who pa x).deadLinks = s.deadLinks := by
  rfl
@[simp] theorem State.leave_scNode : (s.leave who pa x).scNode = s.scNode := by
  rfl
@[simp] theorem State.leave_scCount : (s.leave who pa x).scCount = s.scCount := by
  rfl
@[simp] theorem State.leave_scSkip : (s.leave who pa x).scSkip = s.scSkip := by
  rfl
@[simp] theorem State.leave_powerMw : (s.leave who pa x).powerMw = s.powerMw := by
  rfl
@[simp] theorem State.leave_tempC : (s.leave who pa x).tempC = s.tempC := by
  rfl
@[simp] theorem State.leave_held : (s.leave who pa x).held = s.held := by
  rfl
@[simp] theorem State.leave_overTemp : (s.leave who pa x).overTemp = s.overTemp := by
  rfl
@[simp] theorem State.leave_boot : (s.leave who pa x).boot = s.boot := by
  rfl
@[simp] theorem State.leave_measure0 : (s.leave who pa x).measure0 = s.measure0 := by
  rfl
@[simp] theorem State.leave_deviceKey : (s.leave who pa x).deviceKey = s.deviceKey := by
  rfl
@[simp] theorem State.leave_flash : (s.leave who pa x).flash = s.flash := by
  rfl
@[simp] theorem State.leave_ports : (s.leave who pa x).ports = s.ports := by
  rfl
@[simp] theorem State.leave_endpoint : (s.leave who pa x).endpoint = s.endpoint := by
  rfl
@[simp] theorem State.leave_windowAt : (s.leave who pa x).windowAt = s.windowAt := by
  rfl
@[simp] theorem State.leave_activity : (s.leave who pa x).activity = s.activity := by
  rfl
@[simp] theorem State.leave_recordOk : (s.leave who pa x).recordOk = s.recordOk := by
  rfl
@[simp] theorem State.leave_speedGrade : (s.leave who pa x).speedGrade = s.speedGrade := by
  rfl
@[simp] theorem State.leave_gddrMiB : (s.leave who pa x).gddrMiB = s.gddrMiB := by
  rfl
@[simp] theorem State.leave_retired : (s.leave who pa x).retired = s.retired := by
  rfl
@[simp] theorem State.leave_dropped : (s.leave who pa x).dropped = s.dropped := by
  rfl
end

section
variable (s : State) (who : Sender) (l : Loc) (bs : List Byte)
@[simp] theorem State.locWrite_cycle : (s.locWrite who l bs).cycle = s.cycle := by
  unfold State.locWrite; split <;> (try split) <;> (try split) <;> simp
@[simp] theorem State.locWrite_dieStart : (s.locWrite who l bs).dieStart = s.dieStart := by
  unfold State.locWrite; split <;> (try split) <;> (try split) <;> simp
@[simp] theorem State.locWrite_fresh : (s.locWrite who l bs).fresh = s.fresh := by
  unfold State.locWrite; split <;> (try split) <;> (try split) <;> simp
@[simp] theorem State.locWrite_script : (s.locWrite who l bs).script = s.script := by
  unfold State.locWrite; split <;> (try split) <;> (try split) <;> simp
@[simp] theorem State.locWrite_focus : (s.locWrite who l bs).focus = s.focus := by
  unfold State.locWrite; split <;> (try split) <;> (try split) <;> simp
@[simp] theorem State.locWrite_tlb : (s.locWrite who l bs).tlb = s.tlb := by
  unfold State.locWrite; split <;> (try split) <;> (try split) <;> simp
@[simp] theorem State.locWrite_spent : (s.locWrite who l bs).spent = s.spent := by
  unfold State.locWrite; split <;> (try split) <;> (try split) <;> simp
@[simp] theorem State.locWrite_cores : (s.locWrite who l bs).cores = s.cores := by
  unfold State.locWrite; split <;> (try split) <;> (try split) <;> simp
@[simp] theorem State.locWrite_works : (s.locWrite who l bs).works = s.works := by
  unfold State.locWrite; split <;> (try split) <;> (try split) <;> simp
@[simp] theorem State.locWrite_units : (s.locWrite who l bs).units = s.units := by
  unfold State.locWrite; split <;> (try split) <;> (try split) <;> simp
@[simp] theorem State.locWrite_cells : (s.locWrite who l bs).cells = s.cells := by
  unfold State.locWrite; split <;> (try split) <;> (try split) <;> simp
@[simp] theorem State.locWrite_memQueues : (s.locWrite who l bs).memQueues = s.memQueues := by
  unfold State.locWrite; split <;> (try split) <;> (try split) <;> simp
@[simp] theorem State.locWrite_transfers : (s.locWrite who l bs).transfers = s.transfers := by
  unfold State.locWrite; split <;> (try split) <;> (try split) <;> simp
@[simp] theorem State.locWrite_parked : (s.locWrite who l bs).parked = s.parked := by
  unfold State.locWrite; split <;> (try split) <;> (try split) <;> simp
@[simp] theorem State.locWrite_misses : (s.locWrite who l bs).misses = s.misses := by
  unfold State.locWrite; split <;> (try split) <;> (try split) <;> simp
@[simp] theorem State.locWrite_flights : (s.locWrite who l bs).flights = s.flights := by
  unfold State.locWrite; split <;> (try split) <;> (try split) <;> simp
@[simp] theorem State.locWrite_rows : (s.locWrite who l bs).rows = s.rows := by
  unfold State.locWrite; split <;> (try split) <;> (try split) <;> simp
@[simp] theorem State.locWrite_vps : (s.locWrite who l bs).vps = s.vps := by
  unfold State.locWrite; split <;> (try split) <;> (try split) <;> simp
@[simp] theorem State.locWrite_scheds : (s.locWrite who l bs).scheds = s.scheds := by
  unfold State.locWrite; split <;> (try split) <;> (try split) <;> simp
@[simp] theorem State.locWrite_fibreReqs : (s.locWrite who l bs).fibreReqs = s.fibreReqs := by
  unfold State.locWrite; split <;> (try split) <;> (try split) <;> simp
@[simp] theorem State.locWrite_replies : (s.locWrite who l bs).replies = s.replies := by
  unfold State.locWrite; split <;> (try split) <;> (try split) <;> simp
@[simp] theorem State.locWrite_holds : (s.locWrite who l bs).holds = s.holds := by
  unfold State.locWrite; split <;> (try split) <;> (try split) <;> simp
@[simp] theorem State.locWrite_calls : (s.locWrite who l bs).calls = s.calls := by
  unfold State.locWrite; split <;> (try split) <;> (try split) <;> simp
@[simp] theorem State.locWrite_callBack : (s.locWrite who l bs).callBack = s.callBack := by
  unfold State.locWrite; split <;> (try split) <;> (try split) <;> simp
@[simp] theorem State.locWrite_lost : (s.locWrite who l bs).lost = s.lost := by
  unfold State.locWrite; split <;> (try split) <;> (try split) <;> simp
@[simp] theorem State.locWrite_cleared : (s.locWrite who l bs).cleared = s.cleared := by
  unfold State.locWrite; split <;> (try split) <;> (try split) <;> simp
@[simp] theorem State.locWrite_errorCore : (s.locWrite who l bs).errorCore = s.errorCore := by
  unfold State.locWrite; split <;> (try split) <;> (try split) <;> simp
@[simp] theorem State.locWrite_staging : (s.locWrite who l bs).staging = s.staging := by
  unfold State.locWrite; split <;> (try split) <;> (try split) <;> simp
@[simp] theorem State.locWrite_kdevno : (s.locWrite who l bs).kdevno = s.kdevno := by
  unfold State.locWrite; split <;> (try split) <;> (try split) <;> simp
@[simp] theorem State.locWrite_kstrict : (s.locWrite who l bs).kstrict = s.kstrict := by
  unfold State.locWrite; split <;> (try split) <;> (try split) <;> simp
@[simp] theorem State.locWrite_staged : (s.locWrite who l bs).staged = s.staged := by
  unfold State.locWrite; split <;> (try split) <;> (try split) <;> simp
@[simp] theorem State.locWrite_partitions : (s.locWrite who l bs).partitions = s.partitions := by
  unfold State.locWrite; split <;> (try split) <;> (try split) <;> simp
@[simp] theorem State.locWrite_commitResult : (s.locWrite who l bs).commitResult = s.commitResult := by
  unfold State.locWrite; split <;> (try split) <;> (try split) <;> simp
@[simp] theorem State.locWrite_startRec : (s.locWrite who l bs).startRec = s.startRec := by
  unfold State.locWrite; split <;> (try split) <;> (try split) <;> simp
@[simp] theorem State.locWrite_routes : (s.locWrite who l bs).routes = s.routes := by
  unfold State.locWrite; split <;> (try split) <;> (try split) <;> simp
@[simp] theorem State.locWrite_deadLinks : (s.locWrite who l bs).deadLinks = s.deadLinks := by
  unfold State.locWrite; split <;> (try split) <;> (try split) <;> simp
@[simp] theorem State.locWrite_scNode : (s.locWrite who l bs).scNode = s.scNode := by
  unfold State.locWrite; split <;> (try split) <;> (try split) <;> simp
@[simp] theorem State.locWrite_scCount : (s.locWrite who l bs).scCount = s.scCount := by
  unfold State.locWrite; split <;> (try split) <;> (try split) <;> simp
@[simp] theorem State.locWrite_scSkip : (s.locWrite who l bs).scSkip = s.scSkip := by
  unfold State.locWrite; split <;> (try split) <;> (try split) <;> simp
@[simp] theorem State.locWrite_powerMw : (s.locWrite who l bs).powerMw = s.powerMw := by
  unfold State.locWrite; split <;> (try split) <;> (try split) <;> simp
@[simp] theorem State.locWrite_tempC : (s.locWrite who l bs).tempC = s.tempC := by
  unfold State.locWrite; split <;> (try split) <;> (try split) <;> simp
@[simp] theorem State.locWrite_held : (s.locWrite who l bs).held = s.held := by
  unfold State.locWrite; split <;> (try split) <;> (try split) <;> simp
@[simp] theorem State.locWrite_overTemp : (s.locWrite who l bs).overTemp = s.overTemp := by
  unfold State.locWrite; split <;> (try split) <;> (try split) <;> simp
@[simp] theorem State.locWrite_boot : (s.locWrite who l bs).boot = s.boot := by
  unfold State.locWrite; split <;> (try split) <;> (try split) <;> simp
@[simp] theorem State.locWrite_measure0 : (s.locWrite who l bs).measure0 = s.measure0 := by
  unfold State.locWrite; split <;> (try split) <;> (try split) <;> simp
@[simp] theorem State.locWrite_deviceKey : (s.locWrite who l bs).deviceKey = s.deviceKey := by
  unfold State.locWrite; split <;> (try split) <;> (try split) <;> simp
@[simp] theorem State.locWrite_flash : (s.locWrite who l bs).flash = s.flash := by
  unfold State.locWrite; split <;> (try split) <;> (try split) <;> simp
@[simp] theorem State.locWrite_ports : (s.locWrite who l bs).ports = s.ports := by
  unfold State.locWrite; split <;> (try split) <;> (try split) <;> simp
@[simp] theorem State.locWrite_endpoint : (s.locWrite who l bs).endpoint = s.endpoint := by
  unfold State.locWrite; split <;> (try split) <;> (try split) <;> simp
@[simp] theorem State.locWrite_windowAt : (s.locWrite who l bs).windowAt = s.windowAt := by
  unfold State.locWrite; split <;> (try split) <;> (try split) <;> simp
@[simp] theorem State.locWrite_activity : (s.locWrite who l bs).activity = s.activity := by
  unfold State.locWrite; split <;> (try split) <;> (try split) <;> simp
@[simp] theorem State.locWrite_recordOk : (s.locWrite who l bs).recordOk = s.recordOk := by
  unfold State.locWrite; split <;> (try split) <;> (try split) <;> simp
@[simp] theorem State.locWrite_speedGrade : (s.locWrite who l bs).speedGrade = s.speedGrade := by
  unfold State.locWrite; split <;> (try split) <;> (try split) <;> simp
@[simp] theorem State.locWrite_gddrMiB : (s.locWrite who l bs).gddrMiB = s.gddrMiB := by
  unfold State.locWrite; split <;> (try split) <;> (try split) <;> simp
@[simp] theorem State.locWrite_retired : (s.locWrite who l bs).retired = s.retired := by
  unfold State.locWrite; split <;> (try split) <;> (try split) <;> simp
@[simp] theorem State.locWrite_dropped : (s.locWrite who l bs).dropped = s.dropped := by
  unfold State.locWrite; split <;> (try split) <;> (try split) <;> simp
end


/-! ### An access leaves the focus alone -/

@[simp] theorem State.mark_focus (s : State) (e : TlbEntry) (b : Nat) : (s.mark e b).focus = s.focus := by
  unfold State.mark; dsimp only; split <;> simp
@[simp] theorem State.fillTlb_focus (s : State) (e : TlbEntry) : (s.fillTlb e).focus = s.focus := by
  unfold State.fillTlb; dsimp only; (repeat' split) <;> rfl
@[simp] theorem State.translate_focus (s : State) (c : CacheId) (n : BitVec 8) (r va : Nat) (w : Bool) :
    (s.translate c n r va w).1.focus = s.focus := by
  unfold State.translate; dsimp only; (repeat' split) <;> simp
theorem focus_fst {α : Type} {p : State × α} {t : State} {y : α} (e : p = (t, y)) : t.focus = p.1.focus := by subst e; rfl
@[simp] theorem State.access_focus (s : State) (t : ThreadId) (cap : Cap) (off : Word) (n : Nat) (w : Bool) :
    (s.access t cap off n w).1.focus = s.focus := by
  unfold State.access State.nonlocalTrap
  dsimp only
  repeat' split
  all_goals first | rfl | (refine (focus_fst (by assumption)).trans ?_; simp)
/-! ### Locations -/

/-- A write at a location of this device's memory. -/
theorem State.locWrite_local {s : State} {l : Loc} (h : l.space = .dense ∨ l.space = .fibre) (hl : s.isLocal l.addr = true)
    (who : Sender) (bs : List Byte) : s.locWrite who l bs = s.memWrite (localAddr l.addr) bs := by
  unfold State.locWrite; rcases h with h | h <;> simp [h, hl]

/-- A write at a location of a scratchpad. -/
theorem State.locWrite_scratch {s : State} {l : Loc} (h : l.space = .scratch) (who : Sender) (bs : List Byte) :
    s.locWrite who l bs = s.scratchWrite l.addr bs := by
  unfold State.locWrite; simp [h]

/-- A read at a location of this device's memory without a damaged unit. -/
theorem State.locRead_local {s : State} {l : Loc} {n : Nat} (h : l.space = .dense ∨ l.space = .fibre)
    (hf : l.fill = none) (hl : s.isLocal l.addr = true) (hb : s.mem.bad (localAddr l.addr) n = false) (who : Sender) :
    s.locRead who l n = (s, some (s.mem.read (localAddr l.addr) n)) := by
  unfold State.locRead; rcases h with h | h <;> simp [h, hf, hl, hb]

/-- A queued store of this device's memory performed. -/
theorem State.performOne_local {s : State} {t : ThreadId} {q : QueuedStore} (h : q.space = .dense ∨ q.space = .fibre)
    (ht : q.tag = false) (hl : s.isLocal q.addr = true) : s.performOne t q = s.memWrite (localAddr q.addr) q.bytes := by
  unfold State.performOne
  rcases h with h | h <;> simp [h, ht] <;> exact State.locWrite_local (by simp) hl _ _

/-- An access to memory through a cached translation that is whole, where the checks of R60 pass. -/
theorem State.access_cached {s : State} {k : CoreId} {cap : Cap} {off : Word} {n : Nat} {w : Bool} {e : TlbEntry}
    (hc : accessTrap cap (s.core k).thread.priv (s.core k).thread.tenant off n w = none) (hs : cap.space = .dense)
    (hv : (cap.base + off.toNat) / 2 ^ 48 = 0)
    (he : s.cached (.die (coreDie k)) (s.core k).thread.tenant (cap.base + off.toNat) = some e) (hf : e.fill = none)
    (hw : w = true → e.write = true ∧ e.dirty = true) :
    s.access (.core k) cap off n w =
      (s, .ok ⟨.dense, e.frame + (cap.base + off.toNat) % e.size, none⟩) := by
  unfold State.access
  simp only [State.thread_core, hc, hs, State.translate, hv, ThreadId.cache, he, hf, State.nonlocal]
  cases w
  · simp
  · simp [hw rfl]

end Sys2Proof.Machine
end

