-- ==== Sys2Proof/Laws/PerInstr.lean ====
section
/-!
SUPPORT. The family RoundTrip, one lemma per constructor: the word of a well-formed instruction
decodes to that instruction, with every operand at every value (R19, R27, R42 to R45).
-/

namespace Sys2Proof.Laws.RoundTrip
set_option Elab.async false
open Sys2Proof

/-- The word that a well-formed instruction encodes to decodes to it. -/
def Statement (i : Instr) : Prop :=
  i.wellFormed = true → ∀ w, encode i = some w → decode w = .ok i

/-! The fields of each format, read back. -/

theorem fin_ext_mod {n : Nat} [NeZero n] (x : Nat) (d : Fin n) (h : x % n = d.val) :
    Fin.ofNat n x = d := Fin.ext (by simpa using h)

theorem bv_ext_mod {n : Nat} (x : Nat) (b : BitVec n) (h : x % 2 ^ n = b.toNat) :
    BitVec.ofNat n x = b := BitVec.eq_of_toNat_eq (by simpa using h)

theorem pm_code (p : Pm) : Pm.ofCode p.code = p := by cases p <;> rfl
theorem pm_lt (p : Pm) : p.code < 4 := by cases p <;> decide
theorem pos_code (q : Pos) : Pos.ofCode q.code = q := by cases q <;> rfl
theorem pos_lt (p : Pos) : p.code < 4 := by cases p <;> decide

theorem target_lt (t : Target) : t.code < 512 := by
  have := pos_lt t.pos; have := t.idx.isLt; simp only [Target.code]; omega

theorem target_code (t : Target) : Target.ofCode t.code = t := by
  obtain ⟨p, i⟩ := t
  have := pos_lt p; have hi := i.isLt
  simp only [Target.code, Target.ofCode]
  rw [show (p.code * 128 + i.val) / 128 % 4 = p.code by omega, pos_code,
    fin_ext_mod _ i (by omega)]

variable (d a b : Fin 64) (c : Fin 16)

theorem xr_op {op f : Nat} (h : op < 256) (hf : f < 64) : vOp (wXR op d a b f) = op := by
  simp only [vOp, wXR]; omega
theorem xr_d {op f : Nat} (hf : f < 64) : vD (wXR op d a b f) = d.val := by
  simp only [vD, wXR]; omega
theorem xr_a {op f : Nat} (hf : f < 64) : vA (wXR op d a b f) = a.val := by
  simp only [vA, wXR]; omega
theorem xr_b {op f : Nat} (hf : f < 64) : vB (wXR op d a b f) = b.val := by
  simp only [vB, wXR]; omega
theorem xr_f {op f : Nat} (hf : f < 64) : vF (wXR op d a b f) = f := by
  simp only [vF, wXR]; omega

theorem xi_op {op i : Nat} (h : op < 256) (hi : i < 4096) : vOp (wXI op d a i) = op := by
  simp only [vOp, wXI]; omega
theorem xi_d {op i : Nat} (hi : i < 4096) : vD (wXI op d a i) = d.val := by
  simp only [vD, wXI]; omega
theorem xi_a {op i : Nat} (hi : i < 4096) : vA (wXI op d a i) = a.val := by
  simp only [vA, wXI]; omega
theorem xi_i {op i : Nat} (hi : i < 4096) : vImm12 (wXI op d a i) = i := by
  simp only [vImm12, wXI]; omega

theorem xu_op {op i : Nat} (h : op < 256) (hi : i < 262144) : vOp (wXU op d i) = op := by
  simp only [vOp, wXU]; omega
theorem xu_d {op i : Nat} (hi : i < 262144) : vD (wXU op d i) = d.val := by
  simp only [vD, wXU]; omega
theorem xu_i {op i : Nat} (hi : i < 262144) : vLow18 (wXU op d i) = i := by
  simp only [vLow18, wXU]; omega

theorem xm_op {op i : Nat} (h : op < 256) (hi : i < 256) : vOp (wXM op d c a i) = op := by
  simp only [vOp, wXM]; omega
theorem xm_d {op i : Nat} (hi : i < 256) : vD (wXM op d c a i) = d.val := by
  simp only [vD, wXM]; omega
theorem xm_c {op i : Nat} (hi : i < 256) : fC (wXM op d c a i) = c :=
  fin_ext_mod _ _ (by simp only [wXM]; omega)
theorem xm_a {op i : Nat} (hi : i < 256) : fMA (wXM op d c a i) = a :=
  fin_ext_mod _ _ (by simp only [vMA, wXM]; omega)
theorem xm_i {op : Nat} (i : BitVec 8) : fImm8 (wXM op d c a i.toNat) = i :=
  bv_ext_mod _ _ (by have := i.isLt; simp only [wXM]; omega)

theorem xf_op {op a' n : Nat} (h : op < 256) (_ha : a' < 64) (hn : n < 4) :
    vOp (wXF op d c a' b n) = op := by
  simp only [vOp, wXF]; omega
theorem xf_d {op a' n : Nat} (ha : a' < 64) (hn : n < 4) : vD (wXF op d c a' b n) = d.val := by
  simp only [vD, wXF]; omega
theorem xf_c {op a' n : Nat} (ha : a' < 64) (hn : n < 4) : fC (wXF op d c a' b n) = c :=
  fin_ext_mod _ _ (by simp only [wXF]; omega)
theorem xf_va {op a' n : Nat} (ha : a' < 64) (hn : n < 4) : vMA (wXF op d c a' b n) = a' := by
  simp only [vMA, wXF]; omega
theorem xf_b {op a' n : Nat} (ha : a' < 64) (hn : n < 4) : fMB (wXF op d c a' b n) = b :=
  fin_ext_mod _ _ (by simp only [wXF]; omega)
theorem xf_n {op a' n : Nat} (hn : n < 4) : wXF op d c a' b n % 4 = n := by
  simp only [wXF]; omega
theorem xf_256 {op a' : Nat} : wXF op d c a' 0 0 % 256 = 0 := by
  simp only [wXF]; omega

theorem xn_op {op n f : Nat} (h : op < 256) (hn : n < 4096) (hf : f < 64) :
    vOp (wXN op d n f) = op := by
  simp only [vOp, wXN]; omega
theorem xn_d {op n f : Nat} (hn : n < 4096) (hf : f < 64) : vD (wXN op d n f) = d.val := by
  simp only [vD, wXN]; omega
theorem xn_f {op n f : Nat} (hf : f < 64) : vF (wXN op d n f) = f := by
  simp only [vF, wXN]; omega
theorem xn_n {op f : Nat} (n : BitVec 12) (hf : f < 64) :
    BitVec.ofNat 12 (wXN op d n.toNat f / 64) = n :=
  bv_ext_mod _ _ (by have := n.isLt; simp only [wXN]; omega)

theorem c3_op {op : Nat} (h : op < 256) (f : C3) : vOp (wC3 op f) = op := by
  have := pm_lt f.pm; have := target_lt f.t0; have := target_lt f.t1
  simp only [vOp, wC3]; omega
theorem c3_f {op : Nat} (f : C3) : fC3 (wC3 op f) = f := by
  obtain ⟨p, t, u, m⟩ := f
  have := pm_lt p; have := target_lt t; have := target_lt u
  simp only [fC3, wC3]
  rw [show (op * 16777216 + p.code * 4194304 + t.code * 8192 + u.code * 16 + m.val) / 4194304 % 4
      = p.code by omega,
    show (op * 16777216 + p.code * 4194304 + t.code * 8192 + u.code * 16 + m.val) / 8192 % 512
      = t.code by omega,
    show (op * 16777216 + p.code * 4194304 + t.code * 8192 + u.code * 16 + m.val) / 16 % 512
      = u.code by omega, pm_code, target_code, target_code, fin_ext_mod _ m (by omega)]
theorem ci_op {op : Nat} (h : op < 256) (f : CI) : vOp (wCI op f) = op := by
  have := pm_lt f.pm; have := target_lt f.t0; have := f.imm.isLt
  simp only [vOp, wCI]; omega
theorem ci_f {op : Nat} (f : CI) : fCI (wCI op f) = f := by
  obtain ⟨p, t, i⟩ := f
  have := pm_lt p; have := target_lt t; have := i.isLt
  simp only [fCI, wCI]
  rw [show (op * 16777216 + p.code * 4194304 + t.code * 8192 + i.toNat) / 4194304 % 4
      = p.code by omega,
    show (op * 16777216 + p.code * 4194304 + t.code * 8192 + i.toNat) / 8192 % 512
      = t.code by omega, pm_code, target_code, bv_ext_mod _ i (by omega)]
theorem cb_op {op : Nat} (h : op < 256) (f : CB) : vOp (wCB op f) = op := by
  have := pm_lt f.pm
  simp only [vOp, wCB]; omega
theorem cb_f {op : Nat} (f : CB) (k : CB → Instr) (h : f.pm ≠ .third) :
    decodeCB (wCB op f) k = .ok (k f) := by
  obtain ⟨p, u⟩ := f
  have := pm_lt p
  simp only [decodeCB, wCB]
  rw [show (op * 16777216 + p.code * 4194304 + u.val * 65536) / 4194304 % 4 = p.code by omega,
    pm_code, fin_ext_mod _ u (by omega)]
  simp only [need]
  rw [if_pos (by simpa using h), if_pos]
  apply decide_eq_true; constructor <;> omega

theorem fD_of {w : Nat} {d : Fin 64} (h : vD w = d.val) : fD w = d :=
  fin_ext_mod _ _ (by rw [h]; omega)
theorem fA_of {w : Nat} {d : Fin 64} (h : vA w = d.val) : fA w = d :=
  fin_ext_mod _ _ (by rw [h]; omega)
theorem fB_of {w : Nat} {d : Fin 64} (h : vB w = d.val) : fB w = d :=
  fin_ext_mod _ _ (by rw [h]; omega)

/-- A word whose map entry is `i` decodes to `i`, where nothing rejects it. -/
theorem control_of {w : Nat} {i : Instr} (hop : ¬ vOp w < 0x80) (h : decodeControlMap w = .ok i)
    (hr : i.wellFormed = true) : decode w = .ok i := by
  simp only [decode, if_neg hop, decodeControl, h, checked]
  simp only [Instr.wellFormed, Option.isNone_iff_eq_none] at hr
  rw [hr]

theorem cell_of {w : Nat} {i : Instr} (hop : vOp w < 0x80) (h : decodeCellMap w = .ok i)
    (hr : i.wellFormed = true) : decode w = .ok i := by
  simp only [decode, if_pos hop, decodeCell, h, checked]
  simp only [Instr.wellFormed, Option.isNone_iff_eq_none] at hr
  rw [hr]

theorem c3_of {op : Nat} {f : C3} {k : C3 → Instr} (hop : op < 128)
    (hm : ∀ w, vOp w = op → decodeCellMap w = .ok (k (fC3 w))) (he : encode (k f) = some (wC3 op f)) :
    Statement (k f) := by
  intro hr w hw
  obtain rfl : wC3 op f = w := by simpa [he] using hw
  have hv := c3_op (by omega : op < 256) f
  exact cell_of (by omega) (by rw [hm _ hv, c3_f]) hr

theorem ci_of {op : Nat} {f : CI} {k : CI → Instr} (hop : op < 128)
    (hm : ∀ w, vOp w = op → decodeCellMap w = .ok (k (fCI w))) (he : encode (k f) = some (wCI op f)) :
    Statement (k f) := by
  intro hr w hw
  obtain rfl : wCI op f = w := by simpa [he] using hw
  have hv := ci_op (by omega : op < 256) f
  exact cell_of (by omega) (by rw [hm _ hv, ci_f]) hr

theorem event_of {i : Instr} (he : encode i = .none) : Statement i := by
  intro _ w hw; simp [he] at hw


theorem need_pos {p : Bool} {r : Reject} {i : Except Reject Instr} (h : p = true) :
    need p r i = i := by simp [need, h]

theorem xr_of {op f x y z : Nat} {i : Instr} (hop : 128 ≤ op ∧ op < 256) (hf : f < 64)
    (hx : x < 64) (hy : y < 64) (hz : z < 64) (he : encode i = some (wXR op x y z f))
    (hm : ∀ w, vOp w = op → vF w = f → vD w = x → vA w = y → vB w = z →
      decodeControlMap w = .ok i) : Statement i := by
  intro hr w hw
  obtain rfl : wXR op x y z f = w := by simpa [he] using hw
  have h1 := xr_op ⟨x, hx⟩ ⟨y, hy⟩ ⟨z, hz⟩ hop.2 hf
  exact control_of (by simp only [] at h1; omega) (hm _ h1 (xr_f ⟨x, hx⟩ ⟨y, hy⟩ ⟨z, hz⟩ hf)
    (xr_d ⟨x, hx⟩ ⟨y, hy⟩ ⟨z, hz⟩ hf) (xr_a ⟨x, hx⟩ ⟨y, hy⟩ ⟨z, hz⟩ hf)
    (xr_b ⟨x, hx⟩ ⟨y, hy⟩ ⟨z, hz⟩ hf)) hr

theorem xi_of {op n : Nat} {d a : XReg} {i : Instr} (hop : 128 ≤ op ∧ op < 256) (hn : n < 4096)
    (he : encode i = some (wXI op d a n))
    (hm : ∀ w, vOp w = op → fD w = d → fA w = a → vImm12 w = n → decodeControlMap w = .ok i) :
    Statement i := by
  intro hr w hw
  obtain rfl : wXI op d a n = w := by simpa [he] using hw
  have h1 := xi_op d a hop.2 hn
  exact control_of (by omega) (hm _ h1 (fD_of (xi_d d a hn)) (fA_of (xi_a d a hn)) (xi_i d a hn)) hr

theorem xu_of {op n : Nat} {d : XReg} {i : Instr} (hop : 128 ≤ op ∧ op < 256) (hn : n < 262144)
    (he : encode i = some (wXU op d n))
    (hm : ∀ w, vOp w = op → fD w = d → vLow18 w = n → decodeControlMap w = .ok i) :
    Statement i := by
  intro hr w hw
  obtain rfl : wXU op d n = w := by simpa [he] using hw
  have h1 := xu_op d hop.2 hn
  exact control_of (by omega) (hm _ h1 (fD_of (xu_d d hn)) (xu_i d hn)) hr

theorem xm_of {op x : Nat} {c : CReg} {a : XReg} {imm : BitVec 8} {i : Instr}
    (hop : 128 ≤ op ∧ op < 256) (hx : x < 64) (he : encode i = some (wXM op x c a imm.toNat))
    (hm : ∀ w, vOp w = op → vD w = x → fC w = c → fMA w = a → fImm8 w = imm →
      decodeControlMap w = .ok i) : Statement i := by
  intro hr w hw
  obtain rfl : wXM op x c a imm.toNat = w := by simpa [he] using hw
  have h1 := xm_op ⟨x, hx⟩ a c hop.2 imm.isLt
  exact control_of (by simp only [] at h1; omega) (hm _ h1 (xm_d ⟨x, hx⟩ a c imm.isLt)
    (xm_c ⟨x, hx⟩ a c imm.isLt) (xm_a ⟨x, hx⟩ a c imm.isLt) (xm_i ⟨x, hx⟩ a c imm)) hr

theorem xf_of {op x n : Nat} {d b : XReg} {c : CReg} {i : Instr}
    (hop : 128 ≤ op ∧ op < 256) (hx : x < 64) (hn : n < 4)
    (he : encode i = some (wXF op d c x b n))
    (hm : ∀ w, vOp w = op → fD w = d → fC w = c → vMA w = x → fMB w = b → w % 4 = n →
      w = wXF op d c x b n → decodeControlMap w = .ok i) : Statement i := by
  intro hr w hw
  obtain rfl : wXF op d c x b n = w := by simpa [he] using hw
  have h1 := xf_op d b c hop.2 hx hn
  exact control_of (by omega) (hm _ h1 (fD_of (xf_d d b c hx hn)) (xf_c d b c hx hn)
    (xf_va d b c hx hn) (xf_b d b c hx hn) (xf_n d b c hn) rfl) hr

theorem xn_of {op f x : Nat} {n : BitVec 12} {i : Instr}
    (hop : 128 ≤ op ∧ op < 256) (hf : f < 64) (hx : x < 64)
    (he : encode i = some (wXN op x n.toNat f))
    (hm : ∀ w, vOp w = op → vF w = f → vD w = x → BitVec.ofNat 12 (w / 64) = n →
      decodeControlMap w = .ok i) : Statement i := by
  intro hr w hw
  obtain rfl : wXN op x n.toNat f = w := by simpa [he] using hw
  have h1 := xn_op ⟨x, hx⟩ hop.2 n.isLt hf
  exact control_of (by simp only [] at h1; omega) (hm _ h1 (xn_f ⟨x, hx⟩ hf)
    (xn_d ⟨x, hx⟩ n.isLt hf) (xn_n ⟨x, hx⟩ n hf)) hr

theorem c_of {x : Nat} {c : Fin 16} (h : x = c.val) : Fin.ofNat 16 x = c :=
  fin_ext_mod _ _ (by omega)
theorem x_of {x : Nat} {c : Fin 64} (h : x = c.val) : Fin.ofNat 64 x = c :=
  fin_ext_mod _ _ (by omega)

theorem fMA_of {w : Nat} {a : Fin 64} (h : vMA w = a.val) : fMA w = a :=
  fin_ext_mod _ _ (by rw [h]; omega)
theorem n_of {w : Nat} {n : Fin 4} (h : w % 4 = n.val) : Fin.ofNat 4 w = n :=
  fin_ext_mod _ _ h
theorem imm12_of {w : Nat} {i : BitVec 12} (h : vImm12 w = i.toNat) : fImm12 w = i :=
  bv_ext_mod _ _ (by have := i.isLt; omega)

theorem add (d a b : XReg) : Statement (.add d a b) :=
  xr_of (op := 0x80) (f := 0) (x := d) (y := a) (z := b) (by decide) (by decide)
    d.isLt a.isLt b.isLt rfl fun w h1 h2 hd ha hb => by
    obtain ⟨rfl, rfl, rfl⟩ : fD w = d ∧ fA w = a ∧ fB w = b := ⟨fD_of hd, fA_of ha, fB_of hb⟩
    unfold decodeControlMap; rw [h1]
    show decodeXalu w = _
    unfold decodeXalu; rw [h2]
    rfl

theorem sub (d a b : XReg) : Statement (.sub d a b) :=
  xr_of (op := 0x80) (f := 1) (x := d) (y := a) (z := b) (by decide) (by decide)
    d.isLt a.isLt b.isLt rfl fun w h1 h2 hd ha hb => by
    obtain ⟨rfl, rfl, rfl⟩ : fD w = d ∧ fA w = a ∧ fB w = b := ⟨fD_of hd, fA_of ha, fB_of hb⟩
    unfold decodeControlMap; rw [h1]
    show decodeXalu w = _
    unfold decodeXalu; rw [h2]
    rfl

theorem mul (d a b : XReg) : Statement (.mul d a b) :=
  xr_of (op := 0x80) (f := 2) (x := d) (y := a) (z := b) (by decide) (by decide)
    d.isLt a.isLt b.isLt rfl fun w h1 h2 hd ha hb => by
    obtain ⟨rfl, rfl, rfl⟩ : fD w = d ∧ fA w = a ∧ fB w = b := ⟨fD_of hd, fA_of ha, fB_of hb⟩
    unfold decodeControlMap; rw [h1]
    show decodeXalu w = _
    unfold decodeXalu; rw [h2]
    rfl

theorem mulh (d a b : XReg) : Statement (.mulh d a b) :=
  xr_of (op := 0x80) (f := 3) (x := d) (y := a) (z := b) (by decide) (by decide)
    d.isLt a.isLt b.isLt rfl fun w h1 h2 hd ha hb => by
    obtain ⟨rfl, rfl, rfl⟩ : fD w = d ∧ fA w = a ∧ fB w = b := ⟨fD_of hd, fA_of ha, fB_of hb⟩
    unfold decodeControlMap; rw [h1]
    show decodeXalu w = _
    unfold decodeXalu; rw [h2]
    rfl

theorem mulhu (d a b : XReg) : Statement (.mulhu d a b) :=
  xr_of (op := 0x80) (f := 4) (x := d) (y := a) (z := b) (by decide) (by decide)
    d.isLt a.isLt b.isLt rfl fun w h1 h2 hd ha hb => by
    obtain ⟨rfl, rfl, rfl⟩ : fD w = d ∧ fA w = a ∧ fB w = b := ⟨fD_of hd, fA_of ha, fB_of hb⟩
    unfold decodeControlMap; rw [h1]
    show decodeXalu w = _
    unfold decodeXalu; rw [h2]
    rfl

theorem div (d a b : XReg) : Statement (.div d a b) :=
  xr_of (op := 0x80) (f := 5) (x := d) (y := a) (z := b) (by decide) (by decide)
    d.isLt a.isLt b.isLt rfl fun w h1 h2 hd ha hb => by
    obtain ⟨rfl, rfl, rfl⟩ : fD w = d ∧ fA w = a ∧ fB w = b := ⟨fD_of hd, fA_of ha, fB_of hb⟩
    unfold decodeControlMap; rw [h1]
    show decodeXalu w = _
    unfold decodeXalu; rw [h2]
    rfl

theorem divu (d a b : XReg) : Statement (.divu d a b) :=
  xr_of (op := 0x80) (f := 6) (x := d) (y := a) (z := b) (by decide) (by decide)
    d.isLt a.isLt b.isLt rfl fun w h1 h2 hd ha hb => by
    obtain ⟨rfl, rfl, rfl⟩ : fD w = d ∧ fA w = a ∧ fB w = b := ⟨fD_of hd, fA_of ha, fB_of hb⟩
    unfold decodeControlMap; rw [h1]
    show decodeXalu w = _
    unfold decodeXalu; rw [h2]
    rfl

theorem rem (d a b : XReg) : Statement (.rem d a b) :=
  xr_of (op := 0x80) (f := 7) (x := d) (y := a) (z := b) (by decide) (by decide)
    d.isLt a.isLt b.isLt rfl fun w h1 h2 hd ha hb => by
    obtain ⟨rfl, rfl, rfl⟩ : fD w = d ∧ fA w = a ∧ fB w = b := ⟨fD_of hd, fA_of ha, fB_of hb⟩
    unfold decodeControlMap; rw [h1]
    show decodeXalu w = _
    unfold decodeXalu; rw [h2]
    rfl

theorem remu (d a b : XReg) : Statement (.remu d a b) :=
  xr_of (op := 0x80) (f := 8) (x := d) (y := a) (z := b) (by decide) (by decide)
    d.isLt a.isLt b.isLt rfl fun w h1 h2 hd ha hb => by
    obtain ⟨rfl, rfl, rfl⟩ : fD w = d ∧ fA w = a ∧ fB w = b := ⟨fD_of hd, fA_of ha, fB_of hb⟩
    unfold decodeControlMap; rw [h1]
    show decodeXalu w = _
    unfold decodeXalu; rw [h2]
    rfl

theorem and (d a b : XReg) : Statement (.and d a b) :=
  xr_of (op := 0x80) (f := 9) (x := d) (y := a) (z := b) (by decide) (by decide)
    d.isLt a.isLt b.isLt rfl fun w h1 h2 hd ha hb => by
    obtain ⟨rfl, rfl, rfl⟩ : fD w = d ∧ fA w = a ∧ fB w = b := ⟨fD_of hd, fA_of ha, fB_of hb⟩
    unfold decodeControlMap; rw [h1]
    show decodeXalu w = _
    unfold decodeXalu; rw [h2]
    rfl

theorem or (d a b : XReg) : Statement (.or d a b) :=
  xr_of (op := 0x80) (f := 10) (x := d) (y := a) (z := b) (by decide) (by decide)
    d.isLt a.isLt b.isLt rfl fun w h1 h2 hd ha hb => by
    obtain ⟨rfl, rfl, rfl⟩ : fD w = d ∧ fA w = a ∧ fB w = b := ⟨fD_of hd, fA_of ha, fB_of hb⟩
    unfold decodeControlMap; rw [h1]
    show decodeXalu w = _
    unfold decodeXalu; rw [h2]
    rfl

theorem xor (d a b : XReg) : Statement (.xor d a b) :=
  xr_of (op := 0x80) (f := 11) (x := d) (y := a) (z := b) (by decide) (by decide)
    d.isLt a.isLt b.isLt rfl fun w h1 h2 hd ha hb => by
    obtain ⟨rfl, rfl, rfl⟩ : fD w = d ∧ fA w = a ∧ fB w = b := ⟨fD_of hd, fA_of ha, fB_of hb⟩
    unfold decodeControlMap; rw [h1]
    show decodeXalu w = _
    unfold decodeXalu; rw [h2]
    rfl

theorem shl (d a b : XReg) : Statement (.shl d a b) :=
  xr_of (op := 0x80) (f := 12) (x := d) (y := a) (z := b) (by decide) (by decide)
    d.isLt a.isLt b.isLt rfl fun w h1 h2 hd ha hb => by
    obtain ⟨rfl, rfl, rfl⟩ : fD w = d ∧ fA w = a ∧ fB w = b := ⟨fD_of hd, fA_of ha, fB_of hb⟩
    unfold decodeControlMap; rw [h1]
    show decodeXalu w = _
    unfold decodeXalu; rw [h2]
    rfl

theorem shr (d a b : XReg) : Statement (.shr d a b) :=
  xr_of (op := 0x80) (f := 13) (x := d) (y := a) (z := b) (by decide) (by decide)
    d.isLt a.isLt b.isLt rfl fun w h1 h2 hd ha hb => by
    obtain ⟨rfl, rfl, rfl⟩ : fD w = d ∧ fA w = a ∧ fB w = b := ⟨fD_of hd, fA_of ha, fB_of hb⟩
    unfold decodeControlMap; rw [h1]
    show decodeXalu w = _
    unfold decodeXalu; rw [h2]
    rfl

theorem sar (d a b : XReg) : Statement (.sar d a b) :=
  xr_of (op := 0x80) (f := 14) (x := d) (y := a) (z := b) (by decide) (by decide)
    d.isLt a.isLt b.isLt rfl fun w h1 h2 hd ha hb => by
    obtain ⟨rfl, rfl, rfl⟩ : fD w = d ∧ fA w = a ∧ fB w = b := ⟨fD_of hd, fA_of ha, fB_of hb⟩
    unfold decodeControlMap; rw [h1]
    show decodeXalu w = _
    unfold decodeXalu; rw [h2]
    rfl

theorem slt (d a b : XReg) : Statement (.slt d a b) :=
  xr_of (op := 0x80) (f := 15) (x := d) (y := a) (z := b) (by decide) (by decide)
    d.isLt a.isLt b.isLt rfl fun w h1 h2 hd ha hb => by
    obtain ⟨rfl, rfl, rfl⟩ : fD w = d ∧ fA w = a ∧ fB w = b := ⟨fD_of hd, fA_of ha, fB_of hb⟩
    unfold decodeControlMap; rw [h1]
    show decodeXalu w = _
    unfold decodeXalu; rw [h2]
    rfl

theorem sltu (d a b : XReg) : Statement (.sltu d a b) :=
  xr_of (op := 0x80) (f := 16) (x := d) (y := a) (z := b) (by decide) (by decide)
    d.isLt a.isLt b.isLt rfl fun w h1 h2 hd ha hb => by
    obtain ⟨rfl, rfl, rfl⟩ : fD w = d ∧ fA w = a ∧ fB w = b := ⟨fD_of hd, fA_of ha, fB_of hb⟩
    unfold decodeControlMap; rw [h1]
    show decodeXalu w = _
    unfold decodeXalu; rw [h2]
    rfl

theorem min (d a b : XReg) : Statement (.min d a b) :=
  xr_of (op := 0x80) (f := 17) (x := d) (y := a) (z := b) (by decide) (by decide)
    d.isLt a.isLt b.isLt rfl fun w h1 h2 hd ha hb => by
    obtain ⟨rfl, rfl, rfl⟩ : fD w = d ∧ fA w = a ∧ fB w = b := ⟨fD_of hd, fA_of ha, fB_of hb⟩
    unfold decodeControlMap; rw [h1]
    show decodeXalu w = _
    unfold decodeXalu; rw [h2]
    rfl

theorem max (d a b : XReg) : Statement (.max d a b) :=
  xr_of (op := 0x80) (f := 18) (x := d) (y := a) (z := b) (by decide) (by decide)
    d.isLt a.isLt b.isLt rfl fun w h1 h2 hd ha hb => by
    obtain ⟨rfl, rfl, rfl⟩ : fD w = d ∧ fA w = a ∧ fB w = b := ⟨fD_of hd, fA_of ha, fB_of hb⟩
    unfold decodeControlMap; rw [h1]
    show decodeXalu w = _
    unfold decodeXalu; rw [h2]
    rfl

theorem minu (d a b : XReg) : Statement (.minu d a b) :=
  xr_of (op := 0x80) (f := 19) (x := d) (y := a) (z := b) (by decide) (by decide)
    d.isLt a.isLt b.isLt rfl fun w h1 h2 hd ha hb => by
    obtain ⟨rfl, rfl, rfl⟩ : fD w = d ∧ fA w = a ∧ fB w = b := ⟨fD_of hd, fA_of ha, fB_of hb⟩
    unfold decodeControlMap; rw [h1]
    show decodeXalu w = _
    unfold decodeXalu; rw [h2]
    rfl

theorem maxu (d a b : XReg) : Statement (.maxu d a b) :=
  xr_of (op := 0x80) (f := 20) (x := d) (y := a) (z := b) (by decide) (by decide)
    d.isLt a.isLt b.isLt rfl fun w h1 h2 hd ha hb => by
    obtain ⟨rfl, rfl, rfl⟩ : fD w = d ∧ fA w = a ∧ fB w = b := ⟨fD_of hd, fA_of ha, fB_of hb⟩
    unfold decodeControlMap; rw [h1]
    show decodeXalu w = _
    unfold decodeXalu; rw [h2]
    rfl

theorem clz (d a : XReg) : Statement (.clz d a) :=
  xr_of (op := 0x80) (f := 21) (x := d) (y := a) (z := 0) (by decide) (by decide)
    d.isLt a.isLt (by decide) rfl fun w h1 h2 hd ha hb => by
    obtain ⟨rfl, rfl⟩ : fD w = d ∧ fA w = a := ⟨fD_of hd, fA_of ha⟩
    unfold decodeControlMap; rw [h1]
    show decodeXalu w = _
    unfold decodeXalu; rw [h2]
    show (need (vB w = 0) .unusedField (.ok (.clz (fD w) (fA w)))) = _
    simp [need, hb]

theorem popc (d a : XReg) : Statement (.popc d a) :=
  xr_of (op := 0x80) (f := 22) (x := d) (y := a) (z := 0) (by decide) (by decide)
    d.isLt a.isLt (by decide) rfl fun w h1 h2 hd ha hb => by
    obtain ⟨rfl, rfl⟩ : fD w = d ∧ fA w = a := ⟨fD_of hd, fA_of ha⟩
    unfold decodeControlMap; rw [h1]
    show decodeXalu w = _
    unfold decodeXalu; rw [h2]
    show (need (vB w = 0) .unusedField (.ok (.popc (fD w) (fA w)))) = _
    simp [need, hb]

theorem addi (d a : XReg) (imm : BitVec 12) : Statement (.addi d a imm) :=
  xi_of (op := 0x81) (d := d) (a := a) (n := imm.toNat) (by decide) imm.isLt rfl fun w h1 hd ha hi => by
    obtain rfl := imm12_of hi
    subst hd ha
    unfold decodeControlMap; rw [h1]; rfl

theorem andi (d a : XReg) (imm : BitVec 12) : Statement (.andi d a imm) :=
  xi_of (op := 0x82) (d := d) (a := a) (n := imm.toNat) (by decide) imm.isLt rfl fun w h1 hd ha hi => by
    obtain rfl := imm12_of hi
    subst hd ha
    unfold decodeControlMap; rw [h1]; rfl

theorem ori (d a : XReg) (imm : BitVec 12) : Statement (.ori d a imm) :=
  xi_of (op := 0x83) (d := d) (a := a) (n := imm.toNat) (by decide) imm.isLt rfl fun w h1 hd ha hi => by
    obtain rfl := imm12_of hi
    subst hd ha
    unfold decodeControlMap; rw [h1]; rfl

theorem xori (d a : XReg) (imm : BitVec 12) : Statement (.xori d a imm) :=
  xi_of (op := 0x84) (d := d) (a := a) (n := imm.toNat) (by decide) imm.isLt rfl fun w h1 hd ha hi => by
    obtain rfl := imm12_of hi
    subst hd ha
    unfold decodeControlMap; rw [h1]; rfl

theorem shli (d a : XReg) (imm : BitVec 6) : Statement (.shli d a imm) :=
  xi_of (op := 0x85) (d := d) (a := a) (n := imm.toNat) (by decide) (by omega) rfl fun w h1 hd ha hi => by
    have := imm.isLt
    simp only [decodeControlMap, h1, hd, ha, hi]
    simp [need, this]

theorem shri (d a : XReg) (imm : BitVec 6) : Statement (.shri d a imm) :=
  xi_of (op := 0x86) (d := d) (a := a) (n := imm.toNat) (by decide) (by omega) rfl fun w h1 hd ha hi => by
    have := imm.isLt
    simp only [decodeControlMap, h1, hd, ha, hi]
    simp [need, this]

theorem sari (d a : XReg) (imm : BitVec 6) : Statement (.sari d a imm) :=
  xi_of (op := 0x87) (d := d) (a := a) (n := imm.toNat) (by decide) (by omega) rfl fun w h1 hd ha hi => by
    have := imm.isLt
    simp only [decodeControlMap, h1, hd, ha, hi]
    simp [need, this]

theorem slti (d a : XReg) (imm : BitVec 12) : Statement (.slti d a imm) :=
  xi_of (op := 0x88) (d := d) (a := a) (n := imm.toNat) (by decide) imm.isLt rfl fun w h1 hd ha hi => by
    obtain rfl := imm12_of hi
    subst hd ha
    unfold decodeControlMap; rw [h1]; rfl

theorem sltiu (d a : XReg) (imm : BitVec 12) : Statement (.sltiu d a imm) :=
  xi_of (op := 0x89) (d := d) (a := a) (n := imm.toNat) (by decide) imm.isLt rfl fun w h1 hd ha hi => by
    obtain rfl := imm12_of hi
    subst hd ha
    unfold decodeControlMap; rw [h1]; rfl

theorem lui (d : XReg) (imm : BitVec 18) : Statement (.lui d imm) :=
  xu_of (op := 0x8A) (d := d) (n := imm.toNat) (by decide) imm.isLt rfl fun w h1 hd hi => by
    simp only [decodeControlMap, h1, hd, hi, BitVec.ofNat_toNat, BitVec.setWidth_eq]

theorem beq (a b : XReg) (off : BitVec 12) : Statement (.beq a b off) :=
  xi_of (op := 0x8B) (d := a) (a := b) (n := off.toNat) (by decide) off.isLt rfl fun w h1 hd ha hi => by
    obtain rfl := imm12_of hi
    subst hd ha
    unfold decodeControlMap; rw [h1]; rfl

theorem bne (a b : XReg) (off : BitVec 12) : Statement (.bne a b off) :=
  xi_of (op := 0x8C) (d := a) (a := b) (n := off.toNat) (by decide) off.isLt rfl fun w h1 hd ha hi => by
    obtain rfl := imm12_of hi
    subst hd ha
    unfold decodeControlMap; rw [h1]; rfl

theorem blt (a b : XReg) (off : BitVec 12) : Statement (.blt a b off) :=
  xi_of (op := 0x8D) (d := a) (a := b) (n := off.toNat) (by decide) off.isLt rfl fun w h1 hd ha hi => by
    obtain rfl := imm12_of hi
    subst hd ha
    unfold decodeControlMap; rw [h1]; rfl

theorem bge (a b : XReg) (off : BitVec 12) : Statement (.bge a b off) :=
  xi_of (op := 0x8E) (d := a) (a := b) (n := off.toNat) (by decide) off.isLt rfl fun w h1 hd ha hi => by
    obtain rfl := imm12_of hi
    subst hd ha
    unfold decodeControlMap; rw [h1]; rfl

theorem bltu (a b : XReg) (off : BitVec 12) : Statement (.bltu a b off) :=
  xi_of (op := 0x8F) (d := a) (a := b) (n := off.toNat) (by decide) off.isLt rfl fun w h1 hd ha hi => by
    obtain rfl := imm12_of hi
    subst hd ha
    unfold decodeControlMap; rw [h1]; rfl

theorem bgeu (a b : XReg) (off : BitVec 12) : Statement (.bgeu a b off) :=
  xi_of (op := 0x90) (d := a) (a := b) (n := off.toNat) (by decide) off.isLt rfl fun w h1 hd ha hi => by
    obtain rfl := imm12_of hi
    subst hd ha
    unfold decodeControlMap; rw [h1]; rfl

theorem jal (d : XReg) (off : BitVec 18) : Statement (.jal d off) :=
  xu_of (op := 0x91) (d := d) (n := off.toNat) (by decide) off.isLt rfl fun w h1 hd hi => by
    simp only [decodeControlMap, h1, hd, hi, BitVec.ofNat_toNat, BitVec.setWidth_eq]

theorem jalr (d a : XReg) (imm : BitVec 12) : Statement (.jalr d a imm) :=
  xi_of (op := 0x92) (d := d) (a := a) (n := imm.toNat) (by decide) imm.isLt rfl fun w h1 hd ha hi => by
    obtain rfl := imm12_of hi
    subst hd ha
    unfold decodeControlMap; rw [h1]; rfl

theorem ldb (d : XReg) (c : CReg) (a : XReg) (imm : BitVec 8) : Statement (.ldb d c a imm) :=
  xm_of (op := 0x93) (x := d) (by decide) d.isLt rfl fun w h1 hd hc ha hi => by
    obtain rfl := fD_of hd
    subst hc ha hi
    unfold decodeControlMap; rw [h1]; rfl

theorem ldh (d : XReg) (c : CReg) (a : XReg) (imm : BitVec 8) : Statement (.ldh d c a imm) :=
  xm_of (op := 0x94) (x := d) (by decide) d.isLt rfl fun w h1 hd hc ha hi => by
    obtain rfl := fD_of hd
    subst hc ha hi
    unfold decodeControlMap; rw [h1]; rfl

theorem ldw (d : XReg) (c : CReg) (a : XReg) (imm : BitVec 8) : Statement (.ldw d c a imm) :=
  xm_of (op := 0x95) (x := d) (by decide) d.isLt rfl fun w h1 hd hc ha hi => by
    obtain rfl := fD_of hd
    subst hc ha hi
    unfold decodeControlMap; rw [h1]; rfl

theorem ldd (d : XReg) (c : CReg) (a : XReg) (imm : BitVec 8) : Statement (.ldd d c a imm) :=
  xm_of (op := 0x96) (x := d) (by decide) d.isLt rfl fun w h1 hd hc ha hi => by
    obtain rfl := fD_of hd
    subst hc ha hi
    unfold decodeControlMap; rw [h1]; rfl

theorem ldbu (d : XReg) (c : CReg) (a : XReg) (imm : BitVec 8) : Statement (.ldbu d c a imm) :=
  xm_of (op := 0x97) (x := d) (by decide) d.isLt rfl fun w h1 hd hc ha hi => by
    obtain rfl := fD_of hd
    subst hc ha hi
    unfold decodeControlMap; rw [h1]; rfl

theorem ldhu (d : XReg) (c : CReg) (a : XReg) (imm : BitVec 8) : Statement (.ldhu d c a imm) :=
  xm_of (op := 0x98) (x := d) (by decide) d.isLt rfl fun w h1 hd hc ha hi => by
    obtain rfl := fD_of hd
    subst hc ha hi
    unfold decodeControlMap; rw [h1]; rfl

theorem ldwu (d : XReg) (c : CReg) (a : XReg) (imm : BitVec 8) : Statement (.ldwu d c a imm) :=
  xm_of (op := 0x99) (x := d) (by decide) d.isLt rfl fun w h1 hd hc ha hi => by
    obtain rfl := fD_of hd
    subst hc ha hi
    unfold decodeControlMap; rw [h1]; rfl

theorem stb (d : XReg) (c : CReg) (a : XReg) (imm : BitVec 8) : Statement (.stb d c a imm) :=
  xm_of (op := 0x9A) (x := d) (by decide) d.isLt rfl fun w h1 hd hc ha hi => by
    obtain rfl := fD_of hd
    subst hc ha hi
    unfold decodeControlMap; rw [h1]; rfl

theorem sth (d : XReg) (c : CReg) (a : XReg) (imm : BitVec 8) : Statement (.sth d c a imm) :=
  xm_of (op := 0x9B) (x := d) (by decide) d.isLt rfl fun w h1 hd hc ha hi => by
    obtain rfl := fD_of hd
    subst hc ha hi
    unfold decodeControlMap; rw [h1]; rfl

theorem stw (d : XReg) (c : CReg) (a : XReg) (imm : BitVec 8) : Statement (.stw d c a imm) :=
  xm_of (op := 0x9C) (x := d) (by decide) d.isLt rfl fun w h1 hd hc ha hi => by
    obtain rfl := fD_of hd
    subst hc ha hi
    unfold decodeControlMap; rw [h1]; rfl

theorem std (d : XReg) (c : CReg) (a : XReg) (imm : BitVec 8) : Statement (.std d c a imm) :=
  xm_of (op := 0x9D) (x := d) (by decide) d.isLt rfl fun w h1 hd hc ha hi => by
    obtain rfl := fD_of hd
    subst hc ha hi
    unfold decodeControlMap; rw [h1]; rfl

theorem lda (d : XReg) (c : CReg) (a : XReg) (imm : BitVec 8) : Statement (.lda d c a imm) :=
  xm_of (op := 0x9E) (x := d) (by decide) d.isLt rfl fun w h1 hd hc ha hi => by
    obtain rfl := fD_of hd
    subst hc ha hi
    unfold decodeControlMap; rw [h1]; rfl

theorem stl (d : XReg) (c : CReg) (a : XReg) (imm : BitVec 8) : Statement (.stl d c a imm) :=
  xm_of (op := 0x9F) (x := d) (by decide) d.isLt rfl fun w h1 hd hc ha hi => by
    obtain rfl := fD_of hd
    subst hc ha hi
    unfold decodeControlMap; rw [h1]; rfl

theorem amoadd (d : XReg) (c : CReg) (a b : XReg) (w ar : Bool) : Statement (.amoadd d c a b w ar) :=
  xf_of (op := 0xA0) (d := d) (c := c) (x := a) (b := b) (n := 2 * w.toNat + ar.toNat) (by decide) a.isLt
    (by cases w <;> cases ar <;> decide) rfl fun v h1 hd hc ha hb hn _ => by
    have h2 : (v / 2 % 2 == 1) = w ∧ (v % 2 == 1) = ar := by
      cases w <;> cases ar <;> simp at hn ⊢ <;> omega
    obtain ⟨rfl, rfl, rfl⟩ := And.intro (fMA_of ha) h2
    subst hd hc hb
    unfold decodeControlMap; rw [h1]; rfl

theorem amoswp (d : XReg) (c : CReg) (a b : XReg) (w ar : Bool) : Statement (.amoswp d c a b w ar) :=
  xf_of (op := 0xA1) (d := d) (c := c) (x := a) (b := b) (n := 2 * w.toNat + ar.toNat) (by decide) a.isLt
    (by cases w <;> cases ar <;> decide) rfl fun v h1 hd hc ha hb hn _ => by
    have h2 : (v / 2 % 2 == 1) = w ∧ (v % 2 == 1) = ar := by
      cases w <;> cases ar <;> simp at hn ⊢ <;> omega
    obtain ⟨rfl, rfl, rfl⟩ := And.intro (fMA_of ha) h2
    subst hd hc hb
    unfold decodeControlMap; rw [h1]; rfl

theorem amocas (d : XReg) (c : CReg) (a b : XReg) (w ar : Bool) : Statement (.amocas d c a b w ar) :=
  xf_of (op := 0xA2) (d := d) (c := c) (x := a) (b := b) (n := 2 * w.toNat + ar.toNat) (by decide) a.isLt
    (by cases w <;> cases ar <;> decide) rfl fun v h1 hd hc ha hb hn _ => by
    have h2 : (v / 2 % 2 == 1) = w ∧ (v % 2 == 1) = ar := by
      cases w <;> cases ar <;> simp at hn ⊢ <;> omega
    obtain ⟨rfl, rfl, rfl⟩ := And.intro (fMA_of ha) h2
    subst hd hc hb
    unfold decodeControlMap; rw [h1]; rfl

theorem amomin (d : XReg) (c : CReg) (a b : XReg) (w ar : Bool) : Statement (.amomin d c a b w ar) :=
  xf_of (op := 0xA3) (d := d) (c := c) (x := a) (b := b) (n := 2 * w.toNat + ar.toNat) (by decide) a.isLt
    (by cases w <;> cases ar <;> decide) rfl fun v h1 hd hc ha hb hn _ => by
    have h2 : (v / 2 % 2 == 1) = w ∧ (v % 2 == 1) = ar := by
      cases w <;> cases ar <;> simp at hn ⊢ <;> omega
    obtain ⟨rfl, rfl, rfl⟩ := And.intro (fMA_of ha) h2
    subst hd hc hb
    unfold decodeControlMap; rw [h1]; rfl

theorem amomax (d : XReg) (c : CReg) (a b : XReg) (w ar : Bool) : Statement (.amomax d c a b w ar) :=
  xf_of (op := 0xA4) (d := d) (c := c) (x := a) (b := b) (n := 2 * w.toNat + ar.toNat) (by decide) a.isLt
    (by cases w <;> cases ar <;> decide) rfl fun v h1 hd hc ha hb hn _ => by
    have h2 : (v / 2 % 2 == 1) = w ∧ (v % 2 == 1) = ar := by
      cases w <;> cases ar <;> simp at hn ⊢ <;> omega
    obtain ⟨rfl, rfl, rfl⟩ := And.intro (fMA_of ha) h2
    subst hd hc hb
    unfold decodeControlMap; rw [h1]; rfl

theorem amoand (d : XReg) (c : CReg) (a b : XReg) (w ar : Bool) : Statement (.amoand d c a b w ar) :=
  xf_of (op := 0xA5) (d := d) (c := c) (x := a) (b := b) (n := 2 * w.toNat + ar.toNat) (by decide) a.isLt
    (by cases w <;> cases ar <;> decide) rfl fun v h1 hd hc ha hb hn _ => by
    have h2 : (v / 2 % 2 == 1) = w ∧ (v % 2 == 1) = ar := by
      cases w <;> cases ar <;> simp at hn ⊢ <;> omega
    obtain ⟨rfl, rfl, rfl⟩ := And.intro (fMA_of ha) h2
    subst hd hc hb
    unfold decodeControlMap; rw [h1]; rfl

theorem amoor (d : XReg) (c : CReg) (a b : XReg) (w ar : Bool) : Statement (.amoor d c a b w ar) :=
  xf_of (op := 0xA6) (d := d) (c := c) (x := a) (b := b) (n := 2 * w.toNat + ar.toNat) (by decide) a.isLt
    (by cases w <;> cases ar <;> decide) rfl fun v h1 hd hc ha hb hn _ => by
    have h2 : (v / 2 % 2 == 1) = w ∧ (v % 2 == 1) = ar := by
      cases w <;> cases ar <;> simp at hn ⊢ <;> omega
    obtain ⟨rfl, rfl, rfl⟩ := And.intro (fMA_of ha) h2
    subst hd hc hb
    unfold decodeControlMap; rw [h1]; rfl

theorem amoxor (d : XReg) (c : CReg) (a b : XReg) (w ar : Bool) : Statement (.amoxor d c a b w ar) :=
  xf_of (op := 0xA7) (d := d) (c := c) (x := a) (b := b) (n := 2 * w.toNat + ar.toNat) (by decide) a.isLt
    (by cases w <;> cases ar <;> decide) rfl fun v h1 hd hc ha hb hn _ => by
    have h2 : (v / 2 % 2 == 1) = w ∧ (v % 2 == 1) = ar := by
      cases w <;> cases ar <;> simp at hn ⊢ <;> omega
    obtain ⟨rfl, rfl, rfl⟩ := And.intro (fMA_of ha) h2
    subst hd hc hb
    unfold decodeControlMap; rw [h1]; rfl

theorem cld (cd c : CReg) (a : XReg) (imm : BitVec 8) : Statement (.cld cd c a imm) :=
  xm_of (op := 0xA8) (x := cd) (by decide) (by omega) rfl fun w h1 hd hc ha hi => by
    have := cd.isLt
    simp only [decodeControlMap, h1, hc, ha, hi, c_of hd]
    simp [need, hd]

theorem cst (cd c : CReg) (a : XReg) (imm : BitVec 8) : Statement (.cst cd c a imm) :=
  xm_of (op := 0xA9) (x := cd) (by decide) (by omega) rfl fun w h1 hd hc ha hi => by
    have := cd.isLt
    simp only [decodeControlMap, h1, hc, ha, hi, c_of hd]
    simp [need, hd]

theorem csetb (cd ca : CReg) (b : XReg) : Statement (.csetb cd ca b) :=
  xr_of (op := 0xAA) (f := 0) (x := cd) (y := ca) (z := b) (by decide) (by decide)
    (by omega) (by omega) b.isLt rfl fun w h1 h2 hd ha hb => by
    have hdl : vD w < 16 := by omega
    have hal : vA w < 16 := by omega
    obtain ⟨rfl, rfl, rfl⟩ : Fin.ofNat 16 (vD w) = cd ∧ Fin.ofNat 16 (vA w) = ca ∧ fB w = b := ⟨c_of hd, c_of ha, fB_of hb⟩
    unfold decodeControlMap; rw [h1]
    show (need (vD w < 16 ∧ vA w < 16) .capabilityField <|     needF (vF w = 0) (.ok (.csetb (Fin.ofNat 16 (vD w)) (Fin.ofNat 16 (vA w)) (fB w)))) = _
    simp [need, needF, h2, hdl, hal]

theorem candp (cd ca : CReg) (b : XReg) : Statement (.candp cd ca b) :=
  xr_of (op := 0xAB) (f := 0) (x := cd) (y := ca) (z := b) (by decide) (by decide)
    (by omega) (by omega) b.isLt rfl fun w h1 h2 hd ha hb => by
    have hdl : vD w < 16 := by omega
    have hal : vA w < 16 := by omega
    obtain ⟨rfl, rfl, rfl⟩ : Fin.ofNat 16 (vD w) = cd ∧ Fin.ofNat 16 (vA w) = ca ∧ fB w = b := ⟨c_of hd, c_of ha, fB_of hb⟩
    unfold decodeControlMap; rw [h1]
    show (need (vD w < 16 ∧ vA w < 16) .capabilityField <|     needF (vF w = 0) (.ok (.candp (Fin.ofNat 16 (vD w)) (Fin.ofNat 16 (vA w)) (fB w)))) = _
    simp [need, needF, h2, hdl, hal]

theorem cget (d : XReg) (ca : CReg) (f : CapField) : Statement (.cget d ca f) := by
  cases f <;>
  exact xr_of (op := 0xAC) (by decide) (by decide) d.isLt (by omega) (by decide) rfl (fun w h1 h2 hd ha hb => by
    have := ca.isLt
    simp only [decodeControlMap, decodeCget, h1, h2, CapField.code, fD_of hd, c_of ha]
    simp [need, ha, hb])

theorem cmov (cd ca : CReg) : Statement (.cmov cd ca) :=
  xr_of (op := 0xAD) (f := 0) (x := cd) (y := ca) (z := 0) (by decide) (by decide)
    (by omega) (by omega) (by decide) rfl fun w h1 h2 hd ha hb => by
    have hdl : vD w < 16 := by omega
    have hal : vA w < 16 := by omega
    obtain ⟨rfl, rfl⟩ : Fin.ofNat 16 (vD w) = cd ∧ Fin.ofNat 16 (vA w) = ca := ⟨c_of hd, c_of ha⟩
    unfold decodeControlMap; rw [h1]
    show (need (vD w < 16 ∧ vA w < 16) .capabilityField <|     needF (vF w = 0) (need (vB w = 0) .unusedField (.ok (.cmov (Fin.ofNat 16 (vD w)) (Fin.ofNat 16 (vA w)))))) = _
    simp [need, needF, h2, hb, hdl, hal]

theorem fnew (d : XReg) (c : CReg) (a : XReg) : Statement (.fnew d c a) :=
  xf_of (op := 0xAE) (d := d) (c := c) (x := a) (b := 0) (n := 0) (by decide) a.isLt (by decide) rfl
    fun w h1 hd hc ha _ _ hw => by
    simp only [decodeControlMap, h1, hd, hc, fMA_of ha]
    exact need_pos (by simpa [hw] using xf_256 d c)

theorem ffree (d : XReg) (c : CReg) (a : XReg) : Statement (.ffree d c a) :=
  xf_of (op := 0xAF) (d := d) (c := c) (x := a) (b := 0) (n := 0) (by decide) a.isLt (by decide) rfl
    fun w h1 hd hc ha _ _ hw => by
    simp only [decodeControlMap, h1, hd, hc, fMA_of ha]
    exact need_pos (by simpa [hw] using xf_256 d c)

theorem fmrg (d : XReg) (c : CReg) (a b : XReg) (n : Fin 4) : Statement (.fmrg d c a b n) :=
  xf_of (op := 0xB0) (d := d) (c := c) (x := a) (b := b) (n := n) (by decide) a.isLt n.isLt rfl
    fun w h1 hd hc ha hb hn _ => by
    obtain ⟨rfl, rfl⟩ := And.intro (fMA_of ha) (n_of hn)
    subst hd hc hb
    unfold decodeControlMap; rw [h1]; rfl

theorem fscan (d : XReg) (c : CReg) (a b : XReg) (n : Fin 4) : Statement (.fscan d c a b n) :=
  xf_of (op := 0xB1) (d := d) (c := c) (x := a) (b := b) (n := n) (by decide) a.isLt n.isLt rfl
    fun w h1 hd hc ha hb hn _ => by
    obtain ⟨rfl, rfl⟩ := And.intro (fMA_of ha) (n_of hn)
    subst hd hc hb
    unfold decodeControlMap; rw [h1]; rfl

theorem fprobe (d : XReg) (c : CReg) (a b : XReg) (n : Fin 4) : Statement (.fprobe d c a b n) :=
  xf_of (op := 0xB2) (d := d) (c := c) (x := a) (b := b) (n := n) (by decide) a.isLt n.isLt rfl
    fun w h1 hd hc ha hb hn _ => by
    obtain ⟨rfl, rfl⟩ := And.intro (fMA_of ha) (n_of hn)
    subst hd hc hb
    unfold decodeControlMap; rw [h1]; rfl

theorem fdel (d : XReg) (c : CReg) (a b : XReg) (n : Fin 4) : Statement (.fdel d c a b n) :=
  xf_of (op := 0xB3) (d := d) (c := c) (x := a) (b := b) (n := n) (by decide) a.isLt n.isLt rfl
    fun w h1 hd hc ha hb hn _ => by
    obtain ⟨rfl, rfl⟩ := And.intro (fMA_of ha) (n_of hn)
    subst hd hc hb
    unfold decodeControlMap; rw [h1]; rfl

theorem finfo (d : XReg) (c : CReg) (a : XReg) : Statement (.finfo d c a) :=
  xf_of (op := 0xB4) (d := d) (c := c) (x := a) (b := 0) (n := 0) (by decide) a.isLt (by decide) rfl
    fun w h1 hd hc ha _ _ hw => by
    simp only [decodeControlMap, h1, hd, hc, fMA_of ha]
    exact need_pos (by simpa [hw] using xf_256 d c)

theorem launch (d : XReg) (ca : CReg) (b : XReg) : Statement (.launch d ca b) :=
  xr_of (op := 0xB5) (f := 0) (x := d) (y := ca) (z := b) (by decide) (by decide)
    d.isLt (by omega) b.isLt rfl fun w h1 h2 hd ha hb => by
    have hal : vA w < 16 := by omega
    obtain ⟨rfl, rfl, rfl⟩ : fD w = d ∧ Fin.ofNat 16 (vA w) = ca ∧ fB w = b := ⟨fD_of hd, c_of ha, fB_of hb⟩
    unfold decodeControlMap; rw [h1]
    show (needF (vF w = 0) <| need (vA w < 16) .capabilityField (.ok (.launch (fD w) (Fin.ofNat 16 (vA w)) (fB w)))) = _
    simp [need, needF, h2, hal]

theorem splice (d : XReg) (ca : CReg) (b : XReg) : Statement (.splice d ca b) :=
  xr_of (op := 0xB6) (f := 0) (x := d) (y := ca) (z := b) (by decide) (by decide)
    d.isLt (by omega) b.isLt rfl fun w h1 h2 hd ha hb => by
    have hal : vA w < 16 := by omega
    obtain ⟨rfl, rfl, rfl⟩ : fD w = d ∧ Fin.ofNat 16 (vA w) = ca ∧ fB w = b := ⟨fD_of hd, c_of ha, fB_of hb⟩
    unfold decodeControlMap; rw [h1]
    show (needF (vF w = 0) <| need (vA w < 16) .capabilityField (.ok (.splice (fD w) (Fin.ofNat 16 (vA w)) (fB w)))) = _
    simp [need, needF, h2, hal]

theorem preempt (d a : XReg) : Statement (.preempt d a) :=
  xr_of (op := 0xB7) (f := 0) (x := d) (y := a) (z := 0) (by decide) (by decide)
    d.isLt a.isLt (by decide) rfl fun w h1 h2 hd ha hb => by
    obtain ⟨rfl, rfl⟩ : fD w = d ∧ fA w = a := ⟨fD_of hd, fA_of ha⟩
    unfold decodeControlMap; rw [h1]
    show (needF (vF w = 0) <| need (vB w = 0) .unusedField (.ok (.preempt (fD w) (fA w)))) = _
    simp [need, needF, h2, hb]

theorem resume (d : XReg) (ca : CReg) (b : XReg) : Statement (.resume d ca b) :=
  xr_of (op := 0xB8) (f := 0) (x := d) (y := ca) (z := b) (by decide) (by decide)
    d.isLt (by omega) b.isLt rfl fun w h1 h2 hd ha hb => by
    have hal : vA w < 16 := by omega
    obtain ⟨rfl, rfl, rfl⟩ : fD w = d ∧ Fin.ofNat 16 (vA w) = ca ∧ fB w = b := ⟨fD_of hd, c_of ha, fB_of hb⟩
    unfold decodeControlMap; rw [h1]
    show (needF (vF w = 0) <| need (vA w < 16) .capabilityField (.ok (.resume (fD w) (Fin.ofNat 16 (vA w)) (fB w)))) = _
    simp [need, needF, h2, hal]

theorem cfgld (d : XReg) (ca : CReg) (b : XReg) : Statement (.cfgld d ca b) :=
  xr_of (op := 0xB9) (f := 0) (x := d) (y := ca) (z := b) (by decide) (by decide)
    d.isLt (by omega) b.isLt rfl fun w h1 h2 hd ha hb => by
    have hal : vA w < 16 := by omega
    obtain ⟨rfl, rfl, rfl⟩ : fD w = d ∧ Fin.ofNat 16 (vA w) = ca ∧ fB w = b := ⟨fD_of hd, c_of ha, fB_of hb⟩
    unfold decodeControlMap; rw [h1]
    show (needF (vF w = 0) <| need (vA w < 16) .capabilityField (.ok (.cfgld (fD w) (Fin.ofNat 16 (vA w)) (fB w)))) = _
    simp [need, needF, h2, hal]

theorem evpopPoll (d : XReg) : Statement (.evpopPoll d) :=
  xr_of (op := 0xBA) (f := 0) (x := d) (y := 0) (z := 0) (by decide) (by decide)
    d.isLt (by decide) (by decide) rfl fun w h1 h2 hd ha hb => by
    obtain rfl := fD_of hd
    unfold decodeControlMap; rw [h1]
    show decodeEvpop w = _
    unfold decodeEvpop; rw [h2]
    show (need (vA w = 0 ∧ vB w = 0) .unusedField (.ok (.evpopPoll (fD w)))) = _
    simp [need, ha, hb]

theorem evpopWait (d : XReg) : Statement (.evpopWait d) :=
  xr_of (op := 0xBA) (f := 1) (x := d) (y := 0) (z := 0) (by decide) (by decide)
    d.isLt (by decide) (by decide) rfl fun w h1 h2 hd ha hb => by
    obtain rfl := fD_of hd
    unfold decodeControlMap; rw [h1]
    show decodeEvpop w = _
    unfold decodeEvpop; rw [h2]
    show (need (vA w = 0 ∧ vB w = 0) .unusedField (.ok (.evpopWait (fD w)))) = _
    simp [need, ha, hb]

theorem rcall (d : XReg) (c : CReg) (rel : Bool) (e : Fin 32) (b : XReg) (n : Fin 4) : Statement (.rcall d c rel e b n) :=
  xf_of (op := 0xBB) (d := d) (c := c) (x := 32 * rel.toNat + e.val) (b := b) (n := n) (by decide)
    (by cases rel <;> simp <;> omega) n.isLt rfl fun v h1 hd hc ha hb hn _ => by
    have h2 : (v / 8192 % 2 == 1) = rel ∧ Fin.ofNat 32 (vMA v) = e := by
      have := e.isLt
      refine ⟨?_, fin_ext_mod _ _ (by rw [ha]; omega)⟩
      simp only [vMA] at ha
      cases rel <;> simp at ha ⊢ <;> omega
    obtain ⟨rfl, rfl, rfl⟩ := And.intro (n_of hn) h2
    subst hd hc hb
    unfold decodeControlMap; rw [h1]; rfl

theorem rwait (d a b : XReg) : Statement (.rwait d a b) :=
  xr_of (op := 0xBC) (f := 0) (x := d) (y := a) (z := b) (by decide) (by decide)
    d.isLt a.isLt b.isLt rfl fun w h1 h2 hd ha hb => by
    obtain ⟨rfl, rfl, rfl⟩ : fD w = d ∧ fA w = a ∧ fB w = b := ⟨fD_of hd, fA_of ha, fB_of hb⟩
    unfold decodeControlMap; rw [h1]
    show (needF (vF w = 0) <| .ok (.rwait (fD w) (fA w) (fB w))) = _
    simp [need, needF, h2]

theorem rret (d a b : XReg) : Statement (.rret d a b) :=
  xr_of (op := 0xBD) (f := 0) (x := d) (y := a) (z := b) (by decide) (by decide)
    d.isLt a.isLt b.isLt rfl fun w h1 h2 hd ha hb => by
    obtain ⟨rfl, rfl, rfl⟩ : fD w = d ∧ fA w = a ∧ fB w = b := ⟨fD_of hd, fA_of ha, fB_of hb⟩
    unfold decodeControlMap; rw [h1]
    show decodeRfwd w = _
    unfold decodeRfwd; rw [h2]
    rfl

theorem rfwd (ca : CReg) (b : XReg) : Statement (.rfwd ca b) :=
  xr_of (op := 0xBD) (f := 1) (x := 0) (y := ca) (z := b) (by decide) (by decide)
    (by decide) (by omega) b.isLt rfl fun w h1 h2 hd ha hb => by
    have hal : vA w < 16 := by omega
    obtain ⟨rfl, rfl⟩ : Fin.ofNat 16 (vA w) = ca ∧ fB w = b := ⟨c_of ha, fB_of hb⟩
    unfold decodeControlMap; rw [h1]
    show decodeRfwd w = _
    unfold decodeRfwd; rw [h2]
    show (need (vA w < 16) .capabilityField <|     need (vD w = 0) .unusedField (.ok (.rfwd (Fin.ofNat 16 (vA w)) (fB w)))) = _
    simp [need, hd, hal]

theorem fence (scope : Scope) : Statement (.fence scope) := by
  cases scope <;>
  exact xr_of (op := 0xBE) (x := 0) (y := 0) (z := 0) (by decide) (by decide) (by decide) (by decide) (by decide) rfl (fun w h1 h2 hd ha hb => by
    simp only [decodeControlMap, decodeFence, h1, h2, Scope.code]
    simp [need, hd, ha, hb])

theorem trap (code : BitVec 12) : Statement (.trap code) :=
  xn_of (op := 0xBF) (f := 0) (x := 0) (by decide) (by decide) (by decide) rfl fun w h1 h2 hd hi => by
    simp only [decodeControlMap, decodeSys, h1, h2, hi]
    simp [need, hd]

theorem eret : Statement .eret :=
  xr_of (op := 0xBF) (f := 1) (x := 0) (y := 0) (z := 0) (by decide) (by decide)
    (by decide) (by decide) (by decide) rfl fun w h1 h2 hd ha hb => by
    unfold decodeControlMap; rw [h1]
    show decodeSys w = _
    unfold decodeSys; rw [h2]
    show (need (vD w = 0 ∧ vA w = 0 ∧ vB w = 0) .unusedField (.ok .eret)) = _
    simp [need, hd, ha, hb]

theorem sysrd (d : XReg) (num : BitVec 12) : Statement (.sysrd d num) :=
  xn_of (op := 0xBF) (f := 2) (x := d) (by decide) (by decide) d.isLt rfl fun w h1 h2 hd hi => by
    simp only [decodeControlMap, decodeSys, h1, h2, fD_of hd, hi]

theorem syswr (d : XReg) (num : BitVec 12) : Statement (.syswr d num) :=
  xn_of (op := 0xBF) (f := 3) (x := d) (by decide) (by decide) d.isLt rfl fun w h1 h2 hd hi => by
    simp only [decodeControlMap, decodeSys, h1, h2, fD_of hd, hi]

theorem wfe : Statement .wfe :=
  xr_of (op := 0xBF) (f := 4) (x := 0) (y := 0) (z := 0) (by decide) (by decide)
    (by decide) (by decide) (by decide) rfl fun w h1 h2 hd ha hb => by
    unfold decodeControlMap; rw [h1]
    show decodeSys w = _
    unfold decodeSys; rw [h2]
    show (need (vD w = 0 ∧ vA w = 0 ∧ vB w = 0) .unusedField (.ok .wfe)) = _
    simp [need, hd, ha, hb]

theorem sev : Statement .sev :=
  xr_of (op := 0xBF) (f := 5) (x := 0) (y := 0) (z := 0) (by decide) (by decide)
    (by decide) (by decide) (by decide) rfl fun w h1 h2 hd ha hb => by
    unfold decodeControlMap; rw [h1]
    show decodeSys w = _
    unfold decodeSys; rw [h2]
    show (need (vD w = 0 ∧ vA w = 0 ∧ vB w = 0) .unusedField (.ok .sev)) = _
    simp [need, hd, ha, hb]

theorem halt : Statement .halt :=
  xr_of (op := 0xBF) (f := 6) (x := 0) (y := 0) (z := 0) (by decide) (by decide)
    (by decide) (by decide) (by decide) rfl fun w h1 h2 hd ha hb => by
    unfold decodeControlMap; rw [h1]
    show decodeSys w = _
    unfold decodeSys; rw [h2]
    show (need (vD w = 0 ∧ vA w = 0 ∧ vB w = 0) .unusedField (.ok .halt)) = _
    simp [need, hd, ha, hb]

theorem tlbi (a b : XReg) : Statement (.tlbi a b) :=
  xr_of (op := 0xBF) (f := 7) (x := 0) (y := a) (z := b) (by decide) (by decide)
    (by decide) a.isLt b.isLt rfl fun w h1 h2 hd ha hb => by
    obtain ⟨rfl, rfl⟩ : fA w = a ∧ fB w = b := ⟨fA_of ha, fB_of hb⟩
    unfold decodeControlMap; rw [h1]
    show decodeSys w = _
    unfold decodeSys; rw [h2]
    show (need (vD w = 0) .unusedField (.ok (.tlbi (fA w) (fB w)))) = _
    simp [need, hd]

theorem crc (d a b : XReg) : Statement (.crc d a b) :=
  xr_of (op := 0xBF) (f := 8) (x := d) (y := a) (z := b) (by decide) (by decide)
    d.isLt a.isLt b.isLt rfl fun w h1 h2 hd ha hb => by
    obtain ⟨rfl, rfl, rfl⟩ : fD w = d ∧ fA w = a ∧ fB w = b := ⟨fD_of hd, fA_of ha, fB_of hb⟩
    unfold decodeControlMap; rw [h1]
    show decodeSys w = _
    unfold decodeSys; rw [h2]
    rfl

theorem vsig (d : XReg) (ca : CReg) (b : XReg) : Statement (.vsig d ca b) :=
  xr_of (op := 0xBF) (f := 9) (x := d) (y := ca) (z := b) (by decide) (by decide)
    d.isLt (by omega) b.isLt rfl fun w h1 h2 hd ha hb => by
    have hal : vA w < 16 := by omega
    obtain ⟨rfl, rfl, rfl⟩ : fD w = d ∧ Fin.ofNat 16 (vA w) = ca ∧ fB w = b := ⟨fD_of hd, c_of ha, fB_of hb⟩
    unfold decodeControlMap; rw [h1]
    show decodeSys w = _
    unfold decodeSys; rw [h2]
    show (need (vA w < 16) .capabilityField (.ok (.vsig (fD w) (Fin.ofNat 16 (vA w)) (fB w)))) = _
    simp [need, hal]

theorem ldsc (d : XReg) (ca : CReg) (b : XReg) : Statement (.ldsc d ca b) :=
  xr_of (op := 0xBF) (f := 10) (x := d) (y := ca) (z := b) (by decide) (by decide)
    d.isLt (by omega) b.isLt rfl fun w h1 h2 hd ha hb => by
    have hal : vA w < 16 := by omega
    obtain ⟨rfl, rfl, rfl⟩ : fD w = d ∧ Fin.ofNat 16 (vA w) = ca ∧ fB w = b := ⟨fD_of hd, c_of ha, fB_of hb⟩
    unfold decodeControlMap; rw [h1]
    show decodeSys w = _
    unfold decodeSys; rw [h2]
    show (need (vA w < 16) .capabilityField (.ok (.ldsc (fD w) (Fin.ofNat 16 (vA w)) (fB w)))) = _
    simp [need, hal]

theorem stsc (d : XReg) (ca : CReg) (b : XReg) : Statement (.stsc d ca b) :=
  xr_of (op := 0xBF) (f := 11) (x := d) (y := ca) (z := b) (by decide) (by decide)
    d.isLt (by omega) b.isLt rfl fun w h1 h2 hd ha hb => by
    have hal : vA w < 16 := by omega
    obtain ⟨rfl, rfl, rfl⟩ : fD w = d ∧ Fin.ofNat 16 (vA w) = ca ∧ fB w = b := ⟨fD_of hd, c_of ha, fB_of hb⟩
    unfold decodeControlMap; rw [h1]
    show decodeSys w = _
    unfold decodeSys; rw [h2]
    show (need (vA w < 16) .capabilityField (.ok (.stsc (fD w) (Fin.ofNat 16 (vA w)) (fB w)))) = _
    simp [need, hal]

theorem cfgchk (d : XReg) (ca : CReg) (b : XReg) : Statement (.cfgchk d ca b) :=
  xr_of (op := 0xBF) (f := 12) (x := d) (y := ca) (z := b) (by decide) (by decide)
    d.isLt (by omega) b.isLt rfl fun w h1 h2 hd ha hb => by
    have hal : vA w < 16 := by omega
    obtain ⟨rfl, rfl, rfl⟩ : fD w = d ∧ Fin.ofNat 16 (vA w) = ca ∧ fB w = b := ⟨fD_of hd, c_of ha, fB_of hb⟩
    unfold decodeControlMap; rw [h1]
    show decodeSys w = _
    unfold decodeSys; rw [h2]
    show (need (vA w < 16) .capabilityField (.ok (.cfgchk (fD w) (Fin.ofNat 16 (vA w)) (fB w)))) = _
    simp [need, hal]

theorem cfgclr (d a : XReg) : Statement (.cfgclr d a) :=
  xr_of (op := 0xBF) (f := 13) (x := d) (y := a) (z := 0) (by decide) (by decide)
    d.isLt a.isLt (by decide) rfl fun w h1 h2 hd ha hb => by
    obtain ⟨rfl, rfl⟩ : fD w = d ∧ fA w = a := ⟨fD_of hd, fA_of ha⟩
    unfold decodeControlMap; rw [h1]
    show decodeSys w = _
    unfold decodeSys; rw [h2]
    show (need (vB w = 0) .unusedField (.ok (.cfgclr (fD w) (fA w)))) = _
    simp [need, hb]

theorem barw (d a : XReg) : Statement (.barw d a) :=
  xr_of (op := 0xBF) (f := 14) (x := d) (y := a) (z := 0) (by decide) (by decide)
    d.isLt a.isLt (by decide) rfl fun w h1 h2 hd ha hb => by
    obtain ⟨rfl, rfl⟩ : fD w = d ∧ fA w = a := ⟨fD_of hd, fA_of ha⟩
    unfold decodeControlMap; rw [h1]
    show decodeSys w = _
    unfold decodeSys; rw [h2]
    show (need (vB w = 0) .unusedField (.ok (.barw (fD w) (fA w)))) = _
    simp [need, hb]

theorem ifence : Statement .ifence :=
  xr_of (op := 0xBF) (f := 15) (x := 0) (y := 0) (z := 0) (by decide) (by decide)
    (by decide) (by decide) (by decide) rfl fun w h1 h2 hd ha hb => by
    unfold decodeControlMap; rw [h1]
    show decodeSys w = _
    unfold decodeSys; rw [h2]
    show (need (vD w = 0 ∧ vA w = 0 ∧ vB w = 0) .unusedField (.ok .ifence)) = _
    simp [need, hd, ha, hb]

theorem sbind (d a b : XReg) : Statement (.sbind d a b) :=
  xr_of (op := 0xBF) (f := 16) (x := d) (y := a) (z := b) (by decide) (by decide)
    d.isLt a.isLt b.isLt rfl fun w h1 h2 hd ha hb => by
    obtain ⟨rfl, rfl, rfl⟩ : fD w = d ∧ fA w = a ∧ fB w = b := ⟨fD_of hd, fA_of ha, fB_of hb⟩
    unfold decodeControlMap; rw [h1]
    show decodeSys w = _
    unfold decodeSys; rw [h2]
    rfl

theorem sbar (d a : XReg) : Statement (.sbar d a) :=
  xr_of (op := 0xBF) (f := 17) (x := d) (y := a) (z := 0) (by decide) (by decide)
    d.isLt a.isLt (by decide) rfl fun w h1 h2 hd ha hb => by
    obtain ⟨rfl, rfl⟩ : fD w = d ∧ fA w = a := ⟨fD_of hd, fA_of ha⟩
    unfold decodeControlMap; rw [h1]
    show decodeSys w = _
    unfold decodeSys; rw [h2]
    show (need (vB w = 0) .unusedField (.ok (.sbar (fD w) (fA w)))) = _
    simp [need, hb]

theorem cyc (d : XReg) : Statement (.cyc d) :=
  xr_of (op := 0xBF) (f := 18) (x := d) (y := 0) (z := 0) (by decide) (by decide)
    d.isLt (by decide) (by decide) rfl fun w h1 h2 hd ha hb => by
    obtain rfl := fD_of hd
    unfold decodeControlMap; rw [h1]
    show decodeSys w = _
    unfold decodeSys; rw [h2]
    show (need (vA w = 0 ∧ vB w = 0) .unusedField (.ok (.cyc (fD w)))) = _
    simp [need, ha, hb]

theorem nop : Statement .nop := by
  intro _ w hw
  obtain rfl : 0x003FFFF0 = w := by simpa [encode] using hw
  rfl

theorem bx (f : C3) : Statement (.bx f) :=
  c3_of (op := 0x01) (by decide) (fun w h => by unfold decodeCellMap; rw [h]; rfl) rfl
theorem bxi (f : CB) : Statement (.bxi f) := by
  intro hr w hw
  obtain rfl : wCB 0x02 f = w := by simpa [encode] using hw
  have hp : f.pm ≠ .third := by
    intro h; simp [Instr.wellFormed, Instr.reject, cbItem, h] at hr
  have hv := cb_op (by decide : 0x02 < 256) f
  exact cell_of (by omega) (by simp only [decodeCellMap, hv]; exact cb_f f _ hp) hr

theorem bend (f : CB) : Statement (.bend f) := by
  intro hr w hw
  obtain rfl : wCB 0x03 f = w := by simpa [encode] using hw
  have hp : f.pm ≠ .third := by
    intro h; simp [Instr.wellFormed, Instr.reject, cbItem, h] at hr
  have hv := cb_op (by decide : 0x03 < 256) f
  exact cell_of (by omega) (by simp only [decodeCellMap, hv]; exact cb_f f _ hp) hr

theorem mov (f : C3) : Statement (.mov f) :=
  c3_of (op := 0x04) (by decide) (fun w h => by unfold decodeCellMap; rw [h]; rfl) rfl
theorem movi (f : CI) : Statement (.movi f) :=
  ci_of (op := 0x05) (by decide) (fun w h => by unfold decodeCellMap; rw [h]; rfl) rfl
theorem movh (f : CI) : Statement (.movh f) :=
  ci_of (op := 0x06) (by decide) (fun w h => by unfold decodeCellMap; rw [h]; rfl) rfl
theorem null (f : C3) : Statement (.null f) :=
  c3_of (op := 0x07) (by decide) (fun w h => by unfold decodeCellMap; rw [h]; rfl) rfl
theorem iota (f : C3) : Statement (.iota f) :=
  c3_of (op := 0x08) (by decide) (fun w h => by unfold decodeCellMap; rw [h]; rfl) rfl
theorem cid (f : C3) : Statement (.cid f) :=
  c3_of (op := 0x09) (by decide) (fun w h => by unfold decodeCellMap; rw [h]; rfl) rfl
theorem cellCyc (f : C3) : Statement (.cellCyc f) :=
  c3_of (op := 0x0A) (by decide) (fun w h => by unfold decodeCellMap; rw [h]; rfl) rfl
theorem cellTrap (f : C3) : Statement (.cellTrap f) :=
  c3_of (op := 0x0B) (by decide) (fun w h => by unfold decodeCellMap; rw [h]; rfl) rfl
theorem testk (f : C3) : Statement (.testk f) :=
  c3_of (op := 0x0C) (by decide) (fun w h => by unfold decodeCellMap; rw [h]; rfl) rfl
theorem sel (f : C3) : Statement (.sel f) :=
  c3_of (op := 0x0D) (by decide) (fun w h => by unfold decodeCellMap; rw [h]; rfl) rfl
theorem setv (f : C3) : Statement (.setv f) :=
  c3_of (op := 0x0E) (by decide) (fun w h => by unfold decodeCellMap; rw [h]; rfl) rfl
theorem getv (f : C3) : Statement (.getv f) :=
  c3_of (op := 0x0F) (by decide) (fun w h => by unfold decodeCellMap; rw [h]; rfl) rfl
theorem cellAdd (f : C3) : Statement (.cellAdd f) :=
  c3_of (op := 0x10) (by decide) (fun w h => by unfold decodeCellMap; rw [h]; rfl) rfl
theorem cellSub (f : C3) : Statement (.cellSub f) :=
  c3_of (op := 0x11) (by decide) (fun w h => by unfold decodeCellMap; rw [h]; rfl) rfl
theorem cellMul (f : C3) : Statement (.cellMul f) :=
  c3_of (op := 0x12) (by decide) (fun w h => by unfold decodeCellMap; rw [h]; rfl) rfl
theorem cellMulh (f : C3) : Statement (.cellMulh f) :=
  c3_of (op := 0x13) (by decide) (fun w h => by unfold decodeCellMap; rw [h]; rfl) rfl
theorem cellMin (f : C3) : Statement (.cellMin f) :=
  c3_of (op := 0x14) (by decide) (fun w h => by unfold decodeCellMap; rw [h]; rfl) rfl
theorem cellMax (f : C3) : Statement (.cellMax f) :=
  c3_of (op := 0x15) (by decide) (fun w h => by unfold decodeCellMap; rw [h]; rfl) rfl
theorem cellAnd (f : C3) : Statement (.cellAnd f) :=
  c3_of (op := 0x16) (by decide) (fun w h => by unfold decodeCellMap; rw [h]; rfl) rfl
theorem cellOr (f : C3) : Statement (.cellOr f) :=
  c3_of (op := 0x17) (by decide) (fun w h => by unfold decodeCellMap; rw [h]; rfl) rfl
theorem cellXor (f : C3) : Statement (.cellXor f) :=
  c3_of (op := 0x18) (by decide) (fun w h => by unfold decodeCellMap; rw [h]; rfl) rfl
theorem cellShl (f : C3) : Statement (.cellShl f) :=
  c3_of (op := 0x19) (by decide) (fun w h => by unfold decodeCellMap; rw [h]; rfl) rfl
theorem cellShr (f : C3) : Statement (.cellShr f) :=
  c3_of (op := 0x1A) (by decide) (fun w h => by unfold decodeCellMap; rw [h]; rfl) rfl
theorem cellSar (f : C3) : Statement (.cellSar f) :=
  c3_of (op := 0x1B) (by decide) (fun w h => by unfold decodeCellMap; rw [h]; rfl) rfl
theorem cellClz (f : C3) : Statement (.cellClz f) :=
  c3_of (op := 0x1C) (by decide) (fun w h => by unfold decodeCellMap; rw [h]; rfl) rfl
theorem cellPopc (f : C3) : Statement (.cellPopc f) :=
  c3_of (op := 0x1D) (by decide) (fun w h => by unfold decodeCellMap; rw [h]; rfl) rfl
theorem cmp (f : C3) : Statement (.cmp f) :=
  c3_of (op := 0x1E) (by decide) (fun w h => by unfold decodeCellMap; rw [h]; rfl) rfl
theorem cellAddi (f : CI) : Statement (.cellAddi f) :=
  ci_of (op := 0x20) (by decide) (fun w h => by unfold decodeCellMap; rw [h]; rfl) rfl
theorem cellAndi (f : CI) : Statement (.cellAndi f) :=
  ci_of (op := 0x21) (by decide) (fun w h => by unfold decodeCellMap; rw [h]; rfl) rfl
theorem cellOri (f : CI) : Statement (.cellOri f) :=
  ci_of (op := 0x22) (by decide) (fun w h => by unfold decodeCellMap; rw [h]; rfl) rfl
theorem cellShli (f : CI) : Statement (.cellShli f) :=
  ci_of (op := 0x23) (by decide) (fun w h => by unfold decodeCellMap; rw [h]; rfl) rfl
theorem cellShri (f : CI) : Statement (.cellShri f) :=
  ci_of (op := 0x24) (by decide) (fun w h => by unfold decodeCellMap; rw [h]; rfl) rfl
theorem cellSari (f : CI) : Statement (.cellSari f) :=
  ci_of (op := 0x25) (by decide) (fun w h => by unfold decodeCellMap; rw [h]; rfl) rfl
theorem fadd (f : C3) : Statement (.fadd f) :=
  c3_of (op := 0x30) (by decide) (fun w h => by unfold decodeCellMap; rw [h]; rfl) rfl
theorem fsub (f : C3) : Statement (.fsub f) :=
  c3_of (op := 0x31) (by decide) (fun w h => by unfold decodeCellMap; rw [h]; rfl) rfl
theorem fmul (f : C3) : Statement (.fmul f) :=
  c3_of (op := 0x32) (by decide) (fun w h => by unfold decodeCellMap; rw [h]; rfl) rfl
theorem fma (f : C3) : Statement (.fma f) :=
  c3_of (op := 0x33) (by decide) (fun w h => by unfold decodeCellMap; rw [h]; rfl) rfl
theorem fmin (f : C3) : Statement (.fmin f) :=
  c3_of (op := 0x34) (by decide) (fun w h => by unfold decodeCellMap; rw [h]; rfl) rfl
theorem fmax (f : C3) : Statement (.fmax f) :=
  c3_of (op := 0x35) (by decide) (fun w h => by unfold decodeCellMap; rw [h]; rfl) rfl
theorem fabs (f : C3) : Statement (.fabs f) :=
  c3_of (op := 0x36) (by decide) (fun w h => by unfold decodeCellMap; rw [h]; rfl) rfl
theorem fcmp (f : C3) : Statement (.fcmp f) :=
  c3_of (op := 0x37) (by decide) (fun w h => by unfold decodeCellMap; rw [h]; rfl) rfl
theorem fcvt (f : C3) : Statement (.fcvt f) :=
  c3_of (op := 0x38) (by decide) (fun w h => by unfold decodeCellMap; rw [h]; rfl) rfl
theorem unpk (f : C3) : Statement (.unpk f) :=
  c3_of (op := 0x39) (by decide) (fun w h => by unfold decodeCellMap; rw [h]; rfl) rfl
theorem pack (f : C3) : Statement (.pack f) :=
  c3_of (op := 0x3A) (by decide) (fun w h => by unfold decodeCellMap; rw [h]; rfl) rfl
theorem fexp2 (f : C3) : Statement (.fexp2 f) :=
  c3_of (op := 0x3B) (by decide) (fun w h => by unfold decodeCellMap; rw [h]; rfl) rfl
theorem flog2 (f : C3) : Statement (.flog2 f) :=
  c3_of (op := 0x3C) (by decide) (fun w h => by unfold decodeCellMap; rw [h]; rfl) rfl
theorem frcp (f : C3) : Statement (.frcp f) :=
  c3_of (op := 0x3D) (by decide) (fun w h => by unfold decodeCellMap; rw [h]; rfl) rfl
theorem frsq (f : C3) : Statement (.frsq f) :=
  c3_of (op := 0x3E) (by decide) (fun w h => by unfold decodeCellMap; rw [h]; rfl) rfl
theorem ftanh (f : C3) : Statement (.ftanh f) :=
  c3_of (op := 0x3F) (by decide) (fun w h => by unfold decodeCellMap; rw [h]; rfl) rfl
theorem radd (f : C3) : Statement (.radd f) :=
  c3_of (op := 0x40) (by decide) (fun w h => by unfold decodeCellMap; rw [h]; rfl) rfl
theorem rmax (f : C3) : Statement (.rmax f) :=
  c3_of (op := 0x41) (by decide) (fun w h => by unfold decodeCellMap; rw [h]; rfl) rfl
theorem rmin (f : C3) : Statement (.rmin f) :=
  c3_of (op := 0x42) (by decide) (fun w h => by unfold decodeCellMap; rw [h]; rfl) rfl
theorem psum (f : C3) : Statement (.psum f) :=
  c3_of (op := 0x43) (by decide) (fun w h => by unfold decodeCellMap; rw [h]; rfl) rfl
theorem perm (f : C3) : Statement (.perm f) :=
  c3_of (op := 0x44) (by decide) (fun w h => by unfold decodeCellMap; rw [h]; rfl) rfl
theorem bcst (f : C3) : Statement (.bcst f) :=
  c3_of (op := 0x45) (by decide) (fun w h => by unfold decodeCellMap; rw [h]; rfl) rfl
theorem lsh (f : C3) : Statement (.lsh f) :=
  c3_of (op := 0x46) (by decide) (fun w h => by unfold decodeCellMap; rw [h]; rfl) rfl
theorem cmpk (f : C3) : Statement (.cmpk f) :=
  c3_of (op := 0x47) (by decide) (fun w h => by unfold decodeCellMap; rw [h]; rfl) rfl
theorem expd (f : C3) : Statement (.expd f) :=
  c3_of (op := 0x48) (by decide) (fun w h => by unfold decodeCellMap; rw [h]; rfl) rfl
theorem nzscan (f : C3) : Statement (.nzscan f) :=
  c3_of (op := 0x49) (by decide) (fun w h => by unfold decodeCellMap; rw [h]; rfl) rfl
theorem join (f : C3) : Statement (.join f) :=
  c3_of (op := 0x4A) (by decide) (fun w h => by unfold decodeCellMap; rw [h]; rfl) rfl
theorem ld (f : C3) : Statement (.ld f) :=
  c3_of (op := 0x50) (by decide) (fun w h => by unfold decodeCellMap; rw [h]; rfl) rfl
theorem ldc (f : C3) : Statement (.ldc f) :=
  c3_of (op := 0x51) (by decide) (fun w h => by unfold decodeCellMap; rw [h]; rfl) rfl
theorem st (f : C3) : Statement (.st f) :=
  c3_of (op := 0x52) (by decide) (fun w h => by unfold decodeCellMap; rw [h]; rfl) rfl
theorem stc (f : C3) : Statement (.stc f) :=
  c3_of (op := 0x53) (by decide) (fun w h => by unfold decodeCellMap; rw [h]; rfl) rfl
theorem atadd (f : C3) : Statement (.atadd f) :=
  c3_of (op := 0x54) (by decide) (fun w h => by unfold decodeCellMap; rw [h]; rfl) rfl
theorem atfadd (f : C3) : Statement (.atfadd f) :=
  c3_of (op := 0x55) (by decide) (fun w h => by unfold decodeCellMap; rw [h]; rfl) rfl
theorem atmax (f : C3) : Statement (.atmax f) :=
  c3_of (op := 0x56) (by decide) (fun w h => by unfold decodeCellMap; rw [h]; rfl) rfl
theorem lookup (f : C3) : Statement (.lookup f) :=
  c3_of (op := 0x57) (by decide) (fun w h => by unfold decodeCellMap; rw [h]; rfl) rfl
theorem tagset (f : C3) : Statement (.tagset f) :=
  c3_of (op := 0x58) (by decide) (fun w h => by unfold decodeCellMap; rw [h]; rfl) rfl
theorem tagclr (f : C3) : Statement (.tagclr f) :=
  c3_of (op := 0x59) (by decide) (fun w h => by unfold decodeCellMap; rw [h]; rfl) rfl
theorem cellFmrg (f : C3) : Statement (.cellFmrg f) :=
  c3_of (op := 0x60) (by decide) (fun w h => by unfold decodeCellMap; rw [h]; rfl) rfl
theorem cellFprobe (f : C3) : Statement (.cellFprobe f) :=
  c3_of (op := 0x61) (by decide) (fun w h => by unfold decodeCellMap; rw [h]; rfl) rfl
theorem cellFscan (f : C3) : Statement (.cellFscan f) :=
  c3_of (op := 0x62) (by decide) (fun w h => by unfold decodeCellMap; rw [h]; rfl) rfl
theorem rcv (f : C3) : Statement (.rcv f) :=
  c3_of (op := 0x63) (by decide) (fun w h => by unfold decodeCellMap; rw [h]; rfl) rfl
theorem mark (f : C3) : Statement (.mark f) :=
  c3_of (op := 0x64) (by decide) (fun w h => by unfold decodeCellMap; rw [h]; rfl) rfl
theorem xreq (f : C3) : Statement (.xreq f) :=
  c3_of (op := 0x65) (by decide) (fun w h => by unfold decodeCellMap; rw [h]; rfl) rfl
theorem cellRcall (f : C3) : Statement (.cellRcall f) :=
  c3_of (op := 0x66) (by decide) (fun w h => by unfold decodeCellMap; rw [h]; rfl) rfl
theorem joinp (f : C3) : Statement (.joinp f) :=
  c3_of (op := 0x67) (by decide) (fun w h => by unfold decodeCellMap; rw [h]; rfl) rfl
theorem mma (f : C3) : Statement (.mma f) :=
  c3_of (op := 0x70) (by decide) (fun w h => by unfold decodeCellMap; rw [h]; rfl) rfl
theorem mmas (f : C3) : Statement (.mmas f) :=
  c3_of (op := 0x71) (by decide) (fun w h => by unfold decodeCellMap; rw [h]; rfl) rfl
theorem mmap (f : C3) : Statement (.mmap f) :=
  c3_of (op := 0x72) (by decide) (fun w h => by unfold decodeCellMap; rw [h]; rfl) rfl
theorem accrd (f : C3) : Statement (.accrd f) :=
  c3_of (op := 0x73) (by decide) (fun w h => by unfold decodeCellMap; rw [h]; rfl) rfl
theorem accz (f : C3) : Statement (.accz f) :=
  c3_of (op := 0x74) (by decide) (fun w h => by unfold decodeCellMap; rw [h]; rfl) rfl
theorem fibreFormat (i : Nat) : Statement (.fibreFormat i) := event_of rfl
theorem fibreNew (i : Nat) : Statement (.fibreNew i) := event_of rfl
theorem fibreFree (i : Nat) : Statement (.fibreFree i) := event_of rfl
theorem fibreMerge (i : Nat) : Statement (.fibreMerge i) := event_of rfl
theorem poolReservation (i : Nat) : Statement (.poolReservation i) := event_of rfl
theorem fibreDelete (i : Nat) : Statement (.fibreDelete i) := event_of rfl
theorem fibreScanStep (i : Nat) : Statement (.fibreScanStep i) := event_of rfl
theorem fibreProbe (i : Nat) : Statement (.fibreProbe i) := event_of rfl
theorem fibreInfo (i : Nat) : Statement (.fibreInfo i) := event_of rfl
theorem holdLapse (i : Nat) : Statement (.holdLapse i) := event_of rfl
theorem fibreRefusedResend (i : Nat) : Statement (.fibreRefusedResend i) := event_of rfl
theorem fibreReply (i : Nat) : Statement (.fibreReply i) := event_of rfl
theorem fibrePostedReply (i : Nat) : Statement (.fibrePostedReply i) := event_of rfl
theorem fprobeReply (i : Nat) : Statement (.fprobeReply i) := event_of rfl
theorem pageWalk (i : Nat) : Statement (.pageWalk i) := event_of rfl
theorem blockCommit (c : CellId) : Statement (.blockCommit c) := event_of rfl
theorem blockQuiescence (c : CellId) : Statement (.blockQuiescence c) := event_of rfl
theorem markerDrain (c : CellId) (port : Fin 8) : Statement (.markerDrain c port) := event_of rfl
theorem sendResume (c : CellId) : Statement (.sendResume c) := event_of rfl
theorem tokenReceive (i : Nat) (codeOk : Bool) : Statement (.tokenReceive i codeOk) := event_of rfl
theorem memoryCellRequest (c : CellId) (n : Nat) : Statement (.memoryCellRequest c n) := event_of rfl
theorem memoryCellReply (c : CellId) : Statement (.memoryCellReply c) := event_of rfl
theorem transferLine (c : CellId) : Statement (.transferLine c) := event_of rfl
theorem addressGeneratorToken (c : CellId) (gen : Fin 2) : Statement (.addressGeneratorToken c gen) := event_of rfl
theorem matrixCommandStart (c : CellId) : Statement (.matrixCommandStart c) := event_of rfl
theorem matrixOperandTake (c : CellId) (port : Fin 8) : Statement (.matrixOperandTake c port) := event_of rfl
theorem acczCommand (c : CellId) : Statement (.acczCommand c) := event_of rfl
theorem tileRelease (c : CellId) : Statement (.tileRelease c) := event_of rfl
theorem positionLeave (r : RowId) : Statement (.positionLeave r) := event_of rfl
theorem waveMarkerCompletion (r : RowId) : Statement (.waveMarkerCompletion r) := event_of rfl
theorem engineDrainEnd (r : RowId) : Statement (.engineDrainEnd r) := event_of rfl
theorem rcfPlacement (r : RowId) : Statement (.rcfPlacement r) := event_of rfl
theorem stateSave (r : RowId) : Statement (.stateSave r) := event_of rfl
theorem positionGoLive (r : RowId) : Statement (.positionGoLive r) := event_of rfl
theorem imagePreload (r : RowId) : Statement (.imagePreload r) := event_of rfl
theorem ringDelivery (v : VpId) (edge : Nat) : Statement (.ringDelivery v edge) := event_of rfl
theorem ingressBindingTake (v : VpId) (binding : Nat) : Statement (.ingressBindingTake v binding) := event_of rfl
theorem egressBindingWrite (v : VpId) (binding : Nat) : Statement (.egressBindingWrite v binding) := event_of rfl
theorem deadlockTimeout (v : VpId) : Statement (.deadlockTimeout v) := event_of rfl
theorem vpCompletion (v : VpId) : Statement (.vpCompletion v) := event_of rfl
theorem preInsertion (v : VpId) : Statement (.preInsertion v) := event_of rfl
theorem cellContextSave (c : CellId) : Statement (.cellContextSave c) := event_of rfl
theorem orphanTokenDrop (c : CellId) (port : Fin 8) : Statement (.orphanTokenDrop c port) := event_of rfl
theorem candidateChoice (die : Fin 2) : Statement (.candidateChoice die) := event_of rfl
theorem admission (die : Fin 2) : Statement (.admission die) := event_of rfl
theorem priorityAging (die : Fin 2) : Statement (.priorityAging die) := event_of rfl
theorem eventRecordArrival (i : Nat) : Statement (.eventRecordArrival i) := event_of rfl
theorem wfeTimeout (k : CoreId) : Statement (.wfeTimeout k) := event_of rfl
theorem remoteCallArrival (i : Nat) : Statement (.remoteCallArrival i) := event_of rfl
theorem callRefusalResend (i : Nat) : Statement (.callRefusalResend i) := event_of rfl
theorem remoteContextStart (u : UnitId) : Statement (.remoteContextStart u) := event_of rfl
theorem remoteBudgetExhausted (t : RemoteId) : Statement (.remoteBudgetExhausted t) := event_of rfl
theorem builtinReduce (t : RemoteId) : Statement (.builtinReduce t) := event_of rfl
theorem builtinAdamw (t : RemoteId) : Statement (.builtinAdamw t) := event_of rfl
theorem builtinFill (t : RemoteId) : Statement (.builtinFill t) := event_of rfl
theorem builtinCopy (t : RemoteId) : Statement (.builtinCopy t) := event_of rfl
theorem callReplyArrival (i : Nat) : Statement (.callReplyArrival i) := event_of rfl
theorem callReplyToken (c : CellId) : Statement (.callReplyToken c) := event_of rfl
theorem callResend (c : CallerId) (slot : Fin 16) : Statement (.callResend c slot) := event_of rfl
theorem callLostTimeout (c : CallerId) (slot : Fin 16) : Statement (.callLostTimeout c slot) := event_of rfl
theorem lineOwnerAccess (k : CoreId) (n : Nat) : Statement (.lineOwnerAccess k n) := event_of rfl
theorem atomicAtOwner (c : CellId) (n : Nat) : Statement (.atomicAtOwner c n) := event_of rfl
theorem scTokenVisit (node : Nat) : Statement (.scTokenVisit node) := event_of rfl
theorem firelFlitReceive (flit : Flit) : Statement (.firelFlitReceive flit) := event_of rfl
theorem firelLinkFailure (link : Fin 12) : Statement (.firelLinkFailure link) := event_of rfl
theorem faultReplay (c : CellId) : Statement (.faultReplay c) := event_of rfl
theorem faultTeardown (c : CellId) : Statement (.faultTeardown c) := event_of rfl
theorem faultWatchdog (c : CellId) : Statement (.faultWatchdog c) := event_of rfl
theorem kevqEmpty (k : CoreId) : Statement (.kevqEmpty k) := event_of rfl
theorem postTrigger (k : CoreId) (n : Nat) : Statement (.postTrigger k n) := event_of rfl
theorem launchTrigger (hart : Fin 24) : Statement (.launchTrigger hart) := event_of rfl
theorem partitionCommit (hart : Fin 24) : Statement (.partitionCommit hart) := event_of rfl
theorem coreStart (hart : Fin 24) : Statement (.coreStart hart) := event_of rfl
theorem registerWrite (k : CoreId) (n : Nat) : Statement (.registerWrite k n) := event_of rfl
theorem vfReset (tenant : BitVec 8) : Statement (.vfReset tenant) := event_of rfl
theorem powerWindowEnd (mW : Nat) (tempC : Nat) : Statement (.powerWindowEnd mW tempC) := event_of rfl
theorem overTemperature (tempC : Nat) : Statement (.overTemperature tempC) := event_of rfl
theorem moduleBoot (b : BootInput) : Statement (.moduleBoot b) := event_of rfl
theorem pcieInboundRequest (req : PcieRequest) : Statement (.pcieInboundRequest req) := event_of rfl
theorem spireHartInstruction (hart : Fin 24) (op : HartOp) : Statement (.spireHartInstruction hart op) := event_of rfl

end Sys2Proof.Laws.RoundTrip
end

