-- ==== Sys2Proof/Laws/System.lean ====
section
/-!
SUPPORT. What the system-register instructions and the traps answer, said once.
-/

namespace Sys2Proof.Machine
open Sys2Proof

set_option Elab.async false

/-- ILLEGAL is a trap with the word. -/
theorem trapsOn_illegal {i : Instr} {k : CoreId} {s : State} (h : exec i s = .next (s.illegal (.core k) i)) :
    Illegal i k s := by
  intro w hw
  refine ⟨_, h, ?_⟩
  simp [Traps, State.illegal, hw, State.trap, Core.takeTrap, Cause.code]

/-- SYSRD of a register of the map, where the mode allows it. -/
theorem sysrd_reads {s : State} {k : CoreId} {d : XReg} {n : BitVec 12} {r : SReg} (hk : s.focus.thread = .core k)
    (h : sregOf n.toNat = some r) (hp : (s.core k).thread.priv = true ∨ r.open = true) :
    exec (.sysrd d n) s = Writes s d (s.sreg k r) := by
  simp only [exec, execSysrd, onCore, hk, h, Writes]
  rcases hp with hp | hp <;> simp [hp]

/-- SYSWR of a register of the map that may be written. -/
theorem syswr_writes {s u : State} {k : CoreId} {d : XReg} {n : BitVec 12} {r : SReg} (hk : s.focus.thread = .core k)
    (h : sregOf n.toNat = some r) (hp : (s.core k).thread.priv = true) (hr : r.readOnly = false)
    (hu : s.setSreg k r (s.getX (.core k) d) = some u) :
    exec (.syswr d n) s = .next (u.retire (.core k)) := by
  simp [exec, execSyswr, onPrivCore, onCore, hk, h, hp, hr, hu]

/-- SYSRD of no register of the map. -/
theorem sysrd_outside {s : State} {k : CoreId} {d : XReg} {n : BitVec 12} (hk : s.focus.thread = .core k)
    (h : sregOf n.toNat = none) : Illegal (.sysrd d n) k s :=
  trapsOn_illegal (by simp [exec, execSysrd, onCore, hk, h])

/-- SYSWR of no register of the map, or of a read-only one. -/
theorem syswr_outside {s : State} {k : CoreId} {d : XReg} {n : BitVec 12} (hk : s.focus.thread = .core k)
    (h : ∀ r, sregOf n.toNat = some r → r.readOnly = true) : Illegal (.syswr d n) k s := by
  apply trapsOn_illegal
  cases hp : (s.core k).thread.priv
  · simp [exec, execSyswr, onPrivCore, onCore, hk, hp]
  · cases hr : sregOf n.toNat with
    | none => simp [exec, execSyswr, onPrivCore, onCore, hk, hp, hr]
    | some r => simp [exec, execSyswr, onPrivCore, onCore, hk, hp, hr, h r hr]

/-- A number above the map names no register. -/
theorem sregOf_above {n : Nat} (h : 0x07F < n) : sregOf n = none := by
  unfold sregOf
  split
  case h_18 => rw [if_neg]; omega
  all_goals omega

/-- A number between two registers of the map names none. -/
theorem sregOf_between : ∀ n : Fin 128,
    ((0x005 < n.val ∧ n.val < 0x010) ∨ (0x011 < n.val ∧ n.val < 0x020) ∨ (0x022 < n.val ∧ n.val < 0x030) ∨
      (0x031 < n.val ∧ n.val < 0x040) ∨ (0x041 < n.val ∧ n.val < 0x050) ∨ (0x050 < n.val ∧ n.val < 0x060) ∨
      (0x060 < n.val ∧ n.val < 0x070)) → sregOf n.val = none := by
  decide

/-- The idle counters' numbers. -/
theorem sregOf_kidle (n : Fin 16) : sregOf (BitVec.ofNat 12 (0x070 + n.val)).toNat = some (.kidle n) := by
  revert n; decide

/-- The registers that may be read in unprivileged mode. -/
theorem sregOf_open {n : Nat} {r : SReg} (h : sregOf n = some r) (ho : r.open = true) :
    n = 0x030 ∨ n = 0x031 ∨ n = 0x040 ∨ n = 0x041 := by
  unfold sregOf at h
  split at h
  case h_18 =>
    split at h
    · cases h; cases ho
    · cases h
  all_goals first
    | (cases h; cases ho; done)
    | simp

end Sys2Proof.Machine
end

