-- ==== Sys2Proof/Laws/Turn.lean ====
section
/-!
SUPPORT. What a turn does beside its action: the misses that a walk notes (R382), and what the bands see of their
buffers (R216).
-/

namespace Sys2Proof.Machine
open Sys2Proof

/-! ### Misses -/

@[simp] theorem State.withMisses_cycle (s t : State) : (s.withMisses t).cycle = s.cycle := rfl
@[simp] theorem State.withMisses_dieStart (s t : State) : (s.withMisses t).dieStart = s.dieStart := rfl
@[simp] theorem State.withMisses_fresh (s t : State) : (s.withMisses t).fresh = s.fresh := rfl
@[simp] theorem State.withMisses_script (s t : State) : (s.withMisses t).script = s.script := rfl
@[simp] theorem State.withMisses_focus (s t : State) : (s.withMisses t).focus = s.focus := rfl
@[simp] theorem State.withMisses_mem (s t : State) : (s.withMisses t).mem = s.mem := rfl
@[simp] theorem State.withMisses_scratch (s t : State) : (s.withMisses t).scratch = s.scratch := rfl
@[simp] theorem State.withMisses_tlb (s t : State) : (s.withMisses t).tlb = s.tlb := rfl
@[simp] theorem State.withMisses_spent (s t : State) : (s.withMisses t).spent = s.spent := rfl
@[simp] theorem State.withMisses_cores (s t : State) : (s.withMisses t).cores = s.cores := rfl
@[simp] theorem State.withMisses_works (s t : State) : (s.withMisses t).works = s.works := rfl
@[simp] theorem State.withMisses_units (s t : State) : (s.withMisses t).units = s.units := rfl
@[simp] theorem State.withMisses_cells (s t : State) : (s.withMisses t).cells = s.cells := rfl
@[simp] theorem State.withMisses_memQueues (s t : State) : (s.withMisses t).memQueues = s.memQueues := rfl
@[simp] theorem State.withMisses_transfers (s t : State) : (s.withMisses t).transfers = s.transfers := rfl
@[simp] theorem State.withMisses_parked (s t : State) : (s.withMisses t).parked = s.parked := rfl
@[simp] theorem State.withMisses_flights (s t : State) : (s.withMisses t).flights = s.flights := rfl
@[simp] theorem State.withMisses_rows (s t : State) : (s.withMisses t).rows = s.rows := rfl
@[simp] theorem State.withMisses_scheds (s t : State) : (s.withMisses t).scheds = s.scheds := rfl
@[simp] theorem State.withMisses_fibreReqs (s t : State) : (s.withMisses t).fibreReqs = s.fibreReqs := rfl
@[simp] theorem State.withMisses_replies (s t : State) : (s.withMisses t).replies = s.replies := rfl
@[simp] theorem State.withMisses_holds (s t : State) : (s.withMisses t).holds = s.holds := rfl
@[simp] theorem State.withMisses_calls (s t : State) : (s.withMisses t).calls = s.calls := rfl
@[simp] theorem State.withMisses_callBack (s t : State) : (s.withMisses t).callBack = s.callBack := rfl
@[simp] theorem State.withMisses_lost (s t : State) : (s.withMisses t).lost = s.lost := rfl
@[simp] theorem State.withMisses_cleared (s t : State) : (s.withMisses t).cleared = s.cleared := rfl
@[simp] theorem State.withMisses_records (s t : State) : (s.withMisses t).records = s.records := rfl
@[simp] theorem State.withMisses_errors (s t : State) : (s.withMisses t).errors = s.errors := rfl
@[simp] theorem State.withMisses_errorCore (s t : State) : (s.withMisses t).errorCore = s.errorCore := rfl
@[simp] theorem State.withMisses_staging (s t : State) : (s.withMisses t).staging = s.staging := rfl
@[simp] theorem State.withMisses_kdevno (s t : State) : (s.withMisses t).kdevno = s.kdevno := rfl
@[simp] theorem State.withMisses_kstrict (s t : State) : (s.withMisses t).kstrict = s.kstrict := rfl
@[simp] theorem State.withMisses_staged (s t : State) : (s.withMisses t).staged = s.staged := rfl
@[simp] theorem State.withMisses_partitions (s t : State) : (s.withMisses t).partitions = s.partitions := rfl
@[simp] theorem State.withMisses_commitResult (s t : State) : (s.withMisses t).commitResult = s.commitResult := rfl
@[simp] theorem State.withMisses_startRec (s t : State) : (s.withMisses t).startRec = s.startRec := rfl
@[simp] theorem State.withMisses_harts (s t : State) : (s.withMisses t).harts = s.harts := rfl
@[simp] theorem State.withMisses_routes (s t : State) : (s.withMisses t).routes = s.routes := rfl
@[simp] theorem State.withMisses_deadLinks (s t : State) : (s.withMisses t).deadLinks = s.deadLinks := rfl
@[simp] theorem State.withMisses_scNode (s t : State) : (s.withMisses t).scNode = s.scNode := rfl
@[simp] theorem State.withMisses_scCount (s t : State) : (s.withMisses t).scCount = s.scCount := rfl
@[simp] theorem State.withMisses_scSkip (s t : State) : (s.withMisses t).scSkip = s.scSkip := rfl
@[simp] theorem State.withMisses_outbox (s t : State) : (s.withMisses t).outbox = s.outbox := rfl
@[simp] theorem State.withMisses_powerMw (s t : State) : (s.withMisses t).powerMw = s.powerMw := rfl
@[simp] theorem State.withMisses_tempC (s t : State) : (s.withMisses t).tempC = s.tempC := rfl
@[simp] theorem State.withMisses_held (s t : State) : (s.withMisses t).held = s.held := rfl
@[simp] theorem State.withMisses_overTemp (s t : State) : (s.withMisses t).overTemp = s.overTemp := rfl
@[simp] theorem State.withMisses_boot (s t : State) : (s.withMisses t).boot = s.boot := rfl
@[simp] theorem State.withMisses_measure0 (s t : State) : (s.withMisses t).measure0 = s.measure0 := rfl
@[simp] theorem State.withMisses_deviceKey (s t : State) : (s.withMisses t).deviceKey = s.deviceKey := rfl
@[simp] theorem State.withMisses_flash (s t : State) : (s.withMisses t).flash = s.flash := rfl
@[simp] theorem State.withMisses_ports (s t : State) : (s.withMisses t).ports = s.ports := rfl
@[simp] theorem State.withMisses_endpoint (s t : State) : (s.withMisses t).endpoint = s.endpoint := rfl
@[simp] theorem State.withMisses_windowAt (s t : State) : (s.withMisses t).windowAt = s.windowAt := rfl
@[simp] theorem State.withMisses_activity (s t : State) : (s.withMisses t).activity = s.activity := rfl
@[simp] theorem State.withMisses_recordOk (s t : State) : (s.withMisses t).recordOk = s.recordOk := rfl
@[simp] theorem State.withMisses_speedGrade (s t : State) : (s.withMisses t).speedGrade = s.speedGrade := rfl
@[simp] theorem State.withMisses_gddrMiB (s t : State) : (s.withMisses t).gddrMiB = s.gddrMiB := rfl
@[simp] theorem State.withMisses_retired (s t : State) : (s.withMisses t).retired = s.retired := rfl
@[simp] theorem State.withMisses_dropped (s t : State) : (s.withMisses t).dropped = s.dropped := rfl
@[simp] theorem State.withMisses_vps (s t : State) : (s.withMisses t).vps = s.vps := rfl
@[simp] theorem State.withMisses_misses (s t : State) : (s.withMisses t).misses = t.misses := rfl

/-- A step without a miss is what it answers. -/
@[simp] theorem State.orWait_next_nil (s t : State) (h : t.misses = []) : s.orWait (.next t) = .next t := by
  simp [State.orWait, h]

/-- A step whose misses all found a walker is what it answers, and they wait no more. -/
theorem State.orWait_walked (s t : State) (hm : t.misses ≠ []) (h : ∀ m ∈ t.misses, s.mayWalk m = true) :
    s.orWait (.next t) = .next { t with parked := t.parked.filter fun q => !t.misses.contains q, misses := [] } := by
  have h' : t.misses.find? (fun m => !s.mayWalk m) = none := by
    rw [List.find?_eq_none]; intro m hm; simp [h m hm]
  simp [State.orWait, hm, h']

/-- A step with a miss that found no walker leaves the unit as it was, its first such miss parked. -/
theorem State.orWait_waits (s t : State) (m : Parked) (h : t.misses.find? (fun m => !s.mayWalk m) = some m) :
    s.orWait (.next t) = .next (s.queueMiss m) := by
  have hm : t.misses ≠ [] := by intro e; simp [e] at h
  simp [State.orWait, hm, h]

@[simp] theorem State.orWait_fault (s : State) (f : Fault) : s.orWait (.fault f) = .fault f := rfl
@[simp] theorem State.orWait_refused (s : State) (r : Refusal) : s.orWait (.refused r) = .refused r := rfl

/-! ### What the bands see -/

/-- Of the machine only the VPs' records differ. -/
theorem State.watchVp_eq (s : State) (v : VpId) : ∃ vs, s.watchVp v = { s with vps := vs } := by
  simp only [State.watchVp]
  split
  · exact ⟨s.vps, rfl⟩
  · split
    · exact ⟨s.vps, rfl⟩
    · exact ⟨_, rfl⟩

/-- Of the machine only the VPs' records differ. -/
theorem State.watch_eq (s : State) : ∃ vs, s.watch = { s with vps := vs } := by
  have fold : ∀ (l : List (VpId × Vp)) (s : State), ∃ vs, l.foldl (fun s v => s.watchVp v.1) s = { s with vps := vs } := by
    intro l
    induction l with
    | nil => exact fun s => ⟨s.vps, rfl⟩
    | cons v l ih =>
      intro s
      obtain ⟨a, ha⟩ := s.watchVp_eq v.1
      obtain ⟨b, hb⟩ := ih (s.watchVp v.1)
      exact ⟨b, by rw [List.foldl_cons, hb, ha]⟩
  exact fold s.vps s

@[simp] theorem State.watch_cycle (s : State) : s.watch.cycle = s.cycle := by obtain ⟨vs, h⟩ := s.watch_eq; rw [h]
@[simp] theorem State.watch_dieStart (s : State) : s.watch.dieStart = s.dieStart := by obtain ⟨vs, h⟩ := s.watch_eq; rw [h]
@[simp] theorem State.watch_fresh (s : State) : s.watch.fresh = s.fresh := by obtain ⟨vs, h⟩ := s.watch_eq; rw [h]
@[simp] theorem State.watch_script (s : State) : s.watch.script = s.script := by obtain ⟨vs, h⟩ := s.watch_eq; rw [h]
@[simp] theorem State.watch_focus (s : State) : s.watch.focus = s.focus := by obtain ⟨vs, h⟩ := s.watch_eq; rw [h]
@[simp] theorem State.watch_mem (s : State) : s.watch.mem = s.mem := by obtain ⟨vs, h⟩ := s.watch_eq; rw [h]
@[simp] theorem State.watch_scratch (s : State) : s.watch.scratch = s.scratch := by obtain ⟨vs, h⟩ := s.watch_eq; rw [h]
@[simp] theorem State.watch_tlb (s : State) : s.watch.tlb = s.tlb := by obtain ⟨vs, h⟩ := s.watch_eq; rw [h]
@[simp] theorem State.watch_spent (s : State) : s.watch.spent = s.spent := by obtain ⟨vs, h⟩ := s.watch_eq; rw [h]
@[simp] theorem State.watch_cores (s : State) : s.watch.cores = s.cores := by obtain ⟨vs, h⟩ := s.watch_eq; rw [h]
@[simp] theorem State.watch_works (s : State) : s.watch.works = s.works := by obtain ⟨vs, h⟩ := s.watch_eq; rw [h]
@[simp] theorem State.watch_units (s : State) : s.watch.units = s.units := by obtain ⟨vs, h⟩ := s.watch_eq; rw [h]
@[simp] theorem State.watch_cells (s : State) : s.watch.cells = s.cells := by obtain ⟨vs, h⟩ := s.watch_eq; rw [h]
@[simp] theorem State.watch_memQueues (s : State) : s.watch.memQueues = s.memQueues := by obtain ⟨vs, h⟩ := s.watch_eq; rw [h]
@[simp] theorem State.watch_transfers (s : State) : s.watch.transfers = s.transfers := by obtain ⟨vs, h⟩ := s.watch_eq; rw [h]
@[simp] theorem State.watch_parked (s : State) : s.watch.parked = s.parked := by obtain ⟨vs, h⟩ := s.watch_eq; rw [h]
@[simp] theorem State.watch_misses (s : State) : s.watch.misses = s.misses := by obtain ⟨vs, h⟩ := s.watch_eq; rw [h]
@[simp] theorem State.watch_flights (s : State) : s.watch.flights = s.flights := by obtain ⟨vs, h⟩ := s.watch_eq; rw [h]
@[simp] theorem State.watch_rows (s : State) : s.watch.rows = s.rows := by obtain ⟨vs, h⟩ := s.watch_eq; rw [h]
@[simp] theorem State.watch_scheds (s : State) : s.watch.scheds = s.scheds := by obtain ⟨vs, h⟩ := s.watch_eq; rw [h]
@[simp] theorem State.watch_fibreReqs (s : State) : s.watch.fibreReqs = s.fibreReqs := by obtain ⟨vs, h⟩ := s.watch_eq; rw [h]
@[simp] theorem State.watch_replies (s : State) : s.watch.replies = s.replies := by obtain ⟨vs, h⟩ := s.watch_eq; rw [h]
@[simp] theorem State.watch_holds (s : State) : s.watch.holds = s.holds := by obtain ⟨vs, h⟩ := s.watch_eq; rw [h]
@[simp] theorem State.watch_calls (s : State) : s.watch.calls = s.calls := by obtain ⟨vs, h⟩ := s.watch_eq; rw [h]
@[simp] theorem State.watch_callBack (s : State) : s.watch.callBack = s.callBack := by obtain ⟨vs, h⟩ := s.watch_eq; rw [h]
@[simp] theorem State.watch_lost (s : State) : s.watch.lost = s.lost := by obtain ⟨vs, h⟩ := s.watch_eq; rw [h]
@[simp] theorem State.watch_cleared (s : State) : s.watch.cleared = s.cleared := by obtain ⟨vs, h⟩ := s.watch_eq; rw [h]
@[simp] theorem State.watch_records (s : State) : s.watch.records = s.records := by obtain ⟨vs, h⟩ := s.watch_eq; rw [h]
@[simp] theorem State.watch_errors (s : State) : s.watch.errors = s.errors := by obtain ⟨vs, h⟩ := s.watch_eq; rw [h]
@[simp] theorem State.watch_errorCore (s : State) : s.watch.errorCore = s.errorCore := by obtain ⟨vs, h⟩ := s.watch_eq; rw [h]
@[simp] theorem State.watch_staging (s : State) : s.watch.staging = s.staging := by obtain ⟨vs, h⟩ := s.watch_eq; rw [h]
@[simp] theorem State.watch_kdevno (s : State) : s.watch.kdevno = s.kdevno := by obtain ⟨vs, h⟩ := s.watch_eq; rw [h]
@[simp] theorem State.watch_kstrict (s : State) : s.watch.kstrict = s.kstrict := by obtain ⟨vs, h⟩ := s.watch_eq; rw [h]
@[simp] theorem State.watch_staged (s : State) : s.watch.staged = s.staged := by obtain ⟨vs, h⟩ := s.watch_eq; rw [h]
@[simp] theorem State.watch_partitions (s : State) : s.watch.partitions = s.partitions := by obtain ⟨vs, h⟩ := s.watch_eq; rw [h]
@[simp] theorem State.watch_commitResult (s : State) : s.watch.commitResult = s.commitResult := by obtain ⟨vs, h⟩ := s.watch_eq; rw [h]
@[simp] theorem State.watch_startRec (s : State) : s.watch.startRec = s.startRec := by obtain ⟨vs, h⟩ := s.watch_eq; rw [h]
@[simp] theorem State.watch_harts (s : State) : s.watch.harts = s.harts := by obtain ⟨vs, h⟩ := s.watch_eq; rw [h]
@[simp] theorem State.watch_routes (s : State) : s.watch.routes = s.routes := by obtain ⟨vs, h⟩ := s.watch_eq; rw [h]
@[simp] theorem State.watch_deadLinks (s : State) : s.watch.deadLinks = s.deadLinks := by obtain ⟨vs, h⟩ := s.watch_eq; rw [h]
@[simp] theorem State.watch_scNode (s : State) : s.watch.scNode = s.scNode := by obtain ⟨vs, h⟩ := s.watch_eq; rw [h]
@[simp] theorem State.watch_scCount (s : State) : s.watch.scCount = s.scCount := by obtain ⟨vs, h⟩ := s.watch_eq; rw [h]
@[simp] theorem State.watch_scSkip (s : State) : s.watch.scSkip = s.scSkip := by obtain ⟨vs, h⟩ := s.watch_eq; rw [h]
@[simp] theorem State.watch_outbox (s : State) : s.watch.outbox = s.outbox := by obtain ⟨vs, h⟩ := s.watch_eq; rw [h]
@[simp] theorem State.watch_powerMw (s : State) : s.watch.powerMw = s.powerMw := by obtain ⟨vs, h⟩ := s.watch_eq; rw [h]
@[simp] theorem State.watch_tempC (s : State) : s.watch.tempC = s.tempC := by obtain ⟨vs, h⟩ := s.watch_eq; rw [h]
@[simp] theorem State.watch_held (s : State) : s.watch.held = s.held := by obtain ⟨vs, h⟩ := s.watch_eq; rw [h]
@[simp] theorem State.watch_overTemp (s : State) : s.watch.overTemp = s.overTemp := by obtain ⟨vs, h⟩ := s.watch_eq; rw [h]
@[simp] theorem State.watch_boot (s : State) : s.watch.boot = s.boot := by obtain ⟨vs, h⟩ := s.watch_eq; rw [h]
@[simp] theorem State.watch_measure0 (s : State) : s.watch.measure0 = s.measure0 := by obtain ⟨vs, h⟩ := s.watch_eq; rw [h]
@[simp] theorem State.watch_deviceKey (s : State) : s.watch.deviceKey = s.deviceKey := by obtain ⟨vs, h⟩ := s.watch_eq; rw [h]
@[simp] theorem State.watch_flash (s : State) : s.watch.flash = s.flash := by obtain ⟨vs, h⟩ := s.watch_eq; rw [h]
@[simp] theorem State.watch_ports (s : State) : s.watch.ports = s.ports := by obtain ⟨vs, h⟩ := s.watch_eq; rw [h]
@[simp] theorem State.watch_endpoint (s : State) : s.watch.endpoint = s.endpoint := by obtain ⟨vs, h⟩ := s.watch_eq; rw [h]
@[simp] theorem State.watch_windowAt (s : State) : s.watch.windowAt = s.windowAt := by obtain ⟨vs, h⟩ := s.watch_eq; rw [h]
@[simp] theorem State.watch_activity (s : State) : s.watch.activity = s.activity := by obtain ⟨vs, h⟩ := s.watch_eq; rw [h]
@[simp] theorem State.watch_recordOk (s : State) : s.watch.recordOk = s.recordOk := by obtain ⟨vs, h⟩ := s.watch_eq; rw [h]
@[simp] theorem State.watch_speedGrade (s : State) : s.watch.speedGrade = s.speedGrade := by obtain ⟨vs, h⟩ := s.watch_eq; rw [h]
@[simp] theorem State.watch_gddrMiB (s : State) : s.watch.gddrMiB = s.gddrMiB := by obtain ⟨vs, h⟩ := s.watch_eq; rw [h]
@[simp] theorem State.watch_retired (s : State) : s.watch.retired = s.retired := by obtain ⟨vs, h⟩ := s.watch_eq; rw [h]
@[simp] theorem State.watch_dropped (s : State) : s.watch.dropped = s.dropped := by obtain ⟨vs, h⟩ := s.watch_eq; rw [h]

end Sys2Proof.Machine
end

