-- ==== Sys2Proof/Tests/Slice0.lean ====
section
/-!
SUPPORT. The model's own tests: words of the spec's encodings and what they decode to, terms and words that are refused,
one step of each instruction on a small state, and for each statement states that meet its hypotheses.
-/

namespace Sys2Proof.Tests
open Sys2Proof Sys2Proof.Machine

set_option Elab.async false

/-! ### Words of the encodings, bit by bit -/

theorem test_decode_alu :
    decode 0b10000000_100101_010110_001011_000000 = .ok (.add 37 22 11) ∧
    decode 0b10000000_100101_010110_001011_000001 = .ok (.sub 37 22 11) ∧
    decode 0b10000000_100101_010110_001011_000010 = .ok (.mul 37 22 11) ∧
    decode 0b10000000_100101_010110_001011_000011 = .ok (.mulh 37 22 11) ∧
    decode 0b10000000_100101_010110_001011_000100 = .ok (.mulhu 37 22 11) ∧
    decode 0b10000000_100101_010110_001011_000101 = .ok (.div 37 22 11) ∧
    decode 0b10000000_100101_010110_001011_000110 = .ok (.divu 37 22 11) ∧
    decode 0b10000000_100101_010110_001011_000111 = .ok (.rem 37 22 11) ∧
    decode 0b10000000_100101_010110_001011_001000 = .ok (.remu 37 22 11) ∧
    decode 0b10000000_100101_010110_001011_001001 = .ok (.and 37 22 11) ∧
    decode 0b10000000_100101_010110_001011_001010 = .ok (.or 37 22 11) ∧
    decode 0b10000000_100101_010110_001011_001011 = .ok (.xor 37 22 11) ∧
    decode 0b10000000_100101_010110_001011_001100 = .ok (.shl 37 22 11) ∧
    decode 0b10000000_100101_010110_001011_001101 = .ok (.shr 37 22 11) ∧
    decode 0b10000000_100101_010110_001011_001110 = .ok (.sar 37 22 11) ∧
    decode 0b10000000_100101_010110_001011_001111 = .ok (.slt 37 22 11) ∧
    decode 0b10000000_100101_010110_001011_010000 = .ok (.sltu 37 22 11) ∧
    decode 0b10000000_100101_010110_001011_010001 = .ok (.min 37 22 11) ∧
    decode 0b10000000_100101_010110_001011_010010 = .ok (.max 37 22 11) ∧
    decode 0b10000000_100101_010110_001011_010011 = .ok (.minu 37 22 11) ∧
    decode 0b10000000_100101_010110_001011_010100 = .ok (.maxu 37 22 11) ∧
    decode 0b10000000_100101_010110_000000010101 = .ok (.clz 37 22) ∧
    decode 0b10000000_100101_010110_000000010110 = .ok (.popc 37 22) := by
  refine ⟨?_, ?_, ?_, ?_, ?_, ?_, ?_, ?_, ?_, ?_, ?_, ?_, ?_, ?_, ?_, ?_, ?_, ?_, ?_, ?_, ?_, ?_, ?_⟩ <;> rfl

theorem test_decode_immediate :
    decode 0b10000001_100101_010110_110000110101 = .ok (.addi 37 22 3125) ∧
    decode 0b10000010_100101_010110_110000110101 = .ok (.andi 37 22 3125) ∧
    decode 0b10000011_100101_010110_110000110101 = .ok (.ori 37 22 3125) ∧
    decode 0b10000100_100101_010110_110000110101 = .ok (.xori 37 22 3125) ∧
    decode 0b10000101_100101_010110_000000_101011 = .ok (.shli 37 22 43) ∧
    decode 0b10000110_100101_010110_000000_101011 = .ok (.shri 37 22 43) ∧
    decode 0b10000111_100101_010110_000000_101011 = .ok (.sari 37 22 43) ∧
    decode 0b10001000_100101_010110_110000110101 = .ok (.slti 37 22 3125) ∧
    decode 0b10001001_100101_010110_110000110101 = .ok (.sltiu 37 22 3125) ∧
    decode 0b10001010_100101_101010010111110001 = .ok (.lui 37 173553) := by
  refine ⟨?_, ?_, ?_, ?_, ?_, ?_, ?_, ?_, ?_, ?_⟩ <;> rfl

theorem test_decode_branch :
    decode 0b10001011_010110_001011_110000110101 = .ok (.beq 22 11 3125) ∧
    decode 0b10001100_010110_001011_110000110101 = .ok (.bne 22 11 3125) ∧
    decode 0b10001101_010110_001011_110000110101 = .ok (.blt 22 11 3125) ∧
    decode 0b10001110_010110_001011_110000110101 = .ok (.bge 22 11 3125) ∧
    decode 0b10001111_010110_001011_110000110101 = .ok (.bltu 22 11 3125) ∧
    decode 0b10010000_010110_001011_110000110101 = .ok (.bgeu 22 11 3125) ∧
    decode 0b10010001_100101_101010010111110001 = .ok (.jal 37 173553) ∧
    decode 0b10010010_100101_010110_110000110101 = .ok (.jalr 37 22 3125) := by
  refine ⟨?_, ?_, ?_, ?_, ?_, ?_, ?_, ?_⟩ <;> rfl

theorem test_decode_memory :
    decode 0b10010011_100101_1001_010110_10110110 = .ok (.ldb 37 9 22 182) ∧
    decode 0b10010100_100101_1001_010110_10110110 = .ok (.ldh 37 9 22 182) ∧
    decode 0b10010101_100101_1001_010110_10110110 = .ok (.ldw 37 9 22 182) ∧
    decode 0b10010110_100101_1001_010110_10110110 = .ok (.ldd 37 9 22 182) ∧
    decode 0b10010111_100101_1001_010110_10110110 = .ok (.ldbu 37 9 22 182) ∧
    decode 0b10011000_100101_1001_010110_10110110 = .ok (.ldhu 37 9 22 182) ∧
    decode 0b10011001_100101_1001_010110_10110110 = .ok (.ldwu 37 9 22 182) ∧
    decode 0b10011010_100101_1001_010110_10110110 = .ok (.stb 37 9 22 182) ∧
    decode 0b10011011_100101_1001_010110_10110110 = .ok (.sth 37 9 22 182) ∧
    decode 0b10011100_100101_1001_010110_10110110 = .ok (.stw 37 9 22 182) ∧
    decode 0b10011101_100101_1001_010110_10110110 = .ok (.std 37 9 22 182) ∧
    decode 0b10011110_100101_1001_010110_10110110 = .ok (.lda 37 9 22 182) ∧
    decode 0b10011111_100101_1001_010110_10110110 = .ok (.stl 37 9 22 182) := by
  refine ⟨?_, ?_, ?_, ?_, ?_, ?_, ?_, ?_, ?_, ?_, ?_, ?_, ?_⟩ <;> rfl

theorem test_decode_atomic :
    decode 0b10100000_100101_1001_010110_001011_1_1 = .ok (.amoadd 37 9 22 11 true true) ∧
    decode 0b10100001_100101_1001_010110_001011_1_1 = .ok (.amoswp 37 9 22 11 true true) ∧
    decode 0b10100010_100101_1001_010110_001011_1_1 = .ok (.amocas 37 9 22 11 true true) ∧
    decode 0b10100011_100101_1001_010110_001011_1_1 = .ok (.amomin 37 9 22 11 true true) ∧
    decode 0b10100100_100101_1001_010110_001011_1_1 = .ok (.amomax 37 9 22 11 true true) ∧
    decode 0b10100101_100101_1001_010110_001011_1_1 = .ok (.amoand 37 9 22 11 true true) ∧
    decode 0b10100110_100101_1001_010110_001011_1_1 = .ok (.amoor 37 9 22 11 true true) ∧
    decode 0b10100111_100101_1001_010110_001011_1_1 = .ok (.amoxor 37 9 22 11 true true) := by
  refine ⟨?_, ?_, ?_, ?_, ?_, ?_, ?_, ?_⟩ <;> rfl

theorem test_decode_capability :
    decode 0b1010100000_0101_1001_010110_10110110 = .ok (.cld 5 9 22 182) ∧
    decode 0b1010100100_0101_1001_010110_10110110 = .ok (.cst 5 9 22 182) ∧
    decode 0b1010101000_0101_00_0110_001011_000000 = .ok (.csetb 5 6 11) ∧
    decode 0b1010101100_0101_00_0110_001011_000000 = .ok (.candp 5 6 11) ∧
    decode 0b10101100_100101_00_0110_000000_000101 = .ok (.cget 37 6 .otype) ∧
    decode 0b1010110100_0101_00_0110_000000000000 = .ok (.cmov 5 6) := by
  refine ⟨?_, ?_, ?_, ?_, ?_, ?_⟩ <;> rfl

theorem test_decode_fibre :
    decode 0b10101110_100101_1001_010110_00000000 = .ok (.fnew 37 9 22) ∧
    decode 0b10101111_100101_1001_010110_00000000 = .ok (.ffree 37 9 22) ∧
    decode 0b10110000_100101_1001_010110_001011_10 = .ok (.fmrg 37 9 22 11 2) ∧
    decode 0b10110001_100101_1001_010110_001011_10 = .ok (.fscan 37 9 22 11 2) ∧
    decode 0b10110010_100101_1001_010110_001011_10 = .ok (.fprobe 37 9 22 11 2) ∧
    decode 0b10110011_100101_1001_010110_001011_10 = .ok (.fdel 37 9 22 11 2) ∧
    decode 0b10110100_100101_1001_010110_00000000 = .ok (.finfo 37 9 22) := by
  refine ⟨?_, ?_, ?_, ?_, ?_, ?_, ?_⟩ <;> rfl

theorem test_decode_launch_and_remote :
    decode 0b10110101_100101_00_0110_001011_000000 = .ok (.launch 37 6 11) ∧
    decode 0b10110110_100101_00_0110_001011_000000 = .ok (.splice 37 6 11) ∧
    decode 0b10110111_100101_010110_000000000000 = .ok (.preempt 37 22) ∧
    decode 0b10111000_100101_00_0110_001011_000000 = .ok (.resume 37 6 11) ∧
    decode 0b10111001_100101_00_0110_001011_000000 = .ok (.cfgld 37 6 11) ∧
    decode 0b10111010_100101_000000000000000000 = .ok (.evpopPoll 37) ∧
    decode 0b10111010_100101_000000000000000001 = .ok (.evpopWait 37) ∧
    decode 0b10111011_100101_1001_1_10011_001011_10 = .ok (.rcall 37 9 true 19 11 2) ∧
    decode 0b10111100_100101_010110_001011_000000 = .ok (.rwait 37 22 11) ∧
    decode 0b10111101_100101_010110_001011_000000 = .ok (.rret 37 22 11) ∧
    decode 0b1011110100000000_0110_001011_000001 = .ok (.rfwd 6 11) ∧
    decode 0b10111110000000000000000000_000011 = .ok (.fence .die) := by
  refine ⟨?_, ?_, ?_, ?_, ?_, ?_, ?_, ?_, ?_, ?_, ?_, ?_⟩ <;> rfl

theorem test_decode_system :
    decode 0b10111111000000_100110100101_000000 = .ok (.trap 2469) ∧
    decode 0b10111111000000000000000000000001 = .ok (.eret) ∧
    decode 0b10111111_100101_100110100101_000010 = .ok (.sysrd 37 2469) ∧
    decode 0b10111111_100101_100110100101_000011 = .ok (.syswr 37 2469) ∧
    decode 0b10111111000000000000000000000100 = .ok (.wfe) ∧
    decode 0b10111111000000000000000000000101 = .ok (.sev) ∧
    decode 0b10111111000000000000000000000110 = .ok (.halt) ∧
    decode 0b10111111000000_010110_001011_000111 = .ok (.tlbi 22 11) ∧
    decode 0b10111111_100101_010110_001011_001000 = .ok (.crc 37 22 11) ∧
    decode 0b10111111_100101_00_0110_001011_001001 = .ok (.vsig 37 6 11) ∧
    decode 0b10111111_100101_00_0110_001011_001010 = .ok (.ldsc 37 6 11) ∧
    decode 0b10111111_100101_00_0110_001011_001011 = .ok (.stsc 37 6 11) ∧
    decode 0b10111111_100101_00_0110_001011_001100 = .ok (.cfgchk 37 6 11) ∧
    decode 0b10111111_100101_010110_000000001101 = .ok (.cfgclr 37 22) ∧
    decode 0b10111111_100101_010110_000000001110 = .ok (.barw 37 22) ∧
    decode 0b10111111000000000000000000001111 = .ok (.ifence) ∧
    decode 0b10111111_100101_010110_001011_010000 = .ok (.sbind 37 22 11) ∧
    decode 0b10111111_100101_010110_000000010001 = .ok (.sbar 37 22) ∧
    decode 0b10111111_100101_000000000000010010 = .ok (.cyc 37) := by
  refine ⟨?_, ?_, ?_, ?_, ?_, ?_, ?_, ?_, ?_, ?_, ?_, ?_, ?_, ?_, ?_, ?_, ?_, ?_, ?_⟩ <;> rfl

theorem test_decode_cell_dataflow :
    decode 0b00000000001111111111111111110000 = .ok (.nop) ∧
    decode 0b00000001_10_1111111111111111110000 = .ok (.bx ⟨.onFalse, ⟨.out, 127⟩, ⟨.out, 127⟩, 0⟩) ∧
    decode 0b00000010_10_0_10101_0000000000000000 = .ok (.bxi ⟨.onFalse, 21⟩) ∧
    decode 0b00000011_10_0000000000000000000000 = .ok (.bend ⟨.onFalse, 0⟩) ∧
    decode 0b00000100_10_011000101_111000010_0000 = .ok (.mov ⟨.onFalse, ⟨.r, 69⟩, ⟨.out, 66⟩, 0⟩) ∧
    decode 0b00000101_10_011000101_1101001011100 = .ok (.movi ⟨.onFalse, ⟨.r, 69⟩, 6748⟩) ∧
    decode 0b00000110_10_011000101_1101001011100 = .ok (.movh ⟨.onFalse, ⟨.r, 69⟩, 6748⟩) ∧
    decode 0b00000111_10_011000101_111000010_0000 = .ok (.null ⟨.onFalse, ⟨.r, 69⟩, ⟨.out, 66⟩, 0⟩) ∧
    decode 0b00001000_10_011000101_111000010_0000 = .ok (.iota ⟨.onFalse, ⟨.r, 69⟩, ⟨.out, 66⟩, 0⟩) ∧
    decode 0b00001001_10_011000101_111000010_0000 = .ok (.cid ⟨.onFalse, ⟨.r, 69⟩, ⟨.out, 66⟩, 0⟩) ∧
    decode 0b00001010_10_011000101_111000010_0000 = .ok (.cellCyc ⟨.onFalse, ⟨.r, 69⟩, ⟨.out, 66⟩, 0⟩) ∧
    decode 0b00001011_10_1111111111111111110000 = .ok (.cellTrap ⟨.onFalse, ⟨.out, 127⟩, ⟨.out, 127⟩, 0⟩) ∧
    decode 0b00001100_10_011000101_111000010_0110 = .ok (.testk ⟨.onFalse, ⟨.r, 69⟩, ⟨.out, 66⟩, 6⟩) ∧
    decode 0b0000110111_011000101_111000010_0000 = .ok (.sel ⟨.third, ⟨.r, 69⟩, ⟨.out, 66⟩, 0⟩) ∧
    decode 0b00001110_10_011000101_111000010_0000 = .ok (.setv ⟨.onFalse, ⟨.r, 69⟩, ⟨.out, 66⟩, 0⟩) ∧
    decode 0b00001111_10_011000101_111000010_0000 = .ok (.getv ⟨.onFalse, ⟨.r, 69⟩, ⟨.out, 66⟩, 0⟩) := by
  refine ⟨?_, ?_, ?_, ?_, ?_, ?_, ?_, ?_, ?_, ?_, ?_, ?_, ?_, ?_, ?_, ?_⟩ <;> rfl

theorem test_decode_cell_integer :
    decode 0b00010000_10_011000101_111000010_1001 = .ok (.cellAdd ⟨.onFalse, ⟨.r, 69⟩, ⟨.out, 66⟩, 9⟩) ∧
    decode 0b00010001_10_011000101_111000010_1010 = .ok (.cellSub ⟨.onFalse, ⟨.r, 69⟩, ⟨.out, 66⟩, 10⟩) ∧
    decode 0b00010010_10_011000101_111000010_0010 = .ok (.cellMul ⟨.onFalse, ⟨.r, 69⟩, ⟨.out, 66⟩, 2⟩) ∧
    decode 0b00010011_10_011000101_111000010_0101 = .ok (.cellMulh ⟨.onFalse, ⟨.r, 69⟩, ⟨.out, 66⟩, 5⟩) ∧
    decode 0b00010100_10_011000101_111000010_0110 = .ok (.cellMin ⟨.onFalse, ⟨.r, 69⟩, ⟨.out, 66⟩, 6⟩) ∧
    decode 0b00010101_10_011000101_111000010_0100 = .ok (.cellMax ⟨.onFalse, ⟨.r, 69⟩, ⟨.out, 66⟩, 4⟩) ∧
    decode 0b00010110_10_011000101_111000010_0000 = .ok (.cellAnd ⟨.onFalse, ⟨.r, 69⟩, ⟨.out, 66⟩, 0⟩) ∧
    decode 0b00010111_10_011000101_111000010_0000 = .ok (.cellOr ⟨.onFalse, ⟨.r, 69⟩, ⟨.out, 66⟩, 0⟩) ∧
    decode 0b00011000_10_011000101_111000010_0000 = .ok (.cellXor ⟨.onFalse, ⟨.r, 69⟩, ⟨.out, 66⟩, 0⟩) ∧
    decode 0b00011001_10_011000101_111000010_0001 = .ok (.cellShl ⟨.onFalse, ⟨.r, 69⟩, ⟨.out, 66⟩, 1⟩) ∧
    decode 0b00011010_10_011000101_111000010_0110 = .ok (.cellShr ⟨.onFalse, ⟨.r, 69⟩, ⟨.out, 66⟩, 6⟩) ∧
    decode 0b00011011_10_011000101_111000010_0010 = .ok (.cellSar ⟨.onFalse, ⟨.r, 69⟩, ⟨.out, 66⟩, 2⟩) ∧
    decode 0b00011100_10_011000101_111000010_0001 = .ok (.cellClz ⟨.onFalse, ⟨.r, 69⟩, ⟨.out, 66⟩, 1⟩) ∧
    decode 0b00011101_10_011000101_111000010_0010 = .ok (.cellPopc ⟨.onFalse, ⟨.r, 69⟩, ⟨.out, 66⟩, 2⟩) ∧
    decode 0b00011110_10_011000101_111000010_0_101 = .ok (.cmp ⟨.onFalse, ⟨.r, 69⟩, ⟨.out, 66⟩, 5⟩) := by
  refine ⟨?_, ?_, ?_, ?_, ?_, ?_, ?_, ?_, ?_, ?_, ?_, ?_, ?_, ?_, ?_⟩ <;> rfl

theorem test_decode_cell_immediate :
    decode 0b00100000_10_011000101_1101001011100 = .ok (.cellAddi ⟨.onFalse, ⟨.r, 69⟩, 6748⟩) ∧
    decode 0b00100001_10_011000101_1101001011100 = .ok (.cellAndi ⟨.onFalse, ⟨.r, 69⟩, 6748⟩) ∧
    decode 0b00100010_10_011000101_1101001011100 = .ok (.cellOri ⟨.onFalse, ⟨.r, 69⟩, 6748⟩) ∧
    decode 0b00100011_10_011000101_1101001011100 = .ok (.cellShli ⟨.onFalse, ⟨.r, 69⟩, 6748⟩) ∧
    decode 0b00100100_10_011000101_1101001011100 = .ok (.cellShri ⟨.onFalse, ⟨.r, 69⟩, 6748⟩) ∧
    decode 0b00100101_10_011000101_1101001011100 = .ok (.cellSari ⟨.onFalse, ⟨.r, 69⟩, 6748⟩) := by
  refine ⟨?_, ?_, ?_, ?_, ?_, ?_⟩ <;> rfl

theorem test_decode_cell_float :
    decode 0b00110000_10_011000101_111000010_0000 = .ok (.fadd ⟨.onFalse, ⟨.r, 69⟩, ⟨.out, 66⟩, 0⟩) ∧
    decode 0b00110001_10_011000101_111000010_0000 = .ok (.fsub ⟨.onFalse, ⟨.r, 69⟩, ⟨.out, 66⟩, 0⟩) ∧
    decode 0b00110010_10_011000101_111000010_0000 = .ok (.fmul ⟨.onFalse, ⟨.r, 69⟩, ⟨.out, 66⟩, 0⟩) ∧
    decode 0b0011001111_011000101_111000010_0000 = .ok (.fma ⟨.third, ⟨.r, 69⟩, ⟨.out, 66⟩, 0⟩) ∧
    decode 0b00110100_10_011000101_111000010_0000 = .ok (.fmin ⟨.onFalse, ⟨.r, 69⟩, ⟨.out, 66⟩, 0⟩) ∧
    decode 0b00110101_10_011000101_111000010_0000 = .ok (.fmax ⟨.onFalse, ⟨.r, 69⟩, ⟨.out, 66⟩, 0⟩) ∧
    decode 0b00110110_10_011000101_111000010_0001 = .ok (.fabs ⟨.onFalse, ⟨.r, 69⟩, ⟨.out, 66⟩, 1⟩) ∧
    decode 0b00110111_10_011000101_111000010_0001 = .ok (.fcmp ⟨.onFalse, ⟨.r, 69⟩, ⟨.out, 66⟩, 1⟩) ∧
    decode 0b00111000_10_011000101_111000010_0001 = .ok (.fcvt ⟨.onFalse, ⟨.r, 69⟩, ⟨.out, 66⟩, 1⟩) ∧
    decode 0b00111001_10_011000101_111000010_0001 = .ok (.unpk ⟨.onFalse, ⟨.r, 69⟩, ⟨.out, 66⟩, 1⟩) ∧
    decode 0b00111010_10_011000101_111000010_0001 = .ok (.pack ⟨.onFalse, ⟨.r, 69⟩, ⟨.out, 66⟩, 1⟩) ∧
    decode 0b00111011_10_011000101_111000010_0000 = .ok (.fexp2 ⟨.onFalse, ⟨.r, 69⟩, ⟨.out, 66⟩, 0⟩) ∧
    decode 0b00111100_10_011000101_111000010_0000 = .ok (.flog2 ⟨.onFalse, ⟨.r, 69⟩, ⟨.out, 66⟩, 0⟩) ∧
    decode 0b00111101_10_011000101_111000010_0000 = .ok (.frcp ⟨.onFalse, ⟨.r, 69⟩, ⟨.out, 66⟩, 0⟩) ∧
    decode 0b00111110_10_011000101_111000010_0000 = .ok (.frsq ⟨.onFalse, ⟨.r, 69⟩, ⟨.out, 66⟩, 0⟩) ∧
    decode 0b00111111_10_011000101_111000010_0000 = .ok (.ftanh ⟨.onFalse, ⟨.r, 69⟩, ⟨.out, 66⟩, 0⟩) := by
  refine ⟨?_, ?_, ?_, ?_, ?_, ?_, ?_, ?_, ?_, ?_, ?_, ?_, ?_, ?_, ?_, ?_⟩ <;> rfl

theorem test_decode_cell_lane :
    decode 0b01000000_10_011000101_111000010_0001 = .ok (.radd ⟨.onFalse, ⟨.r, 69⟩, ⟨.out, 66⟩, 1⟩) ∧
    decode 0b01000001_10_011000101_111000010_0001 = .ok (.rmax ⟨.onFalse, ⟨.r, 69⟩, ⟨.out, 66⟩, 1⟩) ∧
    decode 0b01000010_10_011000101_111000010_0001 = .ok (.rmin ⟨.onFalse, ⟨.r, 69⟩, ⟨.out, 66⟩, 1⟩) ∧
    decode 0b01000011_10_011000101_111000010_0001 = .ok (.psum ⟨.onFalse, ⟨.r, 69⟩, ⟨.out, 66⟩, 1⟩) ∧
    decode 0b01000100_10_011000101_111000010_0000 = .ok (.perm ⟨.onFalse, ⟨.r, 69⟩, ⟨.out, 66⟩, 0⟩) ∧
    decode 0b01000101_10_011000101_111000010_1101 = .ok (.bcst ⟨.onFalse, ⟨.r, 69⟩, ⟨.out, 66⟩, 13⟩) ∧
    decode 0b01000110_10_011000101_111000010_1010 = .ok (.lsh ⟨.onFalse, ⟨.r, 69⟩, ⟨.out, 66⟩, 10⟩) ∧
    decode 0b01000111_10_011000101_111000010_0000 = .ok (.cmpk ⟨.onFalse, ⟨.r, 69⟩, ⟨.out, 66⟩, 0⟩) ∧
    decode 0b01001000_10_011000101_111000010_0000 = .ok (.expd ⟨.onFalse, ⟨.r, 69⟩, ⟨.out, 66⟩, 0⟩) ∧
    decode 0b01001001_10_011000101_111000010_0001 = .ok (.nzscan ⟨.onFalse, ⟨.r, 69⟩, ⟨.out, 66⟩, 1⟩) ∧
    decode 0b01001010_10_011000101_111000010_0001 = .ok (.join ⟨.onFalse, ⟨.r, 69⟩, ⟨.out, 66⟩, 1⟩) := by
  refine ⟨?_, ?_, ?_, ?_, ?_, ?_, ?_, ?_, ?_, ?_, ?_⟩ <;> rfl

theorem test_decode_cell_memory :
    decode 0b01010000_10_011000101_111000010_1001 = .ok (.ld ⟨.onFalse, ⟨.r, 69⟩, ⟨.out, 66⟩, 9⟩) ∧
    decode 0b01010001_10_011000101_111000010_1001 = .ok (.ldc ⟨.onFalse, ⟨.r, 69⟩, ⟨.out, 66⟩, 9⟩) ∧
    decode 0b01010010_10_011000101_111000010_1001 = .ok (.st ⟨.onFalse, ⟨.r, 69⟩, ⟨.out, 66⟩, 9⟩) ∧
    decode 0b01010011_10_011000101_111000010_1001 = .ok (.stc ⟨.onFalse, ⟨.r, 69⟩, ⟨.out, 66⟩, 9⟩) ∧
    decode 0b01010100_10_011000101_111000010_1001 = .ok (.atadd ⟨.onFalse, ⟨.r, 69⟩, ⟨.out, 66⟩, 9⟩) ∧
    decode 0b01010101_10_011000101_111000010_1001 = .ok (.atfadd ⟨.onFalse, ⟨.r, 69⟩, ⟨.out, 66⟩, 9⟩) ∧
    decode 0b01010110_10_011000101_111000010_1001 = .ok (.atmax ⟨.onFalse, ⟨.r, 69⟩, ⟨.out, 66⟩, 9⟩) ∧
    decode 0b01010111_10_011000101_111000010_1001 = .ok (.lookup ⟨.onFalse, ⟨.r, 69⟩, ⟨.out, 66⟩, 9⟩) ∧
    decode 0b01011000_10_011000101_111000010_1001 = .ok (.tagset ⟨.onFalse, ⟨.r, 69⟩, ⟨.out, 66⟩, 9⟩) ∧
    decode 0b01011001_10_011000101_111000010_1001 = .ok (.tagclr ⟨.onFalse, ⟨.r, 69⟩, ⟨.out, 66⟩, 9⟩) := by
  refine ⟨?_, ?_, ?_, ?_, ?_, ?_, ?_, ?_, ?_, ?_⟩ <;> rfl

theorem test_decode_cell_request :
    decode 0b01100000_10_111111111111111111_1001 = .ok (.cellFmrg ⟨.onFalse, ⟨.out, 127⟩, ⟨.out, 127⟩, 9⟩) ∧
    decode 0b01100001_10_011000101_111000010_1001 = .ok (.cellFprobe ⟨.onFalse, ⟨.r, 69⟩, ⟨.out, 66⟩, 9⟩) ∧
    decode 0b01100010_10_111111111111111111_1001 = .ok (.cellFscan ⟨.onFalse, ⟨.out, 127⟩, ⟨.out, 127⟩, 9⟩) ∧
    decode 0b01100011_10_011000101_111000010_0001 = .ok (.rcv ⟨.onFalse, ⟨.r, 69⟩, ⟨.out, 66⟩, 1⟩) ∧
    decode 0b01100100_10_011000101_111000010_0001 = .ok (.mark ⟨.onFalse, ⟨.r, 69⟩, ⟨.out, 66⟩, 1⟩) ∧
    decode 0b01100101_10_111111111111111111_1001 = .ok (.xreq ⟨.onFalse, ⟨.out, 127⟩, ⟨.out, 127⟩, 9⟩) ∧
    decode 0b01100110_10_111111111111111111_1001 = .ok (.cellRcall ⟨.onFalse, ⟨.out, 127⟩, ⟨.out, 127⟩, 9⟩) ∧
    decode 0b01100111_10_011000101_111000010_0001 = .ok (.joinp ⟨.onFalse, ⟨.r, 69⟩, ⟨.out, 66⟩, 1⟩) := by
  refine ⟨?_, ?_, ?_, ?_, ?_, ?_, ?_, ?_⟩ <;> rfl

theorem test_decode_cell_matrix :
    decode 0b0111000011_011000101_1111111110000 = .ok (.mma ⟨.third, ⟨.r, 69⟩, ⟨.out, 127⟩, 0⟩) ∧
    decode 0b0111000111_011000101_1111111110000 = .ok (.mmas ⟨.third, ⟨.r, 69⟩, ⟨.out, 127⟩, 0⟩) ∧
    decode 0b0111001011_011000101_1111111110000 = .ok (.mmap ⟨.third, ⟨.r, 69⟩, ⟨.out, 127⟩, 0⟩) ∧
    decode 0b01110011_10_011000101_111000010_0000 = .ok (.accrd ⟨.onFalse, ⟨.r, 69⟩, ⟨.out, 66⟩, 0⟩) ∧
    decode 0b01110100_10_1111111111111111110000 = .ok (.accz ⟨.onFalse, ⟨.out, 127⟩, ⟨.out, 127⟩, 0⟩) := by
  refine ⟨?_, ?_, ?_, ?_, ?_⟩ <;> rfl

/-! ### Terms and words that are refused -/

/-- A C3 word without targets, in a predicate mode. -/
def ill (pm : Pm) (m : Fin 16) : C3 := ⟨pm, .none, .none, m⟩

/-- Item 2: a third operand that the instruction does not take, or one that it needs and is not given (R20). -/
theorem test_ill_mode_1 : (
    [.bx (ill .third 0), .mov (ill .third 0), .null (ill .third 0), .iota (ill .third 0), .cid (ill .third 0), .cellCyc (ill
      .third 0), .cellTrap (ill .third 0), .testk (ill .third 0), .sel (ill .always 0), .setv (ill .third 0), .getv (ill
      .third 0), .cellAdd (ill .third 0), .cellSub (ill .third 0), .cellMul (ill .third 0), .cellMulh (ill .third 0),
      .cellMin (ill .third 0), .cellMax (ill .third 0), .cellAnd (ill .third 0), .cellOr (ill .third 0), .cellXor (ill .third
      0), .cellShl (ill .third 0), .cellShr (ill .third 0), .cellSar (ill .third 0), .cellClz (ill .third 0), .cellPopc (ill
      .third 0), .cmp (ill .third 0), .fadd (ill .third 0), .fsub (ill .third 0)] : List Instr).map Instr.reject =
      List.replicate 28 (some (.item 2)) := by decide

/-- Item 2: a third operand that the instruction does not take, or one that it needs and is not given (R20). -/
theorem test_ill_mode_2 : (
    [.fmul (ill .third 0), .fma (ill .always 0), .fmin (ill .third 0), .fmax (ill .third 0), .fabs (ill .third 0), .fcmp (ill
      .third 0), .fcvt (ill .third 0), .unpk (ill .third 0), .pack (ill .third 0), .fexp2 (ill .third 0), .flog2 (ill .third
      0), .frcp (ill .third 0), .frsq (ill .third 0), .ftanh (ill .third 0), .radd (ill .third 0), .rmax (ill .third 0),
      .rmin (ill .third 0), .psum (ill .third 0), .perm (ill .third 0), .bcst (ill .third 0), .lsh (ill .third 0), .cmpk (ill
      .third 0), .expd (ill .third 0), .nzscan (ill .third 0), .join (ill .third 0), .rcv (ill .third 0), .mark (ill .third
      0), .xreq (ill .third 0)] : List Instr).map Instr.reject =
      List.replicate 28 (some (.item 2)) := by decide

/-- Item 2: a third operand that the instruction does not take, or one that it needs and is not given (R20). -/
theorem test_ill_mode_3 : (
    [.joinp (ill .third 0), .mma (ill .always 0), .mmas (ill .always 0), .mmap (ill .always 0), .accrd (ill .third 0), .accz
      (ill .third 0), .movi ⟨.third, .none, 0⟩, .movh ⟨.third, .none, 0⟩, .cellAddi ⟨.third, .none, 0⟩, .cellAndi ⟨.third,
      .none, 0⟩, .cellOri ⟨.third, .none, 0⟩, .cellShli ⟨.third, .none, 0⟩, .cellShri ⟨.third, .none, 0⟩, .cellSari ⟨.third,
      .none, 0⟩, .bxi ⟨.third, 0⟩, .bend ⟨.third, 0⟩] : List Instr).map Instr.reject =
      List.replicate 16 (some (.item 2)) := by decide

/-- Item 3: the lowest modifier that the instruction does not define. -/
theorem test_ill_modifier_1 : (
    [.bx (ill .always 1), .mov (ill .always 1), .null (ill .always 1), .iota (ill .always 1), .cid (ill .always 1), .cellCyc
      (ill .always 1), .cellTrap (ill .always 1), .testk (ill .always 13), .sel (ill .third 1), .setv (ill .always 1), .getv
      (ill .always 1), .cellAdd (ill .always 4), .cellSub (ill .always 4), .cellMul (ill .always 3), .cellMulh (ill .always
      8), .cellMin (ill .always 8), .cellMax (ill .always 8), .cellAnd (ill .always 3), .cellOr (ill .always 3), .cellXor
      (ill .always 3), .cellShl (ill .always 3), .cellShr (ill .always 8), .cellSar (ill .always 3), .cellClz (ill .always
      3), .cellPopc (ill .always 3), .cmp (ill .always 6), .fadd (ill .always 1), .fsub (ill .always 1)] : List Instr).map Instr.reject =
      List.replicate 28 (some (.item 3)) := by decide

/-- Item 3: the lowest modifier that the instruction does not define. -/
theorem test_ill_modifier_2 : (
    [.fmul (ill .always 1), .fma (ill .third 1), .fmin (ill .always 1), .fmax (ill .always 1), .fabs (ill .always 4), .fcmp
      (ill .always 5), .fcvt (ill .always 10), .unpk (ill .always 4), .pack (ill .always 3), .fexp2 (ill .always 1), .flog2
      (ill .always 1), .frcp (ill .always 1), .frsq (ill .always 1), .ftanh (ill .always 1), .radd (ill .always 2), .rmax
      (ill .always 3), .rmin (ill .always 3), .psum (ill .always 2), .perm (ill .always 1), .cmpk (ill .always 1), .expd (ill
      .always 1), .nzscan (ill .always 2), .join (ill .always 2), .rcv (ill .always 8), .mark (ill .always 13), .mma (ill
      .third 1), .mmas (ill .third 1), .mmap (ill .third 1)] : List Instr).map Instr.reject =
      List.replicate 28 (some (.item 3)) := by decide

/-- Item 3: the lowest modifier that the instruction does not define. -/
theorem test_ill_modifier_3 : (
    [.accrd (ill .always 1), .accz (ill .always 1)] : List Instr).map Instr.reject =
      List.replicate 2 (some (.item 3)) := by decide

/-- Item 5: the first and the last undefined target (R21). -/
theorem test_ill_target_1 : (
    [.bx ⟨.always, ⟨.out, 70⟩, .none, 0⟩, .bx ⟨.always, .none, ⟨.out, 126⟩, 0⟩, .mov ⟨.always, ⟨.out, 70⟩, .none, 0⟩, .mov
      ⟨.always, .none, ⟨.out, 126⟩, 0⟩, .null ⟨.always, ⟨.out, 70⟩, .none, 0⟩, .null ⟨.always, .none, ⟨.out, 126⟩, 0⟩, .iota
      ⟨.always, ⟨.out, 70⟩, .none, 0⟩, .iota ⟨.always, .none, ⟨.out, 126⟩, 0⟩, .cid ⟨.always, ⟨.out, 70⟩, .none, 0⟩, .cid
      ⟨.always, .none, ⟨.out, 126⟩, 0⟩, .cellCyc ⟨.always, ⟨.out, 70⟩, .none, 0⟩, .cellCyc ⟨.always, .none, ⟨.out, 126⟩, 0⟩,
      .cellTrap ⟨.always, ⟨.out, 70⟩, .none, 0⟩, .cellTrap ⟨.always, .none, ⟨.out, 126⟩, 0⟩, .testk ⟨.always, ⟨.out, 70⟩,
      .none, 0⟩, .testk ⟨.always, .none, ⟨.out, 126⟩, 0⟩, .sel ⟨.third, ⟨.out, 70⟩, .none, 0⟩, .sel ⟨.third, .none, ⟨.out,
      126⟩, 0⟩, .setv ⟨.always, ⟨.out, 70⟩, .none, 0⟩, .setv ⟨.always, .none, ⟨.out, 126⟩, 0⟩, .getv ⟨.always, ⟨.out, 70⟩,
      .none, 0⟩, .getv ⟨.always, .none, ⟨.out, 126⟩, 0⟩, .cellAdd ⟨.always, ⟨.out, 70⟩, .none, 0⟩, .cellAdd ⟨.always, .none,
      ⟨.out, 126⟩, 0⟩, .cellSub ⟨.always, ⟨.out, 70⟩, .none, 0⟩, .cellSub ⟨.always, .none, ⟨.out, 126⟩, 0⟩, .cellMul
      ⟨.always, ⟨.out, 70⟩, .none, 0⟩, .cellMul ⟨.always, .none, ⟨.out, 126⟩, 0⟩] : List Instr).map Instr.reject =
      List.replicate 28 (some (.item 5)) := by decide

/-- Item 5: the first and the last undefined target (R21). -/
theorem test_ill_target_2 : (
    [.cellMulh ⟨.always, ⟨.out, 70⟩, .none, 0⟩, .cellMulh ⟨.always, .none, ⟨.out, 126⟩, 0⟩, .cellMin ⟨.always, ⟨.out, 70⟩,
      .none, 0⟩, .cellMin ⟨.always, .none, ⟨.out, 126⟩, 0⟩, .cellMax ⟨.always, ⟨.out, 70⟩, .none, 0⟩, .cellMax ⟨.always,
      .none, ⟨.out, 126⟩, 0⟩, .cellAnd ⟨.always, ⟨.out, 70⟩, .none, 0⟩, .cellAnd ⟨.always, .none, ⟨.out, 126⟩, 0⟩, .cellOr
      ⟨.always, ⟨.out, 70⟩, .none, 0⟩, .cellOr ⟨.always, .none, ⟨.out, 126⟩, 0⟩, .cellXor ⟨.always, ⟨.out, 70⟩, .none, 0⟩,
      .cellXor ⟨.always, .none, ⟨.out, 126⟩, 0⟩, .cellShl ⟨.always, ⟨.out, 70⟩, .none, 0⟩, .cellShl ⟨.always, .none, ⟨.out,
      126⟩, 0⟩, .cellShr ⟨.always, ⟨.out, 70⟩, .none, 0⟩, .cellShr ⟨.always, .none, ⟨.out, 126⟩, 0⟩, .cellSar ⟨.always,
      ⟨.out, 70⟩, .none, 0⟩, .cellSar ⟨.always, .none, ⟨.out, 126⟩, 0⟩, .cellClz ⟨.always, ⟨.out, 70⟩, .none, 0⟩, .cellClz
      ⟨.always, .none, ⟨.out, 126⟩, 0⟩, .cellPopc ⟨.always, ⟨.out, 70⟩, .none, 0⟩, .cellPopc ⟨.always, .none, ⟨.out, 126⟩,
      0⟩, .cmp ⟨.always, ⟨.out, 70⟩, .none, 0⟩, .cmp ⟨.always, .none, ⟨.out, 126⟩, 0⟩, .fadd ⟨.always, ⟨.out, 70⟩, .none, 0⟩,
      .fadd ⟨.always, .none, ⟨.out, 126⟩, 0⟩, .fsub ⟨.always, ⟨.out, 70⟩, .none, 0⟩, .fsub ⟨.always, .none, ⟨.out, 126⟩, 0⟩] : List Instr).map Instr.reject =
      List.replicate 28 (some (.item 5)) := by decide

/-- Item 5: the first and the last undefined target (R21). -/
theorem test_ill_target_3 : (
    [.fmul ⟨.always, ⟨.out, 70⟩, .none, 0⟩, .fmul ⟨.always, .none, ⟨.out, 126⟩, 0⟩, .fma ⟨.third, ⟨.out, 70⟩, .none, 0⟩, .fma
      ⟨.third, .none, ⟨.out, 126⟩, 0⟩, .fmin ⟨.always, ⟨.out, 70⟩, .none, 0⟩, .fmin ⟨.always, .none, ⟨.out, 126⟩, 0⟩, .fmax
      ⟨.always, ⟨.out, 70⟩, .none, 0⟩, .fmax ⟨.always, .none, ⟨.out, 126⟩, 0⟩, .fabs ⟨.always, ⟨.out, 70⟩, .none, 0⟩, .fabs
      ⟨.always, .none, ⟨.out, 126⟩, 0⟩, .fcmp ⟨.always, ⟨.out, 70⟩, .none, 0⟩, .fcmp ⟨.always, .none, ⟨.out, 126⟩, 0⟩, .fcvt
      ⟨.always, ⟨.out, 70⟩, .none, 0⟩, .fcvt ⟨.always, .none, ⟨.out, 126⟩, 0⟩, .unpk ⟨.always, ⟨.out, 70⟩, .none, 0⟩, .unpk
      ⟨.always, .none, ⟨.out, 126⟩, 0⟩, .pack ⟨.always, ⟨.out, 70⟩, .none, 0⟩, .pack ⟨.always, .none, ⟨.out, 126⟩, 0⟩, .fexp2
      ⟨.always, ⟨.out, 70⟩, .none, 0⟩, .fexp2 ⟨.always, .none, ⟨.out, 126⟩, 0⟩, .flog2 ⟨.always, ⟨.out, 70⟩, .none, 0⟩,
      .flog2 ⟨.always, .none, ⟨.out, 126⟩, 0⟩, .frcp ⟨.always, ⟨.out, 70⟩, .none, 0⟩, .frcp ⟨.always, .none, ⟨.out, 126⟩, 0⟩,
      .frsq ⟨.always, ⟨.out, 70⟩, .none, 0⟩, .frsq ⟨.always, .none, ⟨.out, 126⟩, 0⟩, .ftanh ⟨.always, ⟨.out, 70⟩, .none, 0⟩,
      .ftanh ⟨.always, .none, ⟨.out, 126⟩, 0⟩] : List Instr).map Instr.reject =
      List.replicate 28 (some (.item 5)) := by decide

/-- Item 5: the first and the last undefined target (R21). -/
theorem test_ill_target_4 : (
    [.radd ⟨.always, ⟨.out, 70⟩, .none, 0⟩, .radd ⟨.always, .none, ⟨.out, 126⟩, 0⟩, .rmax ⟨.always, ⟨.out, 70⟩, .none, 0⟩,
      .rmax ⟨.always, .none, ⟨.out, 126⟩, 0⟩, .rmin ⟨.always, ⟨.out, 70⟩, .none, 0⟩, .rmin ⟨.always, .none, ⟨.out, 126⟩, 0⟩,
      .psum ⟨.always, ⟨.out, 70⟩, .none, 0⟩, .psum ⟨.always, .none, ⟨.out, 126⟩, 0⟩, .perm ⟨.always, ⟨.out, 70⟩, .none, 0⟩,
      .perm ⟨.always, .none, ⟨.out, 126⟩, 0⟩, .bcst ⟨.always, ⟨.out, 70⟩, .none, 0⟩, .bcst ⟨.always, .none, ⟨.out, 126⟩, 0⟩,
      .lsh ⟨.always, ⟨.out, 70⟩, .none, 0⟩, .lsh ⟨.always, .none, ⟨.out, 126⟩, 0⟩, .cmpk ⟨.always, ⟨.out, 70⟩, .none, 0⟩,
      .cmpk ⟨.always, .none, ⟨.out, 126⟩, 0⟩, .expd ⟨.always, ⟨.out, 70⟩, .none, 0⟩, .expd ⟨.always, .none, ⟨.out, 126⟩, 0⟩,
      .nzscan ⟨.always, ⟨.out, 70⟩, .none, 0⟩, .nzscan ⟨.always, .none, ⟨.out, 126⟩, 0⟩, .join ⟨.always, ⟨.out, 70⟩, .none,
      0⟩, .join ⟨.always, .none, ⟨.out, 126⟩, 0⟩, .ld ⟨.always, ⟨.out, 70⟩, .none, 0⟩, .ld ⟨.always, .none, ⟨.out, 126⟩, 0⟩,
      .ldc ⟨.always, ⟨.out, 70⟩, .none, 0⟩, .ldc ⟨.always, .none, ⟨.out, 126⟩, 0⟩, .st ⟨.always, ⟨.out, 70⟩, .none, 0⟩, .st
      ⟨.always, .none, ⟨.out, 126⟩, 0⟩] : List Instr).map Instr.reject =
      List.replicate 28 (some (.item 5)) := by decide

/-- Item 5: the first and the last undefined target (R21). -/
theorem test_ill_target_5 : (
    [.stc ⟨.always, ⟨.out, 70⟩, .none, 0⟩, .stc ⟨.always, .none, ⟨.out, 126⟩, 0⟩, .atadd ⟨.always, ⟨.out, 70⟩, .none, 0⟩,
      .atadd ⟨.always, .none, ⟨.out, 126⟩, 0⟩, .atfadd ⟨.always, ⟨.out, 70⟩, .none, 0⟩, .atfadd ⟨.always, .none, ⟨.out, 126⟩,
      0⟩, .atmax ⟨.always, ⟨.out, 70⟩, .none, 0⟩, .atmax ⟨.always, .none, ⟨.out, 126⟩, 0⟩, .lookup ⟨.always, ⟨.out, 70⟩,
      .none, 0⟩, .lookup ⟨.always, .none, ⟨.out, 126⟩, 0⟩, .tagset ⟨.always, ⟨.out, 70⟩, .none, 0⟩, .tagset ⟨.always, .none,
      ⟨.out, 126⟩, 0⟩, .tagclr ⟨.always, ⟨.out, 70⟩, .none, 0⟩, .tagclr ⟨.always, .none, ⟨.out, 126⟩, 0⟩, .cellFmrg ⟨.always,
      ⟨.out, 70⟩, .none, 0⟩, .cellFmrg ⟨.always, .none, ⟨.out, 126⟩, 0⟩, .cellFprobe ⟨.always, ⟨.out, 70⟩, .none, 0⟩,
      .cellFprobe ⟨.always, .none, ⟨.out, 126⟩, 0⟩, .cellFscan ⟨.always, ⟨.out, 70⟩, .none, 0⟩, .cellFscan ⟨.always, .none,
      ⟨.out, 126⟩, 0⟩, .rcv ⟨.always, ⟨.out, 70⟩, .none, 0⟩, .rcv ⟨.always, .none, ⟨.out, 126⟩, 0⟩, .mark ⟨.always, ⟨.out,
      70⟩, .none, 0⟩, .mark ⟨.always, .none, ⟨.out, 126⟩, 0⟩, .xreq ⟨.always, ⟨.out, 70⟩, .none, 0⟩, .xreq ⟨.always, .none,
      ⟨.out, 126⟩, 0⟩, .cellRcall ⟨.always, ⟨.out, 70⟩, .none, 0⟩, .cellRcall ⟨.always, .none, ⟨.out, 126⟩, 0⟩] : List Instr).map Instr.reject =
      List.replicate 28 (some (.item 5)) := by decide

/-- Item 5: the first and the last undefined target (R21). -/
theorem test_ill_target_6 : (
    [.joinp ⟨.always, ⟨.out, 70⟩, .none, 0⟩, .joinp ⟨.always, .none, ⟨.out, 126⟩, 0⟩, .mma ⟨.third, ⟨.out, 70⟩, .none, 0⟩,
      .mma ⟨.third, .none, ⟨.out, 126⟩, 0⟩, .mmas ⟨.third, ⟨.out, 70⟩, .none, 0⟩, .mmas ⟨.third, .none, ⟨.out, 126⟩, 0⟩,
      .mmap ⟨.third, ⟨.out, 70⟩, .none, 0⟩, .mmap ⟨.third, .none, ⟨.out, 126⟩, 0⟩, .accrd ⟨.always, ⟨.out, 70⟩, .none, 0⟩,
      .accrd ⟨.always, .none, ⟨.out, 126⟩, 0⟩, .accz ⟨.always, ⟨.out, 70⟩, .none, 0⟩, .accz ⟨.always, .none, ⟨.out, 126⟩, 0⟩,
      .movi ⟨.always, ⟨.out, 70⟩, 0⟩, .movh ⟨.always, ⟨.out, 70⟩, 0⟩, .cellAddi ⟨.always, ⟨.out, 70⟩, 0⟩, .cellAndi ⟨.always,
      ⟨.out, 70⟩, 0⟩, .cellOri ⟨.always, ⟨.out, 70⟩, 0⟩, .cellShli ⟨.always, ⟨.out, 70⟩, 0⟩, .cellShri ⟨.always, ⟨.out, 70⟩,
      0⟩, .cellSari ⟨.always, ⟨.out, 70⟩, 0⟩] : List Instr).map Instr.reject =
      List.replicate 20 (some (.item 5)) := by decide

/-- Item 7: a target of an instruction that sends no such result. -/
theorem test_ill_result : (
    [.bx ⟨.always, ⟨.l, 0⟩, .none, 0⟩, .bx ⟨.always, .none, ⟨.out, 0⟩, 0⟩, .cellTrap ⟨.always, ⟨.l, 0⟩, .none, 0⟩, .cellTrap
      ⟨.always, .none, ⟨.out, 0⟩, 0⟩, .atadd ⟨.always, .none, ⟨.out, 0⟩, 0⟩, .atfadd ⟨.always, .none, ⟨.out, 0⟩, 0⟩, .atmax
      ⟨.always, .none, ⟨.out, 0⟩, 0⟩, .cellFmrg ⟨.always, ⟨.l, 0⟩, .none, 0⟩, .cellFmrg ⟨.always, .none, ⟨.out, 0⟩, 0⟩,
      .cellFscan ⟨.always, ⟨.l, 0⟩, .none, 0⟩, .cellFscan ⟨.always, .none, ⟨.out, 0⟩, 0⟩, .xreq ⟨.always, ⟨.l, 0⟩, .none, 0⟩,
      .xreq ⟨.always, .none, ⟨.out, 0⟩, 0⟩, .cellRcall ⟨.always, ⟨.l, 0⟩, .none, 0⟩, .cellRcall ⟨.always, .none, ⟨.out, 0⟩,
      0⟩, .mma ⟨.third, .none, ⟨.out, 0⟩, 0⟩, .mmas ⟨.third, .none, ⟨.out, 0⟩, 0⟩, .mmap ⟨.third, .none, ⟨.out, 0⟩, 0⟩, .accz
      ⟨.always, ⟨.l, 0⟩, .none, 0⟩, .accz ⟨.always, .none, ⟨.out, 0⟩, 0⟩] : List Instr).map Instr.reject =
      List.replicate 20 (some (.item 7)) := by decide

/-- Item 9: BEND names block 0 only. -/
theorem test_ill_block : (Instr.bend ⟨.always, 1⟩).reject = some (.item 9) := by decide

/-- Register ranges past x63, at the first count that does not fit (R30); the last that does. -/
theorem test_ill_range :
    ([.fmrg 5 1 2 61 3, .fscan 5 1 2 60 3, .fprobe 5 1 2 61 3, .fdel 5 1 2 61 3, .evpopPoll 63, .evpopWait 63,
      .rcall 5 1 false 2 61 3, .rwait 5 1 63] : List Instr).map Instr.reject = List.replicate 8 (some .registerRange) ∧
    ([.fmrg 5 1 2 60 3, .fscan 5 1 2 59 3, .fprobe 5 1 2 60 3, .fdel 5 1 2 60 3, .evpopPoll 62, .evpopWait 62,
      .rcall 5 1 false 2 60 3, .rwait 5 1 62] : List Instr).map Instr.reject = List.replicate 8 none := by decide

/-- The decoder refuses by name: opcodes of no row, function codes, unused fields, capability numbers above 15, register
ranges, targets, and a word that is cut short (R18, R26, R30). -/
theorem test_refused :
    decode 0xFF000000 = .error .undefinedOpcode ∧ decode 0x7F000000 = .error (.item 1) ∧ decode 0xBF000013 = .error .undefinedFunction ∧
    decode 0x80000017 = .error .undefinedFunction ∧ decode 0xBF001001 = .error .unusedField ∧ decode 0x85000040 = .error .unusedField ∧
    decode 0xA8400000 = .error .capabilityField ∧ decode 0xB01442F7 = .error .registerRange ∧ decode 0x0438DFF0 = .error (.item 5) ∧
    decodeBytes [0x40, 0, 0x20] = .error .truncated := by
  refine ⟨?_, ?_, ?_, ?_, ?_, ?_, ?_, ?_, ?_, ?_⟩ <;> rfl

/-! ### Small states -/

/-- Core 0 in privileged mode, with some of its registers set. -/
def ctl (l : List (XReg × Word)) : State :=
  l.foldl (fun s p => s.setX (.core 0) p.1 p.2) (State.reset.onThread (.core 0))

/-- Core 0 in unprivileged mode. -/
def user : State :=
  let s := ctl []
  s.setThread (.core 0) { s.thread (.core 0) with priv := false }

/-- The next state, seen through f. -/
def after {α : Type} (f : State → α) : Res → Option α
  | .next t => some (f t)
  | _ => none

/-- x[d] after an instruction of core 0. -/
def outX (d : XReg) : Res → Option Word := after fun t => t.getX (.core 0) d

/-- x3 after an instruction of x1 and x2. -/
def alu (i : Instr) (a b : Word) : Option Word := outX 3 (exec i (ctl [(1, a), (2, b)]))

/-- Cause, KTVAL and pc after a trap of core 0 whose KTVEC is 0x400. -/
def trapped : Res → Option (Nat × Word × Word) := after fun t =>
  ((t.core 0).kcause.toNat, (t.core 0).ktval, (t.core 0).thread.pc)

def withVec (s : State) : State := s.setCore 0 { s.core 0 with ktvec := 0x400 }

/-! ### Control threads -/

/-- Sums and products wrap (R53); the values are worked out by hand. -/
theorem test_alu_arithmetic :
    alu (.add 3 1 2) 0xFFFFFFFFFFFFFFFF 2 = some 1 ∧ alu (.sub 3 1 2) 1 2 = some 0xFFFFFFFFFFFFFFFF ∧
    alu (.mul 3 1 2) 0x100000001 0x100000001 = some 0x200000001 ∧
    alu (.mulh 3 1 2) (-1) 5 = some (-1) ∧ alu (.mulhu 3 1 2) (-1) 5 = some 4 := by decide

/-- The division results of R54's table. -/
theorem test_alu_division :
    alu (.div 3 1 2) (-7) 2 = some (-3) ∧ alu (.div 3 1 2) 5 0 = some (-1) ∧
    alu (.div 3 1 2) 0x8000000000000000 (-1) = some 0x8000000000000000 ∧
    alu (.rem 3 1 2) (-7) 2 = some (-1) ∧ alu (.rem 3 1 2) 7 (-2) = some 1 ∧ alu (.rem 3 1 2) 5 0 = some 5 ∧
    alu (.rem 3 1 2) 0x8000000000000000 (-1) = some 0 ∧
    alu (.divu 3 1 2) 5 0 = some 0xFFFFFFFFFFFFFFFF ∧ alu (.divu 3 1 2) (-1) 2 = some 0x7FFFFFFFFFFFFFFF ∧
    alu (.remu 3 1 2) (-1) 10 = some 5 ∧ alu (.remu 3 1 2) 5 0 = some 5 := by decide

/-- Bits [63:6] of a shift amount are ignored, and SAR shifts in sign copies (R53). -/
theorem test_alu_logic :
    alu (.and 3 1 2) 12 10 = some 8 ∧ alu (.or 3 1 2) 12 10 = some 14 ∧ alu (.xor 3 1 2) 12 10 = some 6 ∧
    alu (.shl 3 1 2) 3 65 = some 6 ∧ alu (.shr 3 1 2) (-1) 127 = some 1 ∧ alu (.sar 3 1 2) (-8) 66 = some (-2) ∧
    alu (.slt 3 1 2) (-1) 1 = some 1 ∧ alu (.sltu 3 1 2) (-1) 1 = some 0 ∧
    alu (.min 3 1 2) (-1) 1 = some (-1) ∧ alu (.max 3 1 2) (-1) 1 = some 1 ∧
    alu (.minu 3 1 2) (-1) 1 = some 1 ∧ alu (.maxu 3 1 2) (-1) 1 = some (-1) ∧
    alu (.clz 3 1) 0 0 = some 64 ∧ alu (.clz 3 1) 1 0 = some 63 ∧ alu (.popc 3 1) (-1) 0 = some 64 := by decide

/-- The immediates are sign-extended, SLTIU's too (R55); LUI copies its top bit upward (R56). -/
theorem test_immediates :
    alu (.addi 3 1 0xFFF) 0 0 = some (-1) ∧ alu (.andi 3 1 0xFFF) 0xABCD 0 = some 0xABCD ∧
    alu (.ori 3 1 0x800) 0 0 = some 0xFFFFFFFFFFFFF800 ∧ alu (.xori 3 1 0xFFF) 0 0 = some (-1) ∧
    alu (.shli 3 1 63) 3 0 = some 0x8000000000000000 ∧ alu (.shri 3 1 63) (-1) 0 = some 1 ∧
    alu (.sari 3 1 63) (-5) 0 = some (-1) ∧ alu (.slti 3 1 0xFFF) (-2) 0 = some 1 ∧
    alu (.sltiu 3 1 0xFFF) 7 0 = some 1 ∧ alu (.sltiu 3 1 0xFFF) (-1) 0 = some 0 ∧
    alu (.lui 3 0x20000) 0 0 = some 0xFFFFFFFF80000000 ∧ alu (.lui 3 1) 0 0 = some 0x4000 := by decide

/-- Operands are read before the result is written, and x0 stays zero (R48, R49). -/
theorem test_alu_same_register :
    outX 1 (exec (.add 1 1 1) (ctl [(1, 21)])) = some 42 ∧ outX 0 (exec (.addi 0 1 5) (ctl [(1, 1)])) = some 0 := by decide

/-- The pc after an instruction of x1 and x2 at pc 0. -/
def pcOf (i : Instr) (a b : Word) : Option Word := after (fun t => (t.core 0).thread.pc) (exec i (ctl [(1, a), (2, b)]))

/-- Taken branches go to pc + 4 · offset, others to pc + 4 (R57). -/
theorem test_branches :
    pcOf (.beq 1 2 3) 5 5 = some 12 ∧ pcOf (.beq 1 2 3) 5 6 = some 4 ∧ pcOf (.bne 1 2 0xFFF) 5 6 = some (-4) ∧
    pcOf (.blt 1 2 3) (-1) 0 = some 12 ∧ pcOf (.bge 1 2 3) (-1) 0 = some 4 ∧ pcOf (.bge 1 2 3) 0 0 = some 12 ∧
    pcOf (.bltu 1 2 3) (-1) 0 = some 4 ∧ pcOf (.bgeu 1 2 3) (-1) 0 = some 12 := by decide

/-- JAL and JALR link pc + 4; the target is x[a] before the write (R58, R59). -/
theorem test_jumps :
    pcOf (.jal 62 37) 0 0 = some 148 ∧ outX 62 (exec (.jal 62 37) (ctl [])) = some 4 ∧
    pcOf (.jalr 1 1 4) 0x100 0 = some 0x110 ∧ outX 1 (exec (.jalr 1 1 4) (ctl [(1, 0x100)])) = some 4 := by decide

/-- JALR to an unaligned target raises MISALIGN and writes nothing (R59). -/
theorem test_jalr_misaligned :
    trapped (exec (.jalr 5 1 4) (withVec (ctl [(1, 0x101)]))) = some (7, 0x111, 0x400) ∧
    outX 5 (exec (.jalr 5 1 4) (ctl [(1, 0x101)])) = some 0 := by decide

/-! ### Memory of control threads -/

/-- Core 0 with a writable cached page at address 0, c1 over bytes 0x1000 to 0x1FFF of it, x1 = 8, and the bytes of
0x1008 given. -/
def memory (v : Nat) (l : List (XReg × Word)) : State :=
  let s := ctl ((1, 8) :: l)
  let s := { s with
    mem := s.mem.writeNat 0x1008 8 v
    tlb := [⟨.die 0, 0, 0, 2 ^ 30, 0, true, true, none, 0x2000, true⟩] }
  s.setC (.core 0) 1 (Cap.make 0x1000 .dense 0x1000 0xFF 0 0 true)

/-- The offset of a load is x[a] plus the immediate times the size, and its value is extended by its kind (R60). -/
theorem test_loads :
    outX 2 (exec (.ldb 2 1 1 1) (memory 0x8070605040308F10 [])) = some (-0x71) ∧
    outX 2 (exec (.ldbu 2 1 1 1) (memory 0x8070605040308F10 [])) = some 0x8F ∧
    outX 2 (exec (.ldh 2 1 1 3) (memory 0x8070605040308F10 [])) = some 0xFFFFFFFFFFFF8070 ∧
    outX 2 (exec (.ldhu 2 1 1 3) (memory 0x8070605040308F10 [])) = some 0x8070 ∧
    outX 2 (exec (.ldw 2 1 1 1) (memory 0x8070605040308F10 [])) = some 0xFFFFFFFF80706050 ∧
    outX 2 (exec (.ldwu 2 1 1 1) (memory 0x8070605040308F10 [])) = some 0x80706050 ∧
    outX 2 (exec (.ldd 2 1 0 1) (memory 0x8070605040308F10 [])) = some 0x8070605040308F10 ∧
    outX 2 (exec (.lda 2 1 1 0) (memory 0x8070605040308F10 [])) = some 0x8070605040308F10 := by decide

/-- The store queue of core 0 as addresses and bytes. -/
def queued : Res → Option (List (Nat × List Byte)) := after fun t => (t.core 0).storeQ.map fun q => (q.addr, q.bytes)

/-- A store puts the low bytes of x[d] into the store queue, the lowest first (R60, R65). -/
theorem test_stores :
    queued (exec (.stb 2 1 1 0xFF) (memory 0 [(2, 0x1122334455667788)])) = some [(0x1007, [0x88])] ∧
    queued (exec (.sth 2 1 1 1) (memory 0 [(2, 0x1122334455667788)])) = some [(0x100A, [0x88, 0x77])] ∧
    queued (exec (.stw 2 1 1 1) (memory 0 [(2, 0x1122334455667788)])) = some [(0x100C, [0x88, 0x77, 0x66, 0x55])] ∧
    queued (exec (.std 2 1 1 1) (memory 0 [(2, 0x1122334455667788)])) =
      some [(0x1010, [0x88, 0x77, 0x66, 0x55, 0x44, 0x33, 0x22, 0x11])] ∧
    queued (exec (.stl 2 1 1 1) (memory 0 [(2, 1)])) = some [(0x1010, [1, 0, 0, 0, 0, 0, 0, 0])] := by decide

/-- An access past the length raises BOUNDS with its offset; one that is not aligned MISALIGN with its address; one that
ends at the length is legal (R60). -/
theorem test_access_checks :
    trapped (exec (.ldd 2 1 1 0) (withVec (memory 0 [(1, 0xFF9)]))) = some (2, 0xFF9, 0x400) ∧
    trapped (exec (.ldd 2 1 1 0) (withVec (memory 0 [(1, 4)]))) = some (7, 0x1004, 0x400) ∧
    outX 2 (exec (.ldd 2 1 1 0) (memory 0 [(1, 0xFF8), (2, 5)])) = some 0 ∧
    trapped (exec (.ldd 2 3 1 0) (withVec (memory 0 []))) = some (4, 8, 0x400) := by decide

/-- Memory at 0x1008 and x2 after an atomic of x3 (and of x2 for AMOCAS) there. -/
def amo (i : Instr) (v : Nat) (d b : Word) : Option (Nat × Word) :=
  after (fun t => (t.mem.readNat 0x1008 8, t.getX (.core 0) 2)) (exec i (memory v [(2, d), (3, b)]))

/-- The atomics give the old value and store the new one; the 4-byte form leaves the other bytes and extends the old
value's sign (R330, R357). -/
theorem test_atomics :
    amo (.amoadd 2 1 1 3 true false) 5 0 7 = some (12, 5) ∧
    amo (.amoadd 2 1 1 3 false false) 0x1FFFFFFFF 0 2 = some (0x100000001, -1) ∧
    amo (.amoswp 2 1 1 3 true false) 5 0 7 = some (7, 5) ∧ amo (.amocas 2 1 1 3 true false) 5 5 7 = some (7, 5) ∧
    amo (.amocas 2 1 1 3 true false) 5 6 7 = some (5, 5) ∧ amo (.amomin 2 1 1 3 true false) 5 0 (-1) = some (2 ^ 64 - 1, 5) ∧
    amo (.amomax 2 1 1 3 true false) 5 0 (-1) = some (5, 5) ∧ amo (.amoand 2 1 1 3 true false) 12 0 10 = some (8, 12) ∧
    amo (.amoor 2 1 1 3 true false) 12 0 10 = some (14, 12) ∧ amo (.amoxor 2 1 1 3 true false) 12 0 10 = some (6, 12) := by
  decide

/-- c2 after an instruction, as base, length, permissions and tag. -/
def outC : Res → Option (Nat × Nat × Nat × Bool) := after fun t =>
  let c := t.getC (.core 0) 2
  (c.base, c.length, c.perms, c.tag)

/-- CSETB sets the length, or advances the base where bit 63 is 1; CANDP removes permissions; CMOV copies the tag
(R69 to R72). -/
theorem test_capabilities :
    outC (exec (.csetb 2 1 4) (memory 0 [(4, 0x100)])) = some (0x1000, 0x100, 0xFF, true) ∧
    outC (exec (.csetb 2 1 4) (memory 0 [(4, 0x8000000000000100)])) = some (0x1100, 0xF00, 0xFF, true) ∧
    outC (exec (.candp 2 1 4) (memory 0 [(4, 0xF03)])) = some (0x1000, 0x1000, 3, true) ∧
    outC (exec (.cmov 2 1) (memory 0 [])) = some (0x1000, 0x1000, 0xFF, true) ∧
    trapped (exec (.csetb 2 1 4) (withVec (memory 0 [(4, 0x1001)]))) = some (2, 0x1001, 0x400) := by decide

theorem test_cget :
    outX 5 (exec (.cget 5 1 .base) (memory 0 [])) = some 0x1000 ∧
    outX 5 (exec (.cget 5 1 .limit) (memory 0 [])) = some 0x2000 ∧
    outX 5 (exec (.cget 5 3 .tag) (memory 0 [(5, 9)])) = some 0 := by decide

/-- CST stores 16 bytes with the tag, and the CLD that follows sees them (R70). -/
theorem test_cld_cst :
    after (fun t => (t.core 0).storeQ.map fun q => (q.addr, q.tag)) (exec (.cst 1 1 0 2) (memory 0 [])) =
      some [(0x1020, true)] ∧
    outC (exec (.cld 2 1 0 2) (match exec (.cst 1 1 0 2) (memory 0 []) with
      | .next t => t
      | _ => State.reset)) = some (0x1000, 0x1000, 0xFF, true) := by decide

/-- FENCE performs the queued stores; LDSC reads and STSC writes memory at the token's visit (R66, R328, R358). -/
theorem test_ordered :
    (match exec (.std 2 1 1 1) (memory 0 [(2, 5)]) with
      | .next t => after (fun u => (u.mem.readNat 0x1010 8, (u.core 0).storeQ)) (exec (.fence .dev) t)
      | _ => none) = some (5, []) ∧
    outX 2 (exec (.ldsc 2 1 1) (memory 77 [])) = some 77 ∧
    after (fun t => t.mem.readNat 0x1008 8) (exec (.stsc 2 1 1) (memory 0 [(2, 9)])) = some 9 := by decide

/-! ### The system instructions -/

/-- TRAP takes cause 18 with its code; ERET goes to KEPC in the previous mode (R368, R394). -/
theorem test_trap_eret :
    trapped (exec (.trap 0x12) (withVec user)) = some (18, 0x12, 0x400) ∧
    after (fun t => ((t.core 0).prevPriv, (t.core 0).thread.priv)) (exec (.trap 0x12) user) = some (false, true) ∧
    after (fun t => ((t.core 0).thread.pc, (t.core 0).thread.priv))
      (exec .eret (let s := ctl []; s.setCore 0 { s.core 0 with kepc := 0x80, prevPriv := false })) = some (0x80, false) := by
  decide

/-- ERET in unprivileged mode raises ILLEGAL with its word, 0xBF000001 (R367, R393). -/
theorem test_eret_unprivileged : trapped (exec .eret (withVec user)) = some (1, 0xBF000001, 0x400) := by decide

/-- SYSRD and SYSWR: KTVEC and KEPC are multiples of 4; KCID is the core's number with its die in bit 4; KRTIME 0 means
1; a number outside the map is ILLEGAL (R388, R389). -/
theorem test_system_registers :
    after (fun t => (t.core 0).ktvec) (exec (.syswr 1 0x004) (ctl [(1, 0x407)])) = some 0x404 ∧
    after (fun t => (t.core 0).krtime) (exec (.syswr 1 0x050) (ctl [(1, 0x10000)])) = some 1 ∧
    after (fun t => t.getX (.core 18) 5) (exec (.sysrd 5 0x040) (State.reset.onThread (.core 18))) = some 18 ∧
    outX 5 (exec (.sysrd 5 0x000) (ctl [])) = some 1 ∧
    trapped (exec (.sysrd 5 0x006) (withVec (ctl []))) = some (1, 0xBF140182, 0x400) ∧
    trapped (exec (.syswr 0 0x030) (withVec (ctl []))) = some (1, 0xBF000C03, 0x400) := by decide

/-- The oldest record comes out first, low half in x[d]; an empty queue answers zeros to the poll form (R248). -/
theorem test_evpop :
    outX 5 (exec (.evpopPoll 5) (let s := ctl []; s.setCore 0 { s.core 0 with events := [0x10000000000000007, 9] })) = some 7 ∧
    outX 6 (exec (.evpopWait 5) (let s := ctl []; s.setCore 0 { s.core 0 with events := [0x10000000000000007, 9] })) = some 1 ∧
    outX 5 (exec (.evpopPoll 5) (ctl [(5, 3)])) = some 0 ∧ after (fun t => (t.core 0).thread.pc) (exec (.evpopWait 5) (ctl [])) = some 0 := by decide

/-- WFE goes on with the flag set, and clears it; SEV sets every flag of its die (R395). -/
theorem test_wfe_sev :
    after (fun t => ((t.core 0).event, (t.core 0).thread.pc))
      (exec .wfe (let s := ctl []; s.setCore 0 { s.core 0 with event := true })) = some (false, 4) ∧
    after (fun t => ((t.core 0).thread.pc, (t.core 0).wfeSince)) (exec .wfe (ctl [])) = some (0, some 0) ∧
    after (fun t => ((t.core 15).event, (t.core 16).event)) (exec .sev (ctl [])) = some (true, false) := by decide

/-- HALT stops the core where it stands (R396). -/
theorem test_halt :
    after (fun t => ((t.core 0).halted, (t.core 0).thread.pc)) (exec .halt ((ctl []).setCore 0 { Core.reset with halted := false }))
      = some (true, 0) := by decide

/-- The CRC32C of four zero bytes is 0x48674BC7 once the result is complemented (R400). -/
theorem test_crc : alu (.crc 3 1 2) 0xFFFFFFFF 0 = some 0xB798B438 := by decide

/-- CYC reads the die's counter, KCYCLE twice it (R389, R397). -/
theorem test_cyc :
    outX 5 (exec (.cyc 5) { ctl [] with cycle := 21 }) = some 21 ∧
    outX 5 (exec (.sysrd 5 0x030) { ctl [] with cycle := 21 }) = some 42 := by decide

/-- IFENCE forgets every fetched word (R398). -/
theorem test_ifence :
    after (fun t => (t.core 0).icache) (exec .ifence (let s := ctl []; s.setCore 0 { s.core 0 with icache := [(0, 1)] }))
      = some [] := by decide

set_option maxRecDepth 4000 in
/-- TLBI removes the pages that overlap its range, of the named tenant only (R399). -/
theorem test_tlbi :
    after (fun t => t.tlb.map (·.page)) (exec (.tlbi 1 2) (let s := ctl [(1, 0x5000), (2, 0x10000)]
      { s with tlb := [⟨.spire, 0, 0x4000, 4096, 0, true, true, none, 0, true⟩, ⟨.spire, 0, 0x5000, 4096, 0, true, true, none, 0, true⟩,
        ⟨.die 0, 0, 0, 2 ^ 21, 0, true, true, none, 0, true⟩, ⟨.spire, 1, 0x5000, 4096, 0, true, true, none, 0, true⟩] }))
      = some [0x4000, 0x5000] := by decide

/-! ### Fibre instructions, launches and calls of control threads -/

/-- Core 0 with a fibre capability in c1 over a cached page; x1 = 0. -/
def fibres (l : List (XReg × Word)) : State :=
  let s := ctl l
  let s := { s with tlb := [⟨.die 0, 0, 0, 2 ^ 30, 0, true, true, none, 0x2000, true⟩] }
  s.setC (.core 0) 1 (Cap.make 0x100000 .fibre 0x10000 0xFF 0 0 true)

/-- The operation and head address of the request that was sent. -/
def sentOp : Res → Option (List (FibreOp × Nat)) := after fun t => t.fibreReqs.map fun q => (q.op, q.va)

/-- Each fibre instruction sends its operation to the head row at 64 · x[a] (R110 to R115). -/
theorem test_fibre_instructions :
    sentOp (exec (.fnew 5 1 1) (fibres [(1, 0x101)])) = some [(.new 1 1 true, 0x100000)] ∧
    sentOp (exec (.ffree 5 1 1) (fibres [(1, 2)])) = some [(.free, 0x100080)] ∧
    sentOp (exec (.fmrg 5 1 1 8 1) (fibres [(1, 2), (8, 0x700000009), (9, 0x800000001)])) =
      some [(.merge [(7, 9), (8, 1)], 0x100080)] ∧
    sentOp (exec (.fscan 5 1 1 8 3) (fibres [(1, 2), (5, 0x4000000000000006)])) = some [(.scan 6 4 true, 0x100080)] ∧
    sentOp (exec (.fprobe 5 1 1 8 1) (fibres [(1, 2), (8, 0x700000000), (9, 0x800000000)])) = some [(.probe [7, 8], 0x100080)] ∧
    sentOp (exec (.fdel 5 1 1 8 0) (fibres [(1, 2), (8, 0x700000000)])) = some [(.delete [7], 0x100080)] ∧
    sentOp (exec (.finfo 5 1 1) (fibres [(1, 0x300000002)])) = some [(.info 3, 0x100080)] := by decide

/-- A head row outside the capability raises BOUNDS with its offset (R114). -/
theorem test_fibre_bounds : trapped (exec (.ffree 5 1 1) (withVec (fibres [(1, 0x400)]))) = some (2, 0x10000, 0x400) := by decide

/-- A binding whose first row lies above its last is BAD_DESC; a good one answers the old binding (R229). -/
theorem test_sbind :
    outX 5 (exec (.sbind 5 1 2) (ctl [(1, 3), (2, 0x80000000)])) = some 0 ∧
    outX 5 (exec (.sbind 5 1 2) (ctl [(1, 16), (2, 0)])) = some 0x000E000000000000 := by decide

/-- SBAR of rows that keep nothing answers 0, BARW of no VP answers at once, PREEMPT and SPLICE of no VP BAD_DESC
(R237, R242, R244). -/
theorem test_band_answers :
    outX 5 (exec (.sbar 5 1) (ctl [(1, 0x300)])) = some 0 ∧ outX 5 (exec (.barw 5 1) (ctl [(1, 7)])) = some 0 ∧
    outX 5 (exec (.preempt 5 1) (ctl [(1, 7)])) = some 0x000E000000000000 := by decide

/-- LAUNCH and SPLICE through an untagged capability raise TAG with its number; RESUME of no VP is BAD_DESC (R239, R243). -/
theorem test_launch_untagged :
    trapped (exec (.launch 5 4 1) (withVec (ctl []))) = some (4, 4, 0x400) ∧
    trapped (exec (.splice 5 4 1) (withVec (ctl []))) = some (4, 4, 0x400) ∧
    outX 5 (exec (.resume 5 4 1) (ctl [(1, 7)])) = some 0x000E000000000000 := by decide

/-- CFGLD, CFGCHK and VSIG through an untagged capability raise TAG; CFGCLR first takes the row of
an idle cell, then answers OK (R367, R401, R408, R412). -/
theorem test_loader :
    after (fun t => (t.core 0).kcause) (exec (.cfgld 5 4 1) (ctl [])) = some 4 ∧
    after (fun t => (t.core 0).kcause) (exec (.cfgchk 5 4 1) (ctl [])) = some 4 ∧
    after (fun t => (t.core 0).kcause) (exec (.vsig 5 4 1) (ctl [])) = some 4 ∧
    outX 5 (exec (.cfgclr 5 1) ((ctl [(1, 0), (5, 3)]).setWork 0 (.cfgclr 5 1) (.config ⟨0, 0, 0⟩))) = some 0 ∧
    after (fun t => (t.works, (t.core 0).thread.pc)) (exec (.cfgclr 5 1) (ctl [(1, 0), (5, 3)])) = some ([(0, .cfgclr 5 1, .config ⟨0, 0, 0⟩)], 0) := by decide

/-- RCALL takes slot 0 with call number 1; the handle holds both; RWAIT of another handle answers BAD_DESC (R336,
R346). -/
theorem test_calls :
    outX 5 (exec (.rcall 5 1 false 2 8 0) (memory 0 [(2, 70)])) = some 1 ∧
    after (fun t => t.calls.map fun c => (c.entry, c.num)) (exec (.rcall 5 1 false 2 8 0) (memory 0 [(2, 70)])) =
      some [(70, 1)] ∧
    outX 5 (exec (.rwait 5 1 8) (ctl [(1, 3)])) = some 0x000E000000000000 := by decide

/-- RRET and RFWD of a control thread raise ILLEGAL (R342). -/
theorem test_rret_rfwd :
    trapped (exec (.rret 5 1 2) (withVec (ctl []))) = some (1, 0xBD141080, 0x400) ∧
    after (fun t => (t.core 0).kcause) (exec (.rfwd 1 2) (ctl [])) = some 1 := by decide

/-! ### Compute cells -/

/-- The cell that runs. -/
def cell0 : CellId := ⟨0, 0, 0⟩

/-- A word of format C3 that sends its results to w.g1 and w.g2. -/
def c3 (m : Fin 16) : C3 := ⟨.always, ⟨.out, 1⟩, ⟨.out, 2⟩, m⟩

/-- The same, with P as its third operand. -/
def c3p (m : Fin 16) : C3 := { c3 m with pm := .third }

/-- A word without targets. -/
def c3n (m : Fin 16) : C3 := ⟨.always, .none, .none, m⟩

def ci (imm : BitVec 13) : CI := ⟨.always, ⟨.out, 1⟩, imm⟩

/-- A block of one word whose operands have arrived runs in the cell, with a token at each port. -/
def onCell (i : Instr) (l r p : Option Token) : State :=
  let w := (encode i).getD 0
  let s := State.reset.placeCell w
  let y := s.cell cell0
  let o (t : Option Token) : Option Operand := t.map fun t => ⟨t, [], []⟩
  let inst := y.inst.map fun j => { j with slots := [⟨o l, o r, o p, .waiting⟩] }
  { s.setCell cell0 { y with inst := inst } with script := [] }.onSlot cell0 0

/-- What the instruction has sent to w.g1 and w.g2. -/
def sentRegs : Res → List (Fin 64 × Token)
  | .next t => match (t.cell cell0).inst with
    | some j => j.writes
    | none => []
  | _ => []

/-- The first elements and the mask of a result sent to w.g1. -/
def outG (n : Nat) (r : Res) : Option (List Nat × Nat) :=
  (sentRegs r).head?.map fun w => ((w.2.e.toList.take n).map (·.toNat), w.2.v.toNat)

/-- The first element of a result from tokens of one element each. -/
def one (i : Instr) (a b : Nat) : Option Nat :=
  (sentRegs (exec i (onCell i (some (Token.scalar a)) (some (Token.scalar b)) none))).head?.map fun w => (w.2.at 0).toNat

/-- The same of an instruction that takes L alone. -/
def unary (i : Instr) (a : Nat) : Option Nat :=
  (sentRegs (exec i (onCell i (some (Token.scalar a)) none none))).head?.map fun w => (w.2.at 0).toNat

def row (l : List Nat) : Token := Token.ofList .data (BitVec.ofNat 16 (2 ^ l.length - 1)) l

theorem test_cell_dataflow :
    unary (.mov (c3 0)) 7 = some 7 ∧ outG 1 (exec (.movi (ci 0x1FFF)) (onCell (.movi (ci 0x1FFF)) none none none)) = some ([0xFFFFFFFF], 1) ∧
    unary (.movh (ci 0x1ABC)) 3 = some 0x7ABC ∧
    outG 3 (exec (.iota (c3 0)) (onCell (.iota (c3 0)) none none none)) = some ([0, 1, 2], 0xFFFF) ∧
    outG 6 (exec (.cid (c3 0)) (onCell (.cid (c3 0)) none none none)) = some ([0, 0, 0, 0, 0, 0], 0x3F) ∧
    outG 2 (exec (.cellCyc (c3 0)) { onCell (.cellCyc (c3 0)) none none none with cycle := 9 }) = some ([9, 0], 3) ∧
    outG 1 (exec (.null (c3 0)) (onCell (.null (c3 0)) none none none)) = some ([0], 0) ∧
    exec .nop State.reset = .next State.reset := by
  refine ⟨?_, ?_, ?_, ?_, ?_, ?_, ?_, ?_⟩ <;> first | rfl | decide

/-- Per lane, SEL takes L where P's lane is valid and nonzero; SETV's new lanes hold 0; GETV reads the mask (R170). -/
theorem test_cell_select :
    outG 3 (exec (.sel (c3p 0)) (onCell (.sel (c3p 0)) (some (row [1, 2, 3])) (some (row [4, 5, 6])) (some (row [1, 0])))) =
      some ([1, 5, 6], 7) ∧
    outG 3 (exec (.setv (c3 0)) (onCell (.setv (c3 0)) (some (row [1, 2])) (some (row [5])) none)) = some ([1, 0, 0], 5) ∧
    unary (.getv (c3 0)) 9 = some 1 ∧ unary (.testk (c3 0)) 9 = some 1 ∧ unary (.testk (c3 1)) 9 = some 0 := by decide

/-- Saturation, subwords, and the rounding right shift of R173's examples. -/
theorem test_cell_integer :
    one (.cellAdd (c3 0)) 0xFFFFFFFF 2 = some 1 ∧ one (.cellAdd (c3 8)) 0x7FFFFFFF 1 = some 0x7FFFFFFF ∧
    one (.cellSub (c3 2)) 0x01020304 0x02020202 = some 0xFF000102 ∧ one (.cellMul (c3 1)) 0x00030002 0x00050004 = some 0x000F0008 ∧
    one (.cellMulh (c3 0)) 0xFFFFFFFF 5 = some 0xFFFFFFFF ∧ one (.cellMulh (c3 4)) 0xFFFFFFFF 5 = some 4 ∧
    one (.cellMin (c3 0)) 0xFFFFFFFF 1 = some 0xFFFFFFFF ∧ one (.cellMax (c3 0)) 0xFFFFFFFF 1 = some 1 ∧
    one (.cellAnd (c3 0)) 12 10 = some 8 ∧ one (.cellOr (c3 0)) 12 10 = some 14 ∧ one (.cellXor (c3 0)) 12 10 = some 6 ∧
    one (.cellShl (c3 0)) 3 33 = some 6 ∧ one (.cellShr (c3 0)) 0xFFFFFFE8 4 = some 0xFFFFFFFF ∧
    one (.cellShr (c3 0)) 0xFFFFFFE7 4 = some 0xFFFFFFFE ∧ one (.cellShr (c3 4)) 0xFFFFFFFF 1 = some 0x80000000 ∧
    one (.cellSar (c3 0)) 0xFFFFFFF8 2 = some 0xFFFFFFFE ∧ unary (.cellClz (c3 0)) 1 = some 31 ∧
    unary (.cellPopc (c3 2)) 0x0103070F = some 0x01020304 ∧ one (.cmp (c3 2)) 0xFFFFFFFF 0 = some 0xFFFFFFFF ∧
    one (.cmp (c3 4)) 0xFFFFFFFF 0 = some 0 := by decide

theorem test_cell_immediate :
    unary (.cellAddi (ci 0x1FFF)) 5 = some 4 ∧ unary (.cellAndi (ci 0x1FF0)) 0x1234567F = some 0x12345670 ∧
    unary (.cellOri (ci 8)) 3 = some 11 ∧ unary (.cellShli (ci 0x1FE1)) 3 = some 6 ∧
    unary (.cellShri (ci 31)) 0x80000000 = some 1 ∧ unary (.cellSari (ci 31)) 0x80000000 = some 0xFFFFFFFF := by decide

/-- 1.0 + 2^-24 ties to even; 1.0 − 1.0 is +0; NaNs are canonical (R259, R261, R263, R298, R299). -/
theorem test_cell_float :
    one (.fadd (c3 0)) 0x3F800000 0x33800000 = some 0x3F800000 ∧ one (.fadd (c3 0)) 0x3F800001 0x33800000 = some 0x3F800002 ∧
    one (.fsub (c3 0)) 0x3F800000 0x3F800000 = some 0 ∧ one (.fmul (c3 0)) 0x40000000 0x40400000 = some 0x40C00000 ∧
    one (.fmul (c3 0)) 0x7F800000 0 = some 0x7FC00000 ∧ one (.fmin (c3 0)) 0 0x80000000 = some 0x80000000 ∧
    one (.fmax (c3 0)) 0xFF800001 0x3F800000 = some 0x3F800000 ∧ unary (.fabs (c3 0)) 0xC0000000 = some 0x40000000 ∧
    unary (.fabs (c3 3)) 0x7F800001 = some 0x7FC00000 ∧ one (.fcmp (c3 3)) 0x7FC00000 0 = some 0xFFFFFFFF ∧
    one (.fcmp (c3 0)) 0 0x80000000 = some 0xFFFFFFFF := by decide

/-- One rounding in FMA: (1 + 2^-12)^2 − (1 + 2^-11) = 2^-24, which a product rounded first would lose (R298). -/
theorem test_cell_fma :
    (sentRegs (exec (.fma (c3p 0)) (onCell (.fma (c3p 0)) (some (Token.scalar 0x3F800800)) (some (Token.scalar 0x3F800800))
      (some (Token.scalar 0xBF801000))))).head?.map (fun w => (w.2.at 0).toNat) = some 0x33800000 := by decide

/-- The conversions of R264 and R300, and the halves of R301. -/
theorem test_cell_convert :
    unary (.fcvt (c3 0)) 0xFFFFFFFE = some 0xC0000000 ∧ unary (.fcvt (c3 2)) 0x40200000 = some 2 ∧
    unary (.fcvt (c3 3)) 0xC0200000 = some 0xFFFFFFFE ∧ unary (.fcvt (c3 2)) 0x7FC00000 = some 0 ∧
    unary (.fcvt (c3 5)) 0x3C00 = some 0x3F800000 ∧ unary (.fcvt (c3 7)) 0x3F800000 = some 0x3C00 := by decide

/-- Powers of two are exact (R276). -/
theorem test_cell_special :
    unary (.fexp2 (c3 0)) 0x40400000 = some 0x41000000 ∧ unary (.flog2 (c3 0)) 0x41000000 = some 0x40400000 ∧
    unary (.frcp (c3 0)) 0x40000000 = some 0x3F000000 ∧ unary (.frsq (c3 0)) 0x40800000 = some 0x3F000000 ∧
    unary (.ftanh (c3 0)) 0 = some 0 := by decide

/-- The tree sum takes invalid lanes as 0; the reductions take valid lanes only; a prefix sum leaves the lanes it skips
(R176). -/
theorem test_cell_reduce :
    outG 1 (exec (.radd (c3 0)) (onCell (.radd (c3 0)) (some (row [1, 2, 3])) none none)) = some ([6], 1) ∧
    outG 1 (exec (.rmax (c3 1)) (onCell (.rmax (c3 1)) (some (row [1, 0xFFFFFFFF, 3])) none none)) = some ([0xFFFFFFFF], 1) ∧
    outG 1 (exec (.rmin (c3 0)) (onCell (.rmin (c3 0)) (some (row [1, 0xFFFFFFFF, 3])) none none)) = some ([0xFFFFFFFF], 1) ∧
    outG 3 (exec (.psum (c3 0)) (onCell (.psum (c3 0)) (some (Token.ofList .data 5 [1, 2, 3])) none none)) =
      some ([1, 0, 4], 5) := by decide

theorem test_cell_permute :
    outG 2 (exec (.perm (c3 0)) (onCell (.perm (c3 0)) (some (row [7, 8])) (some (row [0xF1, 0])) none)) = some ([8, 7], 3) ∧
    outG 2 (exec (.bcst (c3 1)) (onCell (.bcst (c3 1)) (some (row [7, 8])) none none)) = some ([8, 8], 0xFFFF) ∧
    outG 2 (exec (.lsh (c3 1)) (onCell (.lsh (c3 1)) (some (row [7, 8])) none none)) = some ([8, 0], 1) := by decide

/-- The first elements and masks of both results. -/
def outs (n : Nat) (r : Res) : List (List Nat × Nat) :=
  (sentRegs r).map fun w => ((w.2.e.toList.take n).map (·.toNat), w.2.v.toNat)

/-- CMPK keeps the lanes whose mask element is nonzero, EXPD scatters them back; NZSCAN takes −0.0 as zero; JOIN matches
equal coordinates and advances the side that is behind (R177 to R179). -/
theorem test_cell_filter :
    outs 2 (exec (.cmpk (c3 0)) (onCell (.cmpk (c3 0)) (some (row [7, 8, 9])) (some (row [0, 1, 1])) none)) =
      [([8, 9], 3), ([1, 2], 3)] ∧
    outG 3 (exec (.expd (c3 0)) (onCell (.expd (c3 0)) (some (row [8, 9])) (some (row [1, 2])) none)) = some ([0, 8, 9], 6) ∧
    outs 1 (exec (.nzscan (c3 0)) (onCell (.nzscan (c3 0)) (some (row [0x80000000, 5])) (some (row [100])) none)) =
      [([5], 1), ([101], 1)] ∧
    outs 2 (exec (.join (c3 0)) (onCell (.join (c3 0)) (some (row [3, 5])) (some (row [5, 9])) none)) =
      [([0, 0], 2), ([1, 0], 3)] := by decide

theorem test_cell_pack :
    outs 2 (exec (.unpk (c3 0)) (onCell (.unpk (c3 0)) (some (row [0x40003C00])) none none)) =
      [([0x3F800000, 0x40000000], 3), ([0x3F800000, 0x40000000], 3)] ∧
    outs 1 (exec (.pack (c3 0)) (onCell (.pack (c3 0)) (some (row [0x3F800000, 0x40000000])) (some (row [0])) none)) =
      [([0x40003C00], 0x101), ([0x40003C00], 0x101)] := by decide

/-! ### Memory, requests and streams of cells -/

/-- A cell with the capability c9 over the memory of its die, whose translation its memory cell holds. -/
def memCell (i : Instr) (l r : Option Token) (space : Space) : State :=
  let s := onCell i l r none
  let y := s.cell cell0
  let s := s.setCell cell0 { y with c := y.c.set 9 (Cap.make 0x1000 space 0x1000 0xFF 0 0 true) }
  let s := { s with tlb := [⟨.memCell cell0.server, 0, 0, 2 ^ 30, 0, true, true, none, 0x2000, true⟩] }
  match (s.cell cell0).inst with
  | some j => s.setInst cell0 j
  | none => s

/-- The addresses of the lanes of the requests that stand in the memory cell's queue. -/
def asked : Res → Option (List (List Nat)) := after fun t => (t.memQueue cell0.server).map fun q => match q.body with
  | .lanes _ _ ls _ => ls.map (·.addr)
  | .table _ _ ls _ => ls.map (·.1)
  | .probe => []

/-- How many effects the instance holds, and its outputs. -/
def heldCount : Res → Option (Nat × Nat) := after fun t => match (t.cell cell0).inst with
  | some j => (j.held.length, j.outputs)
  | none => (0, 0)

/-- A load asks for c.base + 4 · element for each acting lane; a store, and an atomic without a target, is held and
counts one output (R149, R154, R180 to R185). -/
theorem test_cell_memory :
    asked (exec (.ld (c3 9)) (memCell (.ld (c3 9)) (some (row [2, 5])) none .dense)) = some [[0x1008, 0x1014]] ∧
    after (fun t => (t.memQueue cell0.server).length) (exec (.ldc (c3 9)) (memCell (.ldc (c3 9)) (some (row [2, 0xFFFF])) none .dense)) = some 1 ∧
    asked (exec (.atadd (c3 9)) (memCell (.atadd (c3 9)) (some (row [2])) (some (row [1])) .dense)) = some [[0x1008]] ∧
    asked (exec (.atfadd (c3 9)) (memCell (.atfadd (c3 9)) (some (row [2])) (some (row [1])) .dense)) = some [[0x1008]] ∧
    asked (exec (.atmax (c3 9)) (memCell (.atmax (c3 9)) (some (row [2])) (some (row [1])) .dense)) = some [[0x1008]] ∧
    heldCount (exec (.st (c3n 9)) (memCell (.st (c3n 9)) (some (row [2])) (some (row [1])) .dense)) = some (1, 1) ∧
    heldCount (exec (.stc (c3n 9)) (memCell (.stc (c3n 9)) (some (row [2])) (some (row [1])) .dense)) = some (1, 1) := by decide

/-- An untagged capability faults the block with TAG (R182). -/
theorem test_cell_memory_tag :
    after (fun t => ((t.cell cell0).cause, (t.cell cell0).pending)) (exec (.ld (c3 8)) (memCell (.ld (c3 8)) (some (row [2])) none .dense)) =
      some (some .tag, true) := by decide

/-- The same cell with c9 naming its own tag table. -/
def tableCell (i : Instr) (l r : Option Token) : State :=
  let s := memCell i l r .dense
  let y := s.cell cell0
  s.setCell cell0 { y with c := y.c.set 9 (Cap.make 0 .scratch 0x1000 0xFF 0 0 true) }

def sentOps : Res → Option (List FibreOp) := after fun t => t.fibreReqs.map (·.op)

/-- A matrix word without a target. -/
def mm : C3 := ⟨.third, .none, .none, 0⟩

/-- The table instructions: LOOKUP asks at once, TAGSET and TAGCLR are held; an entry of length 0 raises BOUNDS at its
lane (R186). -/
theorem test_cell_tables :
    asked (exec (.lookup (c3 9)) (tableCell (.lookup (c3 9)) (some (row [77])) none)) = some [[0]] ∧
    heldCount (exec (.tagset (c3n 9)) (tableCell (.tagset (c3n 9)) (some (row [77])) (some (row [0x10000])))) = some (1, 1) ∧
    heldCount (exec (.tagclr (c3n 9)) (tableCell (.tagclr (c3n 9)) (some (row [77])) none)) = some (1, 1) ∧
    after (fun t => ((t.cell cell0).cause, (t.cell cell0).lane))
      (exec (.tagset (c3n 9)) (tableCell (.tagset (c3n 9)) (some (row [77, 78])) (some (row [0x10000, 0])))) =
      some (some .bounds, 1) := by decide

/-- The posted fibre forms are held with one output; FPROBE sends its valid lanes at once; a merge of lanes whose L and R
are both valid (R116, R117). -/
theorem test_cell_fibre :
    heldCount (exec (.cellFmrg (c3n 9)) (memCell (.cellFmrg (c3n 9)) (some (row [7, 8])) (some (row [1])) .fibre)) = some (1, 1) ∧
    heldCount (exec (.cellFscan (c3n 9)) (memCell (.cellFscan (c3n 9)) (some (row [7])) none .fibre)) = some (1, 1) ∧
    sentOps (exec (.cellFprobe (c3 9)) (memCell (.cellFprobe (c3 9)) (some (Token.ofList .data 5 [7, 8, 9])) none .fibre)) =
      some [.probe [7, 9]] := by decide

/-- XREQ of 64 bytes and RCALL of one payload are held; a length of 0 raises BOUNDS (R189, R337). -/
theorem test_cell_requests :
    heldCount (exec (.xreq (c3n 9)) (memCell (.xreq (c3n 9)) (some (row [0, 64, 128, 64, 5])) none .dense)) = some (1, 1) ∧
    heldCount (exec (.cellRcall (c3n 9)) (memCell (.cellRcall (c3n 9)) (some (row [70, 0, 1, 2])) none .dense)) = some (1, 1) ∧
    after (fun t => (t.cell cell0).cause) (exec (.xreq (c3n 9)) (memCell (.xreq (c3n 9)) (some (row [0, 64, 128, 0, 5])) none .dense)) =
      some (some .bounds) := by decide

/-- RCV takes the token at its port's head, provisionally; MARK gives L a kind; JOINP sends its permit at the k-th
credit and NUL before (R187, R188, R190). -/
theorem test_cell_streams :
    after (fun t => (t.cell cell0).inst.map fun j => j.taken.map (·.1)) (exec (.rcv (c3 2)) (onCell (.rcv (c3 2)) none none none)) =
      some (some [2]) ∧
    (sentRegs (exec (.mark (c3 7)) (onCell (.mark (c3 7)) (some (row [5])) none none))).map (fun w => w.2.k) = [.spc, .spc] ∧
    (sentRegs (exec (.joinp (c3 0)) (onCell (.joinp (c3 0)) (some (row [5])) none none))).map (fun w => (w.2.k, (w.2.at 0).toNat)) =
      [(.pmt, 5), (.pmt, 5)] ∧
    (sentRegs (exec (.joinp (c3 1)) (onCell (.joinp (c3 1)) (some (row [5])) none none))).map (fun w => w.2.k) = [.nul, .nul] := by
  decide

/-- MARK to PRE raises ILLEGAL (R188); TRAP faults its block with cause 18, BEND and BXI are exits, and BX raises ILLEGAL
where there is no such block (R153, R169). -/
theorem test_cell_exits :
    after (fun t => (t.cell cell0).cause) (exec (.mark (c3 4)) (onCell (.mark (c3 4)) (some (row [5])) none none)) = some (some .illegal) ∧
    after (fun t => (t.cell cell0).cause) (exec (.cellTrap (c3n 0)) (onCell (.cellTrap (c3n 0)) none none none)) =
      some (some .trapInstruction) ∧
    after (fun t => (t.cell cell0).inst.map (·.exit)) (exec (.bend ⟨.always, 0⟩) (onCell (.bend ⟨.always, 0⟩) none none none)) =
      some (some (some .bend)) ∧
    after (fun t => (t.cell cell0).inst.map (·.exit)) (exec (.bxi ⟨.always, 3⟩) (onCell (.bxi ⟨.always, 3⟩) none none none)) =
      some (some (some (.block 3))) ∧
    after (fun t => (t.cell cell0).inst.map (·.exit)) (exec (.bx (c3n 0)) (onCell (.bx (c3n 0)) (some (row [0])) none none)) =
      some (some (some (.block 0))) ∧
    after (fun t => (t.cell cell0).cause) (exec (.bx (c3n 0)) (onCell (.bx (c3n 0)) (some (row [1])) none none)) =
      some (some .illegal) := by decide

/-- Each command reserves an entry of the array's queue; ACCRD reads half a row (R280, R281, R294). -/
theorem test_cell_matrix :
    after (fun t => (t.cell cell0).reserved) (exec (.mma mm) (onCell (.mma mm) (some (row [0])) (some (row [0])) (some (row [0])))) = some 1 ∧
    after (fun t => (t.cell cell0).reserved) (exec (.mmas mm) (onCell (.mmas mm) (some (row [0])) (some (row [0])) (some (row [0])))) = some 1 ∧
    after (fun t => (t.cell cell0).reserved) (exec (.mmap mm) (onCell (.mmap mm) (some (row [0])) (some (row [0])) (some (row [0])))) = some 1 ∧
    after (fun t => (t.cell cell0).reserved) (exec (.accz (c3n 0)) (onCell (.accz (c3n 0)) none none none)) = some 1 ∧
    outs 2 (exec (.accrd (c3 0)) (onCell (.accrd (c3 0)) (some (row [0, 1])) none none)) = [([0, 0], 0xFFFF), ([0, 0], 7)] := by decide

/-- The first ERR operand goes to the targets before a NUL; a marker operand is forwarded; TESTK reads it (R138, R139,
R142). -/
theorem test_operand_kinds :
    (sentRegs (exec (.cellAdd (c3 0)) (onCell (.cellAdd (c3 0)) (some .nul) (some (Token.ofList .err 1 [6])) none))).map
      (fun w => (w.2.k, (w.2.at 0).toNat)) = [(.err, 6), (.err, 6)] ∧
    (sentRegs (exec (.cellClz (c3 0)) (onCell (.cellClz (c3 0)) (some (Token.marker .eot 4)) none none))).map
      (fun w => (w.2.k, (w.2.at 0).toNat)) = [(.eot, 4), (.eot, 4)] ∧
    (sentRegs (exec (.testk (c3 6)) (onCell (.testk (c3 6)) (some .nul) none none))).map (fun w => (w.2.at 0).toNat) = [1, 1] := by
  decide

/-- A suppressed instruction sends nothing and its slot is done (R140). -/
theorem test_suppressed :
    (sentRegs (exec (.mov { c3 0 with pm := .onTrue }) (onCell (.mov { c3 0 with pm := .onTrue }) (some (row [5])) none
      (some (Token.scalar 0))))) = [] := by decide

/-! ### Witnesses: states that meet the hypotheses of the statements -/

/-- Arithmetic and its frames assume nothing of the state but the thread that runs; division has a clause for a divisor
of zero and one for every other. -/
theorem witness_division :
    (ctl [(2, 0)]).getX (ctl [(2, 0)]).focus.thread 2 = 0 ∧ (ctl [(2, 1)]).getX (ctl [(2, 1)]).focus.thread 2 ≠ 0 := by decide

theorem witness_core : (ctl []).focus.thread = .core 0 ∧ ((ctl []).core 0).thread.priv = true ∧
    user.focus.thread = .core 0 ∧ (user.core 0).thread.priv = false := by decide

/-- JALR's two clauses: an aligned target and one that is not. -/
theorem witness_jalr :
    ((ctl [(1, 0x100)]).getX (.core 0) 1 + ((4 : BitVec 12).signExtend 64) <<< 2).toNat % 4 = 0 ∧
    ((ctl [(1, 0x103)]).getX (.core 0) 1 + ((4 : BitVec 12).signExtend 64) <<< 2).toNat % 4 ≠ 0 := by decide

/-- Loads: reads of 1, 2, 4 and 8 bytes. -/
theorem witness_loads :
    let s := memory 0x8877665544332211 []
    (∃ u, Reads s (s.getC (.core 0) 1) 8 1 u [0x11]) ∧ (∃ u, Reads s (s.getC (.core 0) 1) 8 2 u [0x11, 0x22]) ∧
    (∃ u, Reads s (s.getC (.core 0) 1) 8 4 u [0x11, 0x22, 0x33, 0x44]) ∧
    ∃ u, Reads s (s.getC (.core 0) 1) 8 8 u [0x11, 0x22, 0x33, 0x44, 0x55, 0x66, 0x77, 0x88] :=
  ⟨⟨_, _, _, rfl, rfl⟩, ⟨_, _, _, rfl, rfl⟩, ⟨_, _, _, rfl, rfl⟩, ⟨_, _, _, rfl, rfl⟩⟩

/-- LDD of this device, with the last eight bytes that the capability covers. -/
theorem witness_load_local :
    let s := memory 1 [(1, 0xFF8)]
    let th := (s.core 0).thread
    let cap := th.cap 1
    s.focus.thread = .core 0 ∧ cap.tag = true ∧ cap.otype = 0 ∧ cap.tenant = th.tenant ∧ cap.space = .dense ∧ cap.pR = true ∧
      (th.get 1).toNat + 8 = cap.length ∧ (cap.base + (th.get 1).toNat) % 8 = 0 ∧
      (∃ e, s.cached (.die (coreDie 0)) th.tenant (cap.base + (th.get 1).toNat) = some e ∧ e.fill = none ∧
        s.isLocal (e.frame + (cap.base + (th.get 1).toNat) % e.size) = true ∧
        s.mem.bad (localAddr (e.frame + (cap.base + (th.get 1).toNat) % e.size)) 8 = false) ∧
      (s.core 0).storeQ = [] :=
  ⟨rfl, rfl, rfl, rfl, rfl, rfl, rfl, rfl, ⟨_, rfl, rfl, rfl, rfl⟩, rfl⟩

/-- Stores: a store's access to dense memory, which leaves the state as it is, with room in the queue; one to a register
window. -/
theorem witness_stores :
    let s := memory 0 []
    s.access (.core 0) (s.getC (.core 0) 1) 8 8 true = (s, .ok ⟨.dense, 0x1008, none⟩) ∧ (s.core 0).storeQ.length < 16 ∧
      s.callsAccepted (.core 0) = true ∧ (s.drainThread (.core 0)).focus.thread = .core 0 := ⟨rfl, by decide, rfl, rfl⟩

/-- StorePerformed: a queued store of one byte to memory of this device; a load over the core's own queued store. -/
theorem witness_store_performed :
    let q : QueuedStore := ⟨.dense, 0x1008, [7], false, false, 0⟩
    let s := (memory 0 []).setCore 0 { (memory 0 []).core 0 with storeQ := [q] }
    (s.core 0).storeQ = [q] ∧ q.bytes ≠ [] ∧ s.isLocal q.addr = true ∧ s.mem.wf = true ∧ s.mem.poison = [] := by decide

/-- Atomics: the checks of the 4-byte and of the 8-byte form pass. -/
theorem witness_atomics :
    let s := memory 5 []
    (∃ u bs, ReadsForAtomic s (s.getC (.core 0) 1) 8 4 ⟨.dense, 0x1008, none⟩ u bs) ∧
    ∃ u bs, ReadsForAtomic s (s.getC (.core 0) 1) 8 8 ⟨.dense, 0x1008, none⟩ u bs :=
  ⟨⟨_, _, rfl, rfl, rfl, .inl rfl, rfl, rfl, _, rfl, rfl, .inr rfl⟩, ⟨_, _, rfl, rfl, rfl, .inl rfl, rfl, rfl, _, rfl, rfl, .inr rfl⟩⟩

/-- AccessChecks: each check at its boundary; a dense capability of 16 bytes at 0x1000. -/
theorem witness_access_checks :
    let cap (perms : Nat) : Cap := Cap.make 0x1000 .dense 16 perms 0 0 true
    accessTrap (cap 1) true 0 8 8 false = none ∧ accessTrap (cap 1) true 0 9 8 false = some ⟨.bounds, 9⟩ ∧
    accessTrap (cap 1) true 0 16 1 false = some ⟨.bounds, 16⟩ ∧ accessTrap (cap 1) true 0 4 8 false = some ⟨.misalign, 0x1004⟩ ∧
    accessTrap (cap 1) true 0 8 8 true = some ⟨.perm, 8⟩ ∧ accessTrap (cap 2) true 0 8 8 false = some ⟨.perm, 8⟩ ∧
    accessTrap (cap 1) true 1 8 8 false = some ⟨.perm, 8⟩ ∧ accessTrap Cap.null true 0 8 8 false = some ⟨.tag, 8⟩ := by decide

/-- The accesses of LDD and STD, of CLD and CST fail. -/
theorem witness_failed_access :
    let s := memory 0 []
    s.access (.core 0) (s.getC (.core 0) 1) 4 8 false = (s, .error ⟨.misalign, 0x1004⟩) ∧
    s.access (.core 0) (s.getC (.core 0) 1) 4 8 true = (s, .error ⟨.misalign, 0x1004⟩) ∧
    s.access (.core 0) (s.getC (.core 0) 1) 8 16 false = (s, .error ⟨.misalign, 0x1008⟩) ∧
    s.access (.core 0) (s.getC (.core 0) 1) 0xFF8 16 true = (s, .error ⟨.bounds, 0xFF8⟩) := ⟨rfl, rfl, rfl, rfl⟩

/-- A call on its way to this device's grotto, which has not been accepted. -/
def sentCall : Call :=
  ⟨70, Vector.replicate 4 0, Cap.null, 0, 1, .core 0, .unit (.grotto 0), false, false, false, 0, []⟩

/-- FENCE: calls accepted and not; LDSC and STSC with the token at the core. -/
theorem witness_fence :
    let s := memory 5 []
    s.callsAccepted (.core 0) = true ∧ { s with calls := [sentCall] }.callsAccepted (.core 0) = false ∧
    scAccess (s.getC (.core 0) 1) 8 false s = (s, .ok ⟨.dense, 0x1008, none⟩) ∧ s.holdsToken (.core 0) = true ∧
    (∃ v bs, Reads s.countSc (s.getC (.core 0) 1) 8 8 v bs) ∧
    scAccess (s.getC (.core 0) 1) 8 true s = (s, .ok ⟨.dense, 0x1008, none⟩) :=
  ⟨rfl, rfl, rfl, rfl, ⟨_, _, _, _, rfl, rfl⟩, rfl⟩

/-- Capabilities: CSETB at its full length and at the first length beyond it; CLD and CST of 16 bytes; a tagged
capability with and without G. -/
theorem witness_capabilities :
    let s := memory 0 [(4, 0x1000), (5, 0x8000000000001000), (6, 0x1001)]
    let cap := s.getC (.core 0) 1
    cap.tag = true ∧ cap.otype = 0 ∧ cap.length = 0x1000 ∧ cap.pC = true ∧ cap.pG = true ∧
    (s.getX (.core 0) 4).toNat % 2 ^ 40 = cap.length ∧ (s.getX (.core 0) 5).getLsbD 63 = true ∧
    cap.length < (s.getX (.core 0) 6).toNat % 2 ^ 40 ∧ (s.getC (.core 0) 2).tag = false ∧
    (Cap.make 0 .dense 1 0 0 1 true).otype ≠ 0 ∧ (Cap.make 0 .dense 1 0x7F 0 0 true).pG = false := by decide

theorem witness_capability_moves :
    let s := memory 0 []
    let cap := s.getC (.core 0) 1
    s.access (.core 0) cap 0x20 16 false = (s, .ok ⟨.dense, 0x1020, none⟩) ∧
    s.access (.core 0) cap 0x20 16 true = (s, .ok ⟨.dense, 0x1020, none⟩) ∧
    ∃ v bs, s.threadRead (.core 0) ⟨.dense, 0x1020, none⟩ 16 = (v, some bs) := ⟨rfl, rfl, _, _, rfl⟩

/-- A committed table whose entry 0 gives cores 0 and 1 to tenant 5. -/
def tabled (tenant : Nat) : State :=
  let s := ctl [(1, BitVec.ofNat 64 tenant)]
  let e : PartitionEntry := #v[BitVec.ofNat 64 (tenant + 0x300000100), 0, 0, 0, 0, 0, 0, 0]
  { s with partitions := some ((Vector.replicate 8 (Vector.replicate 8 0)).set 0 e) }

/-- SystemRegisters: core 0 in a partition, and in none; no table committed. -/
theorem witness_system_registers :
    (ctl []).partitionOfCore 0 = none ∧ (ctl []).partitions = none ∧ (tabled 5).partitions ≠ none ∧
    ((tabled 5).partitionOfCore 0).map PartitionEntry.tenant = some 5 ∧ ((tabled 5).partitionOfCore 1).isSome = true ∧
    (tabled 5).partitionOfCore 2 = none := by decide

/-- EventQueues: room, and the 1,023rd record held. -/
theorem witness_event_queues :
    State.reset.queuesBounded = true ∧ (State.reset.core 0).events.length < 1023 ∧
    (List.replicate 1023 (0 : BitVec 128)).length = 1023 ∧
    (let s := { State.reset with records := [(0, 5)] }; s.records = (0, 5) :: []) :=
  ⟨by decide, by decide, List.length_replicate, rfl⟩

theorem witness_kevq :
    let s := (ctl []).setCore 0 { (ctl []).core 0 with kevqPending := true, events := [3] }
    (s.core 0).kevqPending = true ∧ (s.core 0).events = [3] ∧
      after (fun t => (t.core 0).events) (exec (.kevqEmpty 0) s) = some [] := by decide

/-- CoreControl: a WFE that has waited 8,000 cycles ends, and one that has waited a cycle less does not. -/
theorem witness_core_control :
    let s (n : Nat) := { (ctl []).setCore 0 { (ctl []).core 0 with wfeSince := some 0 } with cycle := n }
    ((s 8000).core 0).wfeSince = some 0 ∧
    after (fun t => (t.core 0).thread.pc) (exec (.wfeTimeout 0) (s 8000)) = some 4 ∧
    after (fun t => (t.core 0).thread.pc) (exec (.wfeTimeout 0) (s 7999)) = some 0 ∧
    (ctl []).callsAccepted (.core 0) = true ∧ ((ctl []).drain 0).focus.thread = .core 0 ∧
    (let s := (ctl []).setCore 3 { (ctl []).core 3 with wfeSince := some 0 }
     ((s.drain 0).core 3).wfeSince = some 0 ∧ ((s.drain 0).core 0).wfeSince = none ∧
     after (fun t => ((t.core 3).wfeSince, (t.core 0).event)) (exec .sev s) = some (none, true)) := by decide

theorem witness_tlbi :
    let s := ctl [(1, 0x5000), (2, 0x10000)]
    s.translatedPending (s.tlb.filter (tlbiHits 0x5000 1 (BitVec.ofNat 8 0x10000))) = false := by decide

/-- OperandKinds: operands of each kind, a predicate that suppresses and one that does not. -/
theorem witness_operand_kinds :
    let x : Shape := ⟨.onTrue, .none, .none, true, true, false, .v⟩
    let o (t : Token) : Option Operand := some ⟨t, [], []⟩
    x.judge false (o .nul) (o (Token.ofList .err 1 [6])) (o (Token.scalar 1)) = .propagate (Token.ofList .err 1 [6]) ∧
    x.judge false (o (Token.scalar 1)) (o .nul) (o (Token.scalar 0)) = .propagate .nul ∧
    x.judge false (o (Token.scalar 1)) (o (Token.scalar 2)) (o (Token.scalar 0)) = .suppressed ∧
    x.judge false (o (Token.scalar 1)) (o (Token.scalar 2)) (o (Token.scalar 1)) = .compute ∧
    x.judge false (o (Token.scalar 1)) (o (Token.marker .eot 2)) (o (Token.scalar 1)) =
      .marker (Token.marker .eot 2) [⟨Token.scalar 1, [], []⟩] := by decide

/-- What the instruction of the focus fires with, where it is to fire as v. -/
def firing (v : Verdict) (i : Instr) (s : State) : Option Ctx :=
  let c := s.focus.cell
  let n := s.focus.slot
  match instrShape i, (s.cell c).running, s.place c with
  | some sh, some (b, j), some pl => match j.slots[n]? with
    | some sl =>
      if s.slotReady c b j n i sh = true ∧ s.lowerReady c b j n sh.cls = false ∧ sh.judge (isTestk i) sl.l sl.r sl.p = v then
        some (Ctx.of c pl b j n sh sl)
      else none
    | none => none
  | _, _, _ => none

theorem firing_fires {v : Verdict} {i : Instr} {s : State} {x : Ctx} (h : firing v i s = some x) : FiresAs v i s x := by
  simp only [firing] at h
  split at h
  · split at h
    · split at h
      · rename_i h1 h2 h3 _ _ h4 h5
        cases h
        exact ⟨_, h1, h2, h3, h4, h5.1, h5.2.1, h5.2.2, rfl⟩
      · exact absurd h (by simp)
    · exact absurd h (by simp)
  · exact absurd h (by simp)

/-- It fires, with a context of which p holds. -/
theorem exists_firing {v : Verdict} {i : Instr} {s : State} {p : Ctx → Prop} [DecidablePred p]
    (h : (firing v i s).any (fun x => decide (p x)) = true) : ∃ x, FiresAs v i s x ∧ p x := by
  cases hx : firing v i s with
  | none => simp [hx] at h
  | some x => exact ⟨x, firing_fires hx, by simpa [hx] using h⟩

/-- The targets take a token. -/
def takes (x : Ctx) (t : Token) : Bool :=
  (emit x.blk x.slot x.sh (some t) (some t) x.ports x.ords (x.inst.mark x.slot .done)).isOk

/-- A held store's ORD token is taken by its targets. -/
def takesOrd (x : Ctx) : Bool :=
  let t := Token.ofList .ord 3 [0, 1]
  (emit x.blk x.slot x.sh (some t) (some t) x.ports (x.slot :: x.after) (x.inst.mark x.slot .done)).isOk

/-- Every acting lane passes its checks. -/
def lanesOk (s : State) (x : Ctx) (write : Bool) (acting : List Acting) : Bool :=
  match s.checkLanes x (s.cell x.c).c[9] write [] acting with
  | .ok _ _ => true
  | _ => false

theorem witness_propagated :
    (∃ x, FiresAs (.propagate .nul) (.cellAdd (c3 0)) (onCell (.cellAdd (c3 0)) (some .nul) (some .nul) none) x ∧
      takes x .nul = true) ∧
    ∃ x, FiresAs (.marker (Token.marker .eow 1) []) (.mov (c3 0)) (onCell (.mov (c3 0)) (some (Token.marker .eow 1)) none none) x ∧
      takes x (Token.marker .eow 1) = true :=
  ⟨exists_firing (by decide), exists_firing (by decide)⟩

/-- An instruction of each shape fires, and its targets take what it sends. -/
theorem witness_cell_results :
    (∃ x, Fires (.iota (c3 0)) (onCell (.iota (c3 0)) none none none) x ∧ takes x (row [5]) = true) ∧
    (∃ x, Fires (.cellAddi (ci 1)) (onCell (.cellAddi (ci 1)) (some (row [1])) none none) x ∧ takes x (row [5]) = true) ∧
    (∃ x, Fires (.cellAdd (c3 0)) (onCell (.cellAdd (c3 0)) (some (row [1])) (some (row [2])) none) x ∧ takes x (row [5]) = true) ∧
    (∃ x, Fires (.fma (c3p 0)) (onCell (.fma (c3p 0)) (some (row [1])) (some (row [2])) (some (row [3]))) x ∧
      takes x (row [5]) = true) ∧
    (∃ x, Fires (.cmpk (c3 0)) (onCell (.cmpk (c3 0)) (some (row [1])) (some (row [2])) none) x ∧ takes x (row [5]) = true) ∧
    ∃ x, Fires (.mark (c3 1)) (onCell (.mark (c3 1)) (some (row [1])) none none) x ∧ takes x (row [5]) = true :=
  ⟨exists_firing (by decide), exists_firing (by decide), exists_firing (by decide), exists_firing (by decide),
    exists_firing (by decide), exists_firing (by decide)⟩

/-- The count of joined credits that an instance of JOINP makes. -/
def joined (s : State) (x : Ctx) : Nat := (((s.cell x.c).join[x.blk.num]).1 + 1).toNat

/-- JOINP: the k-th credit, and one before it. -/
theorem witness_joinp :
    (∃ x, Fires (.joinp (c3 0)) (onCell (.joinp (c3 0)) (some (row [5])) none none) x ∧ x.inst.join = none ∧
      joined (onCell (.joinp (c3 0)) (some (row [5])) none none) x = 0 + 1) ∧
    ∃ x, Fires (.joinp (c3 1)) (onCell (.joinp (c3 1)) (some (row [5])) none none) x ∧ x.inst.join = none ∧
      joined (onCell (.joinp (c3 1)) (some (row [5])) none none) x ≠ 1 + 1 :=
  ⟨exists_firing (by decide), exists_firing (by decide)⟩

def bxCell (n : Nat) : State := onCell (.bx (c3n 0)) (some (row [n])) none none

/-- CellExitsAndFaults: no exit yet; BX to a block that is there, to one that is not, and above 31. -/
theorem witness_exits :
    (∃ x, Fires (.bxi ⟨.always, 0⟩) (onCell (.bxi ⟨.always, 0⟩) none none none) x ∧ x.inst.exit = none) ∧
    (∃ x, Fires (.bend ⟨.always, 0⟩) (onCell (.bend ⟨.always, 0⟩) none none none) x ∧ x.inst.exit = none) ∧
    (∃ x, Fires (.bx (c3n 0)) (bxCell 0) x ∧ (x.l.ok 0 = true ∧ x.inst.exit = none ∧ (x.l.at 0).toNat ≤ 31 ∧
      ((bxCell 0).cell cell0).program.block (x.l.at 0).toNat ≠ none)) ∧
    (∃ x, Fires (.bx (c3n 0)) (bxCell 31) x ∧ ((bxCell 31).cell cell0).program.block (x.l.at 0).toNat = none) ∧
    (∃ x, Fires (.bx (c3n 0)) (bxCell 32) x ∧ 31 < (x.l.at 0).toNat) ∧
    ∃ x, Fires (.cellTrap (c3n 0)) (onCell (.cellTrap (c3n 0)) none none none) x ∧ x.slot = 0 :=
  ⟨exists_firing (by decide), exists_firing (by decide), exists_firing (by decide), exists_firing (by decide),
    exists_firing (by decide), exists_firing (by decide)⟩

/-- A second exit of one instance. -/
def exited : State :=
  let s := onCell (.bxi ⟨.always, 0⟩) none none none
  s.setCell cell0 { s.cell cell0 with inst := (s.cell cell0).inst.map fun j => { j with exit := some .bend } }

theorem witness_second_exit : ∃ x, Fires (.bxi ⟨.always, 0⟩) exited x ∧ x.inst.exit = some .bend := exists_firing (by decide)

/-- NaNs and numbers of NotANumber's clauses, at the bounds of the NaNs. -/
theorem witness_nan :
    0x7F800000 < (0x7F800001 : Elem).toNat % 2 ^ 31 ∧ 0x7F800000 < (0xFFFFFFFF : Elem).toNat % 2 ^ 31 ∧
    ¬ 0x7F800000 < (0xFF800000 : Elem).toNat % 2 ^ 31 := by decide

/-- CellMemory: the capability and the lanes of a load, of a store and of an atomic with and without a target pass, the
last lane at the capability's end; an untagged capability does not pass. -/
theorem witness_cell_memory :
    let s := memCell (.ld (c3 9)) (some (row [2, 0x3FF])) none .dense
    ∃ x, Fires (.ld (c3 9)) s x ∧ (cellCapCause (s.cell x.c).c[9] .read false x.pl.x.tenant = none ∧
      x.inst.outputs < x.blk.outputs ∧ lanesOk s x false (actLoad x) = true ∧
      cellCapCause (s.cell x.c).c[8] .read false x.pl.x.tenant = some .tag) := exists_firing (by decide)

theorem witness_cell_load_block :
    let s := memCell (.ldc (c3 9)) (some (row [0x3F0, 0xFFFF])) none .dense
    ∃ x, Fires (.ldc (c3 9)) s x ∧ lanesOk s x false (actLdc x) = true := exists_firing (by decide)

theorem witness_cell_stores :
    let s := memCell (.st (c3n 9)) (some (row [2])) (some (row [1])) .dense
    ∃ x, Fires (.st (c3n 9)) s x ∧ (cellCapCause (s.cell x.c).c[9] .write false x.pl.x.tenant = none ∧
      lanesOk s x true (actBoth x) = true ∧ takesOrd x = true) := exists_firing (by decide)

theorem witness_cell_atomics :
    let s := memCell (.atadd (c3 9)) (some (row [2])) (some (row [1])) .dense
    let u := memCell (.atadd (c3n 9)) (some (row [2])) (some (row [1])) .dense
    (∃ x, Fires (.atadd (c3 9)) s x ∧ (x.sh.t0 ≠ Target.none ∧ lanesOk s x true (actBoth x) = true ∧
      cellCapCause (s.cell x.c).c[9] .atomic false x.pl.x.tenant = none)) ∧
    ∃ x, Fires (.atadd (c3n 9)) u x ∧ (x.sh.t0 = Target.none ∧ x.inst.outputs < x.blk.outputs) :=
  ⟨exists_firing (by decide), exists_firing (by decide)⟩

/-- The table instructions on the tag table of the cell's own die, with entries that are right. -/
theorem witness_cell_tables :
    let s := tableCell (.tagset (c3n 9)) (some (row [77])) (some (row [0x10000]))
    let t := scratchCell (s.cell cell0).c[9].base
    (t.isMem = false ∧ t.die = cell0.die ∧ field (s.cell cell0).c[9].base 56 31 = 0 ∧ field (s.cell cell0).c[9].base 23 18 ≤ 35 ∧
      cellCapCause (s.cell cell0).c[9] .read true 0 = none ∧ cellCapCause (s.cell cell0).c[9] .write true 0 = none) ∧
    (∃ x, Fires (.tagset (c3n 9)) s x ∧ (takesOrd x = true ∧ ∀ l ∈ tableLanes x true, entryBad l.2.2 = false)) ∧
    (∃ x, Fires (.lookup (c3 9)) (tableCell (.lookup (c3 9)) (some (row [77])) none) x ∧ takes x (row [5]) = true) ∧
    ∃ x, Fires (.tagclr (c3n 9)) (tableCell (.tagclr (c3n 9)) (some (row [77])) none) x ∧ takesOrd x = true :=
  ⟨by decide, exists_firing (by decide), exists_firing (by decide), exists_firing (by decide)⟩

theorem witness_receive :
    let s := onCell (.rcv (c3 2)) none none none
    ∃ x, Fires (.rcv (c3 2)) s x ∧ (takes x (Token.scalar 0) = true ∧
      rcvToken (s.cell x.c) x.blk x.inst x.slot 2 = some (Token.scalar 0)) := exists_firing (by decide)

/-- CellRequests: the head row's translation is cached, and the descriptors of XREQ, at its greatest length, and of
RCALL are right. -/
theorem witness_cell_fibres :
    let s := memCell (.cellFmrg (c3n 9)) (some (row [7])) (some (row [1])) .fibre
    let cap := (s.cell cell0).c[9]
    let cache := CacheId.memCell cell0.server
    fibreCapTrap cap 9 0 cap.pM = none ∧ fibreCapTrap cap 9 0 cap.pS = none ∧ 64 ≤ cap.length ∧
    (∃ e, s.cached cache 0 cap.base = some e) ∧ ∃ u p, s.translate cache 0 (s.rootOf 0) cap.base false = (u, .ok p) ∧ p.fill = none :=
  ⟨rfl, rfl, by decide, ⟨_, rfl⟩, ⟨_, _, rfl, rfl⟩⟩

theorem witness_cell_requests :
    (xreqFieldsOk (row [1, 64, 128, 65536, 5]) = true ∧ xreqFieldsOk (row [1, 64, 128, 65600, 5]) = false ∧
      payloadOk (row [70, 0, 1, 2]) 1 = true) ∧
    (∃ x, Fires (.cellFmrg (c3n 9)) (memCell (.cellFmrg (c3n 9)) (some (row [7])) (some (row [1])) .fibre) x ∧ x.inst.outputs < x.blk.outputs) ∧
    (∃ x, Fires (.xreq (c3n 9)) (memCell (.xreq (c3n 9)) (some (row [0, 64, 128, 64, 5])) none .dense) x ∧ x.inst.outputs < x.blk.outputs) ∧
    ∃ x, Fires (.cellRcall (c3n 9)) (memCell (.cellRcall (c3n 9)) (some (row [70, 0, 1, 2])) none .dense) x ∧ x.inst.outputs < x.blk.outputs :=
  ⟨by decide, exists_firing (by decide), exists_firing (by decide), exists_firing (by decide)⟩

/-- CellMatrix: commands without a target and with a port, and ACCRD of the last half row. -/
theorem witness_cell_matrix :
    (∃ x, Fires (.mma mm) (onCell (.mma mm) (some (row [0])) (some (row [0])) (some (row [0]))) x ∧ x.sh.t0 = Target.none) ∧
    (∃ x, Fires (.mma { mm with t0 := ⟨.out, 67⟩ }) (onCell (.mma { mm with t0 := ⟨.out, 67⟩ }) (some (row [0])) (some (row [0]))
      (some (row [0]))) x ∧ Target.port x.sh.t0 = some 3) ∧
    ∃ x, Fires (.accrd (c3 0)) (onCell (.accrd (c3 0)) (some (row [15, 1])) none none) x ∧ (x.l.ok 0 = true ∧ x.l.ok 1 = true ∧
      (x.l.at 0).toNat ≤ 15 ∧ (x.l.at 1).toNat ≤ 1) :=
  ⟨exists_firing (by decide), exists_firing (by decide), exists_firing (by decide)⟩

/-! ### A launch -/

/-- A capability stored with its tag. -/
def putCap (m : Memory) (a : Nat) (c : Cap) : Memory := (m.writeNat a 16 c.bits.toNat).setTag a

/-- Memory with the descriptor of a VP of one image of width 1 at 0x4000, and its image table at 0x4100. -/
def descMem : Memory :=
  let m := Memory.empty
  let m := ((m.writeNat 0x4000 8 0x14B565044).writeNat 0x4008 8 0x100000001)
  let m := putCap m 0x4010 (Cap.make 0x4100 .dense 32 0x41 0 0 true)
  let m := putCap m 0x4020 (Cap.make 0x10000 .dense 0x100000 0x03 0 0 true)
  let m := putCap m 0x4030 (Cap.make 0x8000 .dense 0x1000 0x03 0 0 true)
  let m := putCap m 0x4040 (Cap.make 0x4200 .dense 0 0x01 0 0 true)
  putCap m 0x4100 (Cap.make 0x5000 .dense 0x1000 0x05 0 0 true)

/-- Core 0 about to launch that descriptor through c1; queue 0 is enabled, core 0's, with rows 0 to 63. -/
def launching : State :=
  let s := ctl [(1, 0x80)]
  let s := { s with recordOk := true, mem := descMem, tlb := [⟨.die 0, 0, 0, 2 ^ 30, 0, true, true, none, 0x2000, true⟩] }
  let s := s.setC (.core 0) 1 (Cap.make 0x4000 .dense 256 0xFF 0 0 true)
  s.setQueue 0 0 { s.queue 0 0 with binding := 0x003F0020 }

/-- The descriptor, read. -/
def head : State × Except Status DescHead := launching.readHead (launching.coreReach 0) (launching.getC (.core 0) 1)

theorem witness_launch :
    let th := launching.thread (.core 0)
    launchTrap (th.cap 1) th.tenant 1 = none ∧ launching.callsAccepted (.core 0) = true ∧
    (launching.drain 0).thread (.core 0) = th ∧
    (match head with
      | (u, .ok h) => decide (h.pred = 0) && match u.readVp (launching.coreReach 0) h with
        | (v, .ok y) => decide (y.tenant = th.tenant ∧ v.newVp 0 y.tenant = some ⟨0, 0, 1⟩ ∧ y.tenant = (u.queue 0 0).tenant ∧
            (v.queue 0 0).launches.length < 64 ∧ v.findBand 0 (u.queue 0 0) [y] y.b false = some 0) &&
          (match u.launchQueue 0 0x80 with
            | .ok q => q == 0
            | _ => false)
        | _ => false
      | _ => false) = true := by decide +kernel

/-- LAUNCH queues the VP and answers its first handle, of record 0 and generation 1 (R238, R239). -/
theorem test_launch :
    outX 5 (exec (.launch 5 1 1) launching) = some 0x400 ∧
    after (fun t => (t.queue 0 0).launches.map (·.vp)) (exec (.launch 5 1 1) launching) = some [⟨0, 0, 1⟩] := by decide +kernel

/-- A live predecessor of one row whose band hosts it alone. -/
def bandVp (v : VpId) (x : Vp) (s : State) : State :=
  (s.setVp v x).setRow ⟨v.die, Fin.ofNat 64 x.base⟩ { Row.reset with host := some v, pos := some 0, phase := .live }

def liveVp : Vp := { placedVp with saveCap := Cap.make 0x10000 .dense 0x1000000 3 0 0 true }

theorem witness_splice :
    let s := bandVp ⟨0, 0, 1⟩ liveVp launching
    s.named 0 0 true 0x400 = some ⟨0, 0, 1⟩ ∧ s.spliceOk ⟨0, 0, 1⟩ liveVp = true ∧ s.cellsOpen liveVp = true ∧
    ({ s with recordOk := false }.spliceOk ⟨0, 0, 1⟩ liveVp = true ∧ liveVp.static = false) := by decide +kernel

/-- SBIND: the lowest word that is a binding and one with rows in the wrong order. -/
theorem witness_sbind :
    bindingOk 0 = true ∧ bindingOk 0x003F0020 = true ∧ bindingOk 0x00000120 = false ∧ (ctl []).queue 0 3 = ⟨0, [], 0, 0⟩ ∧
    ((ctl []).setQueue 0 3 ⟨0, [⟨⟨0, 0, 1⟩, 0, false⟩], 0, 0⟩).queue 0 3 ≠ ⟨0, [], 0, 0⟩ := by decide

/-- BARW, PREEMPT and RESUME: a VP that is live, queued, pre-empted, and a handle of none. -/
theorem witness_vp_stages :
    let s (g : VpStage) := bandVp ⟨0, 0, 1⟩ { liveVp with stage := g } launching
    (s .live).named 0 0 true 0x400 = some ⟨0, 0, 1⟩ ∧ ((s .live).vp ⟨0, 0, 1⟩).stage = .live ∧
    ((s .queued).vp ⟨0, 0, 1⟩).stage = .queued ∧ ((s .preempted).vp ⟨0, 0, 1⟩).stage = .preempted ∧
    (s .live).named 0 0 true 0x401 = none ∧ (∀ w ∈ (s .live).splicedWith ⟨0, 0, 1⟩, ((s .live).vp w).contextFits = true) ∧
    ((s .live).core 0).events = [] := by decide +kernel

theorem witness_resume :
    let s := bandVp ⟨0, 0, 1⟩ { liveVp with stage := .preempted, queue := 0 } launching
    let s := { s with rows := [] }
    let s := s.setC (.core 0) 2 (Cap.make 0x10000 .dense 0x1000000 3 0 0 true)
    let x := s.vp ⟨0, 0, 1⟩
    let cap := s.getC (.core 0) 2
    s.callsAccepted (.core 0) = true ∧ s.named 0 0 true 0x400 = some ⟨0, 0, 1⟩ ∧ x.stage = .preempted ∧ cap.tag = true ∧
    cap.otype = 0 ∧ cap.base = x.saveCap.base ∧ cap.length = x.saveCap.length ∧ cap.tenant = x.saveCap.tenant ∧
    s.findBand 0 (s.queue 0 x.queue) ((s.splicedWith ⟨0, 0, 1⟩).map s.vp) x.b false ≠ none ∧ (s.queue 0 x.queue).launches.length < 64 ∧
    outX 5 (exec (.resume 5 2 1) (s.setX (.core 0) 1 0x400)) = some 0x400 := by decide +kernel

/-! ### The loader -/

/-- One record: a memory cell's reservation of 3 entries (R405). -/
def recordMem (tag v : Nat) : State :=
  let s := (memory 0 [(2, 0x00080001)]).setWork 0 (.cfgld 5 1 2) (.config ⟨0, 0, 8⟩)
  { s with mem := (s.mem.writeNat 0x1000 4 tag).writeNat 0x1004 4 v }

theorem witness_loader :
    let s := recordMem 0x40000000 3
    let s0 := s.dropWork 0
    s0.access (.core 0) (s.getC (.core 0) 1) 0 4 false = (s0, .ok ⟨.dense, 0x1000, none⟩) ∧ targetOk 0 0x00080001 = true ∧
    s.holdsRow 0 ⟨0, 0, 8⟩ = true ∧ s0.holdsRow 0 ⟨0, 0, 8⟩ = false ∧ 36 * 1 ≤ (s.getC (.core 0) 1).length ∧ s.isRetired (targetCell 0x00080001) = false ∧
    s.rowBusy (targetCell 0x00080001).rowId = false ∧ (bandVp ⟨0, 0, 1⟩ liveVp s).rowBusy (targetCell 0x00080001).rowId = true ∧
    (∃ v bs, s0.capBytes (.core 0) (s.getC (.core 0) 1) 0 4 9 = (v, .ok bs)) :=
  ⟨rfl, by decide, by decide, by decide, by decide, by decide, by decide, by decide, _, _, rfl⟩

/-- CFGLD loads a record of a memory cell; a reservation above 8 is rejected as item 13 of word 0 (R405, R408). -/
theorem test_cfgld :
    after (fun t => (t.cell ⟨0, 0, 8⟩).program.reserve) (exec (.cfgld 5 1 2) (recordMem 0x40000000 3)) = some 3 ∧
    outX 5 (exec (.cfgld 5 1 2) (recordMem 0x40000000 3)) = some 1 ∧
    outX 5 (exec (.cfgchk 5 1 2) (recordMem 0x40000000 3)) = some 1 ∧
    after (fun t => ((t.core 0).kcause, (t.core 0).ktval)) (exec (.cfgld 5 1 2) (recordMem 0x40000000 9)) = some (9, 0x0D000000) := by
  decide +kernel

/-- VSIG: an image header in 64 bytes with a wrong magic fails; with the right one only the key slot, a free value,
decides. -/
theorem witness_vsig (slot : Nat) :
    let hdr (magic : Nat) : List Byte := leBytes 4 magic ++ leBytes 20 0 ++ leBytes 4 0 ++ leBytes 4 0x40 ++ leBytes 32 0
    let cap := Cap.make 0 .dense 8304 1 0 0 true
    vsigHeaderOk (hdr 0) cap slot = false ∧ vsigHeaderOk (hdr 0x4B54494D) cap slot = Config.keySlotHeld slot := ⟨rfl, rfl⟩

theorem witness_vsig_read :
    let s := memory 0 []
    s.access (.core 0) (s.getC (.core 0) 1) 0 64 false = (s, .ok ⟨.dense, 0x1000, none⟩) ∧
    ∃ v bs, s.capBytes (.core 0) (s.getC (.core 0) 1) 0 4 16 = (v, .ok bs) := ⟨rfl, _, _, rfl⟩

/-! ### Fibre units -/

/-- A request of core 0 on the region of 8 rows at 0x100000, whose page is cached; it has arrived with ticket 0. -/
def fibreReq (op : FibreOp) (h : Nat) : FibreReq :=
  ⟨.thread (.core 0) 5 8 0, op, 0x100000 + 64 * h, 0x100000 + 64 * h, 0, 512, 0, some 0, 0, false, none, []⟩

def fibreAt (m : Memory) (q : FibreReq) : State :=
  { ctl [] with mem := m, fibreReqs := [q], tlb := [⟨.die 0, 0, 0, 2 ^ 30, 0, true, true, none, 0x2000, true⟩] }

/-- The 32-bit words of row r of the region. -/
def rowWords (n r : Nat) : Res → Option (List Nat) := after fun t =>
  (List.range n).map fun i => t.mem.readNat (0x100000 + 64 * r + 4 * i) 4

def memAfter : Res → Memory
  | .next t => t.mem
  | _ => Memory.empty

/-- The region after FORMAT and NEW of an IADD fibre, and after a merge of two pairs into it. -/
def formatted : Memory := memAfter (exec (.fibreFormat 0) (fibreAt Memory.empty (fibreReq (.format true) 0)))
def made : Memory := memAfter (exec (.fibreNew 0) (fibreAt formatted (fibreReq (.new 1 0 true) 0)))
def merged : Memory := memAfter (exec (.fibreMerge 0) (fibreAt made (fibreReq (.merge [(9, 5), (4, 7), (9, 1)]) 1)))

/-- FORMAT leaves a pool head with 7 free rows and threads them (R79, R82, R89); NEW makes head row 1 of depth 1 with
its leaf, row 2 (R80, R81, R90). -/
theorem test_fibre_format_new :
    formatted.readNat 0x100000 4 = 0 ∧ formatted.readNat 0x100004 4 = 1 ∧ formatted.readNat 0x100008 4 = 7 ∧
    formatted.readNat 0x100044 4 = 2 ∧ formatted.readNat 0x1001C4 4 = 0xFFFFFFFF ∧
    made.readNat 0x100040 4 = 7 ∧ made.readNat 0x100044 4 = 2 ∧ made.readNat 0x100050 4 = 1 ∧ made.readNat 0x100058 4 = 2 ∧
    made.readNat 0x100080 4 = 0x41 ∧ made.readNat 0x10008C 4 = 1 ∧ made.readNat 0x100008 4 = 5 := by decide +kernel

/-- A merge sorts its pairs and combines equal coordinates (R85, R92); the sequence number and the pair count follow. -/
theorem test_fibre_merge :
    merged.readNat 0x100080 4 = 0x89 ∧ merged.readNat 0x100090 4 = 4 ∧ merged.readNat 0x100094 4 = 7 ∧
    merged.readNat 0x100098 4 = 9 ∧ merged.readNat 0x10009C 4 = 6 ∧ merged.readNat 0x100048 4 = 2 ∧
    merged.readNat 0x100054 4 = 1 := by decide +kernel

/-- The statuses, pairs and probed values of the replies. -/
def replied (r : Res) : List (Status × List (Nat × Nat)) :=
  match r with
  | .next t => t.replies.map fun r => (r.status, r.pairs ++ r.found.filterMap fun v => v.map fun v => (0, v))
  | _ => []

theorem test_fibre_reads :
    replied (exec (.fibreProbe 0) (fibreAt merged (fibreReq (.probe [9, 8]) 1))) = [(.notFound, [(0, 6)])] ∧
    replied (exec (.fibreScanStep 0) (fibreAt merged (fibreReq (.scan 0xFFFFFFFF 4 false) 1))) = [(.ok, [(4, 7), (9, 6)])] ∧
    (match exec (.fibreInfo 0) (fibreAt merged (fibreReq (.info 3) 1)) with
      | .next t => t.replies.map (·.value)
      | _ => []) = [1] := by decide +kernel

/-- DELETE takes a pair out; FREE pushes the leaf and then the head onto the free list (R91, R94). -/
theorem test_fibre_delete_free :
    (memAfter (exec (.fibreDelete 0) (fibreAt merged (fibreReq (.delete [4]) 1)))).readNat 0x100048 4 = 1 ∧
    (memAfter (exec (.fibreFree 0) (fibreAt merged (fibreReq .free 1)))).readNat 0x100004 4 = 1 ∧
    (memAfter (exec (.fibreFree 0) (fibreAt merged (fibreReq .free 1)))).readNat 0x100044 4 = 2 ∧
    replied (exec (.fibreFree 0) (fibreAt made (fibreReq .free 3))) = [(.badDesc, [])] := by decide +kernel

/-- FibreIssue: the checks pass and the head row is here; the last head row of the capability, and the first beyond. -/
theorem witness_fibre_issue :
    let s := fibres [(1, 0x3FF), (2, 0x400)]
    let cap := s.getC (.core 0) 1
    (match s.translate (.die 0) 0 (s.threadRoot (.core 0)) (cap.base + 64 * 0x3FF) false with
      | (u, .ok p) => p.fill == none && !u.nonlocal (.core 0) ⟨.fibre, p.pa, none⟩
      | _ => false) = true ∧
    cap.tag = true ∧ cap.otype = 0 ∧ cap.tenant = 0 ∧ cap.space = .fibre ∧ cap.pM = true ∧ cap.pW = true ∧ cap.pS = true ∧
    64 * (s.getX (.core 0) 1).toNat + 64 ≤ cap.length ∧ cap.length < 64 * (s.getX (.core 0) 2).toNat + 64 := by decide +kernel

/-- FibreUnits: a request on its way with no earlier one of its agent, one that has arrived and is next, one whose rows
are reserved, one that was refused, and a hold of another agent. -/
theorem witness_fibre_units :
    let q := fibreReq (.merge [(1, 1)]) 1
    let h : Hold := ⟨q.pa, .thread (.core 1), 0, false⟩
    let s := fibreAt made { q with ticket := none }
    s.heldBack q = false ∧ { s with holds := [h] }.heldBack q = true ∧ (fibreAt made q).fibreNext q 0 = true ∧
    (fibreAt made q).lapsedFor q = false ∧ { fibreAt made q with holds := [h] }.fibreNext q 0 = false ∧
    (List.replicate 64 { q with ticket := some 1 }).length = 64 := by decide +kernel

/-- Behind another agent's hold with 64 requests waiting, a request is refused back (R98); with 63 it arrives. -/
theorem test_fibre_refused :
    let q := fibreReq (.merge [(1, 1)]) 1
    let other : FibreReq := { q with agent := .thread (.core 2) 5 8 0, ticket := some 1 }
    let s (n : Nat) : State := { fibreAt made q with
      fibreReqs := { q with ticket := none } :: List.replicate n other, holds := [⟨q.pa, .thread (.core 1), 0, false⟩] }
    after (fun t => (t.fibreReqs.head?).map (·.refused)) (exec (.fibreMerge 0) (s 64)) = some (some true) ∧
    after (fun t => (t.fibreReqs.head?).map (·.refused)) (exec (.fibreMerge 0) (s 63)) = some (some false) ∧
    after (fun t => (t.fibreReqs.head?).map (·.refused)) (exec (.fibreRefusedResend 0)
      { s 0 with fibreReqs := [{ q with ticket := none, refused := true }] }) = some (some false) := by decide +kernel

/-- A hold lapses after 65,536 cycles without a step, not before (R98). -/
theorem test_hold_lapse :
    after (fun t => t.holds.map (·.lapsed)) (exec (.holdLapse 0) { ctl [] with cycle := 65536, holds := [⟨0, .thread (.core 1), 0, false⟩] }) =
      some [true] ∧
    after (fun t => t.holds.map (·.lapsed)) (exec (.holdLapse 0) { ctl [] with cycle := 65535, holds := [⟨0, .thread (.core 1), 0, false⟩] }) =
      some [false] := by decide

/-- A merge that needs the pool reserves its rows first: six pairs are held and a seventh splits the leaf (R93, R105). -/
def full : Memory :=
  memAfter (exec (.fibreMerge 0) (fibreAt made (fibreReq (.merge [(1, 1), (2, 1), (3, 1), (4, 1), (5, 1), (6, 1)]) 1)))

theorem test_pool_reservation :
    after (fun t => ((t.fibreReqs.head?).map fun q => q.reserved.isSome, t.mem.readNat 0x100008 4))
      (exec (.poolReservation 0) (fibreAt full (fibreReq (.merge [(7, 1)]) 1))) = some (some true, 3) ∧
    (memAfter (exec (.fibreMerge 0) (fibreAt full (fibreReq (.merge [(7, 1)]) 1)))).readNat 0x100080 4 = 0xD1 := by
  decide +kernel

/-- FibreRows: a failed operation, a split of 7 items into 4 and 3, and a sort. -/
theorem witness_fibre_rows :
    ((fibreAt Memory.empty (fibreReq .free 1)).fibrePlan (fibreReq .free 1)).2.2.status = .badDesc ∧
    (parts (List.replicate 7 (1, 1))).map List.length = [4, 3] ∧
    sortPairs [(9, 1), (0xFFFFFFFF, 2), (4, 3), (9, 0)] = [(4, 3), (9, 1), (9, 0)] := by decide +kernel

/-! ### Fibre replies -/

/-- A reply of an operation to core 0, which waits for it. -/
def replyTo (op : FibreOp) (agent : FibreAgent) : State :=
  let s := ctl []
  { s.setCore 0 { s.core 0 with fibre := true } with
    replies := [⟨agent, op, .ok, 3, 1, 2, 77, [(4, 7)], [some 6, none], 4, true, 0⟩] }

/-- The cost word holds work, splits, wait and status (R107); a scan writes its count and end flag and then the pairs. -/
theorem test_fibre_reply :
    outX 5 (exec (.fibreReply 0) (replyTo (.merge []) (.thread (.core 0) 5 8 0))) = some 0x0000000200010003 ∧
    outX 5 (exec (.fibreReply 0) (replyTo (.info 0) (.thread (.core 0) 5 8 0))) = some 0x000000030000004D ∧
    outX 5 (exec (.fibreReply 0) (replyTo (.scan 0 1 false) (.thread (.core 0) 5 8 0))) = some 0x0000010100000004 ∧
    outX 8 (exec (.fibreReply 0) (replyTo (.scan 0 1 false) (.thread (.core 0) 5 8 0))) = some 0x0000000400000007 ∧
    outX 9 (exec (.fibreReply 0) (replyTo (.scan 0 1 false) (.thread (.core 0) 5 8 0))) = some 0x0000000200010003 ∧
    outX 8 (exec (.fibreReply 0) (replyTo (.probe [9]) (.thread (.core 0) 5 8 0))) = some 0x0000000900000006 := by decide

/-- A cell whose row hosts a VP, with empty ports. -/
def hosted : State :=
  let s := State.reset.placeCell 0x003FFFF0
  let y := s.cell cell0
  { s.setCell cell0 { y with ports := Vector.replicate 8 [] } with script := [] }

def cellReply (op : FibreOp) (s : State) : State :=
  { s with replies := [⟨.cell cell0 ⟨0, 0, 1⟩ 3 0 1 [0, 2], op, .ok, 3, 1, 2, 77, [(4, 7)], [some 6, none], 4, true, 0⟩] }

/-- A posted merge's reply is one token at REPLY, a scan's three; a VP that has left makes them an ORPHAN (R119, R120). -/
theorem test_fibre_posted :
    after (fun t => (t.cell cell0).ports[6].map fun x => (x.k, x.v.toNat)) (exec (.fibrePostedReply 0) (cellReply (.merge []) hosted)) =
      some [(.ord, 0xC007)] ∧
    after (fun t => (t.cell cell0).ports[6].map fun x => (x.k, x.v.toNat)) (exec (.fibrePostedReply 0) (cellReply (.scan 0 16 false) hosted)) =
      some [(.ord, 0xC03F), (.data, 1), (.data, 1)] ∧
    after (fun t => t.dropped) (exec (.fibrePostedReply 0) (cellReply (.merge []) { hosted with rows := [] })) = some 1 ∧
    hosted.hosted ⟨0, 0, 1⟩ cell0 = true ∧ hosted.portRoom cell0 6 3 = true := by decide

/-- A probe's reply goes to its slot's targets, lane by lane (R116). -/
theorem test_fprobe_reply :
    let i : Instr := .cellFprobe (c3 9)
    let s := onCell i (some (row [1])) none none
    let s := { s with replies := [⟨.cell cell0 ⟨0, 0, 1⟩ 0 0 1 [0, 2], .probe [4, 9], .ok, 3, 1, 2, 77, [], [some 6, none], 4, true, 0⟩] }
    let s := match (s.cell cell0).inst with
      | some j => s.setInst cell0 (j.mark 0 .issued)
      | none => s
    let s := s.setMemQueue cell0.server [⟨cell0, ⟨0, 0, 1⟩, 0, 0, 1, .probe, none⟩]
    outs 3 (exec (.fprobeReply 0) s) = [([6, 0, 0], 1), ([0, 0x10003, 2], 7)] := by decide

/-- A walker finds no page for a parked access: the block faults with PAGE at the access's lane (R382). -/
def parked : State :=
  let s := onCell (.ld (c3 9)) (some (row [1])) none none
  { s with parked := [⟨.memCell cell0.server, 0, 0x5000, false, .cell cell0 0 3 1⟩], tlb := [⟨.memCell cell0.server, 0, 0x5000, 4096, 0x8000, true, true, none, 0, true⟩] }

theorem test_page_walk :
    after (fun t => t.parked.length) (exec (.pageWalk 0) parked) = some 0 ∧
    after (fun t => (t.cell cell0).inst.isSome) (exec (.pageWalk 0) parked) = some true := by decide +kernel

/-! ### Remote calls -/

/-- A call of core 0 with number 1 and the release flag, through 0x1000 to 0x1FFF, to grotto 0. -/
def call0 (entry : Nat) (payload : Vector Word 4) : Call :=
  ⟨entry, payload, Cap.make 0x1000 .dense 0x1000 0xFF 0 0 true, 0, 1, .core 0, .unit (.grotto 0), false, false, false, 0x1000, []⟩

/-- Core 0 has the call open in slot 15, sent at cycle 0. -/
def opened (cycle resends : Nat) : State :=
  let s := ctl []
  { s.setCore 0 { s.core 0 with
      slots := (s.core 0).slots.set 15 (some ⟨call0 70 (Vector.replicate 4 5), 0, resends, none, false⟩) } with cycle := cycle }

/-- RemoteCallers: the last slot free, a call with the release flag whose earlier calls were accepted, and handles of
a slot with and without a reply and of none. -/
theorem witness_remote_callers :
    let s := memory 0 [(2, 70)]
    let c := s.core 0
    let o : OpenCall := ⟨call0 70 (Vector.replicate 4 5), 0, 0, none, false⟩
    let s := s.setCore 0 { c with slots := (Vector.replicate 16 (some o)).set 15 none }
    let cap := s.getC (.core 0) 1
    (match s.targetHome (.die 0) 0 (s.threadRoot (.core 0)) cap with
      | (u, .ok (h, _)) => h == .unit (.grotto 0) && (u.core 0).slots[(15 : Fin 16)] == none &&
          (List.finRange 15).all fun j => (u.core 0).slots[j.castSucc] != none
      | _ => false) = true ∧ s.callsAccepted (.core 0) = true ∧
    cap.tag = true ∧ cap.otype = 0 ∧ cap.tenant = 0 ∧ cap.space ≠ .sys ∧ cap.length ≠ 0 ∧
    ((opened 20000 0).core 0).krtime.toNat * 800 = 80000 ∧
    (∃ o, ((opened 20000 0).core 0).slots[(15 : Fin 16)] = some o ∧ 15 = 0xF00000001 / 2 ^ 32 % 16 ∧
      0xF00000001 = o.call.num.toNat + 15 * 2 ^ 32) := by
  refine ⟨by decide +kernel, by decide +kernel, rfl, rfl, rfl, by decide, by decide +kernel, rfl, _, rfl, rfl, rfl⟩

/-- Resends at ¼, ½ and ¾ of KRTIME = 80,000 cycles, and LOST at the whole (R348), each at its boundary. -/
theorem test_call_resend :
    let n (r : Res) := after (fun t => t.calls.length) r
    n (exec (.callResend (.core 0) 15) (opened 19999 0)) = some 0 ∧ n (exec (.callResend (.core 0) 15) (opened 20000 0)) = some 1 ∧
    n (exec (.callResend (.core 0) 15) (opened 39999 1)) = some 0 ∧ n (exec (.callResend (.core 0) 15) (opened 60000 2)) = some 1 ∧
    n (exec (.callResend (.core 0) 15) (opened 99999 3)) = some 0 := by decide

theorem test_call_lost :
    let n (r : Res) := after (fun t => (t.lost.length, (t.core 0).slots[(15 : Fin 16)].bind fun o => o.reply.map (·.status))) r
    n (exec (.callLostTimeout (.core 0) 15) (opened 79999 3)) = some (0, none) ∧
    n (exec (.callLostTimeout (.core 0) 15) (opened 80000 3)) = some (1, some 3) := by decide

/-- A call that arrives at grotto 0, which keeps n numbers of core 0 from m on, and has l waiting calls. -/
def arriving (num m n l : Nat) (r : Option CallReply) : State :=
  let s := ctl []
  { s.setUnit (.grotto 0) ⟨Vector.replicate 8 none, List.replicate l (call0 70 (Vector.replicate 4 5)),
      (List.range n).map fun i => ⟨.core 0, BitVec.ofNat 32 (m + i), r⟩⟩ with
    calls := [{ call0 70 (Vector.replicate 4 5) with num := BitVec.ofNat 32 num }] }

def reply0 (st : BitVec 16) : CallReply := ⟨.core 0, 1, 70, st, 6, 7⟩

/-- A repeat is answered with the kept reply, OK as REPLAYED, and dropped while the call runs; a number below 256 kept
ones is LOST; a new call waits, and goes back where 32 wait beside 8 free contexts (R333, R348). -/
theorem test_call_arrival :
    let seen (s : State) := after (fun t => (t.callBack.map (·.status), (t.unit (.grotto 0)).waiting.length, t.calls.map (·.refused)))
      (exec (.remoteCallArrival 0) { s with held := false })
    after (fun t => t.callBack.map (·.status)) (exec (.remoteCallArrival 0) (arriving 1 1 1 0 (some (reply0 0)))) = some [11] ∧
    after (fun t => t.callBack.map (·.status)) (exec (.remoteCallArrival 0) (arriving 1 1 1 0 (some (reply0 6)))) = some [6] ∧
    after (fun t => (t.callBack.length, t.calls.length)) (exec (.remoteCallArrival 0) (arriving 1 1 1 0 none)) = some (0, 0) ∧
    seen (arriving 1 2 256 0 none) = some ([3], 0, []) := by decide +kernel

/-- A core's unit takes 8 waiting calls beside its two free contexts, and refuses the next (R333). -/
def atCore (l : Nat) : State :=
  let s := ctl []
  { s.setUnit (.core 1) ⟨Vector.replicate 8 none, List.replicate l (call0 70 (Vector.replicate 4 5)), []⟩ with
    calls := [{ call0 70 (Vector.replicate 4 5) with home := .unit (.core 1) }] }

theorem test_call_refused :
    after (fun t => (t.unit (.core 1)).waiting.length) (exec (.remoteCallArrival 0) (atCore 9)) = some 10 ∧
    after (fun t => t.calls.map (·.refused)) (exec (.remoteCallArrival 0) (atCore 10)) = some [true] ∧
    after (fun t => t.calls.map (·.refused)) (exec (.callRefusalResend 0)
      { atCore 0 with calls := [{ call0 70 (Vector.replicate 4 5) with refused := true }] }) = some [false] := by decide

/-- RemoteArrival: the arriving call is covered and its caller's first; kept and unkept numbers; the module held. -/
theorem witness_remote_arrival :
    (arriving 1 1 1 0 none).callCovered (call0 70 (Vector.replicate 4 5)) = true ∧
    (∃ q, ((arriving 1 1 1 0 (some (reply0 0))).unit (.grotto 0)).kept.find? (fun q => q.caller == .core 0 && q.num == 1) = some q ∧
      q.reply = some (reply0 0)) ∧
    (∀ q ∈ ((arriving 1 2 256 0 none).unit (.grotto 0)).kept, 0 < (q.num - 1).toInt) ∧
    ({ arriving 1 2 255 0 none with held := true }.unit (.grotto 0)).kept.length = 255 ∧
    8 + ((atCore 10).freeContexts (.core 1)).length = 10 := by
  refine ⟨by decide, ⟨_, rfl, rfl⟩, by decide +kernel, by decide +kernel, by decide +kernel⟩

/-- A module held at its limit refuses a grotto's new call BUSY_POWER (R349). -/
theorem test_busy_power :
    after (fun t => t.callBack.map (·.status)) (exec (.remoteCallArrival 0) { arriving 1 2 255 0 none with held := true }) = some [1] := by
  decide +kernel

/-! ### Remote functions -/

/-- The partition of tenant 0 with its remote table at 0x4000, whose entry 70 is a capability for 0x2000; both dies'
caches hold the pages. -/
def starting (u : UnitId) (entry : Nat) (otype : Nat) : State :=
  let e : Cap := Cap.make 0x2000 .dense 0x1000 0xFF 0 otype true
  let s := ctl []
  { s with
    mem := (s.mem.writeNat (0x4000 + 16 * 70) 16 e.bits.toNat).setTag (0x4000 + 16 * 70)
    tlb := [⟨.die 0, 0, 0, 2 ^ 30, 0, true, true, none, 0x2000, true⟩]
    partitions := some ((Vector.replicate 8 (Vector.replicate 8 0)).set 0 #v[0x100, 0, 0xFFFFFFFF, 0, 0x4000, 0, 0, 0])
    units := [(u, ⟨Vector.replicate 8 none, [call0 entry #v[11, 12, 13, 14]], []⟩)] }

def startedThread (u : UnitId) : Res → Option Thread
  | .next t => (t.unit u).ctx[(0 : Fin 8)].map (·.thread)
  | _ => none

/-- A function of entry 70 starts with the registers of R339; an entry that is no remote-entry capability, entry 63, and
a built-in at a control core are REJECTED (R335); a built-in at a grotto starts. -/
theorem test_remote_start :
    (startedThread (.grotto 0) (exec (.remoteContextStart (.grotto 0)) (starting (.grotto 0) 70 1))).map
        (fun t => ((List.finRange 8).map fun i => t.get (Fin.ofNat 64 i.val), t.pcc.base, t.priv)) =
      some ([0, 11, 12, 13, 14, 70, 0x3F0000, 1], 0x2000, false) ∧
    after (fun t => t.callBack.map (·.status)) (exec (.remoteContextStart (.grotto 0)) (starting (.grotto 0) 70 0)) = some [8] ∧
    after (fun t => t.callBack.map (·.status)) (exec (.remoteContextStart (.grotto 0)) (starting (.grotto 0) 63 1)) = some [8] ∧
    after (fun t => t.callBack.map (·.status)) (exec (.remoteContextStart (.core 0)) (starting (.core 0) 3 1)) = some [8] ∧
    (startedThread (.grotto 0) (exec (.remoteContextStart (.grotto 0)) (starting (.grotto 0) 3 1))).isSome = true := by
  decide +kernel

/-- RemoteFunctions: the table's entry is read, and fails to be; a free context. -/
theorem witness_remote_start :
    (match (starting (.grotto 0) 70 1).readTable (.grotto 0) (call0 70 #v[11, 12, 13, 14]) with
      | (v, .ok e) => e.base == 0x2000 && v.kdevno == 0
      | _ => false) = true ∧
    (match (starting (.grotto 0) 70 0).readTable (.grotto 0) (call0 70 #v[11, 12, 13, 14]) with
      | (_, .error st) => st == .rejected
      | _ => false) = true ∧
    (starting (.grotto 0) 64 1).freeContexts (.grotto 0) = List.finRange 8 := by decide +kernel

/-- A remote function of grotto 0 that runs, in its context 7. -/
def inRemote (l : List (XReg × Word)) (fwd : Bool) (budget entry : Nat) : State :=
  let s := memory 0 []
  let t := l.foldl (fun (t : Thread) p => t.set p.1 p.2) Thread.zero
  let t := { t with c := t.c.set 1 (Cap.make 0x1000 .dense 0x1000 0xFF 0 0 true), pc := 0x40 }
  let x : RemoteCtx := ⟨{ call0 entry (Vector.replicate 4 5) with forwarded := fwd }, t, budget, false, none, 0⟩
  { s with
    focus := { s.focus with thread := .remote ⟨.grotto 0, 7⟩ }
    units := [(.grotto 0, ⟨(Vector.replicate 8 none).set 7 (some x), [], []⟩)] }

def answered : Res → Option (List (Nat × Word × Word)) := after fun t =>
  t.callBack.map fun r => (r.status.toNat, r.r0, r.r1)

/-- RRET's status and results; status 11 faults with the pc, cause 1 and the word (R342); RFWD of a forwarded function
faults, of another sends the call on under its own number (R343). -/
theorem test_remote_return :
    answered (exec (.rret 5 1 2) (inRemote [(5, 0x10002), (1, 6), (2, 7)] false 9 70)) = some [(2, 6, 7)] ∧
    answered (exec (.rret 5 1 2) (inRemote [(5, 11)] false 9 70)) = some [(4, 0x40, 0xBD14108000000001)] ∧
    (answered (exec (.rfwd 1 2) (inRemote [] true 9 70))).map (·.map (·.1)) = some [4] ∧
    after (fun t => t.calls.map fun c => (c.entry, c.num, c.forwarded, c.payload[0])) (exec (.rfwd 1 2) (inRemote [(1, 8), (2, 0x1047)] false 9 70)) =
      some [(71, 1, true, 8)] := by decide +kernel

theorem witness_remote_functions :
    let s := inRemote [] false 0 64
    s.focus.thread = .remote ⟨.grotto 0, 7⟩ ∧
    (∃ x, (s.unit (.grotto 0)).ctx[(7 : Fin 8)] = some x ∧ x.budget = 0 ∧ x.call.entry = 64 ∧ x.call.forwarded = false) ∧
    (match s.targetHome (.die 0) 0 (s.threadRoot (.remote ⟨.grotto 0, 7⟩)) (Cap.make 0x1000 .dense 0x1000 0xFF 0 0 true) with
      | (_, .ok _) => true
      | _ => false) = true := by
  exact ⟨rfl, ⟨_, rfl, rfl, rfl, rfl⟩, by decide +kernel⟩

/-- The 4,097th instruction raises REMOTE_BUDGET, cause 12, at its pc (R340). -/
theorem test_remote_budget :
    (answered (exec (.remoteBudgetExhausted ⟨.grotto 0, 7⟩) (inRemote [] false 0 64))).map (fun l => l.map fun r => (r.1, r.2.1)) =
      some [(4, 0x40)] ∧
    answered (exec (.remoteBudgetExhausted ⟨.grotto 0, 7⟩) (inRemote [] false 1 64)) = some [] := by decide +kernel

/-! ### Replies to calls -/

/-- The reply of the call that core 0 has open in slot 15. -/
def replying (lost : Bool) : State :=
  { opened 5 0 with callBack := [reply0 2], lost := if lost then [(.core 0, 1)] else [] }

/-- RWAIT of its handle, once the reply is there. -/
def rwaiting : State :=
  match execCallReplyArrival 0 (replying false) with
  | .next t => t.setX (.core 0) 1 0xF00000001
  | _ => State.reset

/-- The slot takes the reply; of a LOST call a REMOTE_LATE record is on its way instead (R346, R348). -/
theorem test_call_reply :
    after (fun t => (t.core 0).slots[(15 : Fin 16)].bind fun o => o.reply.map (·.status)) (exec (.callReplyArrival 0) (replying false)) = some (some 2) ∧
    after (fun t => t.records.map (·.2)) (exec (.callReplyArrival 0) (replying true)) = some [0x0000004600000001003F000000020006] ∧
    outX 5 (exec (.rwait 5 1 8) rwaiting) = some 0x2000000000000 ∧
    outX 9 (exec (.rwait 5 1 8) rwaiting) = some 7 := by decide +kernel

/-- A cell's answered call: one ORD token at REPLY with the status, the results, slot and block (R338). -/
def cellCall (s : State) (r : Option CallReply) : State :=
  let c : Call := { call0 70 (Vector.replicate 4 5) with caller := .cell cell0 ⟨0, 0, 1⟩ 3 2 }
  s.setCell cell0 { s.cell cell0 with calls := [⟨c, 0, 0, r, false⟩] }

theorem test_call_reply_token :
    after (fun t => (t.cell cell0).ports[6].map fun x => (x.k, x.v.toNat, (x.e.toList.map (·.toNat)))) (exec (.callReplyToken cell0)
      (cellCall hosted (some { reply0 2 with caller := .cell cell0 ⟨0, 0, 1⟩ 3 2, r0 := 0x500000006 }))) =
      some [(.ord, 0xC01F, [2, 6, 5, 7, 0, 0, 0, 0, 0, 0, 0, 0, 0, 0, 3, 2])] ∧
    after (fun t => t.dropped) (exec (.callReplyToken cell0)
      { cellCall hosted (some { reply0 2 with caller := .cell cell0 ⟨0, 0, 1⟩ 3 2 }) with rows := [] }) = some 1 := by decide +kernel

/-- RemoteReplies: a cell's open call takes its reply, and is LOST where that comes at KRTIME (R348); a port with no
room. -/
theorem witness_call_replies :
    let r := { reply0 2 with caller := .cell cell0 ⟨0, 0, 1⟩ 3 2 }
    let h := hosted.setVp ⟨0, 0, 1⟩ { hosted.vp ⟨0, 0, 1⟩ with krtime := 1 }
    let s := { cellCall h none with callBack := [r] }
    let seen : Res → Option (List (Option (BitVec 16)) × Nat) := after fun t =>
      ((t.cell cell0).calls.map fun o => o.reply.map (·.status), t.lost.length)
    seen (exec (.callReplyArrival 0) { s with cycle := 799 }) = some ([some 2], 0) ∧
    seen (exec (.callReplyArrival 0) { s with cycle := 800 }) = some ([some 3], 1) ∧
    { s with cycle := 799 }.tooLate r = none ∧ ({ s with cycle := 800 }.tooLate r).isSome = true ∧
    ({ replying false with cycle := 80000 }.tooLate (reply0 2)).isSome = true ∧
    s.cleared.contains (r.caller, r.num) = false ∧ s.lost.contains (r.caller, r.num) = false ∧
    (hosted.setCell cell0 { hosted.cell cell0 with ports := Vector.replicate 8 (List.replicate 32 Token.nul) }).portRoom cell0 6 1 = false := by
  refine ⟨?_, ?_, ?_, ?_, ?_, ?_, ?_, ?_⟩ <;> decide +kernel

/-! ### Built-in functions -/

/-- Grotto 0 runs a built-in through 0x1000 to 0x1FFF, whose page is cached. -/
def building (entry : Nat) (payload : Vector Word 4) (params : Option (List Nat)) (done : Nat) (m : Memory) : State :=
  let s := memory 0 []
  { s with mem := m, units := [(.grotto 0, ⟨(Vector.replicate 8 none).set 0 (some ⟨call0 entry payload, Thread.zero, 4096, false, params, done⟩), [], []⟩)] }

def put4 (m : Memory) (a : Nat) (l : List Nat) : Memory := l.zipIdx.foldl (fun m x => m.writeNat (a + 4 * x.2) 4 x.1) m

/-- A parameter block of REDUCE over two sources of two elements, at offset 0. -/
def reduceBlock : List Nat :=
  [2, 2, 0, 1, 0x1800, 0, 0, 0, 9, 0, 0, 0, 0, 0, 0, 0, 0x1100, 0, 0x1200, 0] ++ List.replicate 12 0
def adamwBlock : List Nat :=
  [1, 0, 0, 1, 0x1100, 0, 0, 0, 9, 0, 0x1200, 0, 0x1300, 0, 0x1400, 0, 0x3F800000, 0x3F800000, 0, 0x3F800000, 0x3F800000, 0x3F800000,
    0x3F800000, 0x3F800000, 0] ++ List.replicate 7 0
def sources : Memory := put4 (put4 (put4 Memory.empty 0x1000 reduceBlock) 0x1100 [0x3F800000, 0x40000000]) 0x1200 [0x3F800000, 0x3F800000]

def builtin : RemoteId := ⟨.grotto 0, 0⟩

/-- The count that a built-in has done. -/
def doneOf (i : Instr) (s : State) : Option (Option Nat) :=
  after (fun t => (t.unit (.grotto 0)).ctx[(0 : Fin 8)].map (·.done)) (exec i s)

/-- REDUCE: its checks, one group of two sums (1 + 1 and 2 + 1), and its end with the count and the flag (R352, R353). -/
theorem test_reduce :
    doneOf (.builtinReduce builtin) (building 0 #v[0, 0, 0, 0] none 0 sources) = some (some 0) ∧
    answered (exec (.builtinReduce builtin) (building 0 #v[0, 0, 0, 0] none 0 Memory.empty)) = some [(14, 0, 0)] ∧
    (memAfter (exec (.builtinReduce builtin) (building 0 #v[0, 0, 0, 0] (some reduceBlock) 0 sources))).readNat 0x1800 8 = 0x4040000040000000 ∧
    answered (exec (.builtinReduce builtin) (building 0 #v[0, 0, 0, 0] (some reduceBlock) 2 sources)) = some [(0, 2, 9)] := by decide +kernel

/-- ADAMW with b1 = ob1 = ob2 = k1 = k2 = eps = lr = 1, b2 = wd = 0, p = 3, g = 2, m = 1, v = 5: m = 3, v = 4,
p = 3 − 3 / (2 + 1) = 2 (R354). -/
def adamwMem : Memory :=
  put4 (put4 (put4 (put4 (put4 Memory.empty 0x1000 adamwBlock) 0x1100 [0x40400000]) 0x1200 [0x40000000]) 0x1300 [0x3F800000]) 0x1400 [0x40A00000]

theorem test_adamw :
    doneOf (.builtinAdamw builtin) (building 1 #v[0, 0, 0, 0] none 0 adamwMem) = some (some 0) ∧
    (let m := memAfter (exec (.builtinAdamw builtin) (building 1 #v[0, 0, 0, 0] (some adamwBlock) 0 adamwMem))
     (m.readNat 0x1100 4, m.readNat 0x1300 4, m.readNat 0x1400 4)) = (0x40000000, 0x40400000, 0x40800000) ∧
    answered (exec (.builtinAdamw builtin) (building 1 #v[0, 0, 0, 0] (some adamwBlock) 1 adamwMem)) = some [(0, 1, 9)] := by decide +kernel

/-- FILL writes 8 bytes a step, to the end of the capability; an unaligned count is BAD_DESC (R355). -/
theorem test_fill :
    doneOf (.builtinFill builtin) (building 2 #v[0xFF0, 16, 7, 0] none 0 Memory.empty) = some (some 0) ∧
    answered (exec (.builtinFill builtin) (building 2 #v[0xFF0, 24, 7, 0] none 0 Memory.empty)) = some [(14, 0, 0)] ∧
    (memAfter (exec (.builtinFill builtin) (building 2 #v[0xFF0, 16, 7, 0] (some []) 8 Memory.empty))).readNat 0x1FF8 8 = 7 ∧
    answered (exec (.builtinFill builtin) (building 2 #v[0xFF0, 16, 7, 0] (some []) 16 Memory.empty)) = some [(0, 16, 0)] := by decide +kernel

/-- COPY of ranges that touch runs; of ranges that overlap it is BAD_DESC (R355). -/
theorem test_copy :
    doneOf (.builtinCopy builtin) (building 3 #v[0x200, 0x1F8, 8, 0] none 0 sources) = some (some 0) ∧
    answered (exec (.builtinCopy builtin) (building 3 #v[0x200, 0x1F8, 16, 0] none 0 sources)) = some [(14, 0, 0)] ∧
    (memAfter (exec (.builtinCopy builtin) (building 3 #v[0x300, 0x100, 8, 0] (some []) 0 sources))).readNat 0x1300 8 = 0x400000003F800000 ∧
    answered (exec (.builtinCopy builtin) (building 3 #v[0x300, 0x100, 8, 0] (some []) 8 sources)) = some [(0, 8, 0)] := by decide +kernel

/-- BuiltIns: the reads and the writes of a step answer addresses and bytes; a capability without W. -/
theorem witness_builtins :
    let s := building 0 #v[0, 0, 0, 0] none 0 sources
    (match s.builtinWords (.grotto 0) 0 0x1000 32 with
      | (_, .ok ws) => ws == reduceBlock && reduceOk (call0 0 #v[0, 0, 0, 0]).cap ws && !adamwOk (call0 0 #v[0, 0, 0, 0]).cap ws
      | _ => false) = true ∧ adamwOk (call0 1 #v[0, 0, 0, 0]).cap adamwBlock = true ∧
    (match s.builtinTargets (.grotto 0) 0 .perm 8 [0x1FF8] with
      | (_, .ok l) => l == [[(⟨.dense, 0x1FF8, none⟩, 8)]]
      | _ => false) = true ∧
    (match s.builtinRead (.grotto 0) 0 0x1100 8 with
      | (_, .ok l) => leNat l == 0x400000003F800000
      | _ => false) = true ∧ (Cap.make 0x1000 .dense 0x1000 0x80 0 0 true).pW = false := by decide +kernel

/-! ### Blocks -/

/-- A block of one NOP with one output whose mask names g0 and g63. -/
def blockOf2 : Block := ⟨0, 1, 0x8000000000000001, [], [0x003FFFF0]⟩

/-- Its instance in the cell, with this exit, these register writes and one output issued; a token stands at each
port. -/
def running (e : Option Exit) (ws : List (Fin 64 × Token)) (f : Instance → Instance) : State :=
  let s := State.reset.placeCell 0x003FFFF0
  let y := s.cell cell0
  let i : Instance := { freshInstance blockOf2 1 with writes := ws, outputs := 1, exit := e }
  { s.setCell cell0 { y with program := { y.program with blocks := [blockOf2] }, inst := some (f i) } with script := [] }

def both : List (Fin 64 × Token) := [(63, Token.scalar 9), (0, Token.scalar 8)]

/-- What a commit leaves: g0 and g63, BEND, whether an instance runs, what stands at N. -/
def committed (s : State) : Option (Elem × Elem × Bool × Bool × Nat) :=
  after (fun t => let x := t.cell cell0
    (x.g[0].at 0, x.g[63].at 0, x.bend, x.inst.isSome, x.ports[0].length)) (exec (.blockCommit cell0) s)

/-- With every register of the mask written the block commits and BEND ends the work; without g0, with a drain or with a
send that waits it does not (R153, R155, R157). -/
theorem test_block_commit :
    committed (running (some .bend) both fun i => { i with taken := [(0, Token.scalar 0)] }) = some (8, 9, true, false, 0) ∧
    committed (running (some .bend) [(63, Token.scalar 9)] id) = some (0, 0, false, true, 1) ∧
    committed (running none both id) = some (0, 0, false, true, 1) ∧
    committed (running (some .bend) both fun i => { i with drains := [⟨0, 0, .eow, false, none⟩] }) = some (0, 0, false, true, 1) ∧
    committed (running (some (.block 0)) both id) = some (8, 9, false, true, 1) := by
  refine ⟨?_, ?_, ?_, ?_, ?_⟩ <;> decide +kernel

/-- The cell's cause and source kind, and whether its block still runs. -/
def quiet (s : State) : Option (Option Cause × Nat) :=
  after (fun t => ((t.cell cell0).cause, (t.cell cell0).srcKind.val)) (exec (.blockQuiescence cell0) s)

def dead (i : Instance) : Instance := { i with slots := [⟨none, none, none, .done⟩] }

/-- A quiescent block whose mask is not met raises EXIT_COUNT with source kind 3 (R156). -/
theorem test_quiescence :
    quiet (running (some .bend) [] dead) = some (some .exitCount, 3) ∧ quiet (running (some .bend) both dead) = some (none, 0) ∧
    quiet (running (some .bend) [] fun i => { dead i with drains := [⟨0, 0, .eow, false, none⟩] }) = some (none, 0) := by decide +kernel

/-- BlockCommit: met and unmet, quiet and alive, released and unreleased. -/
theorem witness_block_commit :
    let s := running (some .bend) both dead
    (∃ b i, (s.cell cell0).running = some (b, i) ∧ (∀ r : Fin 64, b.mask.getLsbD r.val = true → ∃ t, (r, t) ∈ i.writes) ∧
      i.outputs = b.outputs ∧ i.exit = some .bend ∧ i.drains = [] ∧ i.held = [] ∧ (i.writes.map (·.1)).Nodup ∧
      ∀ n < b.words.length, slotAlive b i n = false) ∧
    (s.place cell0).isSome = true ∧ s.unreleased cell0 = false ∧
    { s with transfers := [⟨cell0, ⟨0, 0, 1⟩, false, .null, 0, 0, 64, 0, 0, 0, 0, []⟩] }.unreleased cell0 = true := by
  refine ⟨⟨_, _, rfl, ?_, by decide +kernel, rfl, rfl, rfl, by decide +kernel, by decide +kernel⟩, by decide +kernel, by decide +kernel,
    by decide +kernel⟩
  intro r h
  have : r = 63 ∨ r = 0 := by revert r; decide +kernel
  rcases this with rfl | rfl
  · exact ⟨Token.scalar 9, .head _⟩
  · exact ⟨Token.scalar 8, .tail _ (.head _)⟩

/-- A block with an exit and one slot that may still fire is not quiescent. -/
theorem witness_alive : ∃ b i, ((onCell (.mov (c3 0)) (some (Token.scalar 1)) none none).cell cell0).running = some (b, i) ∧
    slotAlive b i 0 = true := ⟨_, _, rfl, by decide +kernel⟩

/-- A send that waits leaves once the cell's stores are performed (R157). -/
theorem test_send_resume :
    let s := running none [] id
    let s := s.setCell cell0 { s.cell cell0 with sendQ := [(0, Token.scalar 1)] }
    after (fun t => (t.cell cell0).sendQ.length) (exec (.sendResume cell0) s) = some 0 ∧
    after (fun t => (t.cell cell0).sendQ.length) (exec (.sendResume cell0)
      { s with transfers := [⟨cell0, ⟨0, 0, 1⟩, false, .null, 0, 0, 64, 0, 0, 0, 0, []⟩] }) = some 1 := by decide +kernel

/-! ### Tokens that arrive -/

/-- A token on its way to port N of the cell, which holds n tokens there. -/
def flying (n : Nat) (v : VpId) : State :=
  { hosted.setCell cell0 { hosted.cell cell0 with ports := (Vector.replicate 8 []).set 0 (List.replicate n (Token.scalar 1)) } with
    flights := [⟨⟨0, 1, 0⟩, cell0, 0, v, 0, none, Token.scalar 5⟩] }

/-- The kinds at N, and the flights, drops and counted errors, after the arrival. -/
def landed (ok : Bool) (s : State) : Option (List Kind × Nat × Nat × Nat) :=
  after (fun t => ((t.cell cell0).ports[0].map (·.k), t.flights.length, t.dropped, t.errors.length)) (exec (.tokenReceive 0 ok) s)

/-- The 16th token finds room and the 17th does not; a damaged one is an empty DATA and an ERR token; one for a VP that
has left is dropped (R134, R160, R226). -/
theorem test_token_arrival :
    landed true (flying 0 ⟨0, 0, 1⟩) = some ([.data], 0, 0, 0) ∧
    (landed true (flying 15 ⟨0, 0, 1⟩)).map (fun x => (x.1.length, x.2.1)) = some (16, 0) ∧
    (landed true (flying 16 ⟨0, 0, 1⟩)).map (fun x => (x.1.length, x.2.1)) = some (16, 1) ∧
    landed false (flying 0 ⟨0, 0, 1⟩) = some ([.data, .err], 0, 0, 1) ∧
    landed true (flying 0 ⟨0, 0, 2⟩) = some ([], 0, 1, 0) := by decide +kernel

/-- A retired cell passes a token from N on to S, here onto an edge from S, whose ring takes it (R4, R159). -/
def retiredFlying : State :=
  let s := flying 0 ⟨0, 0, 1⟩
  let x := s.vp ⟨0, 0, 1⟩
  { s.setVp ⟨0, 0, 1⟩ { x with edges := [⟨0, 0, 0, false, false, 2, 0, 128, [], []⟩] } with retired := [cell0] }

theorem test_retired_passes :
    landed true retiredFlying = some ([], 0, 0, 0) ∧
    after (fun t => ((t.vp ⟨0, 0, 1⟩).edges.map (·.ring.length))) (exec (.tokenReceive 0 true) retiredFlying) = some [1] := by
  decide +kernel

theorem witness_retired : retiredFlying.isRetired cell0 = true ∧
    (match retiredFlying.place cell0 with
      | some pl => ({ retiredFlying with flights := [] }.sendHop pl cell0 (Token.scalar 5) (2 * 2 ^ 24)).isSome
      | none => false) = true := by decide +kernel

/-- TokenArrival: no route passes N on; the first flight; room for one and for two. -/
theorem witness_token_arrival :
    passRoutes ((flying 14 ⟨0, 0, 1⟩).cell cell0).program.routes 0 = [] ∧ (flying 14 ⟨0, 0, 1⟩).hosted ⟨0, 0, 1⟩ cell0 = true ∧
    { flying 14 ⟨0, 0, 1⟩ with flights := [] }.portRoom cell0 0 2 = true ∧
    { flying 15 ⟨0, 0, 1⟩ with flights := [] }.portRoom cell0 0 2 = false ∧
    (flying 0 ⟨0, 0, 2⟩).hosted ⟨0, 0, 2⟩ cell0 = false := by decide +kernel

/-- An ADD of a marker from RCV N and of data: its drain of port N, whose next token is t (R143). -/
def draining (t : Token) : State :=
  let s := onCell (.cellAdd (c3 0)) none none none
  let y := s.cell cell0
  let o (t : Token) (p : List (Fin 8)) : Operand := ⟨t, p, []⟩
  let inst := y.inst.map fun i => { i with
    slots := [⟨some (o (Token.marker .eot 0) []), some (o (Token.scalar 1) [0]), none, .waiting⟩], drains := [⟨0, 0, .eot, false, none⟩] }
  s.setCell cell0 { y with inst := inst, ports := y.ports.set 0 [t] }

/-- Results to w.g1 and w.g2, tokens taken, discards and drains after the step. -/
def drained (s : State) : Option (List (Nat × Kind) × Nat × Nat × Nat) :=
  match exec (.markerDrain cell0 0) s with
  | .next t => (t.cell cell0).inst.map fun i => (i.writes.map fun w => (w.1.val, w.2.k), i.taken.length, i.discards, i.drains.length)
  | _ => none

/-- Data is discarded and counted; a marker of the kind ends the drain, and so does EOW, which is then the result. -/
theorem test_marker_drain :
    drained (draining (Token.scalar 4)) = some ([], 1, 1, 1) ∧
    drained (draining (Token.marker .eot 0)) = some ([(1, .eot), (2, .eot)], 1, 0, 0) ∧
    drained (draining (Token.marker .eow 0)) = some ([(1, .eow), (2, .eow)], 1, 0, 0) ∧
    drained (draining (Token.marker .eor 0)) = some ([], 1, 0, 1) := by
  refine ⟨?_, ?_, ?_, ?_⟩ <;> decide +kernel

theorem witness_marker_drain :
    let s := draining (Token.marker .eow 0)
    ((s.cell cell0).ports[0]).length = 1 ∧ (s.cell cell0).arrayOwns 0 = false ∧ (s.place cell0).isSome = true ∧
    (∃ b i sl, (s.cell cell0).running = some (b, i) ∧ i.drains = [⟨0, 0, .eot, false, none⟩] ∧
      b.instr 0 = some (.cellAdd (c3 0)) ∧ i.slots[0]? = some sl ∧
      (match instrShape (.cellAdd (c3 0)) with
        | some sh => (match sh.judge false sl.l sl.r sl.p with
          | .marker m _ => m == Token.marker .eot 0
          | _ => false)
        | none => false) = true) := by
  refine ⟨by decide +kernel, by decide +kernel, by decide +kernel, _, _, _, rfl, rfl, by decide +kernel, rfl, by decide +kernel⟩

/-! ### Memory cells -/

/-- Requests of the cell that wait in its memory cell's queue. -/
def waiting (l : List CellReqBody) : State :=
  let s := hosted
  { s.setMemQueue cell0.server (l.map fun b => ⟨cell0, ⟨0, 0, 1⟩, 0, 0, 0, b, none⟩) with
    mem := s.mem.writeNat 0x1000 8 0x0000000500000007 }

def lane (n a d : Nat) : LaneAccess := ⟨n, a, BitVec.ofNat 32 d, none⟩

def queued1 : Res → Option (List (Option ((List Nat × Nat) × List Nat))) := after fun t =>
  (t.memQueue cell0.server).map fun r => r.reply.map fun y => (((y.1.e.toList.take 3).map (·.toNat), y.1.v.toNat), (y.2.e.toList.take 2).map (·.toNat))

/-- A load's reply holds its lanes and their number; a store writes its lanes in ascending order; an atomic adds (R183 to
R185). -/
theorem test_memory_cell :
    queued1 (exec (.memoryCellRequest cell0.server 0) (waiting [.lanes .load .dense [lane 0 0x1000 0, lane 2 0x1004 0] []])) =
      some [some (([7, 0, 5], 5), [0, 2])] ∧
    (memAfter (exec (.memoryCellRequest cell0.server 0) (waiting [.lanes .store .dense [lane 0 0x1000 1, lane 1 0x1000 2] []]))).readNat 0x1000 8 =
      0x0000000500000002 ∧
    (memAfter (exec (.atomicAtOwner cell0.server 0) (waiting [.lanes .atadd .dense [lane 0 0x1000 3] []]))).readNat 0x1000 4 = 10 ∧
    queued1 (exec (.memoryCellRequest cell0.server 1) (waiting [.lanes .store .dense [lane 0 0x1000 1] [], .lanes .load .dense [lane 0 0x1000 0] []])) =
      some [none, none] := by
  refine ⟨?_, ?_, ?_, ?_⟩ <;> decide +kernel

/-- MemoryCellSteps: lanes read and applied whole; requests that stand in no order, and in one; a waiting slot. -/
theorem witness_memory_cell :
    let a : CellReq := ⟨cell0, ⟨0, 0, 1⟩, 0, 0, 0, .lanes .store .dense [lane 0 0x1000 1] [], none⟩
    let b : CellReq := ⟨cell0, ⟨0, 0, 1⟩, 0, 0, 0, .lanes .load .dense [lane 0 0x1000 0] [], none⟩
    let c : CellReq := ⟨cell0, ⟨0, 0, 1⟩, 0, 0, 0, .lanes .load .dense [lane 0 0x1004 0] [], none⟩
    let d : CellReq := { c with body := .lanes .store .dense [lane 0 0x1004 0] [0], slot := 9 }
    mustPrecede a b true = true ∧ mustPrecede a c true = false ∧ mustPrecede a b false = false ∧ mustPrecede a d false = true ∧
    mustPrecede d a true = false ∧ mustWait [a, c] 1 c = false ∧ mustWait [d, a] 0 d = true ∧
    ((waiting []).readLanes .device [] .dense [lane 0 0x1004 0]).2 = [(0, some 5)] ∧
    ((waiting []).atomicLanes .device [] .atmax .dense [] [lane 15 0x1004 0]).2 = [(15, some 5)] ∧
    (let s := onCell (.atadd (c3 0)) (some (row [1])) (some (row [1])) none
     match (s.cell cell0).inst with
      | some i => ({ a with inst := i.num } : CellReq).isHeld (s.setInst cell0 (i.mark 0 .issued)) == false && a.isHeld s
      | none => false) = true := by decide +kernel

/-- The oldest request's reply reaches its slot's targets; the VP having left it is an ORPHAN (R132, R226). -/
theorem test_memory_reply :
    let i : Instr := .ld (c3 9)
    let s := onCell i (some (row [1])) none none
    let s := s.setMemQueue cell0.server [⟨cell0, ⟨0, 0, 1⟩, 0, 0, 1, .lanes .load .dense [] [], some (Token.scalar 3, Token.ofList .ord 3 [0, 1])⟩]
    let s := match (s.cell cell0).inst with
      | some j => s.setInst cell0 (j.mark 0 .issued)
      | none => s
    outs 1 (exec (.memoryCellReply cell0) s) = [([3], 1), ([0], 3)] ∧
    after (fun t => t.dropped) (exec (.memoryCellReply cell0) { s with rows := [] }) = some 1 ∧
    (oldestOf cell0 (s.memQueue cell0.server) 0).isSome = true := by decide +kernel

/-! ### Transfers and address generators -/

/-- A transfer of the cell into its scratchpad, n bytes of which are to move. -/
def moving (n : Nat) : State :=
  let s := hosted
  { s with
    mem := s.mem.writeNat 0x1000 8 7
    tlb := [⟨.memCell cell0.server, 0, 0, 2 ^ 30, 0, true, true, none, 0x2000, true⟩]
    transfers := [⟨cell0, ⟨0, 0, 1⟩, true, Cap.make 0x1000 .dense 0x1000 0xFF 0 0 true, 0, 0, n, 0, 77, 3, 1, []⟩] }

/-- The transfers' progress, and what stands at XFER. -/
def moved : Res → Option (List Nat × List (List Nat)) := after fun t =>
  (t.transfers.map (·.moved), (t.cell cell0).ports[7].map fun x => (x.e.toList.take 5).map (·.toNat))

/-- One line of 128 bytes; the last line, with the completion of R189; a poisoned line ends it with ECC_DROPPED. -/
theorem test_transfer :
    moved (exec (.transferLine cell0) (moving 128)) = some ([64], []) ∧
    moved (exec (.transferLine cell0) (moving 64)) = some ([], [[0, 64, 0, 0, 77]]) ∧
    moved (exec (.transferLine cell0) { moving 64 with mem := (moving 64).mem.strike 0x200 }) = some ([], [[16, 0, 0, 0, 77]]) ∧
    after (fun t => t.scratch.readNat cell0.scratchBase 8) (exec (.transferLine cell0) (moving 64)) = some 7 := by decide +kernel

theorem witness_transfer :
    (moving 64).portRoom cell0 7 1 = true ∧ (moving 64).inRoutes cell0 7 = [] ∧ ((moving 64).moveLine ((moving 64).transfers.headD ⟨cell0, ⟨0, 0, 1⟩, true, .null, 0, 0, 0, 0, 0, 0, 0, []⟩)).2 = .ok ∧
    (let s := { moving 64 with mem := (moving 64).mem.strike 0x200 }
     (s.moveLine (s.transfers.headD ⟨cell0, ⟨0, 0, 1⟩, true, .null, 0, 0, 0, 0, 0, 0, 0, []⟩)).2 = .eccDropped) ∧
    ((moving 64).place cell0).isSome = true ∧ ((moving 64).transfers.findIdx? fun t => t.cell == cell0) = some 0 := by decide +kernel

/-- A generator of one run of one token of two lanes through c1, to MESH, whose route leads to the cell itself (R406,
R407). -/
def frame (w0 : Nat) : Vector (BitVec 32) 8 := #v[BitVec.ofNat 32 w0, 0, 0, 1, 0, 1, 3, 0]

def generating (w0 outer inner : Nat) (ports : List Token) : State :=
  let s := hosted
  let x := s.cell cell0
  { s.setCell cell0 { x with
      c := x.c.set 1 (Cap.make 0x1000 .dense 0x1000 0xFF 0 0 true)
      inst := none
      ports := (Vector.replicate 8 []).set 4 ports
      agens := x.agens.set 1 (some ⟨frame w0, outer, inner, 0, false, false, false⟩)
      program := { x.program with routes := [0x84800000] } } with
    mem := s.mem.writeNat 0x1000 8 0x0000000500000007
    tlb := [⟨.memCell cell0.server, 0, 0, 2 ^ 30, 0, true, true, none, 0x2000, true⟩] }

/-- What flies after a generator's step, and whether it is done. -/
def generated (s : State) : Option (List (Kind × List Nat × Nat) × Option Bool) :=
  after (fun t => (t.flights.map fun f => (f.tok.k, (f.tok.e.toList.take 2).map (·.toNat), f.tok.v.toNat),
    (t.cell cell0).agens[(1 : Fin 2)].map (·.done))) (exec (.addressGeneratorToken cell0 1) s)

/-- The data token, the EOT that ends the run, and the EOW that ends the frame (R407). -/
theorem test_generator_sends :
    generated (generating 0x411 0 0 []) = some ([(.data, [7, 5], 3)], some false) ∧
    (generated (generating 0x411 0 1 [])).map (fun x => (x.1.map (·.1), x.2)) = some ([.eot], some false) ∧
    (generated (generating 0x411 1 0 [])).map (fun x => (x.1.map (·.1), x.2)) = some ([.eow], some true) := by
  refine ⟨?_, ?_, ?_⟩ <;> decide +kernel

/-- A receiving generator writes the valid lanes of its mask; an EOW ends it. -/
theorem test_generator_receives :
    (memAfter (exec (.addressGeneratorToken cell0 1) (generating 0x413 0 0 [row [8, 9, 10]]))).readNat 0x1000 8 = 0x0000000900000008 ∧
    (generated (generating 0x413 0 0 [Token.marker .eow 0])).map (·.2) = some (some true) := by
  refine ⟨?_, ?_⟩ <;> decide +kernel

theorem witness_generator :
    let s := generating 0x411 0 0 []
    (∃ pl a, s.place cell0 = some pl ∧ (s.cell cell0).agens[(1 : Fin 2)] = some a ∧ a.done = false ∧ a.faulted = false ∧
      a.stop = false ∧ pl.x.stage ≠ .preempting ∧
      (match s.agenAccess cell0 0 a false [0, 1] with
        | (u, .ok ls) => (u.agenRead .device ls).2 == [(0, some 7), (1, some 5)]
        | _ => false) = true) ∧
    (s.cell cell0).saved = false ∧ (s.sendPort cell0 4 (Token.marker .eot 0)).isSome = true ∧
    ((generating 0x413 0 0 []).cell cell0).arrayOwns 4 = false := by
  refine ⟨⟨_, _, rfl, rfl, rfl, rfl, rfl, by decide +kernel, by decide +kernel⟩, ?_, ?_, ?_⟩ <;> decide +kernel

/-! ### The matrix array -/

/-- An i8 MMA of shape 8 × 16 with K = 1: A at 0 and B at 64 of the scratchpad, or from the ports N and S; released after
`count` commands to MESH. -/
def mmaRun (fromPorts : Bool) (count : Nat) (f : MatrixRun → MatrixRun) : MatrixRun :=
  let src := if fromPorts then 0 else 1
  f ⟨⟨0, row [src, 0, 1, 0, 0], row [src, if fromPorts then 2 else 64, 16, 0, 0], row [3, 1, 0x31, count], ⟨.out, 68⟩, 0, 0, 0⟩,
    [], [], false, false, false, false, false, false, 0, [], []⟩

/-- The cell with this command in its array, A's first element 2, B's 0xFD, MESH routed to the cell itself. -/
def inArray (r : MatrixRun) (f : Cell → Cell) : State :=
  let s := hosted
  let x := s.cell cell0
  { s.setCell cell0 (f { x with inst := none, matrix := [r], program := { x.program with routes := [0x84800000] } }) with
    scratch := (s.scratch.writeNat cell0.scratchBase 1 2).writeNat (cell0.scratchBase + 64) 1 0xFD }

def started (r : MatrixRun) : MatrixRun := { r with started := true, aDone := true, bDone := true }
def ready (r : MatrixRun) : MatrixRun := { started r with ready := true }

/-- The first command's progress, the tile's first word, the counter, and what a release still sends. -/
def arrayAfter (i : Instr) (s : State) : Option (Option (Bool × Bool × Nat) × Elem × Nat × Option Nat) :=
  after (fun t => let x := t.cell cell0
    (x.matrix.head?.map fun r => (r.started, r.ready, r.k), x.acc[0], x.counter, x.release.map fun r => r.toks.length)) (exec i s)

/-- A command starts, is made ready, accumulates 2 · (−3), completes, and at its count a release is due: 33 tokens of an i8
tile and EOR (R282, R283). -/
theorem test_matrix_steps :
    arrayAfter (.matrixCommandStart cell0) (inArray (mmaRun false 0 id) id) = some (some (true, false, 0), 0, 0, none) ∧
    arrayAfter (.matrixCommandStart cell0) (inArray (mmaRun false 0 started) id) = some (some (true, true, 0), 0, 0, none) ∧
    arrayAfter (.matrixCommandStart cell0) (inArray (mmaRun false 0 ready) id) = some (some (true, true, 1), 0xFFFFFFFA, 0, none) ∧
    arrayAfter (.matrixCommandStart cell0) (inArray (mmaRun false 0 fun r => { ready r with k := 1 }) id) = some (none, 0, 1, none) ∧
    arrayAfter (.matrixCommandStart cell0) (inArray (mmaRun false 1 fun r => { ready r with k := 1 }) id) = some (none, 0, 1, none) ∧
    arrayAfter (.tileRelease cell0) (inArray (mmaRun false 0 id) fun x => { x with
      due := some ((mmaRun false 1 id).cmd, true), acc := x.acc.set 0 9, counter := 1 }) =
      some (some (false, false, 0), 0, 0, some 34) := by
  refine ⟨?_, ?_, ?_, ?_, ?_, ?_⟩ <;> decide +kernel

/-- ACCZ clears the tile and the counter (R282). -/
theorem test_accz_command :
    arrayAfter (.acczCommand cell0) (inArray (mmaRun false 0 fun r => { r with cmd := { r.cmd with op := 3 } })
      fun x => { x with acc := Vector.replicate 512 7, counter := 5 }) = some (none, 0, 0, none) := by decide +kernel

/-- A release's tokens leave one by one, behind the sends of its block to the same port (R283). -/
theorem test_tile_release :
    arrayAfter (.tileRelease cell0) (inArray (mmaRun false 0 id) fun x => { x with release := some ⟨4, 0, [Token.scalar 1, Token.scalar 2], true⟩ }) =
      some (some (false, false, 0), 0, 0, some 1) ∧
    arrayAfter (.tileRelease cell0) (inArray (mmaRun false 0 id) fun x => { x with release := some ⟨4, 0, [Token.scalar 1], true⟩ }) =
      some (some (false, false, 0), 0, 0, none) ∧
    arrayAfter (.tileRelease cell0) (inArray (mmaRun false 0 id) fun x => { x with
      release := some ⟨4, 0, [Token.scalar 1], true⟩, sendQ := [(4, Token.scalar 2)] }) = some (some (false, false, 0), 0, 0, some 1) := by
  refine ⟨?_, ?_, ?_⟩ <;> decide +kernel

/-- The command takes its packets from N and S. -/
def taking (a b : Bool) (port : Fin 8) (t : Token) (skip : List (Fin 8)) : State :=
  inArray (mmaRun true 0 fun r => { r with started := true, aDone := a, bDone := b })
    fun x => { x with ports := (Vector.replicate 8 []).set port [t], skip := skip }

def hdr (l : List Nat) : Token := Token.ofList .hdr 0x001F l

/-- Tokens left at a port, tokens taken for A and B, and skipped ports. -/
def took (port : Fin 8) (s : State) : Option (Nat × Option (Nat × Nat) × Nat) :=
  after (fun t => let x := t.cell cell0
    ((x.ports[port]).length, x.matrix.head?.map fun r => (r.a.length, r.b.length), x.skip.length)) (exec (.matrixOperandTake cell0 port) s)

/-- A's header of 8 rows and 1 column is taken; one of 9 rows fails the command and stays at the port, while one that
breaks R268 is discarded; a faulty packet's tokens are discarded up to the next header (R271, R287, R289). -/
theorem test_operand_take :
    took 0 (taking false false 0 (hdr [2, 8, 1, 0, 0]) []) = some (0, some (1, 0), 0) ∧
    took 2 (taking true false 2 (hdr [2, 1, 16, 0, 0]) []) = some (0, some (0, 1), 0) ∧
    took 0 (taking false false 0 (hdr [2, 9, 1, 0, 0]) []) = some (1, none, 0) ∧
    took 0 (taking false false 0 (hdr [2, 8, 1, 5, 0]) []) = some (0, none, 1) ∧
    took 0 (taking false false 0 (Token.scalar 1) [0]) = some (0, some (0, 0), 1) ∧
    took 0 (taking false false 0 (hdr [2, 8, 1, 0, 0]) [0]) = some (1, some (0, 0), 0) := by
  refine ⟨?_, ?_, ?_, ?_, ?_, ?_⟩ <;> decide +kernel

/-- MatrixArray: well and badly formed commands, formats that are known, a step, a send of a packet that is passed on. -/
theorem witness_matrix_array :
    (mmaRun false 0 started).wellFormed false = true ∧
    ({ mmaRun false 0 started with cmd := { (mmaRun false 0 started).cmd with p := row [4, 1, 0x31, 0] } } : MatrixRun).wellFormed false = false ∧
    (mmaRun false 0 ready).fmtA = some .i8 ∧ (mmaRun false 0 ready).fmtB = some .i8 ∧ (mmaRun false 0 ready).cmd.steps = 1 ∧
    (mmaRun false 1 ready).cmd.count = 1 ∧ (inArray (mmaRun false 0 ready) id).passOn cell0 (mmaRun false 0 ready) 1 = none ∧
    ((inArray (mmaRun false 0 ready) id).matrixStep cell0 (mmaRun false 0 ready) .i8 .i8 0).2 = true ∧
    ((inArray (mmaRun false 0 ready) id).sendPort cell0 4 (Token.scalar 1)).isSome = true ∧
    ((inArray (mmaRun false 0 ready) id).place cell0).isSome = true ∧ descPort (mmaRun true 0 id).cmd.l = some 0 ∧
    descPort (mmaRun true 0 id).cmd.r = some 2 := by
  refine ⟨?_, ?_, ?_, ?_, ?_, ?_, ?_, ?_, ?_, ?_, ?_⟩ <;> decide +kernel

/-! ### Positions -/

/-- Row 0 of die 0 hosts a VP of d = 1 and w waves; its position 0 has come this far; cell 0 ends with BEND. -/
def atPhase (w : Nat) (ph : Phase) (f : Cell → Cell) : State :=
  let s := hosted.setVp ⟨0, 0, 1⟩ { placedVp with w := w }
  let x := s.cell cell0
  let s := s.setCell cell0 (f { x with inst := none, next := none, bend := true })
  s.setRow ⟨0, 0⟩ { Row.reset with host := some ⟨0, 0, 1⟩, pos := some 0, phase := ph }

def rowAfter (i : Instr) (s : State) : Option (Option VpId × Phase × Option Nat) :=
  after (fun t => let r := t.row ⟨0, 0⟩; (r.host, r.phase, r.nextPos)) (exec i s)

/-- Markers, drain, RCF, save and leave, each in its turn (R201, R203): the row then waits for position 1, or with no more
positions is released. -/
theorem test_position_leaves :
    rowAfter (.waveMarkerCompletion ⟨0, 0⟩) (atPhase 1 .live id) = some (some ⟨0, 0, 1⟩, .draining, none) ∧
    rowAfter (.waveMarkerCompletion ⟨0, 0⟩) (atPhase 1 .live fun x => { x with bend := false }) = some (some ⟨0, 0, 1⟩, .live, none) ∧
    rowAfter (.engineDrainEnd ⟨0, 0⟩) (atPhase 1 .draining id) = some (some ⟨0, 0, 1⟩, .drained, none) ∧
    rowAfter (.rcfPlacement ⟨0, 0⟩) (atPhase 1 .drained id) = some (some ⟨0, 0, 1⟩, .rcf, none) ∧
    rowAfter (.rcfPlacement ⟨0, 0⟩) (atPhase 1 .rcf id) = some (some ⟨0, 0, 1⟩, .taken, none) ∧
    rowAfter (.stateSave ⟨0, 0⟩) (atPhase 1 .taken id) = some (some ⟨0, 0, 1⟩, .saved, none) ∧
    rowAfter (.positionLeave ⟨0, 0⟩) (atPhase 2 .saved id) = some (some ⟨0, 0, 1⟩, .left, some 1) ∧
    rowAfter (.positionLeave ⟨0, 0⟩) (atPhase 1 .saved id) = some (none, .empty, none) := by
  refine ⟨?_, ?_, ?_, ?_, ?_, ?_, ?_, ?_⟩ <;> decide +kernel

/-- RCF, with the position in e0, stands behind PRE; the cell takes RCF alone (R136, R137, R222). -/
theorem test_rcf :
    let pre := Token.marker .pre 1
    let s := atPhase 1 .drained fun x => { x with ports := (Vector.replicate 8 []).set 0 [pre] }
    after (fun t => (t.cell cell0).ports[0]) (exec (.rcfPlacement ⟨0, 0⟩) s) = some [pre, Token.marker .rcf 0] ∧
    after (fun t => (t.cell cell0).ports[0]) (exec (.rcfPlacement ⟨0, 0⟩)
      (atPhase 1 .rcf fun x => { x with ports := (Vector.replicate 8 []).set 0 [pre, Token.marker .rcf 0] })) = some [pre] := by
  refine ⟨?_, ?_⟩ <;> decide +kernel

/-- An egress binding of cell 0, whose EDGE port sends the wave's EOW. -/
def bound (full : Bool) : State :=
  let s := atPhase 1 .live fun x => { x with ports := (Vector.replicate 8 []).set 5 (if full then List.replicate 16 Token.nul else []) }
  s.setVp ⟨0, 0, 1⟩ { s.vp ⟨0, 0, 1⟩ with ingress := [⟨.null, 0, 0, false, 0, [], none, (0, 0)⟩] }

/-- An input port without its EOW keeps the row in step 2; what stands there is taken and counted (R201). -/
theorem test_markers :
    rowAfter (.waveMarkerCompletion ⟨0, 0⟩) (bound false) = some (some ⟨0, 0, 1⟩, .markers, none) ∧
    after (fun t => ((t.cell cell0).ports[5].length, (t.cell cell0).discard)) (exec (.waveMarkerCompletion ⟨0, 0⟩) (bound true)) = some (0, 16) := by
  refine ⟨?_, ?_⟩ <;> decide +kernel

/-- PositionLeaves: a VP that moves; its image's span; cells that have drained and that have not, ports clear and not. -/
theorem witness_position_leaves :
    let s := atPhase 2 .draining id
    let x := s.vp ⟨0, 0, 1⟩
    x.stage = .live ∧ x.entriesAt 0 = [0] ∧ x.span 0 0 0 = [(0, cell0)] ∧ s.spanCells ⟨0, 0⟩ = [cell0] ∧ s.memFaulted ⟨0, 0⟩ = false ∧
    s.cellDrained ⟨0, 0, 1⟩ cell0 = true ∧ s.portsClear cell0 = true ∧ x.static = false ∧ x.b = 1 ∧ x.total = 2 ∧
    (atPhase 2 .draining fun x => { x with sendQ := [(0, Token.nul)] }).cellDrained ⟨0, 0, 1⟩ cell0 = false ∧
    (atPhase 2 .draining fun x => { x with ports := (Vector.replicate 8 []).set 5 [Token.nul] }).portsClear cell0 = false ∧
    (s.cell cell0).bend = true ∧ (s.cell cell0).pending = false ∧ (s.cell cell0).rejected = false ∧ (s.cell cell0).saved = false ∧
    (bound false).memFaulted ⟨0, 0⟩ = false ∧ ((bound false).vp ⟨0, 0, 1⟩).inPorts 0 0 0 = [5] ∧ x.outPorts 0 0 0 = [] := by
  refine ⟨?_, ?_, ?_, ?_, ?_, ?_, ?_, ?_, ?_, ?_, ?_, ?_, ?_, ?_, ?_, ?_, ?_, ?_, ?_⟩ <;> decide +kernel

/-- An image of one cell with one record, of unused routes; its CRC32C is worked out outside the model (R403 to R405). -/
def imageMem : Memory :=
  put4 Memory.empty 0x5000 ([0x4B54494D, 1, 1, 1, 1, 1, 0x34, 0x74] ++ List.replicate 8 0 ++ [0x10000, 0, 0x650C5733, 0] ++
    0x20000000 :: List.replicate 8 0xF0000000)

def imageCap : Cap := Cap.make 0x5000 .dense 0x4000 0x85 0 0 true

/-- The VP's image stands there; row 0 waits for position p of w waves. -/
def loading (w : Nat) (row : Row) (f : Vp → Vp) : State :=
  let s := hosted.setVp ⟨0, 0, 1⟩ (f { placedVp with w := w, images := [⟨imageCap, 0, 0, false, 1, 0, 0, 1⟩] })
  { s.setRow ⟨0, 0⟩ row with
    recordOk := true, mem := imageMem, tlb := [⟨.edge ⟨0, 0⟩, 0, 0, 2 ^ 30, 0, true, true, none, 0x2000, true⟩] }

def fresh (p : Nat) : Row := { Row.reset with host := some ⟨0, 0, 1⟩, nextPos := some p }

/-- The first position goes live with the image's program and g63 the arguments; one whose predecessor still runs does
not (R163, R202). Without a verified part record a scrolling VP's position faults (R424). -/
theorem test_go_live :
    rowAfter (.positionGoLive ⟨0, 0⟩) (loading 2 (fresh 0) id) = some (some ⟨0, 0, 1⟩, .live, none) ∧
    after (fun t => let x := t.cell cell0
      (x.program.routes.length, x.g[63].v, x.g[0].k, x.front.isSome)) (exec (.positionGoLive ⟨0, 0⟩) (loading 2 (fresh 0) id)) =
      some (8, 0xFFFF, .nul, true) ∧
    rowAfter (.positionGoLive ⟨0, 0⟩) (loading 2 { fresh 1 with pos := some 0, phase := .live } id) =
      some (some ⟨0, 0, 1⟩, .live, some 1) ∧
    after (fun t => (t.cell cell0).cause) (exec (.positionGoLive ⟨0, 0⟩) { loading 2 (fresh 0) id with recordOk := false }) =
      some (some .cfgReject) := by
  refine ⟨?_, ?_, ?_, ?_⟩ <;> decide +kernel

/-- Position 1 of an image goes live once position 0 has left and saved; under wave quiesce it waits for the phase end of
wave 0 (R202). -/
theorem test_go_live_again :
    let left := { fresh 1 with pos := some 0, phase := .left }
    rowAfter (.positionGoLive ⟨0, 0⟩) (loading 2 left id) = some (some ⟨0, 0, 1⟩, .live, none) ∧
    rowAfter (.positionGoLive ⟨0, 0⟩) (loading 2 left fun x => { x with quiesce := true }) = some (some ⟨0, 0, 1⟩, .left, some 1) := by
  refine ⟨?_, ?_⟩ <;> decide +kernel

/-- A row that a CFGLD in progress holds faults its position with ROW_BUSY, cause 10 (R367). -/
theorem test_row_busy :
    after (fun t => ((t.cell cell0).cause, (t.cell cell0).rejected)) (exec (.positionGoLive ⟨0, 0⟩)
      ((loading 2 (fresh 0) id).setWork 0 (.nop) (.config ⟨0, 0, 3⟩))) = some (some .rowBusy, true) := by decide +kernel

/-- A live row puts the image of its next position into the back bank (R205). -/
theorem test_preload :
    after (fun t => (t.cell cell0).back.isSome) (exec (.imagePreload ⟨0, 0⟩)
      (loading 2 { Row.reset with host := some ⟨0, 0, 1⟩, pos := some 0, phase := .live } id)) = some true := by decide +kernel

theorem witness_go_live :
    let s := loading 2 (fresh 1) id
    let x := s.vp ⟨0, 0, 1⟩
    x.entriesAt 1 = [0] ∧ x.perWave = 1 ∧ x.total = 2 ∧ x.quiesce = false ∧ x.stage = .live ∧
    s.posState ⟨0, 0, 1⟩ 0 = .notYet ∧ (s.row (x.rowOf 0 0)).pos ≠ some 0 ∧ x.entryOf 1 = 0 ∧
    (let left := loading 2 { fresh 1 with pos := some 0, phase := .left } id
     left.posState ⟨0, 0, 1⟩ 0 = .gone ∧ x.waveOf 1 = 1 ∧ x.waveDone = 0) ∧
    (match s.readImage ⟨0, 0⟩ x 0 with
      | (_, .ok t) => t.length == 1
      | _ => false) = true := by
  refine ⟨?_, ?_, ?_, ?_, ?_, ?_, ?_, ?_, ⟨?_, ?_, ?_⟩, ?_⟩ <;> decide +kernel

/-! ### Rings and bindings -/

/-- A live position 0, or 1, with a ring to port W of its cell that holds a token of wave k. -/
def ringed (pos k n : Nat) (t : Token) : State :=
  let s := atPhase 2 .live fun x => { x with ports := (Vector.replicate 8 []).set 3 (List.replicate n Token.nul) }
  let s := s.setRow ⟨0, 0⟩ { s.row ⟨0, 0⟩ with pos := some pos }
  s.setVp ⟨0, 0, 1⟩ { s.vp ⟨0, 0, 1⟩ with edges := [⟨0, 0, 0, false, false, 1, 3, 0x1000, [(0, k, t)], []⟩] }

/-- What the ring holds, what stands at W, and what was discarded. -/
def ringAfter (s : State) : Option (List Nat × Nat × Word) :=
  after (fun t => ((t.vp ⟨0, 0, 1⟩).edges.map fun e => e.ring.length, (t.cell cell0).ports[3].length, (t.cell cell0).discard))
    (exec (.ringDelivery ⟨0, 0, 1⟩ 0) s)

/-- A resident position takes its token while its port has room; a position that has left discards it; one that is to come
keeps it (R204, R213). -/
theorem test_ring :
    ringAfter (ringed 0 0 15 (Token.scalar 4)) = some ([0], 16, 0) ∧ ringAfter (ringed 0 0 16 (Token.scalar 4)) = some ([1], 16, 0) ∧
    ringAfter (ringed 1 0 0 (Token.scalar 4)) = some ([0], 0, 1) ∧ ringAfter (ringed 0 1 0 (Token.scalar 4)) = some ([1], 0, 0) := by
  refine ⟨?_, ?_, ?_, ?_⟩ <;> decide +kernel

/-- A buffer of two slots at 0x6000 with these counts, and its pages. -/
def buffered (head tail : Nat) (tok : List Byte) (f : Vp → Vp) : State :=
  let s := atPhase 2 .live fun x => { x with ports := Vector.replicate 8 [] }
  let s := s.setVp ⟨0, 0, 1⟩ (f (s.vp ⟨0, 0, 1⟩))
  { s with
    mem := (((Memory.empty.writeNat 0x6000 8 head).writeNat 0x6008 8 tail).write 0x6040 tok).write 0x60C0 tok
    tlb := [⟨.edge ⟨0, 0⟩, 0, 0, 2 ^ 30, 0, true, true, none, 0x2000, true⟩] }

def buffer (out : Option Token) (slots : List Nat) : Binding :=
  ⟨Cap.make 0x6000 .dense (64 + 256) 0xFF 0 0 true, 0, 0, false, 0, slots, out, (0, 0)⟩

def ingress (head tail : Nat) (t : Token) (slots : List Nat) : State :=
  buffered head tail t.toBytes fun x => { x with ingress := [buffer none slots] }

/-- The kinds at EDGE, and the binding's slots and whether it has stopped. -/
def fed (s : State) : Option (List Kind × List (List Nat × Bool)) :=
  after (fun t => ((t.cell cell0).ports[5].map (·.k), (t.vp ⟨0, 0, 1⟩).ingress.map fun b => (b.slots, b.stopped)))
    (exec (.ingressBindingTake ⟨0, 0, 1⟩ 0) s)

/-- The next token is fed, also where the counts wrap; nothing where all was seen; counts that differ by more than the two
slots stop the binding with an ERR token (R198). -/
theorem test_ingress :
    fed (ingress 0 2 (Token.scalar 7) [1]) = some ([.data], [([1, 1], false)]) ∧
    fed (ingress 0xFFFFFFFFFFFFFFFF 1 (Token.marker .eow 0) []) = some ([.eow], [([1], false)]) ∧
    fed (ingress 0 2 (Token.scalar 7) [1, 1]) = some ([], [([1, 1], false)]) ∧
    fed (ingress 0 3 (Token.scalar 7) []) = some ([.err], [([0], true)]) := by
  refine ⟨?_, ?_, ?_, ?_⟩ <;> decide +kernel

def egress (head tail : Nat) : State :=
  buffered head tail [] fun x => { x with egress := [buffer (some (Token.scalar 7)) []] }

/-- A buffer with room takes the token at its tail and the tail advances; a full one holds it back (R198). -/
theorem test_egress :
    after (fun t => (t.mem.readNat 0x60C0 4, t.mem.readNat 0x6008 8, (t.vp ⟨0, 0, 1⟩).egress.map (·.out))) (exec (.egressBindingWrite ⟨0, 0, 1⟩ 0) (egress 0 1)) =
      some (7, 2, [none]) ∧
    after (fun t => (t.mem.readNat 0x6008 8, (t.vp ⟨0, 0, 1⟩).egress.map (·.out))) (exec (.egressBindingWrite ⟨0, 0, 1⟩ 0) (egress 0 2)) =
      some (2, [some (Token.scalar 7)]) := by
  refine ⟨?_, ?_⟩ <;> decide +kernel

/-- A flight for a VP that has left its row is dropped and counted (R226). -/
theorem test_orphan :
    after (fun t => (t.flights.length, t.dropped)) (exec (.orphanTokenDrop cell0 0) (flying 0 ⟨0, 0, 2⟩)) = some (0, 1) ∧
    after (fun t => (t.flights.length, t.dropped)) (exec (.orphanTokenDrop cell0 0) (flying 0 ⟨0, 0, 1⟩)) = some (1, 0) := by
  refine ⟨?_, ?_⟩ <;> decide +kernel

theorem witness_rings :
    let v : VpId := ⟨0, 0, 1⟩
    (ringed 0 0 15 (Token.scalar 4)).posState v 0 = .resident ∧ (ringed 1 0 0 (Token.scalar 4)).posState v 0 = .gone ∧
    (ringed 0 1 0 (Token.scalar 4)).posState v 1 = .notYet ∧ (ringed 0 0 15 (Token.scalar 4)).portRoom cell0 3 1 = true ∧
    (let s := ingress 0 2 (Token.scalar 7) [1]
     let x := s.vp v
     let reach := s.edgeReach ⟨0, 0⟩ x.tenant
     s.portRoom cell0 5 2 = true ∧ (buffer none [1]).size = 2 ∧ x.boundCell 0 (buffer none [1]) 0 = cell0 ∧ x.stage = .live ∧
     (match s.counts reach (buffer none [1]) with
      | (u, .ok (0, 2)) => match u.slotToken reach cell0 ((buffer none [1]).slotAt 1) with
        | (_, .ok [t]) => t == Token.scalar 7
        | _ => false
      | _ => false) = true) ∧
    (let s := egress 0 1
     s.rowOfEntry v 0 = some (⟨0, 0⟩, 0) ∧
     (match s.areaWrite (s.edgeReach ⟨0, 0⟩ 0) 0x60C0 (Token.scalar 7).toBytes with
      | (_, none) => true
      | _ => false) = true) := by
  refine ⟨?_, ?_, ?_, ?_, ⟨?_, ?_, ?_, ?_, ?_⟩, ?_, ?_⟩ <;> decide +kernel

/-! ### The ends of VPs -/

/-- A VP of one position whose row has been left, or still hosts it; its last movement was at cycle 0. -/
def ending (left : Bool) (g : VpStage) (cycle : Nat) (save : Cap) (f : Cell → Cell) : State :=
  let s := atPhase 1 (if left then .left else .live) f
  let s := s.setVp ⟨0, 0, 1⟩ { s.vp ⟨0, 0, 1⟩ with stage := g, saveCap := save }
  let s := if left then s.setRow ⟨0, 0⟩ { s.row ⟨0, 0⟩ with pos := none } else s
  { s with cycle := cycle }

def bigCap : Cap := Cap.make 0x10000 .dense 0x1000000 3 0 0 true

/-- The VP's stage, its row's host, and the kinds of its records. -/
def vpAfter (i : Instr) (s : State) : Option (VpStage × Option VpId × List Nat) :=
  after (fun t => ((t.vp ⟨0, 0, 1⟩).stage, (t.row ⟨0, 0⟩).host, t.records.map fun r => r.2.toNat % 65536)) (exec i s)

/-- A phase that has ended and whose positions have left ends the VP; VP_DONE follows and the row is free (R221). -/
theorem test_completion :
    vpAfter (.vpCompletion ⟨0, 0, 1⟩) (ending true .live 0 bigCap id) = some (.ending, some ⟨0, 0, 1⟩, []) ∧
    vpAfter (.vpCompletion ⟨0, 0, 1⟩) (ending true .ending 0 bigCap id) = some (.free, none, [1]) ∧
    vpAfter (.vpCompletion ⟨0, 0, 1⟩) (ending false .live 0 bigCap fun x => { x with bend := false }) = some (.live, some ⟨0, 0, 1⟩, []) := by
  refine ⟨?_, ?_, ?_⟩ <;> decide +kernel

def stuck (x : Cell) : Cell := { x with ports := (Vector.replicate 8 []).set 3 [Token.nul] }

/-- After 2^20 cycles without a movement DEADLOCK is raised and the VP pre-empted, or with too small an area torn down; one
cycle earlier nothing happens (R216). -/
theorem test_deadlock :
    vpAfter (.deadlockTimeout ⟨0, 0, 1⟩) (ending false .live 0xFFFFF bigCap stuck) = some (.live, some ⟨0, 0, 1⟩, []) ∧
    (vpAfter (.deadlockTimeout ⟨0, 0, 1⟩) (ending false .live 0x100000 bigCap stuck)).map (fun x => (x.1, x.2.1, x.2.2.map (· % 256))) =
      some (.preempting, some ⟨0, 0, 1⟩, [3]) ∧
    (vpAfter (.deadlockTimeout ⟨0, 0, 1⟩) (ending false .live 0x100000 .null stuck)).map (fun x => (x.1, x.2.1, x.2.2.map (· % 256))) =
      some (.free, none, [3]) := by
  refine ⟨?_, ?_, ?_⟩ <;> decide +kernel

theorem witness_vp_ends :
    let v : VpId := ⟨0, 0, 1⟩
    (ending true .live 0 bigCap id).phaseEnded v = true ∧ (ending true .live 0 bigCap id).allLeft v = true ∧
    (ending false .live 0 bigCap fun x => { x with bend := false }).phaseEnded v = false ∧
    (ending false .live 0 bigCap id).phaseEnded v = true ∧ (ending false .live 0 bigCap id).allLeft v = false ∧
    (let s := ending false .live 0x100000 bigCap stuck
     s.lastMove v = 0 ∧ s.portHolds v = true ∧ (s.vp v).pausedAt = none ∧ s.mates v = [v] ∧ (s.vp v).contextFits = true ∧
     (s.vp v).quiesce = false) := by
  refine ⟨?_, ?_, ?_, ?_, ?_, ?_, ?_, ?_, ?_, ?_, ?_⟩ <;> decide +kernel

/-- A VP that is being pre-empted, whose cell has executed BEND; its area's pages are cached. -/
def preempting (f : Cell → Cell) : State :=
  { ending false .preempting 0 bigCap f with tlb := [⟨.edge ⟨0, 0⟩, 0, 0, 2 ^ 30, 0, true, true, none, 0x2000, true⟩] }

/-- A cell between blocks that has not executed BEND. -/
def halted (x : Cell) : Cell := { x with bend := false, inst := none }

/-- Every compute cell of the row has saved; the area's pages are not mapped. -/
def rowSaved : State :=
  let s := { preempting id with tlb := [] }
  (rowCells ⟨0, 0⟩).foldl (fun s c => if c.isMem then s else s.setCell c { s.cell c with saved := true }) s

/-- A cell in the middle of its block does not save; with every cell saved the pre-emption ends and PREEMPTED, kind 7, is on its way,
here behind ITEM_FAILED for a band header that cannot be written
(R222 to R224). -/
theorem test_preempt :
    after (fun t => (t.cell cell0).saved) (exec (.cellContextSave cell0)
      (preempting fun x => { x with bend := false, inst := some (freshInstance blockOf2 1) })) = some false ∧
    vpAfter (.preInsertion ⟨0, 0, 1⟩) (preempting id) = some (.preempting, some ⟨0, 0, 1⟩, []) ∧
    vpAfter (.preInsertion ⟨0, 0, 1⟩) rowSaved = some (.preempted, none, [4, 7]) := by
  refine ⟨?_, ?_, ?_⟩ <;> decide +kernel

theorem witness_preempt :
    let v : VpId := ⟨0, 0, 1⟩
    (match (preempting halted).place cell0 with
      | some pl => decide (pl.x.stage = .preempting) && (preempting halted).maySave pl cell0 && decide (pl.x.outPorts pl.entry pl.pos pl.k = [])
      | none => false) = true ∧
    (match (preempting id).place cell0 with
      | some pl => (preempting id).maySave pl cell0
      | none => true) = false ∧
    (match (preempting fun x => { x with bend := false, inst := some (freshInstance blockOf2 1) }).place cell0 with
      | some pl => (preempting fun x => { x with bend := false, inst := some (freshInstance blockOf2 1) }).maySave pl cell0
      | none => true) = false ∧
    (preempting id).allSaved v = false ∧ rowSaved.allSaved v = true ∧ (preempting fun x => { x with saved := true }).rowsSaved v = true := by
  refine ⟨?_, ?_, ?_, ?_, ?_, ?_⟩ <;> decide +kernel

/-! ### Answers to cell faults -/

/-- A cell whose block has faulted at cycle 0, with this action. -/
def faulted (action : Option Bool) (pending : Bool) (cycle : Nat) : State :=
  let s := ending false .live cycle bigCap fun x => { x with
    bend := false, next := some 0, cause := some .illegal, pending := pending, action := action, slot := 5, lane := 2 }
  s.setCell cell0 { s.cell cell0 with program := { Program.empty with blocks := [blockOf2] } }

/-- A replay starts the block anew; a tear-down posts a FAULT of the cell's cause with status BAD_DESC (R373). -/
theorem test_fault_answers :
    after (fun t => ((t.cell cell0).inst.map (·.block), (t.cell cell0).action)) (exec (.faultReplay cell0) (faulted (some true) false 0)) =
      some (some 0, none) ∧
    vpAfter (.faultTeardown cell0) (faulted (some false) false 0) = some (.free, none, [0x103]) ∧
    after (fun t => t.records.map fun r => r.2.toNat / 65536 % 65536) (exec (.faultTeardown cell0) (faulted (some false) false 0)) = some [14] := by
  refine ⟨?_, ?_, ?_⟩ <;> decide +kernel

/-- A fault pending for 2^26 cycles ends the VP with WATCHDOG, not one cycle earlier (R374). -/
theorem test_watchdog :
    vpAfter (.faultWatchdog cell0) (faulted none true 0x3FFFFFF) = some (.live, some ⟨0, 0, 1⟩, []) ∧
    (vpAfter (.faultWatchdog cell0) (faulted none true 0x4000000)).map (fun x => (x.1, x.2.1, x.2.2.length)) = some (.free, none, 1) := by
  refine ⟨?_, ?_⟩ <;> decide +kernel

theorem witness_fault_answers :
    ((faulted (some true) false 0).row cell0.rowId).host = some ⟨0, 0, 1⟩ ∧ ((faulted (some true) false 0).cell cell0).rejected = false ∧
    ((faulted (some true) false 0).cell cell0).inst = none ∧ ((faulted (some true) false 0).cell cell0).next = some 0 ∧
    ((faulted none true 0x4000000).cell cell0).faultAt + 2 ^ 26 = 0x4000000 := by
  refine ⟨?_, ?_, ?_, ?_, ?_⟩ <;> decide +kernel

/-! ### Scheduling -/

/-- Launches of priority p and r at the heads of queues 0 and 3 since cycle 0; the pointer is at 1. -/
def scheduling (cycle p r : Nat) : State :=
  let s := { ctl [] with cycle := cycle }
  let s := (s.setQueue 0 0 ⟨0x003F0020, [⟨⟨0, 0, 1⟩, p, false⟩], 0, p⟩).setQueue 0 3 ⟨0x003F0020, [⟨⟨0, 1, 1⟩, r, false⟩], 0, r⟩
  (s.setSched 0 { s.sched 0 with pointer := 1 }).setVp ⟨0, 0, 1⟩ { placedVp with stage := .queued }

/-- A head gains one priority after 51,200 cycles (64 µs), up to 3; the highest wins, and among equals the first from the
pointer (R230, R231). -/
theorem test_scheduling :
    after (fun t => ((t.queue 0 0).effective, (t.queue 0 3).effective)) (exec (.priorityAging 0) (scheduling 51199 0 3)) = some (0, 3) ∧
    after (fun t => ((t.queue 0 0).effective, (t.queue 0 3).effective)) (exec (.priorityAging 0) (scheduling 51200 0 3)) = some (1, 3) ∧
    after (fun t => (t.sched 0).candidate) (exec (.candidateChoice 0) (scheduling 0 1 1)) = some (some 3) ∧
    after (fun t => (t.sched 0).candidate) (exec (.candidateChoice 0) (scheduling 0 2 1)) = some (some 0) ∧
    after (fun t => (t.sched 0).candidate) (exec (.candidateChoice 0) (ctl [])) = some none := by
  refine ⟨?_, ?_, ?_, ?_, ?_⟩ <;> decide +kernel

def chosen : State :=
  let s := { scheduling 0 2 1 with recordOk := true }
  s.setSched 0 { s.sched 0 with candidate := some 0 }

/-- The candidate takes a free band; a module held at its limit admits nothing (R232, R425). -/
theorem test_admission :
    after (fun t => ((t.vp ⟨0, 0, 1⟩).stage, (t.row ⟨0, 0⟩).host, (t.sched 0).pointer, (t.queue 0 0).launches.length)) (exec (.admission 0) chosen) =
      some (.live, some ⟨0, 0, 1⟩, 1, 0) ∧
    after (fun t => (t.sched 0).candidate) (exec (.admission 0) { chosen with held := true }) = some (some 0) := by
  refine ⟨?_, ?_⟩ <;> decide +kernel

theorem witness_scheduling :
    (chosen.sched 0).candidate = some 0 ∧
    chosen.findBand 0 (chosen.queue 0 0) ((chosen.splicedWith ⟨0, 0, 1⟩).map chosen.vp) (chosen.vp ⟨0, 0, 1⟩).b true = some 0 ∧
    (let s := (List.finRange 64).foldl (fun s r => s.setRow ⟨0, r⟩ { Row.reset with host := some ⟨0, 1, 1⟩ }) chosen
     s.findBand 0 (s.queue 0 0) ((s.splicedWith ⟨0, 0, 1⟩).map s.vp) (s.vp ⟨0, 0, 1⟩).b true = none) ∧
    ((scheduling 0 2 1).queue 0 0).enabled = true := by
  refine ⟨?_, ?_, ?_, ?_⟩ <;> decide +kernel

/-! ### Registers and the Spire's triggers -/

/-- Core 0's first queued store goes to a SYS address. -/
def sysStore (a : Nat) (bs : List Byte) : State :=
  let s := ctl []
  { s.setCore 0 { s.core 0 with storeQ := [⟨.sys, a, bs, false, false, 0⟩] } with staging := [(0, 1, 0x1122334455667788)] }

/-- The staged value of core 1's post trigger; a half of a discard counter; the trigger's record (R390, R392). -/
theorem test_register_write :
    after (fun t => (t.staged? 0 1, (t.core 0).storeQ.length)) (exec (.registerWrite 0 0) (sysStore 0x04FC0000 (leBytes 8 9))) = some (9, 0) ∧
    after (fun t => (t.cell cell0).discard) (exec (.registerWrite 0 0) (sysStore 0x14 (leBytes 4 3))) = some 0x300000000 ∧
    after (fun t => (t.cell cell0).discard) (exec (.registerWrite 0 0) (sysStore 0x10 (leBytes 8 3))) = some 3 ∧
    after (fun t => (t.core 1).events) (exec (.postTrigger 0 0) (sysStore 0x04FC0008 (leBytes 8 0xAA))) =
      some [0x00000000000000AA1122334455667788] := by
  refine ⟨?_, ?_, ?_, ?_⟩ <;> decide +kernel

/-- The token goes to the next node, and from the last of 288 to the first. -/
theorem test_token_visit :
    after (fun t => t.scNode) (exec (.scTokenVisit 0) { ctl [] with scNode := 287 }) = some 0 ∧
    after (fun t => t.scNode) (exec (.scTokenVisit 2) { ctl [] with scNode := 0 }) = some 0 := by decide

/-- A hart's trigger, with a staged table of one partition of tenant 5 with core 3, and its reserved word 7 set to r. -/
def triggered (g : HartTrigger) (r : Word) : State :=
  let s := ctl []
  let s := { s with
    staged := s.staged.set 0 #v[0x0000000800000105, 0, 0, 0, 0, 0, 0, r]
    startRec := s.startRec.set 3 #v[0x2000, 0x100000, 0x1000] }
  s.setHart 7 { s.hart 7 with trigger := some g }

/-- A commit of a table that passes its checks, and of one that does not (R384, R414). -/
theorem test_commit :
    after (fun t => (t.partitions.isSome, t.commitResult, (t.hart 7).trigger)) (exec (.partitionCommit 7) (triggered .commit 0)) =
      some (true, 0, none) ∧
    after (fun t => (t.partitions.isSome, t.commitResult, (t.hart 7).trigger)) (exec (.partitionCommit 7) (triggered .commit 1)) =
      some (false, 0x0008000000000000, none) := by
  refine ⟨?_, ?_⟩ <;> decide +kernel

/-- A start record starts a halted core at its range, as its tenant; a core that runs is left alone (R419). -/
theorem test_core_start :
    after (fun t => let c := t.core 3
      (c.halted, c.thread.pcc.base, c.thread.pcc.length, c.thread.tenant, c.kptbase)) (exec (.coreStart 7) (triggered (.coreStart 3 5) 0)) =
      some (false, 0x100000, 0x1000, 5, 0x2000) ∧
    (let s := triggered (.coreStart 3 5) 0
     let s := s.setCore 3 { s.core 3 with halted := false }
     after (fun t => ((t.core 3).thread.tenant, (t.hart 7).trigger)) (exec (.coreStart 7) s) = some (0, none)) := by
  refine ⟨?_, ?_⟩ <;> decide +kernel

/-- A launch trigger with a nonzero field above the queue's is BAD_DESC, and so is an empty descriptor (R417). -/
theorem test_launch_trigger :
    after (fun t => ((t.hart 7).result, (t.hart 7).trigger)) (exec (.launchTrigger 7) (triggered (.launch 32) 0)) =
      some (0x000E000000000000, none) := by decide +kernel

theorem witness_registers :
    sysReg 0x04FC0000 = .staging 1 ∧ sysReg 0x04FC0008 = .trigger 1 ∧ sysReg 0x14 = .discard cell0 ∧
    sysReg (30 * 2 ^ 24 + 2 ^ 30 + 34 * 2 ^ 18 + 0x10) = .discard ⟨1, 30, 34⟩ ∧
    tableOk (triggered .commit 0).staged.toList = true ∧ tableOk (triggered .commit 1).staged.toList = false ∧
    ((triggered (.coreStart 3 5) 0).core 3).halted = true ∧ ((triggered (.launch 31) 0).hart 7).trigger = some (.launch 31) := by
  refine ⟨?_, ?_, ?_, ?_, ?_, ?_, ?_, ?_⟩ <;> decide +kernel

/-! ### The package -/

/-- A partition of tenant 5 with core 3, which runs and has a record and a call on their way. -/
def partitioned : State :=
  let s := ctl []
  let s := s.setCore 3 { s.core 3 with halted := false, events := [1] }
  { s with
    partitions := some ((Vector.replicate 8 (Vector.replicate 8 0)).set 0 #v[0x0000000800000105, 0, 0, 0, 0, 0, 0, 0])
    records := [(3, 1), (4, 1)], calls := [{ call0 70 (Vector.replicate 4 5) with caller := .core 3 }] }

theorem test_vf_reset :
    after (fun t => ((t.core 3).halted, (t.core 3).events.length, t.records.map (·.1), t.calls.length)) (exec (.vfReset 5) partitioned) =
      some (true, 0, [4], 0) ∧
    partitioned.partitionOf 6 = none ∧ (partitioned.partitionOf 5).map (·.coreList) = some [3] := by
  refine ⟨?_, ?_, ?_⟩ <;> decide +kernel

/-- The limits themselves hold and release nothing (R425). -/
theorem test_power :
    let h (mW t : Nat) (held : Bool) := after (fun t => (t.held, t.overTemp)) (exec (.powerWindowEnd mW t) { ctl [] with held := held, cycle := 80000 })
    h 1200000 95 false = some (false, false) ∧ h 1200001 20 false = some (true, false) ∧ h 0 96 false = some (true, true) ∧
    h 1140000 20 true = some (true, false) ∧ h 0 90 true = some (true, false) ∧ h 1139999 89 true = some (false, false) ∧
    after (fun t => t.held) (exec (.overTemperature 96) (ctl [])) = some true ∧
    after (fun t => t.held) (exec (.overTemperature 95) (ctl [])) = some false ∧
    after (fun t => (t.held, t.windowAt)) (exec (.powerWindowEnd 1200001 20) { ctl [] with cycle := 79999 }) = some (false, 0) ∧
    after (fun t => (t.held, t.windowAt)) (exec (.powerWindowEnd 1200001 20) { ctl [] with cycle := 200000, windowAt := 80000 }) =
      some (true, 160000) := by decide

/-- The steps of boot: power; neither copy accepted; a part record that is none; the compute dies (R423, R424). -/
theorem test_boot :
    let b (p : BootPhase) (x : BootInput) := exec (.moduleBoot x) { State.reset with boot := p, cycle := 5 }
    after (fun t => t.boot) (b .off ⟨0⟩) = some .powered ∧
    after (fun t => t.boot) (b .powered ⟨0⟩) = some .failed ∧
    after (fun t => (t.boot, t.recordOk, t.retired, t.gddrMiB)) (b .measured ⟨24576⟩) = some (.trained, false, [], 24576) ∧
    after (fun t => (t.boot, t.dieStart[(1 : Fin 2)])) (b .trained ⟨0⟩) = some (.firmware, 5) ∧
    step { State.reset with boot := .failed } = .fault .stayedInReset := by
  refine ⟨?_, ?_, ?_, ?_, ?_⟩ <;> first | rfl | decide +kernel

/-- A flash with a first-stage image of no cells as copy B, and a part record of one retired cell (R403, R422, R424). -/
def flashed : State := { State.reset with
  flash := (Memory.empty.write 0x1000000 ([0x4B54494D, 1, 1, 1, 0, 0, 64, 0x80].flatMap (leBytes 4))).write 0x2000000
    ([0x4D515052, 1, 2, 24576, 1, 0x80010000 + 3 * 2 ^ 24].flatMap (leBytes 4)) }

/-- What the flash holds: copy A has no image, copy B has one of 128 bytes, the record names cell (3, 1) of die 1; a
record whose word names column 36 is none. -/
theorem witness_flash :
    let w (x : Nat) : List Byte := [0x4D515052, 1, 2, 24576, 1, x].flatMap (leBytes 4)
    bootImage (flashed.flash.read 0 64) = none ∧ bootImage (flashed.flash.read 0x1000000 64) = some 128 ∧
    partRecord (w 0x83010000) = some (⟨2, 24576, [⟨1, 3, 1⟩]⟩, 24) ∧ partRecord (w 0x83240000) = none ∧
    partRecord (flashed.flash.read 0x2000000 24) = some (⟨2, 24576, [⟨1, 3, 1⟩]⟩, 24) ∧
    flashArea 0x1FFFFFF = some (.image 1) ∧ flashArea 0x2000000 = some .record ∧ flashArea 0x3FFFFFF = some .own ∧
    flashArea 0x4000000 = none := by
  refine ⟨?_, ?_, ?_, ?_, ?_, ?_, ?_, ?_, ?_⟩ <;> decide +kernel

/-- The digest that FIPS 180-4's examples give for the three bytes "abc". -/
theorem test_sha384 : sha384 [0x61, 0x62, 0x63] =
    0xCB00753F45A35E8BB5A03D699AC65007272C32AB0EDED1631A8B605A43FF5BED8086072BA1E7CC2358BAECA134C825A7 := by decide +kernel

/-! ### The host and the harts -/

/-- The module after boot, with 7 at 0x1000, in vault SRAM. -/
def booted : State := { ctl [] with boot := .firmware, endpoint := true, mem := Memory.empty.writeNat 0x1000 8 7 }

/-- What a PCIe request answers, and the doubleword at 0x1000 after it. -/
def overPcie (r : Res) : Option (List Outbound × Option Nat) :=
  match r with
  | .next t => some (t.outbox.map (·.body), t.mem.readNat 0x1000 8)
  | _ => none

theorem test_pcie :
    overPcie (exec (.pcieInboundRequest (.read none 0x1000 2)) booted) = some ([.pcieRead [7, 0]], some 7) ∧
    overPcie (exec (.pcieInboundRequest (.write none 0x1000 [9])) booted) = some ([], some 9) ∧
    overPcie (exec (.pcieInboundRequest (.read (some 0) 0x1000 2)) booted) = some ([.pcieRead []], some 7) := by
  refine ⟨?_, ?_, ?_⟩ <;> decide +kernel

/-- A hart's register and fault, and the doubleword at 0x1000, after its instruction. -/
def byHart : Res → Option (Word × Option HartFault × Nat) :=
  after fun t => ((t.hart 7).data, (t.hart 7).fault, t.mem.readNat 0x1000 8)

theorem test_hart :
    byHart (exec (.spireHartInstruction 7 (.load .machine 0x1000 8)) booted) = some (7, none, 7) ∧
    byHart (exec (.spireHartInstruction 7 (.store .machine 0x1000 4 5)) booted) = some (0, none, 5) ∧
    byHart (exec (.spireHartInstruction 7 (.amo .machine .add 0x1000 8 3 0)) booted) = some (7, none, 10) ∧
    (byHart (exec (.spireHartInstruction 7 (.storeConditional .machine 0x1000 8 3)) booted)).map (·.1) = some 1 ∧
    (byHart (exec (.spireHartInstruction 7 (.load .machine 0x8000000000 8)) booted)).map (·.2.1) = some (some .access) := by
  refine ⟨?_, ?_, ?_, ?_, ?_⟩ <;> decide +kernel

/-- A module whose hart 7 has Sv48 tables from 0x10000 on, down to a page of 4 KiB at 0x3000 that maps 0x1000. -/
def hartMapped : State :=
  let m := ((booted.mem.writeNat 0x10000 8 (0x11 * 2 ^ 10 + 1)).writeNat 0x11000 8 (0x12 * 2 ^ 10 + 1)).writeNat 0x12000 8 (0x13 * 2 ^ 10 + 1)
  let s := { booted with mem := m.writeNat 0x13018 8 (1 * 2 ^ 10 + 0x43) }
  s.setHart 7 { s.hart 7 with satp := BitVec.ofNat 64 (9 * 2 ^ 60 + 0x10) }

/-- A load through the tables; a store to a page without W, a load of a page that no entry maps, and one of an address
that is not canonical are page faults, and so is a fetch from a page without X; machine mode uses no tables. -/
theorem test_hart_tables :
    (byHart (exec (.spireHartInstruction 7 (.load .supervisor 0x3000 8)) hartMapped)).map (fun x => (x.1, x.2.1)) = some (7, none) ∧
    (byHart (exec (.spireHartInstruction 7 (.load .user 0x3000 8)) hartMapped)).map (·.2.1) = some (some .page) ∧
    byHart (exec (.spireHartInstruction 7 (.store .supervisor 0x3000 8 9)) hartMapped) = some (0, some .page, 7) ∧
    (byHart (exec (.spireHartInstruction 7 (.load .supervisor 0x4000 8)) hartMapped)).map (·.2.1) = some (some .page) ∧
    (byHart (exec (.spireHartInstruction 7 (.load .supervisor 0x800000000000 8)) hartMapped)).map (·.2.1) = some (some .page) ∧
    (byHart (exec (.spireHartInstruction 7 (.load .machine 0x1000 8)) hartMapped)).map (·.1) = some 7 ∧
    (byHart (exec (.spireHartInstruction 7 (.fetch .machine 0x1000 4)) hartMapped)).map (·.1) = some 7 ∧
    (byHart (exec (.spireHartInstruction 7 (.fetch .supervisor 0x3000 4)) hartMapped)).map (·.2.1) = some (some .page) := by
  refine ⟨?_, ?_, ?_, ?_, ?_, ?_, ?_, ?_⟩ <;> decide +kernel

theorem witness_harts :
    let s := booted
    s.physOk 0x1000 8 = true ∧ s.physOk 0x8000000000 4 = false ∧ s.sysOfPa 0x1000 = none ∧ s.sysOfPa 0x8000000000 = none ∧
    s.physOk 0x8000000000 8 = false ∧ s.isLocal 0x1000 = true ∧ (s.hart 7).trigger = none ∧ (s.hart 7).reserved ≠ some (0x1000 % 2 ^ 40 / 64) ∧
    (s.locRead .device ⟨.dense, 0x1000, none⟩ 8).2 = some (leBytes 8 7) ∧
    (amoAt .cas 8 .device ⟨.dense, 0x1000, none⟩ 3 7 s).2 = some 7 ∧
    after (fun t => (t.hart 7).reserved) (exec (.spireHartInstruction 7 (.loadReserved .machine 0x1000 8)) s) = some (some 0x40) ∧
    (match (s.hartReach 7 .machine .fetch 0x1000 8).2, (hartMapped.hartReach 7 .supervisor .load 0x3000 8).2,
        (hartMapped.hartReach 7 .supervisor .load 0x4000 8).2 with
      | .ok a, .ok b, .error e => a == [(0x1000, 8)] && b == [(0x1000, 8)] && e == .page
      | _, _, _ => false) = true ∧
    (let s := s.setHart 7 { s.hart 7 with reserved := some 0x40 }
     after (fun _ => ()) (exec (.spireHartInstruction 7 (.storeConditional .machine 0x1000 8 3)) s) = some ()) := by
  refine ⟨?_, ?_, ?_, ?_, ?_, ?_, ?_, ?_, ?_, ?_, ?_, ?_, ?_⟩ <;> decide +kernel

/-- A virtual function of a partition whose page is cached reads and writes through its page tables (R420). -/
theorem witness_pcie_vf :
    let s := { booted with
      tlb := [⟨.spire, 5, 0, 2 ^ 30, 0, true, true, none, 0x2000, true⟩]
      partitions := some ((Vector.replicate 8 (Vector.replicate 8 0)).set 0 #v[0x0000000800000105, 0, 0x1300000000 + 0xFFFFFFFF, 0, 0, 0, 0, 0]) }
    (match s.partitionOfVf 3 with
      | some p => (match s.areaRead ⟨.spire, p.tenant, p.root⟩ .read 0x1000 2 with
        | (_, .ok bs) => bs == [7, 0]
        | _ => false) && (match s.areaWrite ⟨.spire, p.tenant, p.root⟩ 0x1000 [9] with
        | (_, none) => true
        | _ => false)
      | none => false) = true := by decide +kernel

/-! ### Firel links -/

def flit (crcOk : Bool) (link : Fin 12) (b : FlitBody) : Flit := ⟨crcOk, link, 9, 0, b⟩

def linked : State := { booted with deadLinks := [11] }

def overFirel (r : Res) : Option (List Outbound × Option Nat) :=
  match r with
  | .next t => some (t.outbox.map (·.body), t.mem.readNat 0x1000 8)
  | _ => none

/-- A read is answered; a flit that is not intact or of a dead link does nothing (R421). -/
theorem test_firel :
    overFirel (exec (.firelFlitReceive (flit true 0 (.read 0x1000 2))) linked) = some ([.readReply 9 [7, 0] false], some 7) ∧
    overFirel (exec (.firelFlitReceive (flit true 0 (.write 0x1000 [5]))) linked) = some ([.ack 9 0x1000], some 5) ∧
    overFirel (exec (.firelFlitReceive (flit false 0 (.write 0x1000 [5]))) linked) = some ([], some 7) ∧
    overFirel (exec (.firelFlitReceive (flit true 11 (.write 0x1000 [5]))) linked) = some ([], some 7) ∧
    overFirel (exec (.firelFlitReceive (flit true 0 (.write 0x10000001000 [5]))) linked) = some ([.ack 9 0x10000001000], some 7) := by
  refine ⟨?_, ?_, ?_, ?_, ?_⟩ <;> decide +kernel

/-- A link that fails is dead, and die 0's enabled error core hears of it. -/
theorem test_link_failure :
    after (fun t => (t.deadLinks, t.records.length)) (exec (.firelLinkFailure 11) { booted with errorCore := #v[0x12, 0] }) = some ([11], 1) ∧
    after (fun t => (t.deadLinks, t.records.length)) (exec (.firelLinkFailure 0) booted) = some ([0], 0) ∧
    after (fun t => (t.deadLinks, t.records.length)) (exec (.firelLinkFailure 11) { booted with deadLinks := [11] }) = some ([11], 0) := by
  refine ⟨?_, ?_, ?_⟩ <;> decide +kernel

/-! ### Steps -/

/-- Core 0 about to fetch `addi x8, x0, 64`. -/
def fetching (w : Nat) : State := State.withFetchWord State.reset 32 w

theorem test_step :
    after (fun t => (t.getX (.core 0) 8, (t.core 0).thread.pc)) (step (fetching 0x81200040)) = some (64, 4) ∧
    after (fun t => ((t.core 0).kcause, (t.core 0).ktval)) (step (fetching 0xFF000000)) = some (1, 0xFF000000) ∧
    (sentRegs (step (fetching 0x04303FF0))).map (fun w => w.1.val) = [1] := by
  refine ⟨?_, ?_, ?_⟩ <;> decide +kernel

/-- StepRunsInstruction: a word that is fetched and decodes, one that does not, the fetch's checks, a slot, a device
step. -/
theorem witness_step :
    let s := fetching 0x81200040
    let th := s.thread (.core 0)
    s.boot ≠ .failed ∧ s.script = [⟨0, .core 0⟩] ∧ (s.core 0).halted = false ∧ (s.core 0).fibre = false ∧
    (s.core 0).wfeSince = none ∧ (s.core 0).kevqPending = false ∧
    (match s.fetch (.core 0) with
      | (_, .ok w) => decide (w = 0x81200040)
      | _ => false) = true ∧
    decodeControl 0x81200040 = .ok (.addi 8 0 64) ∧ (match decodeControl 0xFF000000 with
      | .error _ => true
      | _ => false) = true ∧
    th.pcc.tag = true ∧ th.pcc.otype = 0 ∧ th.pcc.space = .dense ∧ th.pcc.pX = true ∧ th.pcc.tenant = th.tenant ∧
    th.pc.toNat + 4 ≤ th.pcc.length ∧
    (match (s.setThread (.core 0) { th with pc := 2 ^ 39 }).fetch (.core 0), (s.setThread (.core 0) { th with pc := 2 }).fetch (.core 0) with
      | (_, .error .bounds), (_, .error .misalign) => true
      | _, _ => false) = true := by
  refine ⟨?_, ?_, ?_, ?_, ?_, ?_, ?_, ?_, ?_, ?_, ?_, ?_, ?_, ?_, ?_, ?_⟩ <;> first | rfl | decide +kernel

theorem witness_step_slot :
    (∃ b i, ((fetching 0x04303FF0).cell cell0).running = some (b, i) ∧ b.instr 0 = some (.mov ⟨.always, ⟨.out, 1⟩, ⟨.out, 127⟩, 0⟩)) ∧
    (fetching 0x04303FF0).script = [⟨0, .slot cell0 0⟩] ∧ encode (.holdLapse 0) = none := by
  refine ⟨⟨_, _, rfl, by decide +kernel⟩, by decide +kernel, rfl⟩

/-- A fetch that fails at KTVEC halts the core and tells the next core of its die; the last core tells the first (R369). -/
theorem test_double_fault :
    ((((withVec (ctl [])).setThread (.core 0) { ((ctl []).thread (.core 0)) with pc := 0x400 }).fetchTrap (.core 0) .page).records.map (·.1)) = [1] ∧
    (((ctl []).setThread (.core 31) { ((ctl []).thread (.core 31)) with pc := 0 }).fetchTrap (.core 31) .page).records.map (·.1) = [16] := by
  refine ⟨?_, ?_⟩ <;> decide +kernel

/-- StepKeepsMemory: a state whose memories list bytes, and a step of it. -/
theorem witness_step_memory :
    (fetching 0x81200040).memWf = true ∧ (fetching 0x81200040).mem.bytes ≠ [] ∧ after (fun _ => ()) (step (fetching 0x81200040)) = some () := by
  refine ⟨?_, ?_, ?_⟩ <;> decide +kernel

/-- DecodeOfEncode: a well-formed instruction with a word. -/
theorem witness_encode : (Instr.addi 63 63 0xFFF).wellFormed = true ∧ encode (.addi 63 63 0xFFF) = some 0x81FFFFFF := ⟨rfl, rfl⟩

/-! ### Stores to the register windows, and what waits -/

/-- Core 0 with x1 = 8, x3 = v and a capability of 16 bytes of SYS space at an address. -/
def window (base : Nat) (v : Word) : State :=
  (ctl [(1, 8), (3, v)]).setC (.core 0) 1 (Cap.make base .sys 16 3 0 0 true)

/-- Stores: to core 1's staging register and its trigger, with a staged value that R392 refuses and one that it takes; to a
fault word. -/
theorem witness_sys_stores :
    let ok (base off n : Nat) : Bool := match (window base 0).access (.core 0) ((window base 0).getC (.core 0) 1) (BitVec.ofNat 64 off) n true with
      | (u, .ok l) => l == ⟨.sys, base + off, none⟩ && u == window base 0
      | _ => false
    ok 0x04FC0000 0 4 = true ∧ ok 0x04FC0000 0 8 = true ∧ ok 0x04FC0000 8 8 = true ∧ ok 0 0 4 = true ∧ ok 0 0 8 = true ∧
    (sysReg 0x04FC0000).isTrigger = false ∧ (window 0 0).sysStoreDenied 0 0x04FC0000 4 = false ∧
    sysReg 0x04FC0008 = .trigger 1 ∧ sysReg 0 = .faultWord cell0 ∧
    ((window 0 0).drainSys 0 0x04FC0008).sysStoreDenied 0 0x04FC0008 8 = true ∧
    ({ window 0 0 with staging := [(0, 1, 9)] }.drainSys 0 0x04FC0008).sysStoreDenied 0 0x04FC0008 8 = false ∧
    (window 0 0).callsAccepted (.core 0) = true ∧ { window 0 0 with calls := [sentCall] }.callsAccepted (.core 0) = false := by
  refine ⟨?_, ?_, ?_, ?_, ?_, ?_, ?_, ?_, ?_, ?_, ?_, ?_, ?_⟩ <;> decide +kernel

/-- An action on a fault word waits for the core's calls; a 4-byte store there, and a post of kind 10, raise PERM with the
offset (R372, R390, R392). -/
theorem test_sys_stores :
    let q (s : State) := after (fun t => ((t.core 0).storeQ.map fun x => x.addr, (t.core 0).kcause.toNat, (t.core 0).ktval)) (exec (.std 3 1 0 0) s)
    q (window 0 1) = some ([0], 0, 0) ∧ q { window 0 1 with calls := [sentCall] } = some ([], 0, 0) ∧
    q { window 0 0 with calls := [sentCall] } = some ([0], 0, 0) ∧
    q { window 0x04FC0000 7 with calls := [sentCall] } = some ([0x04FC0000], 0, 0) ∧
    trapped (exec (.stw 3 1 0 0) (withVec (window 0 1))) = some (3, 0, 0x400) ∧
    trapped (exec (.std 3 1 1 0) (withVec { window 0x04FC0000 7 with staging := [(0, 1, 10)] })) = some (3, 8, 0x400) := by
  refine ⟨?_, ?_, ?_, ?_, ?_, ?_⟩ <;> decide +kernel

/-- An 8-byte store in SCRATCH is two elements (R64). -/
theorem test_scratch_store :
    let s := (ctl [(3, 0x1122334455667788)]).setC (.core 0) 1 (Cap.make 0x1000 .scratch 16 3 0 0 true)
    after (fun t => (t.core 0).storeQ.map fun q => (q.addr, leNat q.bytes)) (exec (.std 3 1 0 1) s) =
      some [(0x1008, 0x55667788), (0x100C, 0x11223344)] := by decide +kernel

/-- AccessChecks: the data of LDD and of CLD have an uncorrectable error; the trap's KTVAL is the virtual address (R61). -/
theorem witness_ecc_loads :
    let s := memory 0 []
    let s := { s with mem := s.mem.strike 0x201 }
    s.access (.core 0) (s.getC (.core 0) 1) 8 8 false = (s, .ok ⟨.dense, 0x1008, none⟩) ∧
    (s.threadRead (.core 0) ⟨.dense, 0x1008, none⟩ 8).2 = none ∧ (s.threadRead (.core 0) ⟨.dense, 0x1000, none⟩ 16).2 = none ∧
    trapped (exec (.ldd 2 1 1 0) (withVec s)) = some (8, 0x1008, 0x400) := ⟨rfl, rfl, rfl, by decide +kernel⟩

/-- LDSC and STSC away from their turn wait, and STSC waits for the core's calls (R328). -/
theorem witness_ordered_waits :
    let s := { memory 5 [] with scNode := 7 }
    let v := { memory 5 [] with calls := [sentCall] }
    s.holdsToken (.core 0) = false ∧ v.holdsToken (.core 0) = true ∧ v.callsAccepted (.core 0) = false ∧
    scAccess (s.getC (.core 0) 1) 8 false s = (s, .ok ⟨.dense, 0x1008, none⟩) ∧
    scAccess (v.getC (.core 0) 1) 8 true v = (v, .ok ⟨.dense, 0x1008, none⟩) ∧
    after (fun t => (t.core 0).thread.pc) (exec (.ldsc 2 1 1) s) = some 0 ∧
    after (fun t => (t.core 0).thread.pc) (exec (.stsc 2 1 1) v) = some 0 :=
  ⟨rfl, rfl, rfl, rfl, rfl, by decide +kernel, by decide +kernel⟩

/-- RegistersAndTriggers: the order S skips the node of a core that a reset has halted (R328, R387). -/
theorem witness_sc_skip :
    let s := { ctl [] with scNode := 287, scSkip := [0, 1] }
    s.nextScNode = 2 ∧ (s.unit (.core 0)).ctx.toList.all (·.isNone) = true ∧ (ctl []).scSkip = [] := by
  refine ⟨?_, ?_, ?_⟩ <;> decide +kernel

/-- A remote function's CMOV is outside the remote subset (R340). -/
theorem witness_remote_illegal :
    (inRemote [] false 9 70).focus.thread = .remote ⟨.grotto 0, 7⟩ ∧ (encode (.cmov 1 2)).isSome = true ∧
    (answered (exec (.cmov 1 2) (inRemote [] false 9 70))).map (·.map (·.1)) = some [4] := by
  refine ⟨?_, ?_, ?_⟩ <;> decide +kernel

/-! ### Other modules, and replies in order -/

/-- A request whose head row lies on module 5, which link 0 reaches or none does. -/
def farReq : FibreReq := { fibreReq .free 1 with pa := 5 * 2 ^ 40 + 0x100040, ticket := none }
def farFrom (links : BitVec 12) : State := { fibreAt made farReq with routes := [(5, links)] }

/-- FibreUnits: the request leaves on the link, or is answered ECC_DROPPED (R318, R421). -/
theorem witness_far_fibre :
    (farFrom 1).isLocal farReq.pa = false ∧ (farFrom 1).reaches 5 = true ∧ (farFrom 0).reaches 5 = false ∧
    after (fun t => (t.outbox.length, t.replies.length)) (exec (.fibreFree 0) (farFrom 1)) = some (1, 0) ∧
    replied (exec (.fibreFree 0) (farFrom 0)) = [(.eccDropped, [])] := by
  refine ⟨?_, ?_, ?_, ?_, ?_⟩ <;> decide +kernel

/-- A posted reply waits for an earlier one of its owner to the cell; where a route entry takes REPLY on, its tokens leave
(R119, R406). -/
theorem witness_posted_order :
    let r : FibreReply := ⟨.cell cell0 ⟨0, 0, 1⟩ 3 0 1 [], .merge [], .ok, 3, 1, 2, 77, [], [], 4, true, 0⟩
    let s := { hosted with replies := [r, r] }
    let routed := hosted.setCell cell0 { hosted.cell cell0 with program := { (hosted.cell cell0).program with routes := [0x62800000] } }
    r.sameStream r = true ∧ after (fun t => t.replies.length) (exec (.fibrePostedReply 1) s) = some 2 ∧
    after (fun t => t.replies.length) (exec (.fibrePostedReply 0) s) = some 1 ∧ hosted.inRoutes cell0 6 = [] ∧
    routed.inRoutes cell0 6 ≠ [] := by
  refine ⟨?_, ?_, ?_, ?_, ?_⟩ <;> decide +kernel

/-- CellFibreReplies: the cell's oldest request is the probe; an earlier load's reply is still out (R132). -/
theorem witness_probe_order :
    let q : CellReq := ⟨cell0, ⟨0, 0, 1⟩, 0, 0, 1, .probe, none⟩
    let e : CellReq := ⟨cell0, ⟨0, 0, 1⟩, 0, 5, 1, .lanes .load .dense [] [], none⟩
    let s := hosted.setMemQueue cell0.server [q]
    let v := hosted.setMemQueue cell0.server [e, q]
    oldestOf cell0 (s.memQueue cell0.server) 0 = some (0, q) ∧ q.probeOf ⟨0, 0, 1⟩ 0 1 = true ∧
    oldestOf cell0 (v.memQueue cell0.server) 0 = some (0, e) ∧ e.probeOf ⟨0, 0, 1⟩ 0 1 = false ∧
    (s.cell cell0).holdsReply = false ∧ (s.place cell0).isSome = true ∧ parked.walkerFree (parked.parked.headD ⟨.spire, 0, 0, false, .unit 0⟩) 0 = true := by
  refine ⟨?_, ?_, ?_, ?_, ?_, ?_, ?_⟩ <;> decide +kernel

/-- RemoteArrival: a call of the cell from another slot, for the same unit, goes first (R333). -/
theorem test_cell_call_order :
    let c (slot : Nat) : Call := { call0 70 (Vector.replicate 4 5) with caller := .cell cell0 ⟨0, 0, 1⟩ slot 2, home := .unit (.core 1) }
    let s := { atCore 0 with calls := [c 1, c 2] }
    after (fun t => t.calls.length) (exec (.remoteCallArrival 1) s) = some 2 ∧
    after (fun t => t.calls.length) (exec (.remoteCallArrival 0) s) = some 1 := by
  refine ⟨?_, ?_⟩ <;> decide +kernel

/-! ### Built-ins, complete -/

/-- REDUCE's block with the flag to be stored at 0x1900. -/
def flagBlock : List Nat :=
  [2, 2, 0, 0, 0x1800, 0, 0x1900, 0, 9, 0, 0, 0, 0, 0, 0, 0, 0x1100, 0, 0x1200, 0] ++ List.replicate 12 0

/-- BuiltInsComplete: the columns of REDUCE and of ADAMW and the places of their results; the flag's place; the flag is
stored at the end. -/
theorem witness_builtins_complete :
    let s := building 0 #v[0, 0, 0, 0] (some reduceBlock) 0 sources
    (match s.builtinCols (.grotto 0) 0 0 2 (reduceSources reduceBlock) with
      | (u, .ok cols) => cols == [[0x3F800000, 0x40000000], [0x3F800000, 0x3F800000]] &&
          (match u.builtinTargets (.grotto 0) 0 .badDesc 4 [0x1800, 0x1804] with
            | (_, .ok ps) => ps.length == 2
            | _ => false)
      | _ => false) = true ∧
    (match s.builtinCols (.grotto 0) 0 0 1 [0x1100, 0x1200, 0x1300, 0x1400] with
      | (u, .ok cols) => cols.length == 4 && (match u.builtinTargets (.grotto 0) 0 .badDesc 4 [0x1100, 0x1300, 0x1400] with
            | (_, .ok ps) => ps.length == 3
            | _ => false)
      | _ => false) = true ∧
    blockWord flagBlock 3 ≠ 1 ∧
    answered (exec (.builtinReduce builtin) (building 0 #v[0, 0, 0, 0] (some flagBlock) 2 sources)) = some [(0, 2, 9)] ∧
    (memAfter (exec (.builtinReduce builtin) (building 0 #v[0, 0, 0, 0] (some flagBlock) 2 sources))).readNat 0x1900 8 = 9 := by
  refine ⟨?_, ?_, ?_, ?_, ?_⟩ <;> decide +kernel

/-! ### Cells: tables, stops and reads of the tile -/

/-- A LOOKUP of two keys whose entries stand in the cell's table, the second of them damaged: its lane is dropped, counted
and told (R376). -/
theorem test_lookup_damaged :
    let s := waiting [.table .lookup cell0 [(0, 1, 0), (3, 2, 0)] []]
    let x := s.cell cell0
    let s := s.setCell cell0 { x with tags := (x.tags.set 1 0x8001000200000001).set 2 0x8001000200000002, tagBad := [2] }
    (queued1 (exec (.memoryCellRequest cell0.server 0) s)).map (·.map fun r => r.map fun y => (y.1.2, y.2)) = some [some (1, [16, 8])] ∧
    after (fun t => t.errors.length) (exec (.memoryCellRequest cell0.server 0) s) = some 1 := by
  refine ⟨?_, ?_⟩ <;> decide +kernel

/-- A cell whose fault waits for its answer neither fires nor commits (R371). -/
theorem test_stopped :
    let s := onCell (.mov (c3 0)) (some (Token.scalar 1)) none none
    (sentRegs (exec (.mov (c3 0)) s)).length = 2 ∧
    (sentRegs (exec (.mov (c3 0)) (s.setCell cell0 { s.cell cell0 with pending := true }))).length = 0 := by
  refine ⟨?_, ?_⟩ <;> decide +kernel

/-- CellMatrix: ACCRD that issues while a tile leaves has its result once it has left (R294). -/
theorem test_accrd_waits :
    let s := onCell (.accrd (c3 0)) (some (row [0, 0])) none none
    let v := s.setCell cell0 { s.cell cell0 with release := some ⟨4, 0, [Token.scalar 1], true⟩ }
    (sentRegs (exec (.accrd (c3 0)) s)).length = 2 ∧ (sentRegs (exec (.accrd (c3 0)) v)).length = 0 ∧
    after (fun t => ((t.cell cell0).inst.map fun i => i.slots.map (·.firing))) (exec (.accrd (c3 0)) v) = some (some [.issued]) := by
  refine ⟨?_, ?_, ?_⟩ <;> decide +kernel

/-- CellTables: a table of a retired cell is refused with PERM (R4, R162). -/
theorem test_retired_table :
    let s := onCell (.lookup (c3 9)) (some (row [1])) none none
    let s := s.setCell cell0 { s.cell cell0 with c := (s.cell cell0).c.set 9 (Cap.make (2 ^ 18) .scratch (2 ^ 18) 0xFF 0 0 true) }
    after (fun t => (t.cell cell0).cause) (exec (.lookup (c3 9)) { s with retired := [⟨0, 0, 1⟩] }) = some (some .perm) ∧
    after (fun t => (t.cell cell0).cause) (exec (.lookup (c3 9)) s) = some none := by
  refine ⟨?_, ?_⟩ <;> decide +kernel

/-! ### Bands: waits and saves -/

/-- LAUNCH into a full queue waits with the VP that it has read, and goes on from that once there is room (R239). -/
theorem test_launch_waits :
    let q := launching.queue 0 0
    let s := launching.setQueue 0 0 { q with launches := List.replicate 64 ⟨⟨0, 9, 1⟩, 0, false⟩ }
    after (fun t => (t.works.length, (t.queue 0 0).launches.length, t.getX (.core 0) 5)) (exec (.launch 5 1 1) s) = some (1, 64, 0) ∧
    outX 5 (exec (.launch 5 1 1) ((ctl []).setWork 0 (.launch 5 1 1) (.launch 0 liveVp 0 false))) = some 0x400 := by
  refine ⟨?_, ?_⟩ <;> decide +kernel

/-- A ring's token waits while one of its edge is on the stream to its cell, and while the VP stands on no band (R210,
R225). -/
theorem test_ring_waits :
    ringAfter { ringed 0 0 0 (Token.scalar 4) with flights := [⟨⟨0, 1, 0⟩, cell0, 3, ⟨0, 0, 1⟩, 0, some 0, Token.scalar 5⟩] } = some ([1], 0, 0) ∧
    ringAfter (let s := ringed 0 0 0 (Token.scalar 4); s.setVp ⟨0, 0, 1⟩ { s.vp ⟨0, 0, 1⟩ with stage := .queued }) = some ([1], 0, 0) := by
  refine ⟨?_, ?_⟩ <;> decide +kernel

/-- PositionLeaves: a part of 72 bytes lies in one piece of this device's memory; a cell without a place. -/
theorem witness_save_part :
    let s := preempting id
    let bs := (Token.scalar 7).toBytes
    bs.length = 72 ∧
    (match s.areaLocs (s.edgeReach ⟨0, 0⟩ 0) .write (pagesOf 0x10000 72) with
      | (w, .ok [(⟨.dense, 0x10000, none⟩, 72)]) => w.isLocal 0x10000
      | _ => false) = true ∧ (ctl []).place cell0 = none ∧
    (s.savePart (s.edgeReach ⟨0, 0⟩ 0) ⟨0, 0, 1⟩ 0 cell0 0x10000 bs).mem.readNat 0x10000 4 = 7 := by
  refine ⟨?_, ?_, ?_, ?_⟩ <;> decide +kernel

/-- VpEnds: a VP that is being pre-empted while nothing moves is reported, and its period begins again; the rows of one
whose positions have left stand still. -/
theorem test_stuck_preemption :
    (vpAfter (.deadlockTimeout ⟨0, 0, 1⟩) (ending false .preempting 0x100000 bigCap stuck)).map (fun x => (x.1, x.2.2.map (· % 256))) =
      some (.preempting, [3]) ∧
    (ending false .preempting 0x100000 bigCap stuck).census ⟨0, 0, 1⟩ ≠ 0 ∧
    (let s := ending true .preempting 0 bigCap id
     s.rowsSaved ⟨0, 0, 1⟩ = true ∧ (s.row ⟨0, 0⟩).phase = .left ∧ (s.cell cell0).saved = false) := by
  refine ⟨?_, ?_, ?_, ?_, ?_⟩ <;> decide +kernel

/-- An EDGE port takes 16 tokens from its binding; one that stops waits for room for the ERR (R160, R198). -/
theorem test_ingress_room :
    let full (n : Nat) (s : State) : State := s.setCell cell0 { s.cell cell0 with ports := (Vector.replicate 8 []).set 5 (List.replicate n Token.nul) }
    (fed (full 15 (ingress 0 2 (Token.scalar 7) [1]))).map (fun x => x.1.length) = some 16 ∧
    (fed (full 16 (ingress 0 2 (Token.scalar 7) [1]))).map (fun x => x.1.length) = some 16 ∧
    fed (full 16 (ingress 0 3 (Token.scalar 7) [])) = some (List.replicate 16 .nul, [([], false)]) := by
  refine ⟨?_, ?_, ?_⟩ <;> decide +kernel

/-- R49: the first turn of a CFGLD takes the row and marks no page-table entry; a core that is halted fetches nothing
ahead (R396); a core in the middle of an instruction goes on with it. -/
theorem test_midway :
    let s := memory 0 [(2, 0x00080001)]
    after (fun t => (t.mem == s.mem, t.works.length)) (exec (.cfgld 5 1 2) s) = some (true, 1) ∧
    ((s.setCore 0 { s.core 0 with halted := true }).prefetch 0 0).core 0 =
      { s.core 0 with halted := true } ∧
    (s.setWork 0 (.cfgclr 5 1) (.config ⟨0, 0, 0⟩)).midway 0 = some (.cfgclr 5 1) := by decide +kernel

/-- R392: a load of the staging word performs an earlier queued store to its window first. -/
theorem test_window_order :
    let a (n : Nat) : Nat := 63 * 2 ^ 18 + n
    splitTouching .sys (a 0) 8 [⟨.sys, a 8, leBytes 8 1, false, false, 0⟩, ⟨.dense, 0, [0], false, false, 0⟩, ⟨.sys, a 0, leBytes 8 2, false, false, 0⟩] =
      ([⟨.sys, a 8, leBytes 8 1, false, false, 0⟩, ⟨.sys, a 0, leBytes 8 2, false, false, 0⟩], [⟨.dense, 0, [0], false, false, 0⟩]) := by decide +kernel

/-! ### Positions that leave, and pre-emption -/

/-- A token on an edge for a row that has placed its RCF is discarded and counted (R204, R213). -/
theorem test_late_edge :
    let s := atPhase 2 .taken fun x => { x with ports := Vector.replicate 8 [] }
    after (fun t => (t.flights.length, (t.cell cell0).ports[3].length, (t.cell cell0).discard)) (exec (.tokenReceive 0 true)
      { s with flights := [⟨⟨0, 1, 0⟩, cell0, 3, ⟨0, 0, 1⟩, 0, some 0, Token.scalar 5⟩] }) = some (0, 0, 1) := by decide +kernel

/-- What stands behind the EOW that a cell has taken is discarded before the RCF is placed (R201, R213); a ring keeps its
token while the row leaves (R204). -/
theorem test_drop_late :
    let s := ringed 0 0 2 (Token.scalar 4)
    let s := s.setCell cell0 { s.cell cell0 with gotEow := [3] }
    let s := s.setRow ⟨0, 0⟩ { s.row ⟨0, 0⟩ with phase := .drained }
    ((s.place cell0).map fun pl => pl.x.inPorts pl.entry pl.pos pl.k) = some [3] ∧ s.ingressAt cell0 3 = none ∧ (s.cell cell0).engineTakes 3 = false ∧
    (let w := s.setCell cell0 { s.cell cell0 with ports := (Vector.replicate 8 []).set 3 [Token.scalar 1, Token.scalar 2] }
     after (fun t => ((t.row ⟨0, 0⟩).phase, (t.cell cell0).ports[3].map (·.k), (t.cell cell0).discard)) (exec (.rcfPlacement ⟨0, 0⟩) w) =
       some (.rcf, [.rcf], 2)) ∧
    ringAfter (let w := ringed 0 0 0 (Token.scalar 4); w.setRow ⟨0, 0⟩ { w.row ⟨0, 0⟩ with phase := .drained }) = some ([1], 0, 0) := by
  refine ⟨?_, ?_, ?_, ?_, ?_⟩ <;> decide +kernel

/-- RingsAndBindings: an ingress binding of a VP that stands on no band takes nothing (R225). -/
theorem test_ingress_preempted :
    fed (let s := ingress 0 2 (Token.scalar 7) [1]; s.setVp ⟨0, 0, 1⟩ { s.vp ⟨0, 0, 1⟩ with stage := .preempted }) =
      some ([], [([1], false)]) := by decide +kernel

/-- A row preloads until step 6 of R201 ends (R205). -/
theorem test_preload_taken :
    after (fun t => (t.cell cell0).back.isSome) (exec (.imagePreload ⟨0, 0⟩)
      (loading 2 { Row.reset with host := some ⟨0, 0, 1⟩, pos := some 0, phase := .taken } id)) = some true ∧
    after (fun t => (t.cell cell0).back.isSome) (exec (.imagePreload ⟨0, 0⟩)
      (loading 2 { Row.reset with host := some ⟨0, 0, 1⟩, pos := some 0, phase := .saved } id)) = some false := by
  refine ⟨?_, ?_⟩ <;> decide +kernel

/-- A row that has begun completes the wave's markers past a PRE (R203). -/
theorem test_past_pre :
    let s := bound false
    let s := s.setVp ⟨0, 0, 1⟩ { s.vp ⟨0, 0, 1⟩ with stage := .preempting }
    let s := s.setCell cell0 { s.cell cell0 with
      ports := (Vector.replicate 8 []).set 5 [Token.marker .eot 0, Token.marker .pre 1, Token.scalar 1, Token.marker .eow 0] }
    after (fun t => ((t.row ⟨0, 0⟩).phase, (t.cell cell0).ports[5].length, (t.cell cell0).discard)) (exec (.waveMarkerCompletion ⟨0, 0⟩) s) =
      some (.draining, 0, 1) := by decide +kernel

/-- A static VP's program that lands on a retired cell on RESUME faults its position with RETIRED (R4, R225, R233). -/
theorem test_resume_retired :
    let s := { hosted with retired := [cell0] }
    let t := s.resumeCell ⟨0, 0, 1⟩ 0 cell0 { s.cell cell0 with program := { (s.cell cell0).program with records := 1 } }
    (t.cell cell0).cause = some .cfgReject ∧ (t.cell cell0).rejected = true := by decide +kernel

/-! ### Uncorrectable errors -/

/-- A damaged g register faults the block whose entry reads it with ECC, 8, each time, until it is written; so does a
damaged word (R376). -/
theorem test_damaged_block :
    let s := hosted
    let x := s.cell cell0
    let b : Block := { num := 0, mask := 0, outputs := 0, reads := [(3, ⟨.out, 1⟩)], words := [] }
    let s := s.setCell cell0 { x with program := { x.program with blocks := [b] }, badRegs := [3] }
    ((s.startBlock ⟨0, 0, 1⟩ cell0 0).cell cell0).cause = some .ecc ∧
    (((s.startBlock ⟨0, 0, 1⟩ cell0 0).startBlock ⟨0, 0, 1⟩ cell0 0).cell cell0).cause = some .ecc ∧
    (let w := (onCell (.mov (c3 0)) (some (Token.scalar 1)) none none).strikeWord cell0 0 0
     after (fun t => (t.cell cell0).cause) (w.runSlot cell0 0) = some (some .ecc)) := by
  refine ⟨?_, ?_, ?_⟩ <;> decide +kernel

/-- A damaged ring token arrives as an empty DATA and an ERR token, and counts (R134, R376). -/
theorem test_damaged_ring :
    after (fun t => ((t.cell cell0).ports[3].map (·.k), t.errors.length)) (exec (.ringDelivery ⟨0, 0, 1⟩ 0)
      ((ringed 0 0 0 (Token.scalar 4)).strikeRing ⟨0, 0, 1⟩ 0 0)) = some ([.data, .err], 1) := by decide +kernel

/-- A store of both elements makes a damaged unit whole; one of them does not (R376). -/
theorem test_heal :
    let bad (s : State) : State := { s with mem := s.mem.strike 0x200 }
    (memAfter (exec (.memoryCellRequest cell0.server 0)
      (bad (waiting [.lanes .store .dense [lane 0 0x1000 1, lane 1 0x1004 2] []])))).bad 0x1000 8 = false ∧
    (memAfter (exec (.memoryCellRequest cell0.server 0)
      (bad (waiting [.lanes .store .dense [lane 0 0x1000 1] []])))).bad 0x1000 8 = true ∧
    (let s := { ctl [] with scratch := (ctl []).scratch.strike 0x200 }
     let t := (s.enqueueStore (.core 0) ⟨.scratch, 0x1000, leBytes 8 7, false, false, 0⟩).drain 0
     t.scratch.bad 0x1000 8 = false ∧ t.errors = []) := by
  refine ⟨?_, ?_, ?_, ?_⟩ <;> decide +kernel

/-! ### The matrix array -/

/-- An MMA whose A is f16 and whose B turns out bpi: the classes differ, and both packets are discarded (R271). -/
theorem test_classes :
    let s := inArray (mmaRun true 0 fun r => { r with started := true, a := [hdr [1, 8, 1, 0, 0]] })
      fun x => { x with ports := (Vector.replicate 8 []).set 2 [hdr [18, 16, 64, 16, 0]] }
    took 2 s = some (0, none, 2) := by decide +kernel

/-- Tokens go back behind the one that the running instance holds (R151, R289). -/
theorem test_return_behind :
    let s := onCell (.mov (c3 0)) none none none
    let x := s.cell cell0
    let s := s.setCell cell0 { x with
      ports := (Vector.replicate 8 []).set 0 [Token.scalar 1]
      inst := x.inst.map fun i => { i with taken := [(0, Token.scalar 1)] } }
    ((s.returnTokens cell0 0 [Token.scalar 2]).cell cell0).ports[0] = [Token.scalar 1, Token.scalar 2] := by decide +kernel

/-! ### Walkers -/

/-- 128 parked accesses keep every walker of die 0 busy: a core whose fetch misses waits behind them, until a walker is
free for it (R382). -/
theorem test_walkers :
    let s := State.reset.placeControl 0x81200040
    let p (c : CellId) : Parked := ⟨.memCell c.server, 0, 0, false, .cell c 0 0 0⟩
    let v (n : Nat) (c : CellId) : State := { s with parked := List.replicate n (p c) }
    let seen : Res → Option (Word × Nat) := after fun t => ((t.core 0).thread.pc, t.parked.length)
    seen (step s) = some (4, 0) ∧ seen (step (v 127 cell0)) = some (4, 127) ∧ seen (step (v 128 cell0)) = some (0, 129) ∧
    seen (step (v 128 ⟨1, 0, 0⟩)) = some (4, 128) := by
  refine ⟨?_, ?_, ?_, ?_⟩ <;> decide +kernel

/-- In strict mode another partition's waiting candidate keeps no launch out (R385). -/
theorem test_strict :
    let s := scheduling 0 2 1
    let d := ((s.sched 0).setTurn (some 7) (3, some 0)).setTurn (some 8) (4, none)
    d.turn (some 7) = (3, some 0) ∧ d.turn (some 8) = (4, none) ∧ d.turn (some 9) = (0, none) ∧ d.turn none = (1, none) ∧
    ((d.dropCandidate 0).turn (some 7)).2 = none := by decide +kernel

theorem witness_strict : { scheduling 0 2 1 with kstrict := true }.kstrict = true ∧
    ((scheduling 0 2 1).sched 0).turn (some (Config.strictSlot 0)) = (0, none) := ⟨rfl, rfl⟩

/-! ### What other modules have still to acknowledge (R321) -/

/-- A store of a unit to module 5, whose acknowledgement is still to come. -/
def unacked (u : Accessor) (s : State) : State :=
  { s with outbox := [⟨some 0, ⟨0, u⟩, .write (5 * 2 ^ 40) [1], true⟩] }

/-- Every address of this device's core 0 lies on module 5, which link 0 reaches. -/
def farAway (s : State) : State :=
  { s with tlb := [⟨.die 0, 0, 0, 2 ^ 30, 5 * 2 ^ 40, true, true, none, 0x2000, true⟩], routes := [(5, 1)] }

/-- FenceAndOrderedAccesses: FENCE waits for the acknowledgement at pod scope, and not at device scope (R321, R358). -/
theorem witness_pod_fence :
    let s := unacked (.thread (.core 0)) (memory 5 [])
    let pc : Res → Option Word := after fun t => (t.core 0).thread.pc
    s.callsAccepted (.core 0) = true ∧ (s.drainThread (.core 0)).podDone (.core 0) = false ∧
    ((memory 5 []).drainThread (.core 0)).podDone (.core 0) = true ∧
    pc (exec (.fence .pod) s) = some 0 ∧ pc (exec (.fence .dev) s) = some 4 ∧ pc (exec (.fence .pod) (memory 5 [])) = some 4 := by
  refine ⟨?_, ?_, ?_, ?_, ?_, ?_⟩ <;> decide +kernel

/-- RemoteCallers: RCALL with the release flag to another module waits for the acknowledgement (R344); the call then
stands in a slot and counts as performed once it is accepted. -/
theorem witness_far_call :
    let s := farAway (memory 0 [(2, 70)])
    let slots : Res → Option Nat := after fun t => ((t.core 0).slots.toList.filterMap id).length
    (match s.targetHome (.die 0) 0 (s.threadRoot (.core 0)) (s.getC (.core 0) 1) with
      | (_, .ok (h, _)) => h.isFar
      | _ => false) = true ∧ (s.drain 0).podDone (.core 0) = true ∧
    ((unacked (.thread (.core 0)) s).drain 0).podDone (.core 0) = false ∧
    slots (exec (.rcall 5 1 true 2 8 0) (unacked (.thread (.core 0)) s)) = some 0 ∧
    slots (exec (.rcall 5 1 true 2 8 0) s) = some 1 ∧
    after (fun t => t.podDone (.core 0)) (exec (.rcall 5 1 true 2 8 0) s) = some false := by
  refine ⟨?_, ?_, ?_, ?_, ?_, ?_⟩ <;> decide +kernel

/-- RemoteFunctions, BuiltIns: a function's end waits for the acknowledgement (R343, R351); a flag that is stored on
another module ends the built-in once that has acknowledged it. -/
theorem witness_far_end :
    let r := unacked (.thread (.remote ⟨.grotto 0, 7⟩)) (inRemote [(5, 0), (1, 8), (2, 0x1047)] false 9 70)
    let b (done : Nat) := building 0 #v[0, 0, 0, 0] (some flagBlock) done sources
    r.podDone (.remote ⟨.grotto 0, 7⟩) = false ∧ answered (exec (.rret 5 1 2) r) = some [] ∧
    after (fun t => (t.unit (.grotto 0)).ctx[(7 : Fin 8)].isSome) (exec (.rfwd 1 2) r) = some true ∧
    (b 2).podDone (.remote builtin) = true ∧ (unacked (.thread (.remote builtin)) (b 2)).podDone (.remote builtin) = false ∧
    answered (exec (.builtinReduce builtin) (unacked (.thread (.remote builtin)) (b 2))) = some [] ∧
    after (fun t => ((t.unit (.grotto 0)).ctx[(0 : Fin 8)].map (·.done), t.podDone (.remote builtin)))
      (exec (.builtinReduce builtin) (farAway (b 2))) = some (some 3, false) ∧
    answered (exec (.builtinReduce builtin) (b 3)) = some [(0, 2, 9)] ∧
    answered (exec (.builtinFill builtin) (unacked (.thread (.remote builtin))
      (building 2 #v[0xFF0, 16, 7, 0] (some []) 16 Memory.empty))) = some [] := by
  refine ⟨?_, ?_, ?_, ?_, ?_, ?_, ?_, ?_, ?_⟩ <;> decide +kernel

/-- FirelLinks: an acknowledgement of this device's store, and one that none waits for; the acceptance of a call; a link
that fails with a store unacknowledged (R321, R421). -/
theorem witness_acks :
    let s := unacked (.thread (.core 0)) linked
    let o : OpenCall := ⟨{ call0 70 (Vector.replicate 4 5) with home := .module (5 * 2 ^ 40) }, 0, 0, none, false⟩
    let v := linked.setCore 0 { linked.core 0 with slots := (linked.core 0).slots.set 15 (some o) }
    let seen : Res → Option (Bool × Nat) := after fun t => (t.podDone (.core 0), t.errors.length)
    (s.outbox[0]?.map fun x => (x.due, x.body.target)) = some (true, some (5 * 2 ^ 40)) ∧
    seen (exec (.firelFlitReceive (flit true 0 (.ack (5 * 2 ^ 40)))) s) = some (true, 0) ∧
    seen (exec (.firelFlitReceive (flit true 0 (.ack 5))) s) = some (false, 1) ∧
    v.podDone (.core 0) = false ∧ seen (exec (.firelFlitReceive (flit true 0 (.callAccepted (.core 0) 1))) v) = some (true, 0) ∧
    seen (exec (.firelFlitReceive (flit true 0 (.callAccepted (.core 0) 2))) v) = some (false, 0) ∧
    seen (exec (.firelLinkFailure 0) { s with routes := [(5, 1)] }) = some (true, 1) ∧
    seen (exec (.firelLinkFailure 0) { s with routes := [(5, 3)] }) = some (false, 0) := by
  refine ⟨?_, ?_, ?_, ?_, ?_, ?_, ?_, ?_⟩ <;> decide +kernel

/-! ### What waits for held stores (R322) -/

/-- Slot 3 of the cell's instance 7 has stored what its memory cell has not performed. -/
def storing (s : State) : State :=
  s.setMemQueue cell0.server [⟨cell0, ⟨0, 0, 1⟩, 0, 3, 7, .lanes .store .dense [lane 0 0x1000 1] [], none⟩]

/-- FibreUnits, RemoteArrival, TransfersAndGenerators: a request, a call and a transfer that are ordered after the store
wait for it; a call waits for the stores to its capability's page too (R344). -/
theorem witness_ordered_after :
    let q : FibreReq := { fibreReq (.merge [(1, 1)]) 1 with agent := .cell cell0 ⟨0, 0, 1⟩ 0 2 7 [], ticket := none, after := [3] }
    let f := fibreAt made q
    let c : Call := { call0 70 (Vector.replicate 4 5) with
      caller := .cell cell0 ⟨0, 0, 1⟩ 1 2, home := .unit (.core 1), after := [(7, 3)], base := 0x5000 }
    let s := { atCore 0 with calls := [c] }
    let x := { moving 128 with transfers := (moving 128).transfers.map fun t => { t with inst := 7, after := [3] } }
    f.orderedBehind q = false ∧ (storing f).orderedBehind q = true ∧
    after (fun t => t.fibreReqs.map (·.ticket.isSome)) (exec (.fibreMerge 0) (storing f)) = some [false] ∧
    s.callOrdered c = true ∧ (storing s).callOrdered c = false ∧ (storing s).callCovered c = true ∧
    (storing s).callCovered { c with base := 0x1800, after := [] } = false ∧
    after (fun t => t.calls.length) (exec (.remoteCallArrival 0) (storing s)) = some 1 ∧
    (storing x).storesWait cell0 7 [3] = true ∧ moved (exec (.transferLine cell0) (storing x)) = some ([0], []) := by
  refine ⟨?_, ?_, ?_, ?_, ?_, ?_, ?_, ?_, ?_, ?_⟩ <;> decide +kernel

/-- MemoryCellSteps: a request that is ordered after a store on another module waits for its acknowledgement. -/
theorem witness_stores_far :
    let s := waiting [.lanes .load .dense [lane 0 0x1000 0] [3]]
    let r := (s.memQueue cell0.server).headD ⟨cell0, ⟨0, 0, 1⟩, 0, 0, 0, .probe, none⟩
    s.storesFar r = false ∧ (unacked (.cell cell0 0 3) s).storesFar r = true ∧
    queued1 (exec (.memoryCellRequest cell0.server 0) (unacked (.cell cell0 0 3) s)) = some [none] := by
  refine ⟨?_, ?_, ?_⟩ <;> decide +kernel

/-- BlockCommit: a load that stands ahead of the commit's own store reads first, and the commit waits for none (R132,
R155). -/
theorem witness_perform_ahead :
    let a := cell0.scratchBase
    let s := running (some .bend) both fun i => { i with held := [(0, .store 0 .store .scratch [lane 0 a 5] [])] }
    let load (n : Nat) : CellReq := ⟨cell0, ⟨0, 0, 1⟩, 0, 9, 0, .lanes .load .scratch [lane 0 n 0] [], none⟩
    let v (n : Nat) : State := { s with memQueues := [(cell0.server, [load n])], scratch := s.scratch.writeNat a 4 7 }
    let seen : Res → Option (List (Option (List Nat)) × Nat × Bool) := after fun t =>
      ((t.memQueue cell0.server).map fun r => r.reply.map fun y => (y.1.e.toList.take 1).map (·.toNat), t.scratch.readNat a 4,
        (t.cell cell0).bend)
    seen (exec (.blockCommit cell0) (v a)) = some ([some [7]], 5, true) ∧
    seen (exec (.blockCommit cell0) (v (a + 64))) = some ([none], 5, true) ∧
    (∀ q ∈ (v (a + 64)).memQueue cell0.server, q.beforeCommit cell0 (freshInstance blockOf2 1) [] = false) := by
  refine ⟨?_, ?_, ?_⟩ <;> decide +kernel

/-! ### Walkers (R382) -/

/-- FibreReplies, StepRunsInstruction: another unit's failing walk leaves the queue; with 128 walks before it on its die
a miss waits, with 127 it does not. -/
theorem witness_walks :
    let m : Parked := ⟨.die 0, 0, 0x5000, false, .unit 0⟩
    let p : Parked := ⟨.memCell cell0.server, 0, 0, false, .cell cell0 0 0 0⟩
    let s (n : Nat) : State := { ctl [] with parked := List.replicate n p ++ [m] }
    let v (n : Nat) : State := { ctl [] with parked := List.replicate n p }
    let missed (n : Nat) : State := { v n with misses := [m] }
    let seen : Res → Option (Nat × Nat) := after fun t => (t.parked.length, t.misses.length)
    (match ((s 0).parkedWalk 0 m).2 with
      | .error _ => true
      | .ok _ => false) = true ∧ seen (exec (.pageWalk 0) (s 0)) = some (0, 0) ∧
    (s 128).walkerFree m 128 = false ∧ seen (exec (.pageWalk 128) (s 128)) = some (129, 0) ∧
    (v 127).mayWalk m = true ∧ (v 128).mayWalk m = false ∧ (v 128).parked.contains m = false ∧ (s 128).mayWalk m = false ∧
    (s 128).parked.contains m = true ∧
    seen ((v 127).orWait (.next (missed 127))) = some (127, 0) ∧ seen ((v 128).orWait (.next (missed 128))) = some (129, 0) ∧
    seen ((s 128).orWait (.next { s 128 with misses := [m] })) = some (129, 0) := by
  refine ⟨?_, ?_, ?_, ?_, ?_, ?_, ?_, ?_, ?_, ?_, ?_, ?_⟩ <;> decide +kernel

/-! ### Calls at a grotto -/

/-- RemoteArrival: a module held at its limit refuses a grotto's call, a core's unit has no budget; of a grotto's call one
of the two budget clauses holds; a full unit. -/
theorem witness_busy_power :
    let s := ctl []
    ({ s with held := true }.busyPower (.grotto 0) 0).2 = true ∧ (s.busyPower (.core 1) 0).2 = false ∧ s.held = false ∧
    (let b := s.budgetOf 0 0
     let used := Config.activityNow s.fresh (alGet s.activity b 0) + Config.callCharge s.fresh
     s.budgetLimit b < used ∨ used ≤ s.budgetLimit b) ∧
    32 + ((arriving 1 2 255 40 none).freeContexts (.grotto 0)).length ≤ ((arriving 1 2 255 40 none).unit (.grotto 0)).waiting.length := by
  refine ⟨rfl, rfl, rfl, Nat.lt_or_ge _ _, by decide +kernel⟩

/-! ### MMAS and MMAP -/

/-- An MMAS of 2:4 over K = 4 whose metadata stand at 96 of the scratchpad. -/
def mmasRun (at' : Nat) : MatrixRun :=
  mmaRun false 0 fun r => { r with cmd := { r.cmd with
    op := 1, l := row [1, 0, 4, 0, 0, at'], r := row [1, 64, 16, 0, 0], p := row [3, 4, 0x200031, 0] } }

/-- MatrixArray: an MMAS starts with its 4 bytes of metadata; metadata past the scratchpad, and a command whose A is in a
port, are malformed; damaged metadata fail it with ECC_DROPPED; an MMAP and an MMAS without a pattern. -/
theorem witness_matrix_starts :
    let s := inArray (mmasRun 96) id
    let c := (mmasRun 96).cmd
    c.pattern = some (1, 4) ∧ c.windows * c.groups * 1 = 4 ∧ fieldsOk c = true ∧ c.l.ok 5 = true ∧ inScratch (descE c.l 5) 4 = true ∧
    (s.ownReads cell0 1 [96, 97, 98, 99]).2 = some [0, 0, 0, 0] ∧
    ({ s with scratch := s.scratch.strike ((cell0.scratchBase + 96) / 8) }.ownReads cell0 1 [96, 97, 98, 99]).2 = none ∧
    inScratch (descE (mmasRun 131072).cmd.l 5) 4 = false ∧ fieldsOk { c with l := row [0, 0, 4, 0, 0, 96] } = false ∧
    (mmaRun false 0 fun r => { r with cmd := { r.cmd with op := 2 } }).cmd.pattern = none ∧
    (arrayAfter (.matrixCommandStart cell0) (inArray (mmasRun 131072) id)).map (·.1) = some none := by
  refine ⟨?_, ?_, ?_, ?_, ?_, ?_, ?_, ?_, ?_, ?_, ?_⟩ <;> decide +kernel

/-! ### RCF, rings and boot -/

/-- PositionLeaves: a cell of the leaving row, whose port keeps what stood there before its RCF and loses that alone; a
token on its way to the row's memory cell keeps the row from placing RCF. -/
theorem witness_rcf_place :
    let pre := Token.marker .pre 1
    let s := atPhase 2 .drained fun x => { x with ports := (Vector.replicate 8 []).set 5 [pre] }
    (s.place cell0).isSome = true ∧ ((s.placeRcf 9 cell0).cell cell0).ports[5] = [pre, Token.ofList .rcf 1 [9]] ∧
    ((((s.placeRcf 9 cell0).takeRcf cell0)).cell cell0).ports[5] = [pre] ∧
    rowAfter (.rcfPlacement ⟨0, 0⟩) { s with flights := [⟨cell0, ⟨0, 0, 8⟩, 3, ⟨0, 0, 1⟩, 0, none, Token.scalar 5⟩] } =
      some (some ⟨0, 0, 1⟩, .drained, none) := by
  refine ⟨?_, ?_, ?_, ?_⟩ <;> decide +kernel

/-- RingsAndBindings: a binding's port without room, whether or not the binding is to stop. -/
theorem witness_binding_room :
    let s := ingress 0 3 (Token.scalar 7) []
    (s.setCell cell0 { s.cell cell0 with ports := (Vector.replicate 8 []).set 5 (List.replicate 16 Token.nul) }).admits cell0 5 1 = false := by
  decide +kernel

/-- PackageEvents: a well-formed part record stands in the flash, and it verifies or does not (R424). -/
theorem witness_record_verifies :
    let bs := flashed.flash.read 0x2000000 24
    partRecord bs = some (⟨2, 24576, [⟨1, 3, 1⟩]⟩, 24) ∧
    ∀ b, (Config.keySlotHeld 1 && Config.signaturesVerify 1 (bs.take 24) ((bs.drop 24).take 8240)) = b → b = true ∨ b = false := by
  refine ⟨by decide +kernel, fun b _ => ?_⟩
  cases b <;> simp

/-! ### More of what the bands and the SYS registers do -/

/-- Two addresses of one core's window; a kind of record is judged by what the core has staged through the other (R392). -/
theorem test_sys_window :
    let q : QueuedStore := ⟨.sys, 63 * 2 ^ 18 + 8, leBytes 8 2, false, false, 0⟩
    q.sameWindow (63 * 2 ^ 18 + 2 ^ 24) = true ∧ q.sameWindow (63 * 2 ^ 18 + 2 ^ 26) = false ∧
    q.sameWindow (63 * 2 ^ 18 + 2 ^ 30) = false := by decide +kernel

/-- A grant frame's capability of a nonzero object type stays untagged (R402). -/
theorem test_grant_sealed :
    let c (otype : Nat) : Nat := (Cap.make 0x1000 .dense 16 0xFF 0 otype true).bits.toNat
    let g (n : Nat) : Bool := (grantOf true 0 ⟨0, Vector.ofFn fun i => BitVec.ofNat 32 (n / 2 ^ (32 * i.val))⟩).2.tag
    g (c 0) = true ∧ g (c 1) = false := by decide +kernel

/-- EventQueues: a record that is only counted as dropped wakes no WFE; the one that counts it does (R247, R395). -/
theorem witness_drop_wakes_none :
    let c : Core := { (State.reset.core 0) with events := List.replicate 1023 0, wfeSince := some 0 }
    let d : Core := { c.enqueue 0 1 with wfeSince := some 0 }
    ((c.enqueue 0 1).wfeSince, (d.enqueue 0 1).wfeSince) = (none, some 0) ∧ d.overAt = some 1023 ∧ d.events.length = 1024 ∧
    d.events[1023]?.map (fun e => e.toNat / 2 ^ 64) = some 1 ∧ (d.enqueue 0 1).events[1023]?.map (fun e => e.toNat / 2 ^ 64) = some 2 := by
  refine ⟨?_, ?_, ?_, ?_, ?_⟩ <;> decide +kernel

/-- A memory cell's switch frame passes a stream from W on to E; without one the stream crosses it (R159, R406). -/
theorem test_memory_switch :
    let v : VpId := ⟨0, 0, 1⟩
    let m : CellId := ⟨0, 0, 8⟩
    let s := hosted.setVp v { placedVp with images := placedVp.images.map fun i => { i with width := 9 } }
    let w := s.setCell m { s.cell m with program := { (s.cell m).program with routes := [0x31800000] } }
    let flight (s : State) : State := { s with flights := [⟨⟨0, 0, 7⟩, m, 3, v, 0, none, Token.scalar 5⟩] }
    let beside (s : State) : Option CellId := (s.place ⟨0, 0, 7⟩).bind fun pl => s.neighbour pl 0 true 36 pl.k
    beside s = some ⟨0, 0, 9⟩ ∧ beside w = some m ∧
    after (fun t => t.flights.map fun f => (f.dest, f.port)) (exec (.tokenReceive 0 true) (flight w)) = some [(⟨0, 0, 9⟩, 3)] := by
  refine ⟨?_, ?_, ?_⟩ <;> decide +kernel

/-- A buffer that another agent has filled since the last turn is a movement of the band; one that stands as it was is
none (R216). -/
theorem test_watch :
    let s := { ingress 0 2 (Token.scalar 7) [] with cycle := 9 }
    ((s.watch.vp ⟨0, 0, 1⟩).moved, ({ s.watch with cycle := 12 }.watch.vp ⟨0, 0, 1⟩).moved) = (9, 9) := by decide +kernel

/-- A load of one element of a damaged unit that an 8-byte store covers has the whole store performed first (R65, R376). -/
theorem test_half_load :
    let q : QueuedStore := ⟨.scratch, 0x1000, leBytes 8 0x200000001, false, false, 0⟩
    let s := { ctl [] with scratch := (ctl []).scratch.strike 0x200 }
    let s := (s.enqueueStore (.core 0) q).enqueueStore (.core 0) q
    (s.threadRead (.core 0) ⟨.scratch, 0x1004, none⟩ 4).2 = some [2, 0, 0, 0] ∧
    (s.threadRead (.core 0) ⟨.scratch, 0x1004, none⟩ 4).1.scratch.bad 0x1000 8 = false := by
  refine ⟨?_, ?_⟩ <;> decide +kernel

/-- A malformed header of another class makes both packets malformed (R271). -/
theorem test_classes_bad :
    took 2 (inArray (mmaRun true 0 fun r => { r with started := true, a := [hdr [1, 8, 1, 0, 0]] })
      fun x => { x with ports := (Vector.replicate 8 []).set 2 [hdr [18, 16, 64, 16, 0x10000]] }) = some (0, none, 2) := by decide +kernel

/-- Another partition's launches leave a partition's next handle as it is (R386). -/
theorem test_new_vp :
    let p (n : Nat) : PartitionEntry := (Vector.replicate 8 0).set 0 (BitVec.ofNat 64 (0x100 + n))
    let s := { ctl [] with partitions := some (((Vector.replicate 8 (Vector.replicate 8 0)).set 0 (p 5)).set 1 (p 6)) }
    (s.newVp 0 6).map (·.num.val) = some 128 ∧ ((s.setVp ⟨0, 0, 1⟩ placedVp).newVp 0 5).map (·.num.val) = some 1 ∧
    ((s.setVp ⟨0, 0, 1⟩ placedVp).newVp 0 6).map (·.num.val) = some 128 := by
  refine ⟨?_, ?_, ?_⟩ <;> decide +kernel

end Sys2Proof.Tests
end

section
/-!
PROOFS. Words and syntax: what a well-formed instruction's word decodes to (O54).
-/

namespace Sys2Proof.Laws.RoundTrip
open Sys2Proof

/-- The word of every well-formed instruction decodes to it: for each constructor, in their order, the lemma of its
name. -/
theorem decode_encode (i : Instr) : Statement i :=
  @Instr.casesOn Statement i
    add sub mul mulh mulhu div divu rem remu and or xor shl shr sar slt sltu min max minu maxu clz popc addi andi ori
    xori shli shri sari slti sltiu lui beq bne blt bge bltu bgeu jal jalr ldb ldh ldw ldd ldbu ldhu ldwu stb sth stw
    std lda stl amoadd amoswp amocas amomin amomax amoand amoor amoxor cld cst csetb candp cget cmov fnew ffree fmrg
    fscan fprobe fdel finfo launch splice preempt resume cfgld evpopPoll evpopWait rcall rwait rret rfwd fence trap
    eret sysrd syswr wfe sev halt tlbi crc vsig ldsc stsc cfgchk cfgclr barw ifence sbind sbar cyc nop bx bxi bend
    mov movi movh null iota cid cellCyc cellTrap testk sel setv getv cellAdd cellSub cellMul cellMulh cellMin cellMax
    cellAnd cellOr cellXor cellShl cellShr cellSar cellClz cellPopc cmp cellAddi cellAndi cellOri cellShli cellShri
    cellSari fadd fsub fmul fma fmin fmax fabs fcmp fcvt unpk pack fexp2 flog2 frcp frsq ftanh radd rmax rmin psum
    perm bcst lsh cmpk expd nzscan join ld ldc st stc atadd atfadd atmax lookup tagset tagclr cellFmrg cellFprobe
    cellFscan rcv mark xreq cellRcall joinp mma mmas mmap accrd accz fibreFormat fibreNew fibreFree fibreMerge
    poolReservation fibreDelete fibreScanStep fibreProbe fibreInfo holdLapse fibreRefusedResend fibreReply
    fibrePostedReply fprobeReply pageWalk blockCommit blockQuiescence markerDrain sendResume tokenReceive
    memoryCellRequest memoryCellReply transferLine addressGeneratorToken matrixCommandStart matrixOperandTake
    acczCommand tileRelease positionLeave waveMarkerCompletion engineDrainEnd rcfPlacement stateSave positionGoLive
    imagePreload ringDelivery ingressBindingTake egressBindingWrite deadlockTimeout vpCompletion preInsertion
    cellContextSave orphanTokenDrop candidateChoice admission priorityAging eventRecordArrival wfeTimeout
    remoteCallArrival callRefusalResend remoteContextStart remoteBudgetExhausted builtinReduce builtinAdamw
    builtinFill builtinCopy callReplyArrival callReplyToken callResend callLostTimeout lineOwnerAccess atomicAtOwner
    scTokenVisit firelFlitReceive firelLinkFailure faultReplay faultTeardown faultWatchdog kevqEmpty postTrigger
    launchTrigger partitionCommit coreStart registerWrite vfReset powerWindowEnd overTemperature moduleBoot
    pcieInboundRequest spireHartInstruction

/-- Settles O54. Two well-formed instructions with one word are what that word decodes to, hence the same. -/
theorem decodeOfEncode : Obligations.DecodeOfEncode := by
  intro i w hi hw
  have decodes := decode_encode i hi w hw
  refine ⟨decodes, fun j hj hjw => ?_⟩
  have decodes' := decode_encode j hj w hjw
  exact Except.ok.inj (decodes'.symm.trans decodes)

end Sys2Proof.Laws.RoundTrip
end

section
/-!
PROOFS. Words and syntax: writes of x0 (O4), and what a step runs (O56).
-/

namespace Sys2Proof.Machine
open Sys2Proof

/-! ### Writes of x0 -/

theorem State.setX_core_zero (s : State) (k : CoreId) (v : Word) : s.setX (.core k) 0 v = s := by
  rw [State.setX_core, Thread.set_zero]
  exact s.setCore_core_self k

/-- An instruction of a control core that writes x0 only retires (R48). -/
theorem writes_zero {s : State} {k : CoreId} (hk : s.focus.thread = .core k) (v : Word) :
    Writes s 0 v = .next (s.setCore k { s.core k with
      thread := { (s.core k).thread with pc := (s.core k).thread.pc + 4 }
      kinstr := (s.core k).kinstr + 1 }) := by
  rw [Writes, hk, State.setX_core_zero, State.retire, State.retireTo_core, State.thread_core]

/-- Settles O4. Every instruction of the group writes its destination and nothing else, and a write of x0 only
retires. -/
theorem zeroRegisterDiscards : Obligations.ZeroRegisterDiscards := by
  intro s k a b i n u ins hk hmem
  have writes : ∃ v, exec ins s = Writes s 0 v := by
    simp only [List.mem_cons, List.not_mem_nil, or_false] at hmem
    rcases hmem with rfl | rfl | rfl | rfl | rfl | rfl | rfl | rfl | rfl | rfl | rfl | rfl | rfl | rfl | rfl
      | rfl | rfl | rfl | rfl | rfl | rfl | rfl | rfl | rfl | rfl | rfl | rfl | rfl | rfl | rfl | rfl | rfl
      | rfl <;>
      exact ⟨_, rfl⟩
  obtain ⟨v, hv⟩ := writes
  rw [hv, writes_zero hk]

/-! ### The state in which a turn's action is done -/

/-- The bands have seen their buffers, the turn has left the schedule, and its cycles have passed. -/
def State.atTurn (s : State) (dt : Nat) (rest : List Turn) : State :=
  { s.watch with script := rest, cycle := s.cycle + dt, misses := [] }

section
variable (s : State) (dt : Nat) (rest : List Turn)

@[simp] theorem State.atTurn_misses : (s.atTurn dt rest).misses = [] := rfl
@[simp] theorem State.atTurn_parked : (s.atTurn dt rest).parked = s.parked := s.watch_parked
@[simp] theorem State.atTurn_core (k : CoreId) : (s.atTurn dt rest).core k = s.core k := by
  simp [State.core, State.atTurn]
@[simp] theorem State.atTurn_unit (u : UnitId) : (s.atTurn dt rest).unit u = s.unit u := by
  simp [State.unit, State.atTurn]
@[simp] theorem State.atTurn_cell (c : CellId) : (s.atTurn dt rest).cell c = s.cell c := by
  simp [State.cell, State.atTurn]
@[simp] theorem State.atTurn_midway (k : CoreId) : (s.atTurn dt rest).midway k = s.midway k := by
  simp [State.midway, State.atTurn]

end

/-- A step with a turn in the schedule does the turn's action, or its unit waits for a walker. -/
theorem step_of_turn {s : State} {dt : Nat} {a : Action} {rest : List Turn} (hb : s.boot ≠ .failed)
    (hs : s.script = ⟨dt, a⟩ :: rest) : step s = (s.atTurn dt rest).orWait ((s.atTurn dt rest).act a) := by
  simp only [step, State.turn, if_neg hb, hs, State.atTurn]

/-- A device step of the schedule is done as it stands. -/
theorem State.act_event {s : State} {i : Instr} (h : encode i = none) : s.act (.event i) = exec i s := by
  simp [State.act, h]

/-! ### Waiting for a walker (R382) -/

/-- A unit waits for the first of its misses that finds no walker; its access parks where it has not parked yet. -/
theorem State.orWait_parks {v t : State} {m : Parked} {l r : List Parked} (ht : t.misses = l ++ m :: r)
    (hl : ∀ q ∈ l, v.mayWalk q = true) (hm : v.mayWalk m = false) : v.orWait (.next t) = .next (v.queueMiss m) := by
  refine State.orWait_waits v t m (List.find?_eq_some_iff_append.2 ⟨by simp [hm], l, r, ht, fun q hq => ?_⟩)
  simp [hl q hq]

theorem State.queueMiss_parked {v : State} {m : Parked} (h : v.parked.contains m = true) : v.queueMiss m = v := by
  rw [State.queueMiss, if_pos h]

theorem State.queueMiss_unparked {v : State} {m : Parked} (h : v.parked.contains m = false) :
    v.queueMiss m = { v with parked := v.parked ++ [m] } := by
  rw [State.queueMiss, if_neg (by simpa using h)]

/-! ### What a thread's turn runs (R46, R52) -/

section
variable {x u : State} {t : ThreadId} {w : BitVec 32}

theorem State.runThread_decoded {i : Instr} (hf : x.fetch t = (u, .ok w)) (hd : decodeControl w.toNat = .ok i) :
    x.runThread t = exec i (u.onThread t) := by
  simp only [State.runThread, hf, hd]

theorem State.runThread_undecoded {r : Reject} (hf : x.fetch t = (u, .ok w)) (hd : decodeControl w.toNat = .error r) :
    x.runThread t = .next (u.trap t ⟨.illegal, w.setWidth 64⟩) := by
  simp only [State.runThread, hf, hd]

theorem State.runThread_unfetched {c : Cause} (hf : x.fetch t = (u, .error c)) :
    x.runThread t = .next (u.fetchTrap t c) := by
  simp only [State.runThread, hf]

end

/-! ### What a core's and a remote context's turn runs (R340, R367, R389) -/

theorem Core.ready_iff {c : Core} : c.ready = true ↔ c.halted = false ∧ c.fibre = false ∧ c.wfeSince = none := by
  simp [Core.ready, and_assoc]

section
variable {s : State} {k : CoreId}

theorem State.runCore_unready (h : (s.core k).ready = false) : s.runCore k = .next s := by
  simp [State.runCore, h]

theorem State.runCore_midway {i : Instr} (h : (s.core k).ready = true) (hm : s.midway k = some i) :
    s.runCore k = exec i (s.onThread (.core k)) := by
  simp [State.runCore, h, hm]

theorem State.runCore_fetches (h : (s.core k).ready = true) (hm : s.midway k = none)
    (hq : (s.core k).kevqPending = false) : s.runCore k = s.runThread (.core k) := by
  simp [State.runCore, h, hm, hq]

theorem State.runCore_empties (h : (s.core k).ready = true) (hm : s.midway k = none)
    (hq : (s.core k).kevqPending = true) :
    s.runCore k = (s.setCore k (s.core k).emptyEvents).runThread (.core k) := by
  simp [State.runCore, h, hm, hq]

end

theorem State.runRemote_fetches {s : State} {t : RemoteId} {x : RemoteCtx} (hx : (s.unit t.unit).ctx[t.ctx] = some x)
    (hf : x.fibre = false) (he : 64 ≤ x.call.entry) (hb : x.budget ≠ 0) : s.runRemote t = s.runThread (.remote t) := by
  simp [State.runRemote, hx, hf, hb, Nat.not_lt.2 he]

/-! ### What a slot's turn fires (R147, R376) -/

section
variable {s : State} {c : CellId} {n : Nat} {b : Block} {i : Instance} {ins : Instr}

theorem State.runSlot_whole (hr : (s.cell c).running = some (b, i)) (hi : b.instr n = some ins)
    (hw : (s.cell c).wordBad b.num n = false) : s.runSlot c n = exec ins (s.onSlot c n) := by
  simp [State.runSlot, hr, hi, hw]

theorem State.runSlot_damaged (hr : (s.cell c).running = some (b, i)) (hi : b.instr n = some ins)
    (hw : (s.cell c).wordBad b.num n = true) : s.runSlot c n = .next (s.fireBad c b i n ins) := by
  simp [State.runSlot, hr, hi, hw]

end

/-! ### The checks of a fetch and its trap (R52, R369) -/

/-- A fetch that a check of pcc refuses leaves the state as it is. -/
theorem State.fetch_refused {s : State} {t : ThreadId} {c : Cause} (h : pccTrap (s.thread t) = some c) :
    s.fetch t = (s, .error c) := by
  have h' : pccTrap { s.thread t with pc := (s.thread t).pc } = some c := h
  simp only [State.fetch, State.fetchAt, h']

section
variable {th : Thread}

theorem pccTrap_tag (h : th.pcc.tag = false) : pccTrap th = some .tag := by
  simp [pccTrap, h]

theorem pccTrap_perm (ht : th.pcc.tag = true)
    (h : th.pcc.otype ≠ 0 ∨ th.pcc.space ≠ .dense ∨ th.pcc.pX = false ∨ th.pcc.tenant ≠ th.tenant) :
    pccTrap th = some .perm := by
  simp [pccTrap, ht, or_assoc, h]

variable (ht : th.pcc.tag = true) (ho : th.pcc.otype = 0) (hs : th.pcc.space = .dense) (hx : th.pcc.pX = true)
  (hn : th.pcc.tenant = th.tenant)
include ht ho hs hx hn

theorem pccTrap_bounds (hl : th.pcc.length < th.pc.toNat + 4) : pccTrap th = some .bounds := by
  simp [pccTrap, ht, ho, hs, hx, hn, hl]

theorem pccTrap_misalign (hl : th.pc.toNat + 4 ≤ th.pcc.length) (ha : (th.pcc.base + th.pc.toNat) % 4 ≠ 0) :
    pccTrap th = some .misalign := by
  simp [pccTrap, ht, ho, hs, hx, hn, Nat.not_lt.2 hl, ha]

end

/-- Core k + 1 mod 16 of the die of core k (R369). -/
theorem nextCore_eq (k : CoreId) :
    coreOf (coreDie k) (coreNum k + 1) = Fin.ofNat 32 (k.val / 16 * 16 + (k.val + 1) % 16) := by
  have := k.isLt
  apply Fin.ext
  simp only [coreOf, coreDie, coreNum, Fin.val_ofNat]
  omega

theorem State.fetchTrap_traps {s : State} {k : CoreId} {c : Cause} (h : (s.core k).thread.pc ≠ (s.core k).ktvec) :
    Traps k c.code (s.core k).thread.pc s (s.fetchTrap (.core k) c) := by
  simp [Traps, State.fetchTrap, h, State.trap, Core.takeTrap]

theorem State.fetchTrap_halts {s : State} {k : CoreId} {c : Cause} (h : (s.core k).thread.pc = (s.core k).ktvec) :
    s.fetchTrap (.core k) c = (s.setCore k { s.core k with halted := true }).post
      (Fin.ofNat 32 (k.val / 16 * 16 + (k.val + 1) % 16)) (record 3 c.code 0 (coreSrc k) 0) := by
  simp only [State.fetchTrap, if_pos h, nextCore_eq]

/-- Settles O56: a step is the action of its turn (`step_of_turn`), and the cases are those of the unit that acts: a
ready core, a core that is halted or waits for a fibre, a remote context, a slot, a device step. The second part is the
order of the checks in `pccTrap`, and `fetchTrap` at KTVEC and elsewhere. -/
theorem stepRunsInstruction : Obligations.StepRunsInstruction := by
  constructor
  · intro s dt a rest v runs hb hs
    have acts : step s = v.orWait (v.act a) := step_of_turn hb hs
    have core (k : CoreId) : v.core k = s.core k := s.atTurn_core dt rest k
    have midway (k : CoreId) : v.midway k = s.midway k := s.atTurn_midway dt rest k
    have unit (u : UnitId) : v.unit u = s.unit u := s.atTurn_unit dt rest u
    have cell (c : CellId) : v.cell c = s.cell c := s.atTurn_cell dt rest c
    have parked : v.parked = s.parked := s.atTurn_parked dt rest
    have threadRuns {x : State} {t : ThreadId} (h : v.act a = x.runThread t) : runs x t :=
      ⟨fun _ _ _ hf hd => by rw [acts, h, State.runThread_decoded hf hd],
        fun _ _ _ hf hd => by rw [acts, h, State.runThread_undecoded hf hd],
        fun _ _ hf => by rw [acts, h, State.runThread_unfetched hf]⟩
    refine ⟨fun t => ⟨State.orWait_next_nil v t, State.orWait_walked v t, fun l m r ht hl hm => ?_⟩, ?_, ?_, ?_, ?_, ?_⟩
    · rw [State.orWait_parks ht hl hm, ← parked]
      exact ⟨fun h => by rw [State.queueMiss_parked h], fun h => by rw [State.queueMiss_unparked h]⟩
    · rintro k rfl hh hf hw
      have ready : (v.core k).ready = true := by rw [core, Core.ready_iff]; exact ⟨hh, hf, hw⟩
      rw [← midway, ← core]
      refine ⟨fun i hi => ?_, fun hm hq => threadRuns (State.runCore_fetches ready hm hq),
        fun hm hq => threadRuns (State.runCore_empties ready hm hq)⟩
      rw [acts, State.act, State.runCore_midway ready hi]
    · rintro k rfl h
      have unready : (v.core k).ready = false := by
        rw [core, Bool.eq_false_iff, Ne, Core.ready_iff]
        rcases h with h | h <;> simp [h]
      rw [acts, State.act, State.runCore_unready unready]
      exact State.orWait_next_nil v v (s.atTurn_misses dt rest)
    · rintro t x rfl hx hf he hbud
      rw [← unit] at hx
      exact threadRuns (State.runRemote_fetches hx hf he hbud)
    · rintro c n b i ins rfl hr hi
      rw [acts, State.act, ← cell]
      rw [← cell] at hr
      exact ⟨fun hw => by rw [State.runSlot_whole hr hi hw], fun hw => by rw [State.runSlot_damaged hr hi hw]⟩
    · rintro i rfl he
      rw [acts, State.act_event he]
  · intro s k c th p
    exact ⟨fun h => State.fetch_refused (pccTrap_tag h), fun ht h => State.fetch_refused (pccTrap_perm ht h),
      fun ht ho hd hx hn => ⟨fun hl => State.fetch_refused (pccTrap_bounds ht ho hd hx hn hl),
        fun hl ha => State.fetch_refused (pccTrap_misalign ht ho hd hx hn hl ha)⟩,
      State.fetchTrap_traps, State.fetchTrap_halts⟩

end Sys2Proof.Machine
end

section
/-!
PROOFS. Control core: arithmetic, branches and jumps (O1, O2, O3), loads, stores and their checks (O5, O6, O7, O9),
the fence and the ordered accesses (O10), and the capability instructions (O11).
-/

namespace Sys2Proof.Machine
open Sys2Proof

/-! ### What four instructions are performed by -/

theorem exec_ldd (d : XReg) (c : CReg) (a : XReg) (i : BitVec 8) (s : State) :
    exec (.ldd d c a i) s = load (BitVec.ofNat 64) 8 d c a i s := rfl

theorem exec_std (d : XReg) (c : CReg) (a : XReg) (i : BitVec 8) (s : State) :
    exec (.std d c a i) s = store 8 d c a i s := rfl

theorem exec_fence (sc : Scope) (s : State) : exec (.fence sc) s = execFence sc s := rfl

theorem exec_lineOwnerAccess (k : CoreId) (n : Nat) (s : State) :
    exec (.lineOwnerAccess k n) s = execLineOwnerAccess k n s := rfl

/-! ### A control core that writes a register and retires (R48, R389) -/

/-- The core after x[d] := v, with the next pc p and one more retired instruction. -/
def Core.writeRetire (c : Core) (d : XReg) (v p : Word) : Core :=
  { c with thread := { c.thread.set d v with pc := p }, kinstr := c.kinstr + 1 }

theorem State.setX_retireTo_core (s : State) (k : CoreId) (d : XReg) (v p : Word) :
    (s.setX (.core k) d v).retireTo (.core k) p = s.setCore k ((s.core k).writeRetire d v p) := by
  rw [State.setX_core, State.retireTo_core, State.core_setCore_same, State.setCore_setCore]
  rfl

section
variable (s : State) (k : CoreId) (d : XReg) (v p : Word)

theorem onlyThread_writeRetire : OnlyThread k s (s.setCore k ((s.core k).writeRetire d v p)) := by
  rw [OnlyThread, State.core_setCore_same]
  rfl

theorem sameBytes_setCore (c : Core) : SameBytes s (s.setCore k c) := ⟨fun _ => rfl, fun _ => rfl⟩

theorem sameRegs_writeRetire : SameRegs k [d] s (s.setCore k ((s.core k).writeRetire d v p)) := by
  rw [SameRegs, State.core_setCore_same]
  refine ⟨fun r hr => ?_, Thread.set_c ..⟩
  exact Thread.get_set_other _ _ _ (List.ne_of_not_mem_cons hr)

end

/-! ### Arithmetic, branches and jumps (R53 to R59) -/

theorem divS_of_zero {a b : Word} (h : b = 0) : divS a b = BitVec.allOnes 64 := by rw [divS, if_pos h]; rfl
theorem divU_of_zero {a b : Word} (h : b = 0) : divU a b = BitVec.allOnes 64 := by rw [divU, if_pos h]; rfl
theorem remS_of_zero {a b : Word} (h : b = 0) : remS a b = a := if_pos h
theorem remU_of_zero {a b : Word} (h : b = 0) : remU a b = a := if_pos h
theorem divS_of_ne_zero {a b : Word} (h : b ≠ 0) : divS a b = BitVec.ofInt 64 (a.toInt.tdiv b.toInt) := if_neg h
theorem divU_of_ne_zero {a b : Word} (h : b ≠ 0) : divU a b = BitVec.ofNat 64 (a.toNat / b.toNat) := if_neg h
theorem remS_of_ne_zero {a b : Word} (h : b ≠ 0) : remS a b = BitVec.ofInt 64 (a.toInt.tmod b.toInt) := if_neg h
theorem remU_of_ne_zero {a b : Word} (h : b ≠ 0) : remU a b = BitVec.ofNat 64 (a.toNat % b.toNat) := if_neg h

/-- A two-operand instruction writes its result (R53). -/
theorem aluRR_writes {f : Word → Word → Word} {d a b : XReg} {s : State} {v : Word}
    (h : f (s.getX s.focus.thread a) (s.getX s.focus.thread b) = v) : aluRR f d a b s = Writes s d v :=
  h ▸ rfl

/-- Settles O1: each instruction is one of the shapes `aluRR` and `aluR` with its operation, and the division group
splits on a divisor of zero. -/
theorem arithmetic : Obligations.Arithmetic := by
  refine ⟨fun s d a b => ?_, fun s d a b => ⟨fun hy => ?_, fun hy => ?_⟩, fun s d a i n u => ?_⟩
  · exact ⟨rfl, rfl, rfl, rfl, rfl, rfl, rfl, rfl, rfl, rfl, rfl, rfl, rfl, rfl, rfl, rfl, rfl⟩
  · exact ⟨aluRR_writes (divS_of_zero hy), aluRR_writes (divU_of_zero hy), aluRR_writes (remS_of_zero hy),
      aluRR_writes (remU_of_zero hy)⟩
  · exact ⟨aluRR_writes (divS_of_ne_zero hy), aluRR_writes (divU_of_ne_zero hy), aluRR_writes (remS_of_ne_zero hy),
      aluRR_writes (remU_of_ne_zero hy)⟩
  · exact ⟨rfl, rfl, rfl, rfl, rfl, rfl, rfl, rfl, rfl, rfl, rfl, rfl⟩

/-- JALR to an aligned target (R59). -/
theorem execJalr_aligned {s : State} {d a : XReg} {i : BitVec 12}
    (h : (s.getX s.focus.thread a + i.signExtend 64 <<< 2).toNat % 4 = 0) :
    exec (.jalr d a i) s = .next ((s.setX s.focus.thread d ((s.thread s.focus.thread).pc + 4)).retireTo s.focus.thread
      (s.getX s.focus.thread a + i.signExtend 64 <<< 2)) :=
  if_neg (by rw [bne_iff_ne]; exact Decidable.not_not.2 h)

/-- JALR to an unaligned target traps before it writes (R59). -/
theorem execJalr_unaligned {s : State} {d a : XReg} {i : BitVec 12}
    (h : (s.getX s.focus.thread a + i.signExtend 64 <<< 2).toNat % 4 ≠ 0) :
    exec (.jalr d a i) s =
      .next (s.trap s.focus.thread ⟨.misalign, s.getX s.focus.thread a + i.signExtend 64 <<< 2⟩) :=
  if_pos (bne_iff_ne.2 h)

/-- A trap keeps the registers of its core and saves the pc (R368). -/
theorem State.core_trap (s : State) (k : CoreId) (x : Trap) : (s.trap (.core k) x).core k = (s.core k).takeTrap x :=
  s.core_setCore_same ..

/-- Settles O2: branches and JAL are their shapes, and JALR splits on the alignment of its target. -/
theorem branchesAndJumps : Obligations.BranchesAndJumps := by
  constructor
  · intro s d a b i u
    exact ⟨rfl, rfl, rfl, rfl, rfl, rfl, rfl, execJalr_aligned⟩
  · intro s k d a i hk target h
    have traps : exec (.jalr d a i) s = .next (s.trap (.core k) ⟨.misalign, target⟩) := by
      rw [execJalr_unaligned (by rw [hk]; exact h), hk]
    refine ⟨_, traps, ?_⟩
    rw [State.core_trap]
    exact ⟨fun _ => rfl, rfl, rfl, rfl, rfl⟩

/-- Settles O3: every instruction of the group is one write of x[d] that retires, to the next instruction or to JAL's
target; the frame is that of the write. -/
theorem arithmeticFrame : Obligations.ArithmeticFrame := by
  intro s t k d a b i n u ins hk hmem hexec
  have writes : ∃ v p, exec ins s = .next ((s.setX s.focus.thread d v).retireTo s.focus.thread p) := by
    simp only [List.mem_cons, List.not_mem_nil, or_false] at hmem
    rcases hmem with rfl | rfl | rfl | rfl | rfl | rfl | rfl | rfl | rfl | rfl | rfl | rfl | rfl | rfl | rfl
      | rfl | rfl | rfl | rfl | rfl | rfl | rfl | rfl | rfl | rfl | rfl | rfl | rfl | rfl | rfl | rfl | rfl
      | rfl | rfl <;>
      exact ⟨_, _, rfl⟩
  obtain ⟨v, p, hv⟩ := writes
  rw [hk, State.setX_retireTo_core, hexec] at hv
  obtain rfl := Host.Outcome.next.inj hv
  refine ⟨onlyThread_writeRetire .., sameBytes_setCore .., sameRegs_writeRetire .., Thread.get_zero _, ?_⟩
  rw [State.core_setCore_same]
  exact ⟨Thread.set_priv .., Thread.set_tenant .., Thread.set_pcc .., rfl⟩

/-! ### The checks of R60 -/

section
variable {cap : Cap} {priv : Bool} {tenant : BitVec 8} {off : Word} {n : Nat} {w : Bool}

theorem accessTrap_untagged (ht : cap.tag = false) : accessTrap cap priv tenant off n w = some ⟨.tag, off⟩ := by
  simp [accessTrap, ht]

theorem accessTrap_sealed_or_foreign (ht : cap.tag = true) (h : cap.otype ≠ 0 ∨ cap.tenant ≠ tenant) :
    accessTrap cap priv tenant off n w = some ⟨.perm, off⟩ := by
  simp [accessTrap, ht, h]

section
variable (ht : cap.tag = true) (ho : cap.otype = 0) (hn : cap.tenant = tenant) (hs : cap.space = .dense)
include ht ho hn hs

theorem accessTrap_unpermitted (h : (if w then cap.pW else cap.pR) = false) :
    accessTrap cap priv tenant off n w = some ⟨.perm, off⟩ := by
  cases w <;> simp_all [accessTrap]

variable (hp : (if w then cap.pW else cap.pR) = true)
include hp

/-- What the range and the alignment decide, once the permission is there. -/
theorem accessTrap_permitted : accessTrap cap priv tenant off n w =
    if cap.length ≤ off.toNat ∨ cap.length < off.toNat + n then some ⟨.bounds, off⟩
    else if (cap.base + off.toNat) % n ≠ 0 then some ⟨.misalign, BitVec.ofNat 64 (cap.base + off.toNat)⟩
    else none := by
  cases w <;> simp_all [accessTrap]

theorem accessTrap_outside (h : cap.length ≤ off.toNat ∨ cap.length < off.toNat + n) :
    accessTrap cap priv tenant off n w = some ⟨.bounds, off⟩ := by
  rw [accessTrap_permitted ht ho hn hs hp, if_pos h]

variable (hl : off.toNat < cap.length) (hb : off.toNat + n ≤ cap.length)
include hl hb

theorem accessTrap_unaligned (h : (cap.base + off.toNat) % n ≠ 0) :
    accessTrap cap priv tenant off n w = some ⟨.misalign, BitVec.ofNat 64 (cap.base + off.toNat)⟩ := by
  rw [accessTrap_permitted ht ho hn hs hp, if_neg (by omega), if_pos h]

theorem accessTrap_passes (h : (cap.base + off.toNat) % n = 0) : accessTrap cap priv tenant off n w = none := by
  rw [accessTrap_permitted ht ho hn hs hp, if_neg (by omega), if_neg (by omega)]

end
end

/-! ### A load and a store by what their access answers (R60, R61, R65) -/

section
variable {s u v : State} {cap : Cap} {off : Word} {n : Nat} {x : Trap} {l : Loc} {f : Nat → Word} {d : XReg}
  {data : Word}

theorem loadFrom_reads {bs : List Byte} (h : Reads s cap off n u bs) :
    loadFrom f n d cap off s = .next ((u.setX s.focus.thread d (f (leNat bs))).retire s.focus.thread) := by
  obtain ⟨v, l, ha, hr⟩ := h
  simp only [loadFrom, ha, hr]

theorem loadFrom_refused (ha : s.access s.focus.thread cap off n false = (u, .error x)) :
    loadFrom f n d cap off s = .next (u.trap s.focus.thread x) := by
  simp only [loadFrom, ha]

/-- The trap of damaged data is taken in the state without the marks of this access (R49). -/
theorem loadFrom_damaged (ha : s.access s.focus.thread cap off n false = (u, .ok l))
    (hr : u.threadRead s.focus.thread l n = (v, none)) :
    loadFrom f n d cap off s = .next (((s.withMisses u).threadRead s.focus.thread l n).1.trap s.focus.thread
      ⟨.ecc, BitVec.ofNat 64 (cap.base + off.toNat)⟩) := by
  simp only [loadFrom, ha, hr]

theorem storeTo_refused (ha : s.access s.focus.thread cap off n true = (u, .error x)) :
    storeTo n data cap off s = .next (u.trap s.focus.thread x) := by
  simp only [storeTo, ha]

theorem storeTo_reaches (ha : s.access s.focus.thread cap off n true = (u, .ok l)) :
    storeTo n data cap off s = storeAt n data l off u := by
  simp only [storeTo, ha]

/-- An access answers with the focus it has met. -/
theorem State.focus_of_access {t : ThreadId} {w : Bool} {r : Except Trap Loc} (ha : s.access t cap off n w = (u, r)) :
    u.focus = s.focus := by
  rw [focus_fst ha, State.access_focus]

end

/-! ### A release (R66) -/

theorem release_goes {s : State} {k : State → Res} (h : s.callsAccepted s.focus.thread = true) :
    release k s = k (s.drainThread s.focus.thread) := if_pos h

theorem release_waits {s : State} {k : State → Res} (h : s.callsAccepted s.focus.thread = false) :
    release k s = .next s := if_neg (by simp [h])

/-! ### A store at the location reached (R65, R370, R390, R392) -/

/-- What a store of n bytes to a location puts into a store queue. -/
def Loc.entry (l : Loc) (n : Nat) (data : Word) (tenant : BitVec 8) : QueuedStore :=
  ⟨l.space, l.addr, leBytes n data.toNat, false, false, tenant⟩

/-- A store goes into its thread's queue and retires. -/
def State.storeRetires (s : State) (t : ThreadId) (q : QueuedStore) : Res := .next ((s.enqueueStore t q).retire t)

section
variable {u : State} {t : ThreadId} {l : Loc} {n : Nat} {data off : Word} (ht : u.focus.thread = t)
include ht

theorem storeAt_memory (hl : l.space ≠ .sys) :
    storeAt n data l off u = u.storeRetires t (l.entry n data (u.thread t).tenant) := by
  subst ht
  simp only [storeAt]
  split
  · contradiction
  · rfl

variable {k : CoreId} (hk : t = .core k) (hl : l.space = .sys)
include hk hl

theorem storeAt_plain (hr : (sysReg l.addr).isTrigger = false) (hf : ∀ c, sysReg l.addr ≠ .faultWord c) :
    storeAt n data l off u = u.storeRetires t (l.entry n data (u.thread t).tenant) := by
  subst hk
  simp only [storeAt, hl, ht, State.sysStoreDenied]
  cases h : sysReg l.addr <;> simp_all [SysReg.isTrigger, Loc.entry, State.storeRetires]

/-- The stores to the window of a post trigger are performed before R392 judges it. -/
theorem storeAt_trigger {j : CoreId} (hr : sysReg l.addr = .trigger j) :
    storeAt n data l off u =
      if (u.drainSys k l.addr).sysStoreDenied k.val l.addr n then .next ((u.drainSys k l.addr).trap t ⟨.perm, off⟩)
      else (u.drainSys k l.addr).storeRetires t (l.entry n data (u.thread t).tenant) := by
  subst hk
  simp only [storeAt, hl, ht, hr, Loc.entry, State.storeRetires]

variable {c : CellId} (hr : sysReg l.addr = .faultWord c)
include hr

theorem storeAt_faultWord_short (hn : n ≠ 8) : storeAt n data l off u = .next (u.trap t ⟨.perm, off⟩) := by
  subst hk
  simp [storeAt, hl, ht, hr, State.sysStoreDenied, hn]

theorem storeAt_faultWord_ends (hd : data.toNat % 4 = 0) :
    storeAt 8 data l off u = u.storeRetires t (l.entry 8 data (u.thread t).tenant) := by
  subst hk
  simp [storeAt, hl, ht, hr, State.sysStoreDenied, hd, Loc.entry, State.storeRetires]

/-- An action on a fault word is a release (R372). -/
theorem storeAt_faultWord_acts (hd : data.toNat % 4 ≠ 0) :
    storeAt 8 data l off u = release (fun s => s.storeRetires t (l.entry 8 data (u.thread t).tenant)) u := by
  subst hk
  simp [storeAt, hl, ht, hr, State.sysStoreDenied, hd, Loc.entry, State.storeRetires]

end

/-- A store that R390 does not refuse, of other than 8 bytes, goes to no fault word. -/
theorem sysReg_ne_faultWord {u : State} {agent a n : Nat} (h : u.sysStoreDenied agent a n = false) (hn : n ≠ 8)
    (c : CellId) : sysReg a ≠ .faultWord c := by
  intro hr
  simp [State.sysStoreDenied, hr, hn] at h

/-- A store to memory whose access answers a location retires into the store queue. -/
theorem storeTo_memory {s u : State} {t : ThreadId} {cap : Cap} {off data : Word} {n : Nat} {l : Loc}
    (ht : s.focus.thread = t) (ha : s.access t cap off n true = (u, .ok l)) (hl : l.space ≠ .sys) :
    storeTo n data cap off s = u.storeRetires t (l.entry n data (u.thread t).tenant) := by
  subst ht
  rw [storeTo_reaches ha, storeAt_memory (congrArg Focus.thread (State.focus_of_access ha)) hl]

/-! ### Loads (R60 to R62) -/

/-- A core without queued stores has none to perform first (R65). -/
theorem State.settle_of_empty {s : State} {k : CoreId} (h : (s.core k).storeQ = []) (space : Space) (a n : Nat) :
    s.settle (.core k) space a n = s := by
  have same : ({ s.core k with storeQ := [] } : Core) = s.core k := by rw [← h]
  simp only [State.settle, h, splitTouching, State.performList, same, State.setCore_core_self]

/-- A core's load of memory meets it as the queued stores that touch its bytes leave it (R65). -/
theorem State.threadRead_dense {s : State} {k : CoreId} {l : Loc} (hs : l.space = .dense) (hf : l.fill = none) (n : Nat) :
    s.threadRead (.core k) l n =
      (s.settle (.core k) .dense l.addr n).locRead
        ⟨((s.settle (.core k) .dense l.addr n).core k).thread.tenant, .thread (.core k)⟩ l n := by
  simp only [State.threadRead, hf, hs, Option.isSome_none, Bool.false_eq_true, if_false, State.thread_core]

/-- A core that writes x[d] and goes on to the next instruction. -/
theorem State.setX_retire_core (s : State) (k : CoreId) (d : XReg) (v : Word) :
    (s.setX (.core k) d v).retire (.core k) =
      s.setCore k ((s.core k).writeRetire d v ((s.core k).thread.pc + 4)) := by
  rw [State.retire, State.setX_retireTo_core, State.thread_core, State.setX_core, State.core_setCore_same,
    Thread.set_pc]

/-- LDD of this device through a cached translation, with an empty store queue: the bytes, and the state as it was. -/
theorem reads_cached {s : State} {k : CoreId} {cap : Cap} {off : Word} {e : TlbEntry}
    (hk : s.focus.thread = .core k)
    (hc : accessTrap cap (s.core k).thread.priv (s.core k).thread.tenant off 8 false = none) (hs : cap.space = .dense)
    (hv : cap.base + off.toNat < 2 ^ 48)
    (he : s.cached (.die (coreDie k)) (s.core k).thread.tenant (cap.base + off.toNat) = some e) (hf : e.fill = none)
    (hq : (s.core k).storeQ = []) (hl : s.isLocal (e.frame + (cap.base + off.toNat) % e.size) = true)
    (hb : s.mem.bad (localAddr (e.frame + (cap.base + off.toNat) % e.size)) 8 = false) :
    Reads s cap off 8 s (s.mem.read (localAddr (e.frame + (cap.base + off.toNat) % e.size)) 8) := by
  refine ⟨s, ⟨.dense, e.frame + (cap.base + off.toNat) % e.size, none⟩, ?_, ?_⟩
  · rw [hk, State.access_cached hc hs (Nat.div_eq_of_lt hv) he hf (by simp)]
  · rw [hk, State.threadRead_dense rfl rfl, State.settle_of_empty hq, State.locRead_local (.inl rfl) rfl hl hb]

/-- Settles O5: a load by what its access answers, and LDD of this device by `reads_cached`; its frame is that of a
write of x[d] that retires. -/
theorem loads : Obligations.Loads := by
  refine ⟨fun s u d c a i bs => ⟨fun h => ?_, fun h => ?_, fun h => ?_, fun h => ?_⟩, ?_⟩
  · exact ⟨loadFrom_reads h, loadFrom_reads h⟩
  · exact ⟨loadFrom_reads h, loadFrom_reads h⟩
  · exact ⟨loadFrom_reads h, loadFrom_reads h⟩
  · exact ⟨loadFrom_reads h, loadFrom_reads h⟩
  · intro s k d c a i e th cap off va pa hk ht ho hn hs hp hlen halign hva he hf hq hl hb
    have passes : accessTrap cap th.priv th.tenant off 8 false = none :=
      accessTrap_passes ht ho hn hs hp (by omega) hlen halign
    have loaded : exec (.ldd d c a i) s = .next (s.setCore k ((s.core k).writeRetire d
        (BitVec.ofNat 64 (s.mem.readNat (localAddr pa) 8)) (th.pc + 4))) := by
      calc exec (.ldd d c a i) s
        _ = loadFrom (BitVec.ofNat 64) 8 d cap off s := by
          rw [exec_ldd, load, hk]; rfl
        _ = .next ((s.setX (.core k) d (BitVec.ofNat 64 (s.mem.readNat (localAddr pa) 8))).retire (.core k)) := by
          rw [loadFrom_reads (reads_cached hk passes hs hva he hf hq hl hb), hk]; rfl
        _ = _ := by rw [State.setX_retire_core]
    refine ⟨_, loaded, onlyThread_writeRetire .., sameBytes_setCore .., sameRegs_writeRetire .., ?_⟩
    rw [State.core_setCore_same]
    exact ⟨Thread.set_priv .., Thread.set_tenant .., Thread.set_pcc .., rfl,
      fun hd => Thread.get_set_same _ _ _ hd, rfl⟩

/-! ### Stores (R64, R65, R370) -/

/-- The elements in which a store stands in a core's queue (R64). -/
def QueuedStore.elements (q : QueuedStore) : List QueuedStore :=
  if q.space == .scratch && q.bytes.length == 8 then
    [{ q with bytes := q.bytes.take 4, half := true },
      { q with addr := q.addr + 4, bytes := q.bytes.drop 4, half := true }]
  else [q]

theorem QueuedStore.length_elements (q : QueuedStore) : q.elements.length ≤ 2 := by
  unfold QueuedStore.elements
  split <;> simp

theorem State.enqueueStore_core (s : State) (k : CoreId) (q : QueuedStore) :
    s.enqueueStore (.core k) q = s.enqueueAll k q.elements := by
  simp only [State.enqueueStore, QueuedStore.elements]
  split <;> rfl

/-- A store retires behind the others where its elements find room. -/
theorem State.enqueueStore_room {s : State} {k : CoreId} (q : QueuedStore) (h : (s.core k).storeQ.length < 15) :
    s.enqueueStore (.core k) q = s.setCore k { s.core k with storeQ := (s.core k).storeQ ++ q.elements } := by
  rw [State.enqueueStore_core, State.enqueueAll_room _ (by have := q.length_elements; omega)]

/-- The elements of an 8-byte store at a location. -/
theorem Loc.elements_entry (l : Loc) (data : Word) (tenant : BitVec 8) :
    (l.entry 8 data tenant).elements =
      if l.space = .scratch then
        [⟨.scratch, l.addr, (leBytes 8 data.toNat).take 4, false, true, tenant⟩,
          ⟨.scratch, l.addr + 4, (leBytes 8 data.toNat).drop 4, false, true, tenant⟩]
      else [⟨l.space, l.addr, leBytes 8 data.toNat, false, false, tenant⟩] := by
  by_cases h : l.space = .scratch <;> simp [QueuedStore.elements, Loc.entry, h]

/-- The state after a store of a core that found room: its queue, its pc and its count of retired instructions. -/
theorem State.storeRetires_room {s : State} {k : CoreId} (q : QueuedStore) (h : (s.core k).storeQ.length < 15) :
    s.storeRetires (.core k) q = .next (s.setCore k { s.core k with
      storeQ := (s.core k).storeQ ++ q.elements
      thread := { (s.core k).thread with pc := (s.core k).thread.pc + 4 }
      kinstr := (s.core k).kinstr + 1 }) := by
  rw [State.storeRetires, State.enqueueStore_room q h, State.retire, State.retireTo_core]
  simp only [State.thread_core, State.core_setCore_same, State.setCore_setCore]

/-- STL whose access answers is a release, and then STD (R66). -/
theorem execStl_reaches {s v : State} {d : XReg} {c : CReg} {a : XReg} {i : BitVec 8} {l : Loc}
    (ha : s.access s.focus.thread (s.getC s.focus.thread c) (memOffset s s.focus.thread a i 8) 8 true = (v, .ok l)) :
    exec (.stl d c a i) s = release (store 8 d c a i) s := by
  simp only [exec, execStl, ha]

theorem execStl_refused {s u : State} {d : XReg} {c : CReg} {a : XReg} {i : BitVec 8} {x : Trap}
    (ha : s.access s.focus.thread (s.getC s.focus.thread c) (memOffset s s.focus.thread a i 8) 8 true = (u, .error x)) :
    exec (.stl d c a i) s = .next (u.trap s.focus.thread x) := by
  simp only [exec, execStl, ha]

/-- Settles O6: a store by what its access answers and, in a register window, by the register it reaches; STL by its
release; a store with room by the elements it adds to the queue. -/
theorem stores : Obligations.Stores := by
  refine ⟨fun s u d c a i l => ?_, ?_, ?_⟩
  · intro t cap off put
    refine ⟨fun hl => ?_, fun k hl hk => ⟨fun ha => ?_, fun ha => ?_⟩⟩
    · exact ⟨fun ha => storeTo_memory rfl ha hl, fun ha => storeTo_memory rfl ha hl,
        fun ha => storeTo_memory rfl ha hl, fun ha => storeTo_memory rfl ha hl⟩
    · have ht : u.focus.thread = t := congrArg Focus.thread (State.focus_of_access ha)
      have reached : exec (.stw d c a i) s = storeAt 4 (s.getX t d) l (off 4) u := storeTo_reaches ha
      exact ⟨fun hr hd => reached.trans (storeAt_plain ht hk hl hr (sysReg_ne_faultWord hd (by decide))),
        fun c' hr => reached.trans (storeAt_faultWord_short ht hk hl hr (by decide))⟩
    · have ht : u.focus.thread = t := congrArg Focus.thread (State.focus_of_access ha)
      have reached : exec (.std d c a i) s = storeAt 8 (s.getX t d) l (off 8) u := storeTo_reaches ha
      refine ⟨fun hr hf => reached.trans (storeAt_plain ht hk hl hr hf), fun j hr => ?_, fun c' hr => ⟨?_, ?_⟩⟩
      · rw [reached, storeAt_trigger ht hk hl hr]
        exact ⟨fun hd => if_neg (by rw [hd]; decide), fun hd => if_pos hd⟩
      · exact fun hd => reached.trans (storeAt_faultWord_ends ht hk hl hr hd)
      · intro hd _
        rw [reached, storeAt_faultWord_acts ht hk hl hr hd]
        refine ⟨fun hc => ?_, fun hc => release_waits (by rw [ht]; exact hc)⟩
        have drained : u.drainThread t = u.drain k := by rw [hk]; rfl
        rw [release_goes (by rw [ht]; exact hc), ht, drained]
        rfl
  · intro s u v d c a i l l' t w cap off ha hc hw hcap hx ha' hl
    calc exec (.stl d c a i) s
      _ = release (store 8 d c a i) s := execStl_reaches ha
      _ = store 8 d c a i w := release_goes hc
      _ = storeTo 8 (w.getX t d) cap off w := by rw [store, memOffset, hw, hcap, hx]; rfl
      _ = _ := storeTo_memory hw ha' hl
  · intro s k d c a i l off hk ha hl hroom bs n
    have stored : exec (.std d c a i) s = s.storeRetires (.core k) (l.entry 8 (s.getX (.core k) d) n) := by
      rw [exec_std, store, hk]
      exact storeTo_memory hk ha hl
    refine ⟨_, stored.trans (State.storeRetires_room _ hroom), sameBytes_setCore .., ?_, ?_, fun j hj => ?_⟩
    · rw [SameRegs, State.core_setCore_same]
      exact ⟨fun _ _ => rfl, rfl⟩
    · rw [State.core_setCore_same]
      exact congrArg ((s.core k).storeQ ++ ·) (l.elements_entry ..)
    · exact State.core_setCore_other _ _ hj

/-! ### A store performed at its owner (R65, R315) -/

@[simp] theorem State.core_memWrite (s : State) (a : Nat) (bs : List Byte) (k : CoreId) :
    (s.memWrite a bs).core k = s.core k := by
  simp [State.core]

@[simp] theorem State.isLocal_memWrite (s : State) (a : Nat) (bs : List Byte) (pa : Nat) :
    (s.memWrite a bs).isLocal pa = s.isLocal pa := by
  simp [State.isLocal]

/-- Nothing stands before the oldest entry of a queue. -/
theorem State.performEntry_oldest {s : State} {k : CoreId} {q : QueuedStore} {rest : List QueuedStore}
    {sel : QueuedStore → Bool} (hq : (s.core k).storeQ = q :: rest) (hs : sel q = true) :
    s.performEntry k 0 sel = (s.setCore k { s.core k with storeQ := rest }).performOne (.core k) q := by
  simp [State.performEntry, hq, hs, mayPerform, dropNth]

/-- The one queued store of a core that an access meets is performed first (R65). -/
theorem State.settle_only {s : State} {k : CoreId} {q : QueuedStore} {space : Space} {a n : Nat}
    (hq : (s.core k).storeQ = [q]) (ha : q.ahead space a n = true) :
    s.settle (.core k) space a n = (s.setCore k { s.core k with storeQ := [] }).performOne (.core k) q := by
  simp [State.settle, hq, splitTouching, ha, State.performList]

theorem QueuedStore.ahead_of_touches {q : QueuedStore} {space : Space} {a n : Nat} (h : q.touches space a n = true) :
    q.ahead space a n = true := by
  rw [QueuedStore.ahead, h, Bool.true_or]

/-- A write strikes no unit. -/
theorem Memory.bad_write_of_clean {m : Memory} (h : m.poison = []) (a : Nat) (bs : List Byte) (x n : Nat) :
    (m.write a bs).bad x n = false := by
  unfold Memory.write
  split <;> simp [Memory.bad, h, natsOutside]

/-- Settles O7: the oldest entry is performed, which writes its bytes (`performOne_local`); a load settles the store
that touches its bytes and reads what it has written. -/
theorem storePerformed : Obligations.StorePerformed := by
  constructor
  · intro s k q rest hq hs ht hb hl hm
    have performed : exec (.lineOwnerAccess k 0) s =
        .next ((s.setCore k { s.core k with storeQ := rest }).memWrite (localAddr q.addr) q.bytes) := by
      rw [exec_lineOwnerAccess, execLineOwnerAccess,
        State.performEntry_oldest hq (by simp [hs]), State.performOne_local (.inl hs) ht (by exact hl)]
    refine ⟨_, performed, ?_, fun n hn => ?_, fun a ha => ?_, fun a => ?_, fun a h1 h2 => ?_⟩
    · rw [State.core_memWrite, State.core_setCore_same]
    · rw [State.memWrite_mem, State.setCore_mem, Memory.byte_write hm, if_pos (Nat.le_add_right ..),
        Nat.add_sub_cancel_left, List.getD_eq_getElem?_getD, List.getElem?_eq_getElem hn]
      rfl
    · rw [State.memWrite_mem]
      exact Memory.byte_write_outside hm ha
    · rw [State.memWrite_scratch, State.setCore_scratch]
    · rw [State.memWrite_mem]
      exact Memory.tagAt_write (by omega) (by omega) hb
  · intro s k l v n hs hf hl hm hp hq
    have settled : s.settle (.core k) .dense l.addr 8 =
        (s.setCore k { s.core k with storeQ := [] }).memWrite (localAddr l.addr) (leBytes 8 v.toNat) := by
      rw [State.settle_only hq (QueuedStore.ahead_of_touches (by simp [QueuedStore.touches])),
        State.performOne_local (.inl rfl) rfl (by exact hl)]
    have written : (s.settle (.core k) .dense l.addr 8).mem = s.mem.write (localAddr l.addr) (leBytes 8 v.toNat) := by
      rw [settled, State.memWrite_mem, State.setCore_mem]
    have here : (s.settle (.core k) .dense l.addr 8).isLocal l.addr = true := by
      rw [settled, State.isLocal_memWrite]
      exact hl
    have readBack : (s.mem.write (localAddr l.addr) (leBytes 8 v.toNat)).read (localAddr l.addr) 8 = leBytes 8 v.toNat := by
      simpa using Memory.read_write_same hm (localAddr l.addr) (leBytes 8 v.toNat)
    refine ⟨s.settle (.core k) .dense l.addr 8, ?_, ?_⟩
    · rw [State.threadRead_dense hs hf, State.locRead_local (.inl hs) hf here
        (by rw [written]; exact Memory.bad_write_of_clean hp ..), written, readBack]
    · rw [settled, State.core_memWrite, State.core_setCore_same]

/-! ### CLD and CST by what their access answers (R70) -/

section
variable {s u v : State} {cd c : CReg} {a : XReg} {i : BitVec 8} {x : Trap} {l : Loc}

theorem execCld_refused
    (ha : s.access s.focus.thread (s.getC s.focus.thread c) (memOffset s s.focus.thread a i 16) 16 false =
      (u, .error x)) :
    exec (.cld cd c a i) s = .next (u.trap s.focus.thread x) := by
  simp only [exec, execCld, ha]

theorem execCst_refused
    (ha : s.access s.focus.thread (s.getC s.focus.thread c) (memOffset s s.focus.thread a i 16) 16 true =
      (u, .error x)) :
    exec (.cst cd c a i) s = .next (u.trap s.focus.thread x) := by
  simp only [exec, execCst, ha]

/-- A tagged capability is refused without C, and one without G outside SCRATCH. -/
theorem execCst_denied
    (ha : s.access s.focus.thread (s.getC s.focus.thread c) (memOffset s s.focus.thread a i 16) 16 true = (u, .ok l))
    (hx : (s.getC s.focus.thread cd).tag = true)
    (hp : (s.getC s.focus.thread c).pC = false ∨
      ((s.getC s.focus.thread cd).pG = false ∧ (s.getC s.focus.thread c).space = .dense)) :
    exec (.cst cd c a i) s =
      .next ((s.withMisses u).trap s.focus.thread ⟨.perm, memOffset s s.focus.thread a i 16⟩) := by
  rcases hp with hp | ⟨hg, hd⟩
  · simp [exec, execCst, ha, hx, hp]
  · simp [exec, execCst, ha, hx, hg, hd]

variable (hs : (s.getC s.focus.thread c).space = .dense ∨ (s.getC s.focus.thread c).space = .scratch)
include hs

section
variable
  (ha : s.access s.focus.thread (s.getC s.focus.thread c) (memOffset s s.focus.thread a i 16) 16 false = (u, .ok l))
include ha

/-- Damaged data trap in the state without the marks of this access (R49). -/
theorem execCld_damaged (hr : u.threadRead s.focus.thread l 16 = (v, none)) :
    exec (.cld cd c a i) s = .next (((s.withMisses u).threadRead s.focus.thread l 16).1.trap s.focus.thread
      ⟨.ecc, BitVec.ofNat 64 ((s.getC s.focus.thread c).base + (memOffset s s.focus.thread a i 16).toNat)⟩) := by
  rcases hs with hs | hs <;> simp [exec, execCld, ha, hr, hs]

theorem execCld_reads {bs : List Byte} (hr : u.threadRead s.focus.thread l 16 = (v, some bs)) :
    exec (.cld cd c a i) s =
      .next (((v.locTag l (BitVec.ofNat 128 (leNat bs))).1.setC s.focus.thread cd ⟨BitVec.ofNat 128 (leNat bs),
        (v.locTag l (BitVec.ofNat 128 (leNat bs))).2 && (s.getC s.focus.thread c).pC⟩).retire s.focus.thread) := by
  rcases hs with hs | hs <;> simp [exec, execCld, ha, hr, hs]

end

/-- An untagged capability goes anywhere, and a tagged one where C and, outside SCRATCH, its own G let it. -/
theorem execCst_stores
    (ha : s.access s.focus.thread (s.getC s.focus.thread c) (memOffset s s.focus.thread a i 16) 16 true = (u, .ok l))
    (hx : (s.getC s.focus.thread cd).tag = false ∨ ((s.getC s.focus.thread c).pC = true ∧
      ((s.getC s.focus.thread cd).pG = true ∨ (s.getC s.focus.thread c).space = .scratch))) :
    exec (.cst cd c a i) s = u.storeRetires s.focus.thread ⟨l.space, l.addr,
      leBytes 16 (s.getC s.focus.thread cd).bits.toNat, (s.getC s.focus.thread cd).tag, false,
      (s.thread s.focus.thread).tenant⟩ := by
  have notSys : (s.getC s.focus.thread c).space ≠ .sys := by rcases hs with hs | hs <;> simp [hs]
  simp only [exec, execCst, ha]
  rw [if_neg]
  · rfl
  · rcases hx with hx | ⟨hc, hg | hg⟩
    · simp [notSys, hx]
    · simp [notSys, hc, hg]
    · simp [hc, hg]

end

/-! ### Accesses that fail (R60, R61, R368) -/

/-- Settles O9: the checks in their order are those of `accessTrap`, and a memory instruction answers the trap of the
access that fails, or ECC where its data are damaged. -/
theorem accessChecks : Obligations.AccessChecks := by
  constructor
  · intro cap priv tenant off n w perm
    refine ⟨accessTrap_untagged, accessTrap_sealed_or_foreign, fun ht ho hn hs => ⟨fun hp => ?_, fun hp => ?_⟩⟩
    · exact accessTrap_unpermitted ht ho hn hs (Bool.eq_false_iff.2 hp)
    · exact ⟨accessTrap_outside ht ho hn hs hp, fun hl hb => ⟨accessTrap_unaligned ht ho hn hs hp hl hb,
        accessTrap_passes ht ho hn hs hp hl hb⟩⟩
  · intro s u d cd c a i x t cap off
    exact ⟨fun ha => ⟨loadFrom_refused ha, loadFrom_refused ha⟩, fun ha => ⟨storeTo_refused ha, execStl_refused ha⟩,
      execCld_refused, execCst_refused, fun l v ha hr => ⟨loadFrom_damaged ha hr, loadFrom_damaged ha hr⟩,
      fun l v ha hs hr => execCld_damaged hs ha hr⟩

/-! ### The fence and the ordered accesses (R321, R328, R358, R359) -/

section
variable {s u : State} {sc : Scope} {d : XReg} {c : CReg} {b : XReg} {l : Loc}

/-- FENCE whose thread's calls have been accepted waits at pod scope only, for the other modules. -/
theorem execFence_accepted (h : s.callsAccepted s.focus.thread = true) :
    exec (.fence sc) s =
      .next (if sc = .pod ∧ (s.drainThread s.focus.thread).podDone (s.drainThread s.focus.thread).focus.thread = false
        then s.drainThread s.focus.thread
        else (s.drainThread s.focus.thread).retire (s.drainThread s.focus.thread).focus.thread) := by
  rw [exec_fence, execFence, release_goes h]
  simp

theorem execFence_unaccepted (h : s.callsAccepted s.focus.thread = false) : exec (.fence sc) s = .next s := by
  rw [exec_fence, execFence, release_waits h]

theorem execLdsc_turn
    (ha : scAccess (s.getC s.focus.thread c) (s.getX s.focus.thread b) false s = (u, .ok l)) :
    exec (.ldsc d c b) s = if s.holdsToken s.focus.thread then
      loadFrom (BitVec.ofNat 64) 8 d (s.getC s.focus.thread c) (s.getX s.focus.thread b) s.countSc else .next s := by
  simp only [exec, execLdsc, ha]

/-- STSC at its turn, with the thread's calls accepted, performs the earlier stores and then its own; else it waits. -/
theorem execStsc_turn
    (ha : scAccess (s.getC s.focus.thread c) (s.getX s.focus.thread b) true s = (u, .ok l)) :
    exec (.stsc d c b) s = if s.holdsToken s.focus.thread && s.callsAccepted s.focus.thread then
      .next (((u.drainThread s.focus.thread).countSc.locWrite
        ⟨((u.drainThread s.focus.thread).countSc.thread s.focus.thread).tenant, .thread s.focus.thread⟩ l
        (leBytes 8 ((u.drainThread s.focus.thread).countSc.getX s.focus.thread d).toNat)).retire s.focus.thread)
      else .next s := by
  simp only [exec, execStsc, ha]

end

/-- Settles O10: FENCE is a release, and LDSC and STSC do at their turn what `execLdsc_turn` and `execStsc_turn` say. -/
theorem fenceAndOrderedAccesses : Obligations.FenceAndOrderedAccesses := by
  intro s sc d c b t cap off f
  refine ⟨fun hc hp => ?_, fun hc hp => ?_, execFence_unaccepted, fun u v l bs ha ht hr => ?_, fun u l ha ht => ?_,
    fun u l ha hw => ?_, fun u l ha ht hc => ?_⟩
  · rw [execFence_accepted hc, if_neg]
    rintro ⟨hsc, hn⟩
    rcases hp with hp | hp
    · exact hp hsc
    · exact Bool.false_ne_true (hn.symm.trans hp)
  · rw [execFence_accepted hc, if_pos ⟨rfl, hp⟩]
  · rw [execLdsc_turn ha, if_pos ht]
    exact loadFrom_reads hr
  · rw [execLdsc_turn ha, if_neg (by rw [ht]; decide)]
  · rw [execStsc_turn ha, if_neg]
    rcases hw with hw | hw
    · simp [show s.holdsToken s.focus.thread = false from hw]
    · simp [show s.callsAccepted s.focus.thread = false from hw]
  · rw [execStsc_turn ha, if_pos (by rw [ht, hc]; rfl)]

/-! ### The capability instructions (R69 to R73) -/

/-- In a remote function an instruction of the control cores is ILLEGAL with its word (R340). -/
theorem onCore_remote {s : State} {r : RemoteId} {i : Instr} {f : CoreId → Res} {w : Nat}
    (hr : s.focus.thread = .remote r) (hw : encode i = some w) :
    onCore i s f = .next (s.trap (.remote r) ⟨.illegal, BitVec.ofNat 64 w⟩) := by
  simp only [onCore, hr, State.illegal, hw, Option.getD_some]

theorem onCore_core {s : State} {k : CoreId} {i : Instr} {f : CoreId → Res} (hk : s.focus.thread = .core k) :
    onCore i s f = f k := by
  simp only [onCore, hk]

section
variable {cap : Cap} {n : CReg}

theorem capTrap_untagged (h : cap.tag = false) : capTrap cap n = some ⟨.tag, BitVec.ofNat 64 n.val⟩ := by
  simp [capTrap, h]

theorem capTrap_sealed (ht : cap.tag = true) (ho : cap.otype ≠ 0) :
    capTrap cap n = some ⟨.perm, BitVec.ofNat 64 n.val⟩ := by
  simp [capTrap, ht, ho]

theorem capTrap_passes (ht : cap.tag = true) (ho : cap.otype = 0) : capTrap cap n = none := by
  simp [capTrap, ht, ho]

end

/-- The permissions that x[b] leaves to CANDP (R72). -/
theorem field_perms (v : Word) : field v.toNat 7 0 = v.toNat % 256 :=
  congrArg (· % 256) (Nat.div_one v.toNat)

/-- The length that x[b] asks CSETB for, and the reserved field beside it (R71). -/
theorem field_length (v : Word) : field v.toNat 39 0 = v.toNat % 2 ^ 40 :=
  congrArg (· % 2 ^ 40) (Nat.div_one v.toNat)

theorem field_reserved (v : Word) : field v.toNat 62 40 = v.toNat / 2 ^ 40 % 2 ^ 23 := rfl

section
variable {cap : Cap} {v : Word}

theorem narrow_bounds (h : v.toNat / 2 ^ 40 % 2 ^ 23 ≠ 0 ∨ cap.length < v.toNat % 2 ^ 40) :
    narrow cap v = .error ⟨.bounds, v⟩ := by
  unfold narrow
  rw [field_length, field_reserved]
  exact if_pos (by simpa using h)

variable (ht : cap.tag = true) (ho : cap.otype = 0) (hr : v.toNat / 2 ^ 40 % 2 ^ 23 = 0)
  (hn : v.toNat % 2 ^ 40 ≤ cap.length)
include ht ho hr hn

/-- Within bounds, bit 63 of x[b] says whether the length is set or the base advances. -/
theorem narrow_shortens (h : v.getLsbD 63 = false) : narrow cap v =
    .ok (Cap.make cap.base cap.space (v.toNat % 2 ^ 40) cap.perms cap.tenant 0 true) := by
  unfold narrow
  rw [field_length, field_reserved, bitAt_toNat, hr, h, if_neg (by simpa using hn), Cap.withRange, ht, ho]
  rfl

theorem narrow_advances (h : v.getLsbD 63 = true) : narrow cap v =
    .ok (Cap.make (cap.base + v.toNat % 2 ^ 40) cap.space (cap.length - v.toNat % 2 ^ 40) cap.perms cap.tenant 0
      true) := by
  unfold narrow
  rw [field_length, field_reserved, bitAt_toNat, hr, h, if_neg (by simpa using hn), Cap.withRange, Cap.withRange, ht, ho]
  rfl

end

section
variable {s : State} {k : CoreId} {cd ca : CReg} {b : XReg} {x : Trap} (hk : s.focus.thread = .core k)
include hk

/-- CSETB and CANDP of a capability that R69 refuses. -/
theorem exec_of_capTrap (h : capTrap (s.getC (.core k) ca) ca = some x) :
    ∀ i ∈ [Instr.csetb cd ca b, .candp cd ca b], exec i s = .next (s.trap (.core k) x) := by
  simp only [List.mem_cons, List.not_mem_nil, or_false]
  rintro i (rfl | rfl)
  · simp only [exec, execCsetb, onCore_core hk, h]
  · simp only [exec, execCandp, onCore_core hk, h]

theorem execCandp_narrows (ht : (s.getC (.core k) ca).tag = true) (ho : (s.getC (.core k) ca).otype = 0) :
    exec (.candp cd ca b) s = .next ((s.setC (.core k) cd (Cap.make (s.getC (.core k) ca).base
      (s.getC (.core k) ca).space (s.getC (.core k) ca).length
      ((s.getC (.core k) ca).perms &&& (s.getX (.core k) b).toNat % 256) (s.getC (.core k) ca).tenant 0 true)).retire
      (.core k)) := by
  simp only [exec, execCandp, onCore_core hk, capTrap_passes ht ho, field_perms, ht, ho]

variable (hc : capTrap (s.getC (.core k) ca) ca = none)
include hc

theorem execCsetb_narrows {cap : Cap} (h : narrow (s.getC (.core k) ca) (s.getX (.core k) b) = .ok cap) :
    exec (.csetb cd ca b) s = .next ((s.setC (.core k) cd cap).retire (.core k)) := by
  simp only [exec, execCsetb, onCore_core hk, hc, h]

theorem execCsetb_refused (h : narrow (s.getC (.core k) ca) (s.getX (.core k) b) = .error x) :
    exec (.csetb cd ca b) s = .next (s.trap (.core k) x) := by
  simp only [exec, execCsetb, onCore_core hk, hc, h]

end

/-- An instruction whose state is that of a trap answers the trap. -/
theorem trapsOn_of_exec {i : Instr} {k : CoreId} {s : State} {x : Trap} (h : exec i s = .next (s.trap (.core k) x)) :
    TrapsOn i k x.cause.code x.tval s :=
  ⟨_, h, rfl⟩

/-- Settles O11: a remote function has none of the four; a control core's are decided by `capTrap` and, for CSETB, by
`narrow`; CLD and CST by what their access answers and the permissions C and G. -/
theorem capabilities : Obligations.Capabilities := by
  refine ⟨⟨?_, ?_⟩, ?_, ?_⟩
  · intro s r cd ca b d f w hr i hi hw
    simp only [List.mem_cons, List.not_mem_nil, or_false] at hi
    rcases hi with rfl | rfl | rfl | rfl <;> exact onCore_remote hr hw
  · intro s k cd ca b d f hk t cap v n put
    refine ⟨onCore_core hk, ?_, fun ht ho => ?_⟩
    · rw [Writes, hk]
      cases f <;> exact onCore_core hk
    · have passes : capTrap cap ca = none := capTrap_passes ht ho
      exact ⟨execCandp_narrows hk ht ho, fun hr hn =>
        ⟨fun h63 => execCsetb_narrows hk passes (narrow_shortens ht ho hr hn h63),
          fun h63 => execCsetb_narrows hk passes (narrow_advances ht ho hr hn h63)⟩⟩
  · intro s u v cd c a i l bs t cap x off hs
    exact ⟨fun ha hr => execCld_reads hs ha hr, fun ha => ⟨execCst_stores hs ha, execCst_denied ha⟩⟩
  · intro s k cd ca b cap v hk i hi
    refine ⟨fun ht => ?_, fun ht ho => ?_, fun ht ho hv => ?_⟩
    · exact trapsOn_of_exec (exec_of_capTrap hk (capTrap_untagged ht) i hi)
    · exact trapsOn_of_exec (exec_of_capTrap hk (capTrap_sealed ht ho) i hi)
    · exact trapsOn_of_exec (execCsetb_refused hk (capTrap_passes ht ho) (narrow_bounds hv))

end Sys2Proof.Machine
end

section
/-!
PROOFS. Fibre instructions: those of a control core (O30), those of a cell with XREQ and RCALL (O25), and the replies and
page walks that answer them (O33).
-/

namespace Sys2Proof.Machine
open Sys2Proof

/-! ### Fields of a word -/

theorem field_from_zero (n hi : Nat) : field n hi 0 = n % 2 ^ (hi + 1) := by
  rw [field, Nat.pow_zero, Nat.div_one, Nat.sub_zero]

theorem field_to_top (w : Word) {lo : Nat} (h : lo ≤ 64) : field w.toNat 63 lo = w.toNat / 2 ^ lo := by
  refine Nat.mod_eq_of_lt (Nat.div_lt_of_lt_mul ?_)
  rw [← Nat.pow_add, Nat.add_sub_cancel' h]
  exact w.isLt

theorem coordOf_eq (w : Word) : coordOf w = w.toNat / 2 ^ 32 := field_to_top w (by decide)

theorem pairOf_eq (w : Word) : pairOf w = (w.toNat / 2 ^ 32, w.toNat % 2 ^ 32) := by
  rw [pairOf, coordOf_eq, field_from_zero]

theorem headOf_eq (w : Word) : headOf w = (w.toNat % 2 ^ 32, w.toNat / 2 ^ 32) := by
  rw [headOf, field_to_top w (by decide), field_from_zero]

/-! ### The checks of R114 -/

section
variable {cap : Cap} {n : Nat} {tenant : BitVec 8} {allowed : Bool}

theorem fibreCapTrap_untagged (ht : cap.tag = false) :
    fibreCapTrap cap n tenant allowed = some ⟨.tag, BitVec.ofNat 64 n⟩ := by
  simp [fibreCapTrap, ht]

theorem fibreCapTrap_refused (ht : cap.tag = true)
    (h : cap.otype ≠ 0 ∨ cap.tenant ≠ tenant ∨ cap.space ≠ .fibre ∨ allowed = false) :
    fibreCapTrap cap n tenant allowed = some ⟨.perm, BitVec.ofNat 64 n⟩ := by
  simp [fibreCapTrap, ht, or_assoc, h]

theorem fibreCapTrap_passes (ht : cap.tag = true) (ho : cap.otype = 0) (hn : cap.tenant = tenant)
    (hs : cap.space = .fibre) (ha : allowed = true) : fibreCapTrap cap n tenant allowed = none := by
  simp [fibreCapTrap, ht, ho, hn, hs, ha]

end

/-! ### Issue by a control core (R110, R114, R115) -/

/-- The request of a thread to the owner of a fibre, as it leaves the thread. -/
def threadRequest (t : ThreadId) (d b : XReg) (n : Nat) (op : FibreOp) (va pa : Nat) (tenant : BitVec 8) (length : Nat) :
    FibreReq :=
  ⟨.thread t d b n, op, va, pa, tenant, length, homeGrotto (localAddr pa), none, 0, false, none, []⟩

/-- A thread's request is on its way, and the thread waits for the reply. -/
def State.sendsRequest (u : State) (t : ThreadId) (q : FibreReq) : Res :=
  .next ({ u with fibreReqs := u.fibreReqs ++ [q] }.setFibreWait t true)

section
variable {s u : State} {k : CoreId} {needs : Cap → Bool} {op : FibreOp} {d b : XReg} {c : CReg} {n : Nat} {p : Phys}
  (hk : s.focus.thread = .core k)
include hk

theorem fibreIssue_refused {head : Option (Nat × Nat)} {x : Trap}
    (hc : fibreCapTrap (s.getC (.core k) c) c.val (s.core k).thread.tenant (needs (s.getC (.core k) c)) = some x) :
    fibreIssue needs op head d c b n s = .next (s.trap (.core k) x) := by
  simp only [fibreIssue, hk, State.thread_core, hc]

variable
  (hc : fibreCapTrap (s.getC (.core k) c) c.val (s.core k).thread.tenant (needs (s.getC (.core k) c)) = none)
include hc

/-- A head row outside the capability, or a head index with something above it. -/
theorem fibreIssue_outside {h hi : Nat} (hout : hi ≠ 0 ∨ (s.getC (.core k) c).length < 64 * h + 64) :
    fibreIssue needs op (some (h, hi)) d c b n s = .next (s.trap (.core k) ⟨.bounds, BitVec.ofNat 64 (64 * h)⟩) := by
  simp only [fibreIssue, hk, State.thread_core, hc]
  rw [if_pos (by simpa using hout)]

variable (hf : p.fill = none)
include hf

/-- FORMAT and NEW name no head: their row is row 0. -/
theorem fibreIssue_sends_first
    (ht : s.translate (ThreadId.core k).cache (s.core k).thread.tenant (s.threadRoot (.core k))
      (s.getC (.core k) c).base false = (u, .ok p)) :
    fibreIssue needs op none d c b n s = u.sendsRequest (.core k) (threadRequest (.core k) d b n op
      (s.getC (.core k) c).base p.pa (s.core k).thread.tenant (s.getC (.core k) c).length) := by
  simp [fibreIssue, hk, hc, ht, hf, State.nonlocal, State.sendsRequest, threadRequest]

theorem fibreIssue_sends {h : Nat} (hin : 64 * h + 64 ≤ (s.getC (.core k) c).length)
    (ht : s.translate (ThreadId.core k).cache (s.core k).thread.tenant (s.threadRoot (.core k))
      ((s.getC (.core k) c).base + 64 * h) false = (u, .ok p)) :
    fibreIssue needs op (some (h, 0)) d c b n s = u.sendsRequest (.core k) (threadRequest (.core k) d b n op
      ((s.getC (.core k) c).base + 64 * h) p.pa (s.core k).thread.tenant (s.getC (.core k) c).length) := by
  simp [fibreIssue, hk, hc, ht, hf, Nat.not_lt.2 hin, State.nonlocal, State.sendsRequest, threadRequest]

end

/-! ### What each instruction issues (R88, R111, R112) -/

/-- The control fibre instructions with these operands. -/
def controlFibre (d a b : XReg) (c : CReg) (n : Fin 4) : List Instr :=
  [.fnew d c a, .ffree d c a, .fmrg d c a b n, .fscan d c a b n, .fprobe d c a b n, .fdel d c a b n, .finfo d c a]

section
variable {s : State} {k : CoreId} {d a b : XReg} {c : CReg} {n : Fin 4} (hk : s.focus.thread = .core k)
include hk

theorem execFnew_format (h : 2 ^ 63 ≤ (s.getX (.core k) a).toNat) :
    exec (.fnew d c a) s = fibreIssue needsMW (.format ((s.getX (.core k) a).toNat == 2 ^ 63)) none d c 0 0 s := by
  have hlt := (s.getX (.core k) a).isLt
  have top : bitAt (s.getX (.core k) a).toNat 63 = true := by rw [bitAt, beq_iff_eq]; omega
  have rest : (field (s.getX (.core k) a).toNat 62 0 == 0) = ((s.getX (.core k) a).toNat == 2 ^ 63) := by
    rw [field_from_zero, Bool.eq_iff_iff, beq_iff_eq, beq_iff_eq]
    omega
  show execFnew d c a s = _
  simp only [execFnew, hk, top, if_true, rest]

theorem execFnew_new (h : (s.getX (.core k) a).toNat < 2 ^ 63) :
    exec (.fnew d c a) s = fibreIssue needsMW (.new ((s.getX (.core k) a).toNat % 16)
      ((s.getX (.core k) a).toNat / 256 % 256)
      ((s.getX (.core k) a).toNat / 16 % 16 == 0 && (s.getX (.core k) a).toNat / 2 ^ 16 == 0)) none d c 0 0 s := by
  have top : bitAt (s.getX (.core k) a).toNat 63 = false := by rw [bitAt, beq_eq_false_iff_ne]; omega
  have reserved : field (s.getX (.core k) a).toNat 62 16 = (s.getX (.core k) a).toNat / 2 ^ 16 :=
    Nat.mod_eq_of_lt (by omega)
  show execFnew d c a s = _
  simp only [execFnew, hk, top, reserved, field_from_zero]
  rfl

theorem exec_ffree : exec (.ffree d c a) s = fibreIssue needsMW .free
    (some ((s.getX (.core k) a).toNat % 2 ^ 32, (s.getX (.core k) a).toNat / 2 ^ 32)) d c 0 0 s := by
  rw [← headOf_eq, ← hk]
  rfl

theorem exec_fmrg : exec (.fmrg d c a b n) s = fibreIssue needsM
    (.merge (((s.thread (.core k)).getFrom b n).map fun w => (w.toNat / 2 ^ 32, w.toNat % 2 ^ 32)))
    (some ((s.getX (.core k) a).toNat % 2 ^ 32, (s.getX (.core k) a).toNat / 2 ^ 32)) d c b n s := by
  rw [← headOf_eq, ← hk, ← funext pairOf_eq]
  rfl

theorem exec_fscan : exec (.fscan d c a b n) s = fibreIssue needsS
    (.scan ((s.getX (.core k) d).toNat % 2 ^ 32) (n.val + 1) ((s.getX (.core k) d).toNat / 2 ^ 62 % 2 == 1))
    (some ((s.getX (.core k) a).toNat % 2 ^ 32, (s.getX (.core k) a).toNat / 2 ^ 32)) d c b n s := by
  rw [← headOf_eq, ← field_from_zero _ 31, ← hk]
  rfl

theorem exec_fprobe : exec (.fprobe d c a b n) s = fibreIssue needsS
    (.probe (((s.thread (.core k)).getFrom b n).map fun w => w.toNat / 2 ^ 32))
    (some ((s.getX (.core k) a).toNat % 2 ^ 32, (s.getX (.core k) a).toNat / 2 ^ 32)) d c b n s := by
  rw [← headOf_eq, ← hk, ← funext coordOf_eq]
  rfl

theorem exec_fdel : exec (.fdel d c a b n) s = fibreIssue needsM
    (.delete (((s.thread (.core k)).getFrom b n).map fun w => w.toNat / 2 ^ 32))
    (some ((s.getX (.core k) a).toNat % 2 ^ 32, (s.getX (.core k) a).toNat / 2 ^ 32)) d c b n s := by
  rw [← headOf_eq, ← hk, ← funext coordOf_eq]
  rfl

theorem exec_finfo : exec (.finfo d c a) s = fibreIssue needsS (.info (field (s.getX (.core k) a).toNat 34 32))
    (some ((s.getX (.core k) a).toNat % 2 ^ 32, (s.getX (.core k) a).toNat / 2 ^ 35)) d c 0 0 s := by
  rw [← field_to_top _ (by decide), ← field_from_zero _ 31, ← hk]
  rfl

/-- Each of them issues; with neither M nor S none of them may (R88). -/
theorem exec_controlFibre : ∀ i ∈ controlFibre d a b c n, ∃ needs op head b' n',
    (∀ cap : Cap, cap.pM = false → cap.pS = false → needs cap = false) ∧
      exec i s = fibreIssue needs op head d c b' n' s := by
  have noMW (cap : Cap) (hm : cap.pM = false) (_ : cap.pS = false) : needsMW cap = false := by simp [needsMW, hm]
  have noM (cap : Cap) (hm : cap.pM = false) (_ : cap.pS = false) : needsM cap = false := hm
  have noS (cap : Cap) (_ : cap.pM = false) (hs : cap.pS = false) : needsS cap = false := hs
  simp only [controlFibre, List.mem_cons, List.not_mem_nil, or_false]
  rintro i (rfl | rfl | rfl | rfl | rfl | rfl | rfl)
  · rcases Nat.lt_or_ge (s.getX (.core k) a).toNat (2 ^ 63) with h | h
    · exact ⟨_, _, _, _, _, noMW, execFnew_new hk h⟩
    · exact ⟨_, _, _, _, _, noMW, execFnew_format hk h⟩
  · exact ⟨_, _, _, _, _, noMW, exec_ffree hk⟩
  · exact ⟨_, _, _, _, _, noM, exec_fmrg hk⟩
  · exact ⟨_, _, _, _, _, noS, exec_fscan hk⟩
  · exact ⟨_, _, _, _, _, noS, exec_fprobe hk⟩
  · exact ⟨_, _, _, _, _, noM, exec_fdel hk⟩
  · exact ⟨_, _, _, _, _, noS, exec_finfo hk⟩

/-- All but FNEW name a head row in x[a], with a selector above it in FINFO alone (R111). -/
theorem exec_controlFibre_head : ∀ i ∈ (controlFibre d a b c n).tail, ∃ needs op hi b' n',
    (∀ cap : Cap, cap.pM = true → cap.pW = true → cap.pS = true → needs cap = true) ∧
      (2 ^ 35 ≤ (s.getX (.core k) a).toNat ∨ (2 ^ 32 ≤ (s.getX (.core k) a).toNat ∧ i ≠ .finfo d c a) → hi ≠ 0) ∧
      exec i s = fibreIssue needs op (some ((s.getX (.core k) a).toNat % 2 ^ 32, hi)) d c b' n' s := by
  have withMW (cap : Cap) (hm : cap.pM = true) (hw : cap.pW = true) (_ : cap.pS = true) : needsMW cap = true := by
    simp [needsMW, hm, hw]
  have withM (cap : Cap) (hm : cap.pM = true) (_ : cap.pW = true) (_ : cap.pS = true) : needsM cap = true := hm
  have withS (cap : Cap) (_ : cap.pM = true) (_ : cap.pW = true) (hs : cap.pS = true) : needsS cap = true := hs
  have above (i : Instr)
      (h : 2 ^ 35 ≤ (s.getX (.core k) a).toNat ∨ (2 ^ 32 ≤ (s.getX (.core k) a).toNat ∧ i ≠ .finfo d c a)) :
      (s.getX (.core k) a).toNat / 2 ^ 32 ≠ 0 := by
    omega
  simp only [controlFibre, List.tail_cons, List.mem_cons, List.not_mem_nil, or_false]
  rintro i (rfl | rfl | rfl | rfl | rfl | rfl)
  · exact ⟨_, _, _, _, _, withMW, above _, exec_ffree hk⟩
  · exact ⟨_, _, _, _, _, withM, above _, exec_fmrg hk⟩
  · exact ⟨_, _, _, _, _, withS, above _, exec_fscan hk⟩
  · exact ⟨_, _, _, _, _, withS, above _, exec_fprobe hk⟩
  · exact ⟨_, _, _, _, _, withM, above _, exec_fdel hk⟩
  · refine ⟨_, _, _, _, _, withS, fun h => ?_, exec_finfo hk⟩
    rcases h with h | ⟨_, h⟩
    · omega
    · exact absurd rfl h

end

/-- Settles O30: every control fibre instruction is one `fibreIssue` of its operation; the checks in their order decide
between its traps and its request. -/
theorem controlFibreIssue : Obligations.FibreIssue := by
  intro s u k d a b c n p t th cap xa xd h off here mine sent regs coord all hk
  have passes {needs : Cap → Bool} (hm : mine) (hp : needs cap = true) :
      fibreCapTrap cap c.val th.tenant (needs cap) = none := by
    obtain ⟨tagged, unsealed, own, fibre⟩ := hm
    exact fibreCapTrap_passes tagged unsealed own fibre hp
  have registers {α : Type} (f : Word → α) : ((s.thread (.core k)).getFrom b n).map f = regs f := by
    rw [Thread.getFrom, List.map_map]
    rfl
  refine ⟨?_, ?_, ?_, ?_, ?_⟩
  · rintro hm ⟨ht, hf, -⟩ hM hW
    have needs : needsMW cap = true := by simp [needsMW, hM, hW]
    exact ⟨fun hx => (execFnew_format hk hx).trans (fibreIssue_sends_first hk (passes hm needs) hf ht),
      fun hx => (execFnew_new hk hx).trans (fibreIssue_sends_first hk (passes hm needs) hf ht)⟩
  · rintro hm ⟨ht, hf, -⟩ hin
    have sends {needs : Cap → Bool} (hp : needs cap = true) {hi : Nat} (h0 : hi = 0) (op : FibreOp) (b' : XReg)
        (n' : Nat) : fibreIssue needs op (some (h, hi)) d c b' n' s = sent op off b' n' := by
      rw [h0]
      exact fibreIssue_sends hk (passes hm hp) hf hin ht
    refine ⟨fun hx => ?_, fun hx hS => ?_⟩
    · have noHigh : xa / 2 ^ 32 = 0 := Nat.div_eq_of_lt hx
      refine ⟨fun hM hW => ?_, fun hM => ?_, fun hS => ?_, fun hS => ?_, fun hM => ?_⟩
      · exact (exec_ffree hk).trans (sends (by simp [needsMW, hM, hW]) noHigh ..)
      · rw [exec_fmrg hk, registers]
        exact sends hM noHigh ..
      · exact (exec_fscan hk).trans (sends hS noHigh ..)
      · rw [exec_fprobe hk, registers]
        exact sends hS noHigh ..
      · rw [exec_fdel hk, registers]
        exact sends hM noHigh ..
    · have selector : field xa 34 32 = xa / 2 ^ 32 := Nat.mod_eq_of_lt (by omega)
      rw [← selector]
      exact (exec_finfo hk).trans (sends hS (Nat.div_eq_of_lt hx) ..)
  · intro i hi ht
    obtain ⟨needs, op, head, b', n', -, issues⟩ := exec_controlFibre hk i hi
    exact trapsOn_of_exec (issues.trans (fibreIssue_refused hk (fibreCapTrap_untagged ht)))
  · intro i hi ht hbad
    obtain ⟨needs, op, head, b', n', denied, issues⟩ := exec_controlFibre hk i hi
    refine trapsOn_of_exec (issues.trans (fibreIssue_refused hk (fibreCapTrap_refused ht ?_)))
    exact hbad.imp_right (Or.imp_right (Or.imp_right fun ⟨hM, hS⟩ => denied cap hM hS))
  · intro i hi hm hM hW hS hout
    obtain ⟨needs, op, hi', b', n', allowed, high, issues⟩ := exec_controlFibre_head hk i hi
    refine trapsOn_of_exec (issues.trans (fibreIssue_outside hk (passes hm (allowed cap hM hW hS)) ?_))
    rcases hout with h35 | h32 | hl
    · exact .inl (high (.inl h35))
    · exact .inl (high (.inr h32))
    · exact .inr hl

/-! ### What a cell's instruction holds to the commit (R149, R154) -/

/-- A body that is done leaves the machine as it says, and in its cell what it has made of the running block. -/
theorem leaves_of_done {ins : Instr} {body : Ctx → State → Fired} {s t : State} {x : Ctx} {j : Instance}
    (hi : exec ins s = fireCell ins body s) (hf : Fires ins s x) (hb : body x s = .done t j) : Leaves ins s x t j := by
  rw [Leaves, hi, fire_compute hf, hb]
  rfl

theorem countOutput_room {b : Block} {i : Instance} (h : i.outputs < b.outputs) (slot : Nat) :
    countOutput b slot i = .ok i.output := by
  rw [countOutput, if_neg (Nat.not_lt.2 h)]
  rfl

/-! ### The fibre forms of a cell (R116 to R118) -/

/-- A cell's fibre form goes on with the head row's physical address in the state u that its translation leaves, where the
checks of c[m] pass and the translation is cached (R114, R118). -/
theorem cellFibre_goes {s u : State} {x : Ctx} {needs : Cap → Bool} {m : Fin 16} {p : Phys}
    (go : Ctx → Cap → Nat → State → Fired)
    (hc : fibreCapTrap (s.cell x.c).c[m] m.val x.pl.x.tenant (needs (s.cell x.c).c[m]) = none)
    (hl : 64 ≤ (s.cell x.c).c[m].length) (hb : (s.cell x.c).c[m].base < 2 ^ 48)
    (he : ∃ e, s.cached (.memCell x.c.server) x.pl.x.tenant (s.cell x.c).c[m].base = some e)
    (ht : s.translate (.memCell x.c.server) x.pl.x.tenant (s.rootOf x.pl.x.tenant) (s.cell x.c).c[m].base false =
      (u, .ok p))
    (hf : p.fill = none) : cellFibre needs m go x s = go x (s.cell x.c).c[m] p.pa u := by
  obtain ⟨e, he⟩ := he
  simp only [cellFibre, hc, if_neg (Nat.not_lt.2 hl), Nat.div_eq_of_lt hb, he, ht, hf]
  rfl

section
variable {s : State} {x : Ctx} (hroom : x.inst.outputs < x.blk.outputs)
include hroom

/-- A posted form is held to the commit (R149). -/
theorem postFibre_holds (op : FibreOp) (cap : Cap) (pa : Nat) : postFibre op x cap pa s =
    .done s ((x.holding x.slot (.fibre x.slot op cap.base pa cap.length x.after)).output.mark x.slot .done) := by
  simp only [postFibre, countOutput_room hroom]
  rfl

/-! ### XREQ and RCALL of a cell (R189, R337) -/

variable {f : C3}

theorem execXreq_holds (hfire : Fires (.xreq f) s x) (hok : xreqFieldsOk x.l = true)
    (hs : (s.cell x.c).c[f.m].space ≠ .scratch)
    (hc : cellCapCause (s.cell x.c).c[f.m] (if (x.l.at 0).toNat == 0 then .read else .write) false x.pl.x.tenant = none)
    (hfar : (x.l.at 1).toNat + (x.l.at 3).toNat ≤ (s.cell x.c).c[f.m].length)
    (hnear : (x.l.at 2).toNat + (x.l.at 3).toNat ≤ 131072) :
    Leaves (.xreq f) s x s ((x.holding x.slot (.xfer x.slot ((x.l.at 0).toNat == 0) (s.cell x.c).c[f.m]
      (x.l.at 1).toNat (x.l.at 2).toNat (x.l.at 3).toNat (x.l.at 4) x.after)).output.mark x.slot .done) := by
  refine leaves_of_done (rfl : execXreq f s = fireCell (.xreq f) _ s) hfire ?_
  simp only [hok, hc, beq_eq_false_iff_ne.2 hs, decide_eq_false (Nat.not_lt.2 hfar),
    decide_eq_false (Nat.not_lt.2 hnear), countOutput_room hroom]
  rfl

theorem execCellRcall_holds (hfire : Fires (.cellRcall f) s x) (ht : (s.cell x.c).c[f.m].tag = true)
    (ho : (s.cell x.c).c[f.m].otype = 0) (hn : (s.cell x.c).c[f.m].tenant = x.pl.x.tenant)
    (hs : (s.cell x.c).c[f.m].space ≠ .sys) (h0 : x.l.ok 0 = true) (h1 : x.l.ok 1 = true)
    (hp : payloadOk x.l ((x.l.at 1).toNat / 2 % 4 + 1) = true) :
    Leaves (.cellRcall f) s x s ((x.holding x.slot (.call x.slot ((x.l.at 0).toNat % 2 ^ 12)
      (Vector.ofFn fun j : Fin 4 => payloadOf x.l ((x.l.at 1).toNat / 2 % 4 + 1) j.val) (bitAt (x.l.at 1).toNat 0)
      (s.cell x.c).c[f.m] x.after)).output.mark x.slot .done) := by
  refine leaves_of_done (rfl : execCellRcall f s = fireCell (.cellRcall f) _ s) hfire ?_
  have count : field (x.l.at 1).toNat 2 1 = (x.l.at 1).toNat / 2 % 4 := rfl
  simp only [count, field_from_zero, ht, ho, hn, beq_eq_false_iff_ne.2 hs, h0, h1, hp, countOutput_room hroom,
    bne_self_eq_false]
  rfl

end

/-- Settles O25: each body is done once its checks have passed, and what it holds has counted its output. -/
theorem cellRequests : Obligations.CellRequests := by
  constructor
  · intro s u x f p cap cache passes posted
    refine ⟨fun hroom => ⟨?_, ?_⟩, ?_⟩
    · rintro hfire ⟨hc, hl, hb, he, ht, hf⟩
      exact leaves_of_done rfl hfire ((cellFibre_goes _ hc hl hb he ht hf).trans (postFibre_holds hroom ..))
    · rintro hfire ⟨hc, hl, hb, he, ht, hf⟩
      exact leaves_of_done rfl hfire ((cellFibre_goes _ hc hl hb he ht hf).trans (postFibre_holds hroom ..))
    · rintro hfire ⟨hc, hl, hb, he, ht, hf⟩ lanes w
      exact leaves_of_done rfl hfire (cellFibre_goes _ hc hl hb he ht hf)
  · intro s x f cap e count hroom
    refine ⟨fun hfire hok hs hc => ?_, execCellRcall_holds hroom⟩
    exact execXreq_holds hroom hfire hok hs (by simpa only [beq_iff_eq] using hc)

/-! ### When a reply may leave its owner (R105, R119) -/

/-- Reply j has left its owner. -/
def State.dropReply (s : State) (j : Nat) : State := { s with replies := dropNth s.replies j }

section
variable {s : State} {r : FibreReply}

theorem State.replyReady_of_ended (h : ∀ q ∈ s.fibreReqs, q.reserved ≠ some r) : s.replyReady r = true := by
  simpa [State.replyReady] using h

theorem State.replyReady_of_reserved (h : ∃ q ∈ s.fibreReqs, q.reserved = some r) : s.replyReady r = false := by
  simpa [State.replyReady] using h

end

/-! ### What the reply to a control instruction writes (R110, R113) -/

section
variable {r : FibreReply} {n : Nat}

theorem FibreReply.pairWords_scan {a m : Nat} {x : Bool} (h : r.op = .scan a m x) :
    r.pairWords n = (List.range (n + 1)).map fun i => r.pairs[i]?.elim noPair pairWord := by
  simp only [FibreReply.pairWords, h]
  refine List.map_congr_left fun i _ => ?_
  cases r.pairs[i]? <;> rfl

theorem FibreReply.pairWords_probe {cs : List Nat} (h : r.op = .probe cs) :
    r.pairWords n = (List.range (n + 1)).map fun i =>
      ((r.found.getD i none).map fun v => (cs.getD i 0, v)).elim noPair pairWord := by
  simp only [FibreReply.pairWords, h]
  refine List.map_congr_left fun i _ => ?_
  cases r.found.getD i none <;> rfl

variable {t : Thread} {d b : XReg}

theorem Thread.takeReply_result
    (h : (∃ o, r.op = .format o) ∨ (∃ c f o, r.op = .new c f o) ∨ ∃ x, r.op = .info x) :
    t.takeReply r d b n = t.set d r.result := by
  rcases h with ⟨_, h⟩ | ⟨_, _, _, h⟩ | ⟨_, h⟩ <;> simp only [Thread.takeReply, h]

theorem Thread.takeReply_cost (h : r.op = .free ∨ (∃ l, r.op = .merge l) ∨ ∃ l, r.op = .delete l) :
    t.takeReply r d b n = t.set d r.cost := by
  rcases h with h | ⟨_, h⟩ | ⟨_, h⟩ <;> simp only [Thread.takeReply, h]

theorem Thread.takeReply_scan {a m : Nat} {x : Bool} (h : r.op = .scan a m x) :
    t.takeReply r d b n = (t.set d (BitVec.ofNat 64 (r.cursor % 2 ^ 32 + r.pairs.length * 2 ^ 32 +
      r.endFlag.toNat * 2 ^ 40))).setFrom b (r.pairWords n ++ [r.cost]) := by
  simp only [Thread.takeReply, h]

theorem Thread.takeReply_probe {cs : List Nat} (h : r.op = .probe cs) :
    t.takeReply r d b n = (t.set d r.cost).setFrom b (r.pairWords n) := by
  simp only [Thread.takeReply, h]

end

/-- The reply to a control core's instruction writes its registers, and the instruction retires. -/
theorem execFibreReply_writes {s : State} {j : Nat} {r : FibreReply} {k : CoreId} {d b : XReg} {n : Nat}
    (hr : s.replies[j]? = some r) (ha : r.agent = .thread (.core k) d b n) (hw : (s.core k).fibre = true)
    (hq : ∀ q ∈ s.fibreReqs, q.reserved ≠ some r) :
    exec (.fibreReply j) s = .next ((((s.dropReply j).setCore k
      { s.core k with fibre := false }).setThread (.core k) ((s.core k).thread.takeReply r d b n)).retire (.core k)) := by
  have waits : ({ s with replies := dropNth s.replies j } : State).fibreWaits (.core k) = true := hw
  show execFibreReply j s = _
  simp only [execFibreReply, hr, ha, State.replyReady_of_ended hq, waits, State.setFibreWait, State.thread_core,
    State.core_setCore_same]
  rfl

/-! ### Tokens that arrive at a port without routes (R159, R160) -/

section
variable (s : State) (c : CellId) (port : Fin 8) (ts : List Token)

theorem State.putPort_program (d : CellId) : ((s.putPort c port ts).cell d).program = (s.cell d).program := by
  have put : (s.putPort c port ts).cell d =
      (s.setCell c { s.cell c with ports := (s.cell c).ports.set port ((s.cell c).ports[port] ++ ts) }).cell d := by
    unfold State.putPort
    dsimp only
    split <;> rfl
  rw [put]
  by_cases h : d = c
  · rw [h, State.cell_setCell_same]
  · rw [State.cell_setCell_other _ _ h]

theorem State.putPort_retired : (s.putPort c port ts).retired = s.retired := by
  unfold State.putPort
  dsimp only
  split <;> rfl

theorem State.inRoutes_putPort (d : CellId) (q : Fin 8) : (s.putPort c port ts).inRoutes d q = s.inRoutes d q := by
  have retired : (s.putPort c port ts).isRetired d = s.isRetired d :=
    congrArg (List.contains · d) (s.putPort_retired c port ts)
  rw [State.inRoutes, retired, State.putPort_program, State.inRoutes]

/-- Without routes each token is put behind the port's last one. -/
theorem State.arrive_unrouted (h : s.inRoutes c port = []) :
    s.arrive c port ts = some (ts.foldl (fun s t => s.putPort c port [t]) s) := by
  induction ts generalizing s with
  | nil => rfl
  | cons t ts ih =>
    have put : (s.putPort c port [t]).arrive c port ts =
        some (ts.foldl (fun s t => s.putPort c port [t]) (s.putPort c port [t])) :=
      ih _ (by rw [State.inRoutes_putPort, h])
    unfold State.arrive
    cases s.switchPlace c with
    | none => exact put
    | some pl =>
      simp only [h, List.isEmpty_nil, if_true]
      exact put

theorem State.admits_unrouted (h : s.inRoutes c port = []) (n : Nat) : s.admits c port n = s.portRoom c port n := by
  simp [State.admits, h]

theorem State.admits_routed (h : s.inRoutes c port ≠ []) (n : Nat) : s.admits c port n = true := by
  simp [State.admits, h]

end

/-! ### The reply to a posted form (R119, R226) -/

section
variable {s : State} {j : Nat} {r : FibreReply} {c : CellId} {v : VpId} {block slot inst : Nat} {lanes : List Nat}
  (hr : s.replies[j]? = some r) (ha : r.agent = .cell c v block slot inst lanes)
include hr ha

section
variable (hop : ∀ cs, r.op ≠ .probe cs)
include hop

/-- What the step of a posted form's reply decides, in its order. -/
theorem execFibrePostedReply_eq : exec (.fibrePostedReply j) s =
    if s.hosted v c = false then
      .next ((s.dropReply j).dropOrphan v (c.src 0 0))
    else if s.replyReady r = false ∨ (∃ q ∈ s.replies.take j, q.sameStream r = true) then .next s
    else if s.admits c 6 (r.postedTokens slot block).length then
      .next (((s.dropReply j).arrive c 6 (r.postedTokens slot block)).getD s)
    else .next s := by
  show execFibrePostedReply j s = _
  simp only [execFibrePostedReply, hr, ha]
  cases e : r.op with
  | probe cs => exact absurd e (hop cs)
  | _ => simp [State.dropReply]

theorem execFibrePostedReply_orphan (hh : s.hosted v c = false) : exec (.fibrePostedReply j) s =
    .next ((s.dropReply j).dropOrphan v (c.src 0 0)) := by
  rw [execFibrePostedReply_eq hr ha hop, if_pos hh]

variable (hh : s.hosted v c = true)
include hh

theorem execFibrePostedReply_waits (hw : s.replyReady r = false ∨ (∃ q ∈ s.replies.take j, q.sameStream r = true) ∨
    s.admits c 6 (r.postedTokens slot block).length = false) : exec (.fibrePostedReply j) s = .next s := by
  rw [execFibrePostedReply_eq hr ha hop, if_neg (by simp [hh])]
  rcases hw with hw | hw | hw
  · rw [if_pos (.inl hw)]
  · rw [if_pos (.inr hw)]
  · rw [hw]
    exact ite_self _

theorem execFibrePostedReply_arrives (hq : s.replyReady r = true) (hs : ∀ q ∈ s.replies.take j, q.sameStream r = false)
    (hm : s.admits c 6 (r.postedTokens slot block).length = true) : exec (.fibrePostedReply j) s =
      .next (((s.dropReply j).arrive c 6 (r.postedTokens slot block)).getD s) := by
  have free : ¬(s.replyReady r = false ∨ ∃ q ∈ s.replies.take j, q.sameStream r = true) := by
    simpa [hq] using hs
  rw [execFibrePostedReply_eq hr ha hop, if_neg (by simp [hh]), if_neg free, if_pos hm]

end

/-! ### The reply to a probe (R120, R132, R226) -/

section
variable {cs : List Nat} (hop : r.op = .probe cs)
include hop

theorem execFprobeReply_orphan (hh : s.hosted v c = false) : exec (.fprobeReply j) s =
    .next ((s.dropReply j).dropOrphan v (c.src 0 0)) := by
  show execFprobeReply j s = _
  simp only [execFprobeReply, hr, ha, hop, hh]
  rfl

variable {m : Nat} {q : CellReq} (hh : s.hosted v c = true) (ho : oldestOf c (s.memQueue c.server) 0 = some (m, q))
include hh ho

theorem execFprobeReply_waits (hw : q.probeOf v slot inst = false ∨ (s.cell c).holdsReply = true) :
    exec (.fprobeReply j) s = .next s := by
  show execFprobeReply j s = _
  simp only [execFprobeReply, hr, ha, hop, hh, ho, Bool.not_true, Bool.false_eq_true, if_false]
  exact if_pos (by simpa using hw)

/-- A probe whose turn it is leaves its memory cell's queue, and its results go to its slot; a failed one is reported. -/
theorem execFprobeReply_delivers (hp : q.probeOf v slot inst = true) (hn : (s.cell c).holdsReply = false) {pl : Place}
    (hpl : s.place c = some pl) :
    let gone := (s.dropReply j).setMemQueue c.server
      (dropNth (s.memQueue c.server) m)
    exec (.fprobeReply j) s =
      .next ((if (r.probeTokens lanes).2.k = .err then gone.itemFailed v pl.wave c slot 0 r.status else gone).deliverResult
        v c inst slot (r.probeTokens lanes).1 (r.probeTokens lanes).2) := by
  have place : (({ s with replies := dropNth s.replies j } : State).setMemQueue c.server
      (dropNth (s.memQueue c.server) m)).place c = some pl := hpl
  show execFprobeReply j s = _
  simp only [execFprobeReply, hr, ha, hop, hh, ho, hp, hn, place]
  rfl

end
end

theorem FibreReply.probeTokens_failed {r : FibreReply} (h : r.status = .badDesc ∨ r.status = .eccDropped)
    (lanes : List Nat) :
    r.probeTokens lanes = (Token.ofList .data 0 [], Token.ofList .err 0x0001 [r.status.code]) := by
  rw [FibreReply.probeTokens, if_pos h]

/-- What a lane's probe has found: the results stand in the order of the lanes that asked. -/
def FibreReply.foundAt (r : FibreReply) (lanes : List Nat) (i : Nat) : Option Nat :=
  match lanes.findIdx? (· == i) with
  | none => none
  | some n => r.found.getD n none

theorem FibreReply.probeTokens_found {r : FibreReply} (h : ¬(r.status = .badDesc ∨ r.status = .eccDropped))
    (lanes : List Nat) : r.probeTokens lanes =
      (Token.lanes .data (fun i => (r.foundAt lanes i).isSome) fun i => BitVec.ofNat 32 ((r.foundAt lanes i).getD 0),
        Token.ofList .ord 0x0007 [r.status.code, r.cost.toNat % 2 ^ 32, r.cost.toNat / 2 ^ 32]) := by
  rw [FibreReply.probeTokens, if_neg h]
  rfl

/-! ### Page walks of parked accesses (R376, R379 to R382) -/

section
variable {s u : State} {m : Nat} {p : Parked} (hp : s.parked[m]? = some p)
include hp

theorem execPageWalk_waits (hw : s.walkerFree p m = false) : exec (.pageWalk m) s = .next s := by
  show execPageWalk m s = _
  simp only [execPageWalk, hp, hw]
  rfl

variable (hw : s.walkerFree p m = true)
include hw

theorem execPageWalk_fills {ph : Phys} (h : s.parkedWalk m p = (u, .ok ph)) : exec (.pageWalk m) s = .next u := by
  show execPageWalk m s = _
  simp only [execPageWalk, hp, hw, h]
  rfl

variable {cause : Cause} (h : s.parkedWalk m p = (u, .error cause))
include h

/-- Another unit meets the failure of its walk itself. -/
theorem execPageWalk_unit {root : Nat} (hu : p.waiter = .unit root) : exec (.pageWalk m) s = .next u := by
  show execPageWalk m s = _
  simp only [execPageWalk, hp, hw, h, hu]
  rfl

theorem execPageWalk_faults {d : CellId} {slot lane : Nat} {i : Instance} {v : VpId}
    (hc : p.waiter = .cell d slot lane i.num) (hi : (u.cell d).inst = some i) (hv : (u.row d.rowId).host = some v) :
    exec (.pageWalk m) s = .next (u.raiseCell v d ⟨cause, slot, lane, p.va, 0⟩ 0) := by
  show execPageWalk m s = _
  simp only [execPageWalk, hp, hw, h, hc, hi, hv, if_true]
  rfl

end

/-- Settles O33: a control instruction's reply by the registers that `takeReply` writes for its operation; a posted
form's and a probe's by the order of their checks; a parked access by what its walk answers. -/
theorem fibreReplies : Obligations.FibreReplies := by
  constructor
  · intro s j k r d b n u th done pair words hr ha hw hq
    have writes {t : Thread} (ht : th.takeReply r d b n = t) : exec (.fibreReply j) s = done t :=
      ht ▸ execFibreReply_writes hr ha hw hq
    have pairs (f : Nat → Option (Nat × Nat)) :
        (List.range (n + 1)).map (fun i => (f i).elim noPair pairWord) = words f := by
      refine List.map_congr_left fun i _ => ?_
      cases f i <;> rfl
    refine ⟨fun h => writes (Thread.takeReply_result h), fun h => writes (Thread.takeReply_cost h), fun c m x h => ?_,
      fun cs h => ?_, rfl⟩
    · rw [← pairs, ← FibreReply.pairWords_scan h]
      refine writes ((Thread.takeReply_scan h).trans ?_)
      cases r.endFlag <;> rfl
    · rw [← pairs, ← FibreReply.pairWords_probe h]
      exact writes (Thread.takeReply_probe h)
  · intro s u j r c v block slot inst lanes out lo hi head on hr ha
    refine ⟨fun ts hts => ?_, fun cs pl m q hop hpl hh ho => ?_, fun cs hop hh => ?_, fun m p cause ph i hp hw => ?_,
      fun m p hp hw => ?_⟩
    · have posted : r.postedTokens slot block = ts := by
        rcases hts with ⟨⟨l, hop⟩, rfl⟩ | ⟨⟨a, n, x, hop⟩, rfl⟩ <;> rw [FibreReply.postedTokens, hop] <;> rfl
      have hop : ∀ cs, r.op ≠ .probe cs := by
        rintro cs hprobe
        rcases hts with ⟨⟨l, hop⟩, -⟩ | ⟨⟨a, n, x, hop⟩, -⟩ <;> rw [hop] at hprobe <;> cases hprobe
      rw [← posted]
      refine ⟨fun hh hs hq => ⟨fun h0 hroom => ?_, fun h0 => ?_⟩, fun hh hw => ?_,
        execFibrePostedReply_orphan hr ha hop⟩
      · rw [execFibrePostedReply_arrives hr ha hop hh (State.replyReady_of_ended hq) hs
          (by rw [State.admits_unrouted _ _ _ h0, hroom]), State.arrive_unrouted _ _ _ _ (by exact h0)]
        rfl
      · exact execFibrePostedReply_arrives hr ha hop hh (State.replyReady_of_ended hq) hs
          (State.admits_routed _ _ _ h0 _)
      · refine execFibrePostedReply_waits hr ha hop hh ?_
        rcases hw with hw | hw | ⟨h0, hroom⟩
        · exact .inr (.inl hw)
        · exact .inl (State.replyReady_of_reserved hw)
        · exact .inr (.inr (by rw [State.admits_unrouted _ _ _ h0, hroom]))
    · intro gone
      refine ⟨execFprobeReply_waits hr ha hop hh ho, fun hp hn hb he => ?_, fun hp hn hst => ?_⟩
      · rw [execFprobeReply_delivers hr ha hop hh ho hp hn hpl,
          FibreReply.probeTokens_found (not_or.2 ⟨hb, he⟩)]
        rfl
      · rw [execFprobeReply_delivers hr ha hop hh ho hp hn hpl, FibreReply.probeTokens_failed hst]
        rfl
    · exact execFprobeReply_orphan hr ha hop hh
    · exact ⟨execPageWalk_fills hp hw, fun h => ⟨fun d slot lane => execPageWalk_faults hp hw h,
        fun root => execPageWalk_unit hp hw h⟩⟩
    · exact execPageWalk_waits hp hw

end Sys2Proof.Machine
end

section
/-!
PROOFS. Cell instructions: the integer and immediate groups (O20), and the block and dataflow group with MARK and JOINP
(O18).
-/

namespace Sys2Proof.Machine
open Sys2Proof

/-! ### Subwords (R35, R167, R173) -/

theorem subWidth_eq (m : Fin 16) : subWidth m = if m.val % 4 = 1 then 16 else if m.val % 4 = 2 then 8 else 32 := by
  revert m
  decide

theorem mUns_iff (f : C3) : mUns f = true ↔ f.m.val / 4 % 2 = 1 := beq_iff_eq

theorem mSat_iff (f : C3) : mSat f = true ↔ f.m.val / 8 % 2 = 1 := beq_iff_eq

/-- How an instruction with `.u` in m[2] reads a subword. -/
theorem readSub_mUns (f : C3) (w a : Nat) :
    readSub (mUns f) w a = if f.m.val / 4 % 2 = 1 then (a : Int) else signed a w := by
  simp only [readSub, mUns_iff]

theorem intAdd_mSat (f : C3) (w a b : Nat) : intAdd (mSat f) w a b =
    if f.m.val / 8 % 2 = 1 then clampTo w (signed a w + signed b w) else (a + b) % 2 ^ w := by
  simp only [intAdd, mSat_iff]

theorem intSub_mSat (f : C3) (w a b : Nat) : intSub (mSat f) w a b =
    if f.m.val / 8 % 2 = 1 then clampTo w (signed a w - signed b w) else wrap ((a : Int) - b) w := by
  simp only [intSub, mSat_iff]

section
variable {i : Instr} {f : C3} {w : Nat} (hw : subWidth f.m = w)
include hw

/-- A two-operand instruction has the result that its operation gives of each pair of subwords. -/
theorem result_of_fireInt2 {op : Nat → Nat → Nat → Nat} {g : Nat → Nat → Nat} (hi : ∀ s, exec i s = fireInt2 i f op s)
    (hg : ∀ a b, op w a b = g a b) : Result i fun x => lanes2 (bySubs w g) x.l x.r := by
  subst hw
  obtain rfl : op (subWidth f.m) = g := funext fun a => funext (hg a)
  exact results_of hi

theorem result_of_fireInt1 {op : Nat → Nat → Nat} (hi : ∀ s, exec i s = fireInt1 i f op s) :
    Result i fun x => lanes1 (fun a => bySubs w (fun u _ => op w u) a a) x.l := by
  subst hw
  exact results_of hi

end

/-- Settles O20: each instruction of the integer group is `fireInt2` or `fireInt1` of its operation, whose `.u` and
`.sat` are bits of m; the immediate group is `fireImm`. -/
theorem cellIntegers : Obligations.CellIntegers := by
  constructor
  · intro f w uns sat val by2 by1
    have hw : subWidth f.m = w := subWidth_eq f.m
    have hval (a : Nat) : readSub (mUns f) w a = val a := readSub_mUns f w a
    have int2 {i : Instr} {op : Nat → Nat → Nat → Nat} {g : Nat → Nat → Nat} (hi : ∀ s, exec i s = fireInt2 i f op s)
        (hg : ∀ a b, op w a b = g a b) : by2 i g := result_of_fireInt2 hw hi hg
    have int1 {i : Instr} {op : Nat → Nat → Nat} (hi : ∀ s, exec i s = fireInt1 i f op s) : by1 i (op w) :=
      result_of_fireInt1 hw hi
    clear_value w
    refine ⟨int2 (fun _ => rfl) (intAdd_mSat f w), int2 (fun _ => rfl) (intSub_mSat f w),
      int2 (op := intMul) (fun _ => rfl) fun _ _ => rfl, int2 (fun _ => rfl) fun a b => ?mulh,
      int2 (fun _ => rfl) fun a b => ?min, int2 (fun _ => rfl) fun a b => ?max,
      int2 (op := fun _ a b => a &&& b) (fun _ => rfl) fun _ _ => rfl,
      int2 (op := fun _ a b => a ||| b) (fun _ => rfl) fun _ _ => rfl,
      int2 (op := fun _ a b => a ^^^ b) (fun _ => rfl) fun _ _ => rfl,
      int2 (op := intShl) (fun _ => rfl) fun _ _ => rfl, int2 (fun _ => rfl) fun a b => ?shr,
      int2 (op := intSar) (fun _ => rfl) fun _ _ => rfl, int1 (op := fun w a => laneZeros a w) fun _ => rfl,
      int1 (op := fun w a => laneOnes a w) fun _ => rfl, results_of fun _ => rfl⟩
    case mulh => rw [intMulh, hval, hval]
    case min => rw [intMin, hval, hval]
    case max => rw [intMax, hval, hval]
    case shr => rw [intShr, hval]
  · intro f imm n
    exact ⟨results_of fun _ => rfl, results_of fun _ => rfl, results_of fun _ => rfl, results_of fun _ => rfl,
      results_of fun _ => rfl, results_of fun _ => rfl⟩

/-! ### MARK and JOINP (R188, R190) -/

/-- MARK of a kind that a program may make sends L's payload with it. -/
theorem result_mark {f : C3} {k : Kind} (hk : Kind.ofCode f.m.val = some k) (hpre : k ≠ .pre) (hrcf : k ≠ .rcf)
    (hnul : k ≠ .nul) : Result (.mark f) fun x => { x.l with k := k } := by
  intro s x j hfire hsends
  refine leaves_of_done (rfl : execMark f s = fireCell (.mark f) _ s) hfire ?_
  simp only [hk]
  cases k with
  | pre => exact absurd rfl hpre
  | rcf => exact absurd rfl hrcf
  | nul => exact absurd rfl hnul
  | _ => exact Ctx.result_of_sends hsends s

section
variable {f : C3} {s : State} {x : Ctx} {j : Instance} (hfire : Fires (.joinp f) s x) (hjoin : x.inst.join = none)
include hfire hjoin

/-- The (m+1)th token of credit makes the permit, and the block starts to gather anew. -/
theorem joinp_full (hcnt : ((s.cell x.c).join[x.blk.num].1 + 1).toNat = f.m.val + 1)
    (hsends :
      let sum := (s.cell x.c).join[x.blk.num].2 + (if x.l.ok 0 then x.l.at 0 else 0)
      let t := Token.ofList .pmt 0x0003 [sum.toNat, f.m.val + 1]
      ({ x with inst := { x.inst with join := some (0, 0) } } : Ctx).sends t t j) : Leaves (.joinp f) s x s j := by
  refine leaves_of_done (rfl : execJoinp f s = fireCell (.joinp f) _ s) hfire ?_
  simp only [hjoin, Option.isSome_none, hcnt, beq_self_eq_true, if_true]
  exact Ctx.result_of_sends hsends s

/-- An earlier one is counted, and NUL is sent. -/
theorem joinp_gathers (hcnt : ((s.cell x.c).join[x.blk.num].1 + 1).toNat ≠ f.m.val + 1)
    (hsends :
      let acc := (s.cell x.c).join[x.blk.num]
      let sum := acc.2 + (if x.l.ok 0 then x.l.at 0 else 0)
      ({ x with inst := { x.inst with join := some (acc.1 + 1, sum) } } : Ctx).sends .nul .nul j) :
    Leaves (.joinp f) s x s j := by
  refine leaves_of_done (rfl : execJoinp f s = fireCell (.joinp f) _ s) hfire ?_
  simp only [hjoin, Option.isSome_none, beq_eq_false_iff_ne.2 hcnt, Bool.false_eq_true, if_false]
  exact Ctx.result_of_sends hsends s

end

/-- Settles O18: each body is one result of its operands, but for MARK, which splits on its kind, and JOINP, which
splits on whether its count is full. -/
theorem cellDataflow : Obligations.CellDataflow := by
  intro f g
  exact ⟨results_of fun _ => rfl, results_of fun _ => rfl, results_of fun _ => rfl, results_of fun _ => rfl,
    results_of fun _ => rfl, results_of fun _ => rfl,
    fun s x j n hfire hn hsends => leaves_of_done (rfl : execCellCyc f s = fireCell (.cellCyc f) _ s) hfire
      (Ctx.result_of_sends (hn ▸ hsends) s),
    results_of fun _ => rfl, results_of fun _ => rfl, results_of fun _ => rfl, results_of fun _ => rfl,
    fun k => result_mark,
    fun s x j hfire hjoin => ⟨joinp_full hfire hjoin, joinp_gathers hfire hjoin⟩⟩

end Sys2Proof.Machine
end

section
/-!
PROOFS. Cell instructions: the lane and filter group (O22).
-/

namespace Sys2Proof.Machine
open Sys2Proof

/-! ### Tokens by their lanes (R133) -/

/-- The sum that `maskOf` makes of the first n lanes. -/
def maskSum (p : Nat → Bool) (n : Nat) : Nat := (List.range n).foldl (fun a j => if p j then a + 2 ^ j else a) 0

theorem maskSum_succ (p : Nat → Bool) (n : Nat) :
    maskSum p (n + 1) = if p n then maskSum p n + 2 ^ n else maskSum p n := by
  rw [maskSum, List.range_succ, List.foldl_append, List.foldl_cons, List.foldl_nil, maskSum]

theorem maskSum_lt (p : Nat → Bool) (n : Nat) : maskSum p n < 2 ^ n := by
  induction n with
  | zero => exact Nat.one_pos
  | succ n ih =>
    rw [maskSum_succ, Nat.pow_succ]
    split <;> omega

theorem testBit_maskSum (p : Nat → Bool) (n i : Nat) : (maskSum p n).testBit i = (decide (i < n) && p i) := by
  induction n with
  | zero => simp [maskSum]
  | succ n ih =>
    rcases Nat.lt_trichotomy i n with hlt | rfl | hgt
    · have below : i < n + 1 := by omega
      rw [maskSum_succ]
      split <;> simp [Nat.add_comm _ (2 ^ n), Nat.testBit_two_pow_add_gt hlt, ih, hlt, below]
    · have clear := Nat.testBit_lt_two_pow (maskSum_lt p i)
      rw [maskSum_succ]
      cases hp : p i <;> simp [Nat.add_comm _ (2 ^ i), Nat.testBit_two_pow_add_eq, clear]
    · have above : ¬ i < n + 1 := by omega
      have small := Nat.lt_of_lt_of_le (maskSum_lt p (n + 1)) (Nat.pow_le_pow_right (by decide) hgt)
      rw [Nat.testBit_lt_two_pow small, decide_eq_false above, Bool.false_and]

theorem getLsbD_maskOf (p : Nat → Bool) {i : Nat} (hi : i < 16) : (maskOf p).getLsbD i = p i := by
  show (BitVec.ofNat 16 (maskSum p 16)).getLsbD i = p i
  rw [BitVec.getLsbD_ofNat, testBit_maskSum, decide_eq_true hi, Bool.true_and, Bool.true_and]

section
variable {i : Nat} (hi : i < 16)
include hi

theorem Token.ok_lanes (k : Kind) (v : Nat → Bool) (e : Nat → Elem) : (Token.lanes k v e).ok i = v i :=
  getLsbD_maskOf v hi

theorem Token.at_lanes (k : Kind) (v : Nat → Bool) (e : Nat → Elem) :
    (Token.lanes k v e).at i = if v i then e i else 0 := by
  simp [Token.at, Token.lanes, hi]

theorem Token.at_ofList (k : Kind) (v : BitVec 16) (l : List Nat) :
    (Token.ofList k v l).at i = BitVec.ofNat 32 (l.getD i 0) := by
  simp [Token.at, Token.ofList, hi]

end

theorem Token.at_scalar (n : Nat) : (Token.scalar n).at 0 = BitVec.ofNat 32 n := Token.at_ofList (by decide) ..

theorem Token.mem_validLanes {l : Token} {i : Nat} : i ∈ l.validLanes ↔ i < 16 ∧ l.ok i = true := by
  rw [Token.validLanes, List.mem_filter, List.mem_range]

/-! ### Reductions over the valid lanes (R176) -/

/-- An operation gives one of its operands, one whose key neither operand's exceeds. -/
def Selects (key : Nat → Int) (op : Nat → Nat → Nat) : Prop :=
  ∀ a b, (op a b = a ∨ op a b = b) ∧ key a ≤ key (op a b) ∧ key b ≤ key (op a b)

theorem selects_intMax (u : Bool) (w : Nat) : Selects (readSub u w) (intMax u w) := by
  intro a b
  unfold intMax
  split
  · exact ⟨.inr rfl, by omega, Int.le_refl _⟩
  · exact ⟨.inl rfl, Int.le_refl _, by omega⟩

theorem selects_intMin (u : Bool) (w : Nat) : Selects (fun n => - readSub u w n) (intMin u w) := by
  intro a b
  unfold intMin
  dsimp only
  split
  · exact ⟨.inr rfl, by omega, Int.le_refl _⟩
  · exact ⟨.inl rfl, Int.le_refl _, by omega⟩

theorem selects_max : Selects (fun n => n) max := by
  intro a b
  refine ⟨?_, Int.ofNat_le.2 (Nat.le_max_left a b), Int.ofNat_le.2 (Nat.le_max_right a b)⟩
  rcases Nat.le_total a b with h | h
  · exact .inr (Nat.max_eq_right h)
  · exact .inl (Nat.max_eq_left h)

section
variable {key : Nat → Int} {op : Nat → Nat → Nat} (hop : Selects key op)
include hop

/-- A fold by such an operation gives an element of its list with the largest key. -/
theorem Selects.foldl (l : List Nat) (a : Nat) :
    l.foldl op a ∈ a :: l ∧ ∀ x ∈ a :: l, key x ≤ key (l.foldl op a) := by
  induction l generalizing a with
  | nil => simp
  | cons b l ih =>
    obtain ⟨picks, left, right⟩ := hop a b
    obtain ⟨mem, top⟩ := ih (op a b)
    have step := top _ List.mem_cons_self
    rw [List.foldl_cons]
    refine ⟨?_, fun x hx => ?_⟩
    · rcases List.mem_cons.1 mem with h | h
      · rw [h]
        rcases picks with h' | h' <;> simp [h']
      · simp [h]
    · rcases List.mem_cons.1 hx with rfl | hx
      · exact Int.le_trans left step
      · rcases List.mem_cons.1 hx with rfl | hx
        · exact Int.le_trans right step
        · exact top x (List.mem_cons_of_mem _ hx)

/-- The fold of a token's valid lanes, of which there is one: a valid lane's element, of the largest key. -/
theorem Selects.validLanes {l : Token} {i : Nat} (hi : i < 16) (hok : l.ok i = true) :
    ∃ a rest, (l.validLanes.map fun i => (l.at i).toNat) = a :: rest ∧
      (∃ j, j < 16 ∧ l.ok j = true ∧ rest.foldl op a = (l.at j).toNat) ∧
      ∀ i, i < 16 → l.ok i = true → key (l.at i).toNat ≤ key (rest.foldl op a) := by
  have mem {i : Nat} (hi : i < 16) (hok : l.ok i = true) :
      (l.at i).toNat ∈ l.validLanes.map fun i => (l.at i).toNat :=
    List.mem_map_of_mem (Token.mem_validLanes.2 ⟨hi, hok⟩)
  obtain ⟨a, rest, h⟩ := List.exists_cons_of_ne_nil (List.ne_nil_of_mem (mem hi hok))
  obtain ⟨picked, top⟩ := hop.foldl rest a
  rw [← h] at picked top
  obtain ⟨j, hj, hval⟩ := List.mem_map.1 picked
  obtain ⟨hj, hjok⟩ := Token.mem_validLanes.1 hj
  exact ⟨a, rest, h, ⟨j, hj, hjok, hval.symm⟩, fun i hi hok => top _ (mem hi hok)⟩

/-- A reduction that no NaN stops (m ≠ 2) gives a scalar: a valid lane's element, of the largest key. -/
theorem Selects.reduce {l : Token} {m i : Nat} (hm : m ≠ 2) (hi : i < 16) (hok : l.ok i = true) :
    key (l.at i).toNat ≤ key ((reduceToken op m l).at 0).toNat ∧
      (reduceToken op m l).v = 1 ∧ ∃ j, j < 16 ∧ l.ok j = true ∧ (reduceToken op m l).at 0 = l.at j := by
  obtain ⟨a, rest, vals, ⟨j, hj, hjok, hval⟩, top⟩ := hop.validLanes hi hok
  have scalar : reduceToken op m l = Token.scalar (l.at j).toNat := by
    simp only [reduceToken, vals, hval, hm, decide_false, Bool.false_and, Bool.false_eq_true, if_false]
  have lane : (reduceToken op m l).at 0 = l.at j := by
    rw [scalar, Token.at_scalar, BitVec.ofNat_toNat, BitVec.setWidth_eq]
  refine ⟨?_, by rw [scalar]; rfl, j, hj, hjok, lane⟩
  rw [lane, ← hval]
  exact top i hi hok

end

theorem reduceToken_none {l : Token} (h : ∀ i, i < 16 → l.ok i = false) (op : Nat → Nat → Nat) (m : Nat) :
    (reduceToken op m l).v = 0 := by
  have none : l.validLanes = [] := by
    refine List.filter_eq_nil_iff.2 fun i hi => ?_
    rw [h i (List.mem_range.1 hi)]
    decide
  simp only [reduceToken, none, List.map_nil]
  rfl

theorem signed_toNat (x : Elem) : signed x.toNat 32 = x.toInt := by
  rw [signed, BitVec.toInt_eq_toNat_cond]
  split <;> split <;> omega

/-- The largest valid element, where lane i holds it. -/
theorem largest_eq {l : Token} {i : Nat} (hi : i < 16) (hok : l.ok i = true)
    (htop : ∀ k, k < 16 → l.ok k = true → (l.at k).toNat ≤ (l.at i).toNat) : largest l = (l.at i).toNat := by
  obtain ⟨a, rest, vals, ⟨j, hj, hjok, hval⟩, top⟩ := selects_max.validLanes hi hok
  simp only [largest, vals]
  have := top i hi hok
  have := htop j hj hjok
  omega

/-! ### Running sums (R176) -/

/-- Position n of the wrapping running sums over the lanes `is` is the sum of the valid lanes up to it. -/
theorem prefixSums_add32 (l : Token) (is : List Nat) (acc : Option Nat) {n i : Nat} (hn : is[n]? = some i)
    (hok : l.ok i = true) :
    BitVec.ofNat 32 (listAt (prefixSums add32 l is acc) n) =
      ((is.take (n + 1)).filter fun j => l.ok j).foldl (fun a j => a + l.at j) (BitVec.ofNat 32 (acc.getD 0)) := by
  induction is generalizing acc n with
  | nil => cases hn
  | cons j is ih =>
    cases hj : l.ok j with
    | false =>
      cases n with
      | zero =>
        obtain rfl : j = i := Option.some.inj hn
        rw [hj] at hok
        cases hok
      | succ n => simpa [prefixSums, hj, listAt] using ih acc hn
    | true =>
      have add : BitVec.ofNat 32 (acc.elim (l.at j).toNat fun a => add32 a (l.at j).toNat) =
          BitVec.ofNat 32 (acc.getD 0) + l.at j := by
        cases acc with
        | none => simp
        | some a => apply BitVec.eq_of_toNat_eq; simp [add32]
      have sums : prefixSums add32 l (j :: is) acc =
          (acc.elim (l.at j).toNat fun a => add32 a (l.at j).toNat) ::
            prefixSums add32 l is (some (acc.elim (l.at j).toNat fun a => add32 a (l.at j).toNat)) := by
        cases acc <;> simp [prefixSums, hj]
      rw [sums, List.take_succ_cons, List.filter_cons_of_pos hj, List.foldl_cons, ← add]
      cases n with
      | zero => rfl
      | succ n => exact ih _ hn

theorem psumToken_ok (m : Nat) (l : Token) {i : Nat} (hi : i < 16) : (psumToken m l).ok i = l.ok i := by
  rw [psumToken, Token.ok_lanes hi]

theorem psumToken_at {l : Token} {i : Nat} (hi : i < 16) (hok : l.ok i = true) : (psumToken 0 l).at i =
    ((List.range (i + 1)).filter fun j => l.ok j).foldl (fun a j => a + l.at j) 0 := by
  have lane : (List.range 16)[i]? = some i := by rw [List.getElem?_range hi]
  have first : (List.range 16).take (i + 1) = List.range (i + 1) := by rw [List.take_range, Nat.min_eq_left hi]
  rw [psumToken, Token.at_lanes hi, if_pos hok, ← first]
  exact prefixSums_add32 l _ none lane hok

/-! ### Compaction, and its scatter back (R177, R178) -/

section
variable {sel : List Nat} {l : Token} {idx : Nat → Nat} {j : Nat} (hj : j < 16)
include hj

theorem compact_ok : (compact sel l idx).1.ok j = decide (j < sel.length) ∧
    (compact sel l idx).2.ok j = decide (j < sel.length) := by
  rw [compact, Token.ok_lanes hj, Token.ok_lanes hj]
  exact ⟨rfl, rfl⟩

theorem compact_at (h : j < sel.length) : (compact sel l idx).1.at j = l.at (sel.getD j 0) ∧
    (compact sel l idx).2.at j = BitVec.ofNat 32 (idx (sel.getD j 0)) := by
  rw [compact, Token.at_lanes hj, Token.at_lanes hj, if_pos (decide_eq_true h), if_pos (decide_eq_true h)]
  exact ⟨rfl, rfl⟩

end

section
variable {l : Token} {p : Nat → Bool} {k : Nat}

/-- EXPD finds lane k of a compaction where the compaction has put it. -/
theorem expd_scatters_iff {t : Token × Token} (ht : t = compact ((List.range 16).filter p) l id) {j : Nat} :
    j < 16 ∧ (t.1.ok j && t.2.ok j && (t.2.at j).toNat % 16 == k) = true ↔ ((List.range 16).filter p)[j]? = some k := by
  subst ht
  have length : ((List.range 16).filter p).length ≤ 16 := 
    Nat.le_trans (List.length_filter_le ..) (Nat.le_of_eq List.length_range)
  rcases Nat.lt_or_ge j ((List.range 16).filter p).length with h | h
  · have hj : j < 16 := Nat.lt_of_lt_of_le h length
    have lane : ((List.range 16).filter p)[j] < 16 := 
      List.mem_range.1 (List.mem_filter.1 (List.getElem_mem h)).1
    have small : ((List.range 16).filter p)[j] % 16 = ((List.range 16).filter p)[j] := Nat.mod_eq_of_lt lane
    simp [hj, compact_ok hj, compact_at hj h, h, small]
  · have past : ((List.range 16).filter p)[j]? = none := List.getElem?_eq_none h
    rw [past]
    refine ⟨fun ⟨hj, hok⟩ => ?_, fun hf => by cases hf⟩
    simp [compact_ok hj, Nat.not_lt.2 h] at hok

theorem expdSource_compact_none (hk : k < 16) {t : Token × Token} (ht : t = compact ((List.range 16).filter p) l id)
    (h : expdSource t.1 t.2 k = none) : p k = false := by
  refine Bool.eq_false_iff.2 fun hp => ?_
  have mem : k ∈ (List.range 16).filter p := List.mem_filter.2 ⟨List.mem_range.2 hk, hp⟩
  obtain ⟨j, hj⟩ := List.getElem?_of_mem mem
  obtain ⟨hj, hsrc⟩ := (expd_scatters_iff ht).2 hj
  rw [expdSource, List.getLast?_eq_none_iff, List.filter_eq_nil_iff] at h
  exact h j (List.mem_range.2 hj) hsrc

theorem expdSource_compact_some {t : Token × Token} (ht : t = compact ((List.range 16).filter p) l id) {j : Nat}
    (h : expdSource t.1 t.2 k = some j) : p k = true ∧ t.1.at j = l.at k := by
  obtain ⟨hj, hsrc⟩ := List.mem_filter.1 (List.mem_of_getLast? h)
  have found := (expd_scatters_iff ht).1 ⟨List.mem_range.1 hj, hsrc⟩
  refine ⟨(List.mem_filter.1 (List.mem_of_getElem? found)).2, ?_⟩
  obtain ⟨hlt, -⟩ := List.getElem?_eq_some_iff.1 found
  rw [ht, (compact_at (List.mem_range.1 hj) hlt).1, List.getD_eq_getElem?_getD, found, Option.getD_some]

/-- EXPD of a compaction gives back each lane that it has selected, and 0 elsewhere. -/
theorem expdToken_compact (hk : k < 16) {t : Token × Token} (ht : t = compact ((List.range 16).filter p) l id) :
    (expdToken t.1 t.2).ok k = p k ∧ (expdToken t.1 t.2).at k = if p k then l.at k else 0 := by
  rw [expdToken, Token.ok_lanes hk, Token.at_lanes hk]
  cases h : expdSource t.1 t.2 k with
  | none => simp [expdSource_compact_none hk ht h]
  | some j =>
    obtain ⟨hp, hat⟩ := expdSource_compact_some ht h
    simp [hp, hat]

end

theorem nonZero_eq (m : Fin 2) (x : Elem) : nonZero m.val x = (x != 0 && (m == 1 || x != 0x80000000)) := by
  match m with
  | 0 => rfl
  | 1 => rfl

/-- The lanes that NZSCAN selects, by the bits of each. -/
theorem nzscan_selection (m : Fin 2) (l : Token) :
    ((List.range 16).filter fun i => l.ok i && nonZero m.val (l.at i)) =
      (List.range 16).filter fun i => l.ok i && l.at i != 0 && (m == 1 || l.at i != 0x80000000) := by
  refine List.filter_congr fun i _ => ?_
  rw [nonZero_eq, Bool.and_assoc]

theorem nzscan_coordinate (r : Token) (k : Nat) :
    BitVec.ofNat 32 ((if r.ok 0 then (r.at 0).toNat else 0) + k) =
      (if r.ok 0 then r.at 0 else 0) + BitVec.ofNat 32 k := by
  rw [BitVec.ofNat_add]
  split <;> simp

/-! ### Matches of coordinates (R179) -/

section
variable {r : Token} {x : Elem}

theorem laneHolds_iff {j : Nat} : (r.ok j && r.at j == x) = true ↔ r.ok j = true ∧ r.at j = x := by
  rw [Bool.and_eq_true, beq_iff_eq]

theorem not_laneHolds_iff {j : Nat} : (!(r.ok j && r.at j == x)) = true ↔ (r.ok j = true → r.at j ≠ x) := by
  rw [Bool.not_eq_true', ← Bool.not_eq_true, laneHolds_iff, not_and]

theorem matchLane_some_iff {j : Nat} : matchLane r x = some j ↔
    x ≠ 0xFFFFFFFF ∧ (r.ok j = true ∧ r.at j = x) ∧ j < 16 ∧ ∀ i, i < j → r.ok i = true → r.at i ≠ x := by
  show (if x = 0xFFFFFFFF then none else _) = some j ↔ _
  by_cases h : x = 0xFFFFFFFF
  · rw [if_pos h]
    exact ⟨fun hnone => (nomatch hnone), fun ⟨hx, _⟩ => absurd h hx⟩
  · rw [if_neg h, List.find?_range_eq_some]
    simp only [laneHolds_iff, not_laneHolds_iff, List.mem_range]
    exact (and_iff_right h).symm

theorem matchLane_none_iff : matchLane r x = none ↔
    x = 0xFFFFFFFF ∨ ∀ j, j < 16 → r.ok j = true → r.at j ≠ x := by
  show (if x = 0xFFFFFFFF then none else _) = none ↔ _
  by_cases h : x = 0xFFFFFFFF
  · rw [if_pos h]
    exact ⟨fun _ => .inl h, fun _ => rfl⟩
  · rw [if_neg h, List.find?_range_eq_none]
    simp only [not_laneHolds_iff]
    exact (or_iff_right h).symm

end

section
variable {l r : Token} {i : Nat} (hi : i < 16)
include hi

theorem joinTokens_ok : (joinTokens 0 l r).1.ok i = (l.ok i && (matchLane r (l.at i)).isSome) := by
  rw [joinTokens, Token.ok_lanes hi]
  rfl

/-- A coordinate with a match maps to the lowest lane of R that has it. -/
theorem joinTokens_matched (hm : ∃ j, j < 16 ∧ r.ok j = true ∧ r.at j = l.at i) (hok : l.ok i = true)
    (hx : l.at i ≠ 0xFFFFFFFF) :
    (joinTokens 0 l r).1.ok i = true ∧ r.ok ((joinTokens 0 l r).1.at i).toNat = true ∧
      r.at ((joinTokens 0 l r).1.at i).toNat = l.at i ∧
      ∀ j, j < ((joinTokens 0 l r).1.at i).toNat → r.ok j = true → r.at j ≠ l.at i := by
  obtain ⟨j, hj, hjok, hjat⟩ := hm
  obtain ⟨k, hk⟩ : ∃ k, matchLane r (l.at i) = some k := by
    refine Option.ne_none_iff_exists'.1 fun hnone => ?_
    rcases matchLane_none_iff.1 hnone with h | h
    · exact hx h
    · exact h j hj hjok hjat
  have lane : (joinTokens 0 l r).1.ok i = true := by rw [joinTokens_ok hi, hok, hk]; rfl
  obtain ⟨-, ⟨kok, kat⟩, hklt, lowest⟩ := matchLane_some_iff.1 hk
  have index : ((joinTokens 0 l r).1.at i).toNat = k := by
    have small : k % 2 ^ 32 = k := Nat.mod_eq_of_lt (by omega)
    rw [joinTokens, Token.at_lanes hi]
    simpa [hok, hk] using small
  rw [index]
  exact ⟨lane, kok, kat, lowest⟩

theorem joinTokens_unmatched
    (h : l.ok i = false ∨ l.at i = 0xFFFFFFFF ∨ ∀ j, j < 16 → r.ok j = true → r.at j ≠ l.at i) :
    (joinTokens 0 l r).1.ok i = false := by
  rw [joinTokens_ok hi]
  rcases h with h | h
  · rw [h]; rfl
  · rw [matchLane_none_iff.2 h, Option.isSome_none, Bool.and_false]

end

/-- The advance predicate: a side advances where its largest coordinate is not above the other's. -/
theorem joinTokens_advance (m : Nat) (l r : Token) :
    (joinTokens m l r).2.at 0 = (if largest l ≤ largest r then 1 else 0) ∧
      (joinTokens m l r).2.at 1 = (if largest r ≤ largest l then 1 else 0) := by
  refine ⟨(Token.at_ofList (by decide) ..).trans ?_, (Token.at_ofList (by decide) ..).trans ?_⟩ <;> split <;> simp [*]

/-- Settles O22: each instruction is `fireLane1` or `fireLane2` of its function of tokens, and what those functions give
is said by their lanes: a reduction by `Selects`, a sum by `prefixSums_add32`, a compaction by `compact_at` and
`expdToken_compact`, a match by `matchLane_some_iff`. -/
theorem cellLanes : Obligations.CellLanes := by
  constructor
  · intro f k
    exact ⟨results_of fun _ => rfl, results_of fun _ => rfl, results_of fun _ => rfl, results_of fun _ => rfl,
      results_of fun _ => rfl, results_of fun _ => rfl, results_of fun _ => rfl, results_of fun _ => rfl,
      results_of fun _ => rfl, results_of fun _ => rfl, results_of fun _ => rfl⟩
  · intro l r zero
    refine ⟨fun i hi hok => ?_, reduceToken_none, fun i hi => ⟨psumToken_ok 0 l hi, psumToken_at hi⟩,
      fun i hi => ?_, fun m => ?_, ?_, rfl⟩
    · obtain ⟨maxS, maxS'⟩ := (selects_intMax false 32).reduce (m := 0) (by decide) hi hok
      obtain ⟨maxU, maxU'⟩ := (selects_intMax true 32).reduce (m := 1) (by decide) hi hok
      obtain ⟨minS, minS'⟩ := (selects_intMin false 32).reduce (m := 0) (by decide) hi hok
      obtain ⟨minU, minU'⟩ := (selects_intMin true 32).reduce (m := 1) (by decide) hi hok
      simp only [readSub, Bool.false_eq_true, if_false, if_true, signed_toNat, Int.neg_le_neg_iff,
        Int.ofNat_le] at maxS maxU minS minU
      refine ⟨maxS, maxU, minS, minU, fun g hg => ?_⟩
      simp only [List.mem_cons, List.not_mem_nil, or_false] at hg
      rcases hg with rfl | rfl | rfl | rfl
      · exact maxS'
      · exact maxU'
      · exact minS'
      · exact minU'
    · exact expdToken_compact hi rfl
    · intro sel base
      show ∀ j, j < 16 → (nzscanTokens m.val l r).1.ok j = _ ∧ (nzscanTokens m.val l r).2.ok j = _ ∧
        (j < sel.length → (nzscanTokens m.val l r).1.at j = _ ∧ (nzscanTokens m.val l r).2.at j = _)
      intro j hj
      rw [nzscanTokens, nzscan_selection]
      obtain ⟨ok0, ok1⟩ := compact_ok hj
      refine ⟨ok0, ok1, fun h => ?_⟩
      obtain ⟨at0, at1⟩ := compact_at hj h
      exact ⟨at0, at1.trans (nzscan_coordinate r _)⟩
    · intro t0 t1 ht
      obtain ⟨rfl, rfl⟩ : (joinTokens 0 l r).1 = t0 ∧ (joinTokens 0 l r).2 = t1 := by rw [ht]; exact ⟨rfl, rfl⟩
      refine ⟨rfl, fun i hi => ⟨joinTokens_matched hi, joinTokens_unmatched hi⟩, fun i j hi hj iok jok itop jtop => ?_⟩
      rw [← largest_eq hi iok itop, ← largest_eq hj jok jtop]
      exact joinTokens_advance 0 l r

end Sys2Proof.Machine
end

section
/-!
PROOFS. Control core: waiting, events, halting, the CRC and TLBI (O16).
-/

namespace Sys2Proof.Machine
open Sys2Proof

/-! ### WFE, SEV and HALT (R395, R396) -/

section
variable {s : State} {k : CoreId} (hk : s.focus.thread = .core k)
include hk

theorem execWfe_signalled (he : (s.core k).event = true) :
    exec .wfe s = .next ((s.setCore k { s.core k with event := false }).retire (.core k)) := by
  show execWfe s = _
  simp only [execWfe, onCore_core hk, he, if_true]

theorem execWfe_waits (he : (s.core k).event = false) :
    exec .wfe s = .next (s.setCore k { s.core k with wfeSince := some s.cycle }) := by
  show execWfe s = _
  simp only [execWfe, onCore_core hk, he, Bool.false_eq_true, if_false]

end

theorem Core.wake_waiting {c : Core} {n : Nat} (h : c.wfeSince = some n) : c.wake = { c with
    wfeSince := none, event := false, thread := { c.thread with pc := c.thread.pc + 4 }, kinstr := c.kinstr + 1 } := by
  simp only [Core.wake, h]

theorem Core.signal_waiting {c : Core} {n : Nat} (h : c.wfeSince = some n) : c.signal = c.wake := by
  simp only [Core.signal, Core.wake, h]

theorem Core.signal_running {c : Core} (h : c.wfeSince = none) : c.signal = { c with event := true } := by
  simp only [Core.signal, Core.wake, h]

theorem execWfeTimeout_ends {s : State} {k : CoreId} {n : Nat} (h : (s.core k).wfeSince = some n)
    (hn : n + 8000 ≤ s.cycle) : exec (.wfeTimeout k) s = .next (s.setCore k (s.core k).wake) := by
  show execWfeTimeout k s = _
  simp only [execWfeTimeout, h]
  exact if_pos hn

/-- The cores of a die signalled. -/
def State.signalDie (s : State) (d : Fin 2) : State :=
  { s with cores := Vector.ofFn fun i => if coreDie i = d then (s.core i).signal else s.core i }

theorem State.core_signalDie (s : State) (d : Fin 2) (j : CoreId) :
    (s.signalDie d).core j = if coreDie j = d then (s.core j).signal else s.core j := by
  simp [State.signalDie, State.core]

/-- Another core does not see an instruction retire, and its own keeps its event flag. -/
theorem State.core_retire_other (s : State) {k j : CoreId} (h : j ≠ k) : (s.retire (.core k)).core j = s.core j :=
  s.core_setCore_other _ h

theorem State.core_retire_event (s : State) (k j : CoreId) :
    ((s.retire (.core k)).core j).event = (s.core j).event := by
  by_cases h : j = k
  · rw [h, State.retire, State.retireTo_core, State.core_setCore_same]
  · rw [s.core_retire_other h]

theorem execSev_signals {s : State} {k : CoreId} (hk : s.focus.thread = .core k)
    (ha : s.callsAccepted (.core k) = true) :
    exec .sev s = .next (((s.drain k).signalDie (coreDie k)).retire (.core k)) := by
  show execSev s = _
  rw [execSev, onCore_core hk, release_goes (by rw [hk]; exact ha), hk]
  rfl

theorem execHalt_halts {s : State} {k : CoreId} (hk : s.focus.thread = .core k) : exec .halt s =
    .next ((s.drain k).setCore k
      { (s.drain k).core k with halted := true, kinstr := ((s.drain k).core k).kinstr + 1 }) :=
  onCore_core hk

/-! ### CRC (R400) -/

theorem leBytes_four (x : Word) : leBytes 4 x.toNat =
    [(x >>> (8 * 0)).setWidth 8, (x >>> (8 * 1)).setWidth 8, (x >>> (8 * 2)).setWidth 8,
      (x >>> (8 * 3)).setWidth 8] := by
  simp only [leBytes, List.cons.injEq, and_true, BitVec.toNat_eq, BitVec.toNat_ofNat, BitVec.toNat_setWidth,
    BitVec.toNat_ushiftRight, Nat.shiftRight_eq_div_pow, Nat.div_div_eq_div_mul]
  omega

/-! ### TLBI (R383, R399) -/

/-- The field of x[b] that has to be zero beside the tenant. -/
theorem field_reservedTenant (n : Nat) : field n 15 8 = n / 2 ^ 8 % 2 ^ 8 := rfl

section
variable {s : State} {k : CoreId} {a b : XReg} (hk : s.focus.thread = .core k) (hp : (s.core k).thread.priv = true)
include hk hp

theorem onPrivCore_priv {i : Instr} {f : CoreId → Res} : onPrivCore i s f = f k := by
  rw [onPrivCore, onCore_core hk, if_pos hp]

theorem execTlbi_illegal (h : (s.getX (.core k) a).toNat / 2 ^ 48 ≠ 0 ∨
    (s.getX (.core k) b).toNat / 2 ^ 8 % 2 ^ 8 ≠ 0 ∨ (s.getX (.core k) b).toNat / 2 ^ 48 ≠ 0) :
    Illegal (.tlbi a b) k s := by
  refine trapsOn_illegal ?_
  show execTlbi a b s = _
  rw [execTlbi, onPrivCore_priv hk hp]
  refine if_pos ?_
  rw [field_to_top _ (by decide), field_to_top _ (by decide), field_reservedTenant]
  simpa only [Bool.or_eq_true, bne_iff_ne, or_assoc] using h

variable {first count : Nat} (ha : (s.getX (.core k) a).toNat / 2 ^ 48 = 0)
  (hb : (s.getX (.core k) b).toNat / 2 ^ 8 % 2 ^ 8 = 0) (hb' : (s.getX (.core k) b).toNat / 2 ^ 48 = 0)
  (hfirst : first = (s.getX (.core k) a).toNat / 2 ^ 12 % 2 ^ 36 * 2 ^ 12)
  (hcount : count = (s.getX (.core k) b).toNat / 2 ^ 16 % 2 ^ 32)
include ha hb hb' hfirst hcount

/-- With its fields in order and no access outstanding, TLBI drops from the caches what it hits. -/
theorem execTlbi_drops
    (hd : s.translatedPending ((s.tlb ++ s.spent).filter
      (tlbiHits first count (BitVec.ofNat 8 (s.getX (.core k) b).toNat))) = false) :
    exec (.tlbi a b) s = .next (State.retire { s.drainAll with
      tlb := s.drainAll.tlb.filter fun e => !tlbiHits first count (BitVec.ofNat 8 (s.getX (.core k) b).toNat) e
      spent := s.drainAll.spent.filter fun e => !tlbiHits first count (BitVec.ofNat 8 (s.getX (.core k) b).toNat) e }
      (.core k)) := by
  subst hfirst hcount
  show execTlbi a b s = _
  rw [execTlbi, onPrivCore_priv hk hp]
  refine (if_neg ?_).trans (if_neg ?_)
  · rw [field_to_top _ (by decide), field_to_top _ (by decide), field_reservedTenant, ha, hb, hb']
    decide
  · exact Bool.eq_false_iff.1 hd

end

/-- A cached translation stays where it is another tenant's or its page lies outside the range. -/
theorem mem_unhit_iff {l : List TlbEntry} {first count : Nat} {tenant : BitVec 8} {e : TlbEntry} :
    e ∈ l.filter (fun e => !tlbiHits first count tenant e) ↔ e ∈ l ∧ ¬(e.tenant = tenant ∧
      (count = 0 ∨ (e.page < first + count * 4096 ∧ first < e.page + e.size))) := by
  rw [List.mem_filter, Bool.not_eq_true', ← Bool.not_eq_true]
  simp only [tlbiHits, Bool.and_eq_true, Bool.or_eq_true, beq_iff_eq, decide_eq_true_eq]

/-- Settles O16: WFE splits on the event flag, SEV signals each core of its die, CRC runs over the bytes of
`leBytes_four`, and TLBI filters the cached translations by `tlbiHits`. -/
theorem coreControl : Obligations.CoreControl := by
  refine ⟨?_, ?_, ?_⟩
  · intro s k d c hk
    refine ⟨execWfe_signalled hk, execWfe_waits hk, fun n hn h => ?_, fun ha _ => ?_, ?_, onCore_core hk |>.trans ?_,
      onCore_core hk, rfl⟩
    · rw [execWfeTimeout_ends hn h, Core.wake_waiting hn]
    · refine ⟨_, execSev_signals hk ha, fun j hj => ?_, fun j hj => ⟨fun hw => ?_, fun n hw hjk => ?_⟩⟩
      · rw [State.core_retire_other _ (fun h => hj (congrArg coreDie h)), State.core_signalDie, if_neg hj]
      · rw [State.core_retire_event, State.core_signalDie, if_pos hj, Core.signal_running hw]
      · rw [State.core_retire_other _ hjk, State.core_signalDie, if_pos hj, Core.signal_waiting hw,
          Core.wake_waiting hw]
        exact ⟨rfl, rfl, rfl⟩
    · refine ⟨_, execHalt_halts hk, ?_, ?_⟩ <;> rw [State.core_setCore_same]
    · rw [Writes, hk]
  · intro s k d a b hk byte turn
    refine (onCore_core hk).trans ?_
    dsimp only
    rw [leBytes_four, Writes, hk]
    rfl
  · intro s k a b x y first count hits hk hp
    refine ⟨execTlbi_illegal hk hp, fun hx hy hy' hd => ⟨_, execTlbi_drops hk hp hx hy hy' rfl rfl hd, ?_⟩⟩
    simp only [State.retire_tlb, mem_unhit_iff]
    exact ⟨fun e he => he.2, fun e he hne => ⟨he, hne⟩⟩

end Sys2Proof.Machine
end

section
/-!
PROOFS. Virtual pipelines on their bands: how a VP ends, deadlocks and is pre-empted (O47), and what a state save leaves
in memory (O44).
-/

namespace Sys2Proof.Machine
open Sys2Proof

/-! ### Phase end and completion (R221) -/

section
variable {s : State} {v : VpId}

theorem execVpCompletion_runs (hlive : (s.vp v).stage = .live) (he : s.phaseEnded v = false) :
    exec (.vpCompletion v) s = .next s := by
  show execVpCompletion v s = _
  simp [execVpCompletion, hlive, he]

/-- The last phase has ended: the VP ends once its positions have all left. -/
theorem execVpCompletion_last (hlive : (s.vp v).stage = .live) (he : s.phaseEnded v = true)
    (hw : (s.vp v).quiesce = false ∨ (s.vp v).w ≤ (s.vp v).waveDone + 1) :
    exec (.vpCompletion v) s = .next (if s.allLeft v then s.setVp v { s.vp v with stage := .ending } else s) := by
  have last : ((s.vp v).quiesce && decide ((s.vp v).waveDone + 1 < (s.vp v).w)) = false := by
    rcases hw with hq | hw
    · simp [hq]
    · simp [Nat.not_lt.2 hw]
  show execVpCompletion v s = _
  simp only [execVpCompletion, hlive, he, last, Bool.not_true, Bool.false_eq_true, if_false]
  split <;> rfl

theorem execVpCompletion_ending (hend : (s.vp v).stage = .ending) : exec (.vpCompletion v) s =
    .next (((s.releaseRows v).postVp v (record 1 0 0 ((s.releaseRows v).bandSrc v) v.handle)).freeVp v) := by
  show execVpCompletion v s = _
  simp only [execVpCompletion, hend]

/-! ### Deadlock (R216) -/

/-- The source word of a band's records: its base row (R246). -/
theorem State.bandSrc_eq (s : State) (v : VpId) :
    s.bandSrc v = v.die.val * 2 ^ 31 + ((s.vp v).dieRow 0).val * 2 ^ 24 := by
  rw [State.bandSrc, srcWord]
  omega

theorem faultPayload_band (n : Nat) : faultPayload n 0 0 = n := by
  rw [faultPayload]
  omega

/-- What a band without movement is reported for. -/
def State.stuckCause (s : State) (v : VpId) : Cause := if s.spillHeld v then .spillFull else .deadlock

/-- The report of a band without movement. -/
def State.reportStuck (s : State) (v : VpId) : State :=
  s.postVp v (record 3 (s.stuckCause v).code 0 (s.bandSrc v) v.handle)

theorem execDeadlockTimeout_moved (h : s.cycle < s.lastMove v + 2 ^ 20) : exec (.deadlockTimeout v) s = .next s := by
  show execDeadlockTimeout v s = _
  simp only [execDeadlockTimeout, decide_eq_true h, Bool.or_true, Bool.true_or, if_true]

/-- The period of a band with work has passed: one that is being pre-empted is reported again, another is pre-empted or
torn down. -/
theorem execDeadlockTimeout_due (hs : (s.vp v).stage = .live ∨ (s.vp v).stage = .preempting)
    (hp : ∀ m ∈ s.mates v, (s.vp m).pausedAt = none) (hm : s.lastMove v + 2 ^ 20 ≤ s.cycle)
    (hw : s.census v ≠ 0 ∨ s.portHolds v = true) : exec (.deadlockTimeout v) s = .next
      (if (s.vp v).stage = .preempting then (s.reportStuck v).touch v
        else if (s.mates v).all fun m => (s.vp m).contextFits then (s.reportStuck v).startPreempt v
        else s.teardown v (s.stuckCause v) (s.bandSrc v) v.handle) := by
  have onBand : ((s.vp v).stage != .live && (s.vp v).stage != .preempting) = false := by
    rcases hs with h | h <;> simp [h]
  have running : ((s.mates v).any fun m => (s.vp m).pausedAt.isSome) = false := by
    simpa using hp
  have due : decide (s.cycle < s.lastMove v + 2 ^ 20) = false := decide_eq_false (Nat.not_lt.2 hm)
  have work : (s.census v == 0 && !s.portHolds v) = false := by
    rcases hw with h | h <;> simp [h]
  show execDeadlockTimeout v s = _
  simp only [execDeadlockTimeout, onBand, running, due, work, Bool.or_self, Bool.false_eq_true, if_false,
    faultPayload_band, State.reportStuck, State.stuckCause]
  split
  · rfl
  · split <;> rfl

/-! ### The end of a pre-emption (R222, R223) -/

theorem execPreInsertion_idle (h : (s.vp v).stage ≠ .preempting) : exec (.preInsertion v) s = .next s := by
  show execPreInsertion v s = _
  simp [execPreInsertion, h]

/-- A VP that is being pre-empted has its PREs put, and ends its pre-emption if all of its band have saved. -/
theorem execPreInsertion_puts (h : (s.vp v).stage = .preempting) {t : State}
    (ht : t = s.putPres v ((s.vp v).preAt ++ s.dryPorts v)) : exec (.preInsertion v) s =
      .next (if (s.mates v).all t.allSaved then (s.mates v).foldl (fun s w => s.endPreempt w) t else t) := by
  subst ht
  show execPreInsertion v s = _
  simp only [execPreInsertion, h, bne_self_eq_false, Bool.false_eq_true, if_false]
  split <;> rfl

/-! ### Contexts (R223, R224) -/

/-- A resident cell's context is written and the PREs at its ports leave. -/
def State.contextOut (s : State) (v : VpId) (pl : Place) (c : CellId) : State :=
  (((s.abandonFault c).unpauseBand v).writeContext v pl.wave c).takePres c

/-- A resident cell that has saved: its block is to run again, and PRE leaves at its output ports. -/
def Cell.sendPres (x : Cell) (pl : Place) : Cell :=
  { x with
    inst := none
    next := match x.inst with
      | some i => some i.block
      | none => x.next
    reserved := 0
    saved := true
    sendQ := x.sendQ ++ (pl.x.outPorts pl.entry pl.pos pl.k).map fun p => (p, pl.x.preToken) }

section
variable {c : CellId} (hhost : (s.row c.rowId).host = some v) (hpre : (s.vp v).stage = .preempting)
include hhost hpre

section
variable {pl : Place} (hplace : s.place c = some pl)
  (hphase : (s.row c.rowId).phase = .live ∨ (s.row c.rowId).phase = .markers)
include hplace hphase

/-- A resident cell saves at its first moment, or waits for it. -/
theorem execCellContextSave_resident : exec (.cellContextSave c) s = .next
    (if s.maySave pl c then (s.contextOut v pl c).setCell c (((s.contextOut v pl c).cell c).sendPres pl)
      else s) := by
  have resident : ((s.row c.rowId).phase == .live || (s.row c.rowId).phase == .markers) = true := by
    rcases hphase with h | h <;> simp [h]
  show execCellContextSave c s = _
  simp only [execCellContextSave, hhost, hpre, resident, hplace, bne_self_eq_false, Bool.false_eq_true, if_false,
    if_true, State.contextOut]
  generalize (((s.abandonFault c).unpauseBand v).writeContext v pl.wave c).takePres c = u
  cases s.maySave pl c <;> rfl

end

/-- A compute cell of a row that stands still writes its context, and has saved. -/
theorem execCellContextSave_still
    (hphase : (s.row c.rowId).phase = .left ∨ (s.row c.rowId).phase = .empty) (hmem : c.isMem = false)
    (hsaved : (s.cell c).saved = false) (hrows : s.rowsSaved v = true) : exec (.cellContextSave c) s =
      .next ((s.writeContext v 0 c).setCell c { (s.writeContext v 0 c).cell c with saved := true }) := by
  have away : ((s.row c.rowId).phase == .live || (s.row c.rowId).phase == .markers) = false := by
    rcases hphase with h | h <;> simp [h]
  show execCellContextSave c s = _
  simp [execCellContextSave, hhost, hpre, away, hmem, hsaved, hrows]

end
end

/-! ### A part of the kept state in memory (R200) -/

section
variable {u w : State} {x : Reach} {v : VpId} {wave : Nat} {c : CellId} {va pa : Nat} {bs : List Byte}
  (hl : u.areaLocs x .write (pagesOf va bs.length) = (w, .ok [(⟨.dense, pa, none⟩, bs.length)]))
  (hw : w.isLocal pa = true)
include hl hw

/-- A part that lies in one piece of this device's memory is one write there. -/
theorem State.savePart_mem : (u.savePart x v wave c va bs).mem = w.mem.write (localAddr pa) bs := by
  simp [State.savePart, State.areaWrite, hl, State.areaPut, State.locWrite, hw]

/-- In a canonical memory, as reset leaves it and every step keeps it (R5), the part is read back: the clause of O44
with the premise that it lacks. -/
theorem State.read_savePart (hm : w.mem.wf = true) :
    (u.savePart x v wave c va bs).mem.read (localAddr pa) bs.length = bs := by
  rw [State.savePart_mem hl hw, Memory.read_write_same hm]

end

/-- A row with a live position, in a device whose memory lists address 0 twice and so is not canonical (R5). The row's
edge port holds the translation of the page at 0, writable and dirty. -/
def doubledMemory : State :=
  { State.reset with
    mem := { Memory.empty with bytes := [(0, 1), (0, 2)] }
    tlb := [⟨.edge ⟨0, 0⟩, 0, 0, 4096, 0, true, false, none, 0, true⟩]
    rows := [(⟨0, 0⟩, { Row.reset with host := some ⟨0, 0, 1⟩, pos := some 0 })]
    vps := [(⟨0, 0, 1⟩, { Vp.free with stage := .live })] }

theorem doubledMemory_areaLocs : doubledMemory.areaLocs (doubledMemory.edgeReach ⟨0, 0⟩ 0) .write (pagesOf 0 1) =
    (doubledMemory, .ok [(⟨.dense, 0, none⟩, 1)]) := rfl

/-! ### The obligations -/

/-- Settles O47: each clause is what the lemma of its event says, in one branch of the condition that decides it: all
positions have left, every context has room, every cell has saved, the cell's first moment has come. -/
theorem vpEnds : Obligations.VpEnds := by
  refine ⟨fun s v => ⟨fun hlive he hw => ⟨fun ha => ?_, fun ha => ?_⟩, execVpCompletion_runs,
      execVpCompletion_ending, fun hlive hp hm hw => ⟨fun hfit => ?_, fun hfit => ?_⟩, fun hpre hp hm hw => ?_,
      fun _ => execDeadlockTimeout_moved⟩,
    fun s v c pl => ⟨fun hpre => ⟨fun hsaved => ?_, fun hsaved => ?_⟩, execPreInsertion_idle,
      fun hplace hhost hpre hphase => ⟨fun hm => ?_, fun hm => ?_⟩,
      fun hhost hpre hphase hmem hsaved hrows =>
        ⟨_, execCellContextSave_still hhost hpre hphase hmem hsaved hrows, rfl⟩⟩⟩
  · rw [execVpCompletion_last hlive he hw, if_pos ha]
  · rw [execVpCompletion_last hlive he hw, ha]
    rfl
  · rw [execDeadlockTimeout_due (.inl hlive) hp hm hw, if_neg (by simp [hlive]), if_pos (List.all_eq_true.2 hfit),
      State.reportStuck, State.stuckCause, State.bandSrc_eq]
  · have short : ((s.mates v).all fun m => (s.vp m).contextFits) = false := by simpa using hfit
    rw [execDeadlockTimeout_due (.inl hlive) hp hm hw, if_neg (by simp [hlive]), short, State.stuckCause,
      State.bandSrc_eq]
    rfl
  · rw [execDeadlockTimeout_due (.inr hpre) hp hm (.inl hw), if_pos hpre, State.reportStuck, State.stuckCause,
      State.bandSrc_eq]
  · rw [execPreInsertion_puts hpre rfl, if_pos (List.all_eq_true.2 hsaved)]
  · have waits : (s.mates v).all (s.putPres v ((s.vp v).preAt ++ s.dryPorts v)).allSaved = false := by
      simpa using hsaved
    rw [execPreInsertion_puts hpre rfl, waits]
    rfl
  · refine ⟨_, (execCellContextSave_resident hhost hpre hplace hphase).trans (by rw [if_pos hm]), ?_⟩
    rw [State.cell_setCell_same]
    exact ⟨rfl, rfl, _, rfl, rfl⟩
  · rw [execCellContextSave_resident hhost hpre hplace hphase, hm]
    rfl

/-- Refutes O44: the clause that memory holds a saved part has no premise that the memory is canonical. In
`doubledMemory` the save of a zero byte at address 0 takes out the first entry of the two, and a read finds the second.
With the premise the clause holds (`State.read_savePart`). -/
theorem not_positionLeaves : ¬ Obligations.PositionLeaves := by
  intro h
  obtain ⟨-, -, -, -, -, -, -, part, -⟩ := h doubledMemory ⟨0, 0⟩ ⟨0, 0, 1⟩ 0 rfl rfl (.inl rfl)
  have held := part doubledMemory doubledMemory _ 0 ⟨0, 0, 0⟩ 0 0 [0] rfl (List.cons_ne_nil _ _)
    doubledMemory_areaLocs rfl
  rw [State.savePart_mem doubledMemory_areaLocs rfl] at held
  exact absurd held (by decide)

end Sys2Proof.Machine
end

section
/-!
PROOFS. Event queues: how a record enters one, EVPOP and KEVQ (O15), and the invariants in the reset state (O58).
-/

namespace Sys2Proof.Machine
open Sys2Proof

/-! ### A record that enters a queue (R247, R395) -/

section
variable (c : Core)

@[simp] theorem Core.wake_events : c.wake.events = c.events := by unfold Core.wake; split <;> rfl
@[simp] theorem Core.wake_overAt : c.wake.overAt = c.overAt := by unfold Core.wake; split <;> rfl
@[simp] theorem Core.eventsBounded_wake : c.wake.eventsBounded = c.eventsBounded := by
  rw [Core.eventsBounded, Core.wake_events, Core.wake_overAt, Core.eventsBounded]
@[simp] theorem Core.wake_slots : c.wake.slots = c.slots := by unfold Core.wake; split <;> rfl
@[simp] theorem Core.wake_wfeSince : c.wake.wfeSince = none := by
  unfold Core.wake
  split
  next h => exact h
  next => rfl

end

section
variable {c : Core} {k : CoreId} {r : BitVec 128}

theorem Core.enqueue_room (h : c.events.length < 1023) :
    c.enqueue k r = Core.wake { c with events := c.events ++ [r] } := if_pos h

theorem Core.enqueue_drops (h : 1023 ≤ c.events.length) (ho : c.overAt = none) : c.enqueue k r = Core.wake { c with
    events := c.events ++ [record 9 0 0 (coreSrc k) 1], overAt := some c.events.length } := by
  rw [Core.enqueue, if_neg (Nat.not_lt.2 h), ho]

theorem Core.enqueue_counts {n : Nat} (h : 1023 ≤ c.events.length) (ho : c.overAt = some n) :
    c.enqueue k r = { c with events := c.events.modify n countDrop } := by
  rw [Core.enqueue, if_neg (Nat.not_lt.2 h), ho]

theorem Core.eventsBounded_iff_of_none (ho : c.overAt = none) :
    c.eventsBounded = true ↔ c.events.length ≤ 1023 := by
  simp [Core.eventsBounded, ho]

theorem Core.eventsBounded_iff_of_some {n : Nat} (ho : c.overAt = some n) :
    c.eventsBounded = true ↔ n < c.events.length ∧ c.events.length ≤ 1024 := by
  simp [Core.eventsBounded, ho]

/-- A core's queue stays within its bounds: only the ERROR_COUNT record becomes its 1,024th. -/
theorem Core.eventsBounded_enqueue (h : c.eventsBounded = true) : (c.enqueue k r).eventsBounded = true := by
  rcases Nat.lt_or_ge c.events.length 1023 with hl | hl
  · rw [Core.enqueue_room hl, Core.eventsBounded_wake]
    cases ho : c.overAt with
    | none =>
      refine (Core.eventsBounded_iff_of_none rfl).2 ?_
      simp only [List.length_append, List.length_singleton]
      omega
    | some n =>
      obtain ⟨hn, -⟩ := (Core.eventsBounded_iff_of_some ho).1 h
      refine (Core.eventsBounded_iff_of_some rfl).2 ?_
      simp only [List.length_append, List.length_singleton]
      omega
  · cases ho : c.overAt with
    | none =>
      have full := (Core.eventsBounded_iff_of_none ho).1 h
      rw [Core.enqueue_drops hl ho, Core.eventsBounded_wake]
      refine (Core.eventsBounded_iff_of_some rfl).2 ?_
      simp only [List.length_append, List.length_singleton]
      omega
    | some n =>
      have bounds := (Core.eventsBounded_iff_of_some ho).1 h
      rw [Core.enqueue_counts hl ho]
      refine (Core.eventsBounded_iff_of_some (n := n) ?_).2 ?_
      · exact ho
      · rwa [List.length_modify]

end

/-- The count in a record's payload rises by one while it can (R247). -/
theorem countDrop_unsaturated {r : BitVec 128} (h : r.toNat / 2 ^ 64 < 2 ^ 64 - 1) :
    countDrop r = r + (1#128 <<< 64) := by
  have payload : field r.toNat 127 64 = r.toNat / 2 ^ 64 := by unfold field; omega
  have below : field r.toNat 63 0 = r.toNat % 2 ^ 64 := by unfold field; omega
  rw [countDrop, payload, below]
  simp only [if_neg (Nat.ne_of_lt h)]
  apply BitVec.eq_of_toNat_eq
  rw [BitVec.toNat_add, BitVec.toNat_shiftLeft]
  simp only [BitVec.toNat_ofNat]
  omega

/-- An element that stands in a list is replaced where it stands. -/
theorem modify_eq_set_of_getElem? {α : Type} {l : List α} {n : Nat} {x : α} (h : l[n]? = some x) (f : α → α) :
    l.modify n f = l.set n (f x) := by
  obtain ⟨hn, rfl⟩ := List.getElem?_eq_some_iff.1 h
  refine List.ext_getElem? fun i => ?_
  rw [List.getElem?_modify, List.getElem?_set]
  by_cases hi : n = i
  · subst hi
    simp only [if_true, List.getElem?_eq_getElem hn, hn]
    rfl
  · simp only [if_neg hi]
    cases l[i]? <;> rfl

/-! ### A record that arrives (R246, R247) -/

theorem State.queuesBounded_iff {s : State} :
    s.queuesBounded = true ↔ ∀ k : CoreId, (s.core k).eventsBounded = true := by
  simp only [State.queuesBounded, List.all_eq_true, Vector.mem_toList_iff, State.core]
  exact ⟨fun h k => h _ (Vector.getElem_mem ..), fun h c hc => by
    obtain ⟨i, hi, rfl⟩ := Vector.getElem_of_mem hc
    exact h ⟨i, hi⟩⟩

theorem State.queuesBounded_setCore {s : State} {k : CoreId} {c : Core} (h : s.queuesBounded = true)
    (hc : c.eventsBounded = true) : (s.setCore k c).queuesBounded = true := by
  rw [State.queuesBounded_iff] at h ⊢
  intro j
  by_cases hj : j = k
  · rwa [hj, State.core_setCore_same]
  · rw [State.core_setCore_other _ _ hj]
    exact h j

/-- Record j has left those on their way. -/
def State.dropRecord (s : State) (j : Nat) : State := { s with records := dropNth s.records j }

@[simp] theorem State.dropRecord_core (s : State) (j : Nat) (k : CoreId) : (s.dropRecord j).core k = s.core k := rfl

theorem execEventRecordArrival_enters {s : State} {j : Nat} {k : CoreId} {r : BitVec 128}
    (hr : s.records[j]? = some (k, r)) (hw : recordWaits k r (s.records.take j) = false) :
    exec (.eventRecordArrival j) s = .next ((s.dropRecord j).setCore k ((s.core k).enqueue k r)) := by
  show execEventRecordArrival j s = _
  simp only [execEventRecordArrival, hr, hw]
  rfl

/-- A record that arrives stays on its way, or enters the queue of its core. -/
theorem execEventRecordArrival_cases (s : State) (j : Nat) : exec (.eventRecordArrival j) s = .next s ∨
    ∃ k r, exec (.eventRecordArrival j) s = .next ((s.dropRecord j).setCore k ((s.core k).enqueue k r)) := by
  cases hr : s.records[j]? with
  | none =>
    left
    show execEventRecordArrival j s = _
    simp only [execEventRecordArrival, hr]
  | some q =>
    obtain ⟨k, r⟩ := q
    cases hw : recordWaits k r (s.records.take j) with
    | true =>
      left
      show execEventRecordArrival j s = _
      simp only [execEventRecordArrival, hr, hw, if_true]
    | false => exact .inr ⟨k, r, execEventRecordArrival_enters hr hw⟩

/-! ### EVPOP and KEVQ (R248, R389) -/

section
variable {s : State} {k : CoreId} {d : XReg} (hk : s.focus.thread = .core k)
include hk

theorem execEvpop_empty (he : (s.core k).events = []) :
    exec (.evpopPoll d) s = WritesPair s d 0 0 ∧ exec (.evpopWait d) s = .next s := by
  refine ⟨?_, ?_⟩
  · show execEvpopPoll d s = _
    simp only [execEvpopPoll, onCore_core hk, he, WritesPair, hk]
  · show execEvpopWait d s = _
    simp only [execEvpopWait, onCore_core hk, he]

theorem popEvent_writesPair (r : BitVec 128) : .next (popEvent k d r s) =
    WritesPair (s.setCore k (s.core k).dequeue) d (r.setWidth 64) ((r >>> 64).setWidth 64) := by
  rw [WritesPair, State.setCore_focus, hk]
  rfl

theorem execEvpop_oldest {r : BitVec 128} {rest : List (BitVec 128)} (he : (s.core k).events = r :: rest) :
    exec (.evpopPoll d) s =
      WritesPair (s.setCore k (s.core k).dequeue) d (r.setWidth 64) ((r >>> 64).setWidth 64) ∧
    exec (.evpopWait d) s =
      WritesPair (s.setCore k (s.core k).dequeue) d (r.setWidth 64) ((r >>> 64).setWidth 64) := by
  rw [← popEvent_writesPair hk]
  refine ⟨?_, ?_⟩
  · show execEvpopPoll d s = _
    simp only [execEvpopPoll, onCore_core hk, he]
  · show execEvpopWait d s = _
    simp only [execEvpopWait, onCore_core hk, he]

end

theorem execKevqEmpty_pending {s : State} {k : CoreId} (h : (s.core k).kevqPending = true) :
    exec (.kevqEmpty k) s = .next (s.setCore k (s.core k).emptyEvents) := if_pos h

/-- Settles O15: each core's queue keeps `Core.eventsBounded` by `Core.eventsBounded_enqueue`; what a record does to it
is one of the three cases of `Core.enqueue`. -/
theorem eventQueues : Obligations.EventQueues := by
  refine ⟨fun s j hb => ?_, fun s k r rest hr => ?_, fun s k d r rest hk =>
    ⟨execEvpop_empty hk, fun he => ?_, fun hp => ?_⟩⟩
  · rcases execEventRecordArrival_cases s j with h | ⟨k, r, h⟩
    · exact ⟨s, h, hb⟩
    · exact ⟨_, h, State.queuesBounded_setCore hb (Core.eventsBounded_enqueue (State.queuesBounded_iff.1 hb k))⟩
  · have first : s.records[0]? = some (k, r) := by rw [hr]; rfl
    refine ⟨_, execEventRecordArrival_enters first rfl, by simp [State.dropRecord, hr, dropNth], ?_, ?_, ?_,
      fun j hj => State.core_setCore_other _ _ hj⟩
    all_goals rw [State.core_setCore_same]
    · intro hl
      rw [Core.enqueue_room hl]
      exact ⟨Core.wake_events _, Core.wake_wfeSince _⟩
    · intro hl ho
      rw [Core.enqueue_drops (Nat.le_of_eq hl.symm) ho]
      exact ⟨Core.wake_events _, Core.wake_wfeSince _⟩
    · intro n e hl ho he hn
      rw [Core.enqueue_counts hl ho, ← countDrop_unsaturated hn]
      exact ⟨modify_eq_set_of_getElem? he _, rfl⟩
  · obtain ⟨poll, wait⟩ := execEvpop_oldest (d := d) hk he
    refine ⟨poll, wait, ?_, ?_⟩ <;> rw [State.core_setCore_same]
    · rw [Core.dequeue, he]
      rfl
    · rfl
  · refine ⟨_, execKevqEmpty_pending hp, ?_, ?_, ?_⟩ <;> rw [State.core_setCore_same] <;> rfl

/-- Settles O58: the reset memories are empty, and every core is `Core.reset`, whose queue is empty. -/
theorem resetInvariants : Obligations.ResetInvariants := by
  refine ⟨memWf2 ⟨Memory.wf_empty, Memory.wf_empty⟩, State.queuesBounded_iff.2 fun k => ?_⟩
  have empty : (State.reset.core k).events = [] ∧ (State.reset.core k).overAt = none := by
    simp [State.core, State.reset, Core.reset]
  rw [Core.eventsBounded_iff_of_none empty.2, empty.1]
  decide

end Sys2Proof.Machine
end

section
/-!
PROOFS. A call's reply at its caller, and the reply token of a cell (O37).
-/

namespace Sys2Proof.Machine
open Sys2Proof

/-! ### Sources of control cores (R246) -/

theorem coreSrc_eq (k : CoreId) : coreSrc k = (coreDie k).val * 2 ^ 31 + 4 * coreNum k * 2 ^ 24 + 63 * 2 ^ 16 := by
  simp only [coreSrc, srcWord, Nat.zero_mul, Nat.add_zero]

theorem coreOf_val (die : Fin 2) (n : Nat) : (coreOf die n).val = 16 * die.val + n % 16 :=
  Nat.mod_eq_of_lt (show _ < 32 by omega)

/-- The control core of a cell's row group, whose number is a quarter of the row's. -/
theorem coreSrc_coreOf (die : Fin 2) {n : Nat} (h : n < 16) :
    coreSrc (coreOf die n) = die.val * 2 ^ 31 + 4 * n * 2 ^ 24 + 63 * 2 ^ 16 := by
  have value := coreOf_val die n
  have num : coreNum (coreOf die n) = n := by rw [coreNum, value]; omega
  have die' : (coreDie (coreOf die n)).val = die.val := by
    rw [coreDie, value]
    exact (Nat.mod_eq_of_lt (by omega)).trans (by omega)
  rw [coreSrc_eq, num, die']

/-! ### The record of a late reply (R246, R348) -/

/-- REMOTE_LATE of a reply, from the control core of a die and row group. -/
def CallReply.lateRecord (r : CallReply) (die group : Nat) : BitVec 128 :=
  record 6 0 r.status.toNat (die * 2 ^ 31 + 4 * group * 2 ^ 24 + 63 * 2 ^ 16) (r.num.toNat + r.entry % 2 ^ 12 * 2 ^ 32)

section
variable {s : State} {r : CallReply}

theorem State.remoteLate_core {k : CoreId} (h : r.caller = .core k) :
    s.remoteLate r = s.post k (r.lateRecord (coreDie k).val (coreNum k)) := by
  simp only [State.remoteLate, h, CallReply.lateRecord, coreSrc_eq]

theorem State.remoteLate_cell {c : CellId} {v : VpId} {b m : Nat} (h : r.caller = .cell c v b m) :
    s.remoteLate r = s.post (s.vp v).eventCore (r.lateRecord c.die.val (c.row.val / 4)) := by
  simp only [State.remoteLate, h, Caller.homeCore, CallReply.lateRecord,
    coreSrc_coreOf c.die (show c.row.val / 4 < 16 by omega)]

end

/-! ### The open call that a reply is too late for (R348) -/

/-- Where one element alone has an answer, the first answer is that one's. -/
theorem findSome?_of_only {α β : Type} {f : α → Option β} {a : α} {l : List α} (ha : a ∈ l)
    (h : ∀ x ∈ l, x ≠ a → f x = none) : l.findSome? f = f a := by
  cases hl : l.findSome? f with
  | none => exact (List.findSome?_eq_none_iff.1 hl a ha).symm
  | some b =>
    obtain ⟨x, hx, hfx⟩ := List.exists_of_findSome?_eq_some hl
    have only : x = a := Classical.byContradiction fun hne => by
      rw [h x hx hne] at hfx
      cases hfx
    rw [← only, hfx]

/-- A core's call is the only one of its number: its reply is too late where it has none at KRTIME. -/
theorem State.tooLate_core {s : State} {r : CallReply} {k : CoreId} {slot : Fin 16} {o : OpenCall}
    (hk : r.caller = .core k) (ho : (s.core k).slots[slot] = some o) (hn : o.call.num = r.num)
    (hc : o.call.caller = r.caller) (hr : o.reply = none)
    (only : ∀ (i : Fin 16) q, (s.core k).slots[i] = some q → q.call.num = r.num → q.call.caller = r.caller →
      i = slot) :
    s.tooLate r =
      if (s.core k).krtime.toNat * 800 ≤ s.cycle - o.sentAt then some (.core k, slot, o) else none := by
  simp only [State.tooLate, hk, Caller.holder, Option.bind_some]
  rw [findSome?_of_only (List.mem_finRange slot) fun i _ hi => ?_]
  · simp only [State.openCall, ho, Option.map_some, Option.filter_some, OpenCall.expired, hr, krtimeCycles, hn, hc, hk,
      beq_self_eq_true, Option.isNone_none, Bool.true_and, decide_eq_true_eq]
    split <;> rfl
  · cases hq : (s.core k).slots[i] with
    | none => simp only [State.openCall, hq, Option.map_none, Option.filter_none]
    | some q =>
      have other : (q.call.num == r.num && q.call.caller == .core k) = false := by
        rw [← Bool.not_eq_true, Bool.and_eq_true, beq_iff_eq, beq_iff_eq]
        exact fun ⟨h, h'⟩ => hi (only i q hq h (h'.trans hk.symm))
      simp only [State.openCall, hq, Option.map_some, Option.filter_some, other, Bool.false_and, Bool.false_eq_true,
        if_false, Option.map_none]

/-! ### A reply that arrives (R346, R348) -/

/-- A core whose call takes its reply: a WFE that waits goes on where a call waited for it (R395). -/
def Core.takeReply (c : Core) (r : CallReply) : Core :=
  let c' : Core := { c with slots := Vector.ofFn fun i => c.slots[i].map (Machine.takeReply r) }
  if c.slots.toList.any fun o => o.any fun o => o.call.num == r.num && o.call.caller == r.caller && o.reply.isNone then
    c'.wake
  else c'

theorem Core.takeReply_slots (c : Core) (r : CallReply) (slot : Fin 16) :
    (c.takeReply r).slots[slot] = c.slots[slot].map (Machine.takeReply r) := by
  unfold Core.takeReply
  dsimp only
  split <;> simp

/-- Reply j to a call has left those on their way. -/
def State.dropCallBack (s : State) (j : Nat) : State := { s with callBack := dropNth s.callBack j }

@[simp] theorem State.dropCallBack_core (s : State) (j : Nat) (k : CoreId) : (s.dropCallBack j).core k = s.core k := rfl
@[simp] theorem State.dropCallBack_cycle (s : State) (j : Nat) : (s.dropCallBack j).cycle = s.cycle := rfl

section
variable {s : State} {j : Nat} {r : CallReply} (hr : s.callBack[j]? = some r)
  (hc : s.cleared.contains (r.caller, r.num) = false)
include hr hc

theorem execCallReplyArrival_lost (hl : s.lost.contains (r.caller, r.num) = true) :
    exec (.callReplyArrival j) s = .next ((s.dropCallBack j).remoteLate r) := by
  show execCallReplyArrival j s = _
  simp only [execCallReplyArrival, hr, hc, hl, Bool.false_eq_true, if_false, if_true]
  rfl

variable (hl : s.lost.contains (r.caller, r.num) = false)
include hl

theorem execCallReplyArrival_late {c : CallerId} {slot : Fin 16} {o : OpenCall}
    (ht : (s.dropCallBack j).tooLate r = some (c, slot, o)) :
    exec (.callReplyArrival j) s = .next (((s.dropCallBack j).declareLost c slot o).remoteLate r) := by
  show execCallReplyArrival j s = _
  rw [State.dropCallBack] at ht
  simp only [execCallReplyArrival, hr, hc, hl, ht, Bool.false_eq_true, if_false]
  rfl

variable (ht : (s.dropCallBack j).tooLate r = none)
include ht

theorem execCallReplyArrival_core {k : CoreId} (hk : r.caller = .core k) :
    exec (.callReplyArrival j) s = .next ((s.dropCallBack j).setCore k ((s.core k).takeReply r)) := by
  show execCallReplyArrival j s = _
  rw [State.dropCallBack] at ht
  rw [hk] at hc hl
  simp only [execCallReplyArrival, hr, hk, hc, hl, ht, Bool.false_eq_true, if_false]
  simp only [Core.takeReply, hk]
  rfl

theorem execCallReplyArrival_cell {c : CellId} {v : VpId} {b m : Nat} (hcell : r.caller = .cell c v b m) :
    exec (.callReplyArrival j) s = .next ((s.dropCallBack j).setCell c { (s.dropCallBack j).cell c with
      calls := ((s.dropCallBack j).cell c).calls.map (takeReply r) }) := by
  show execCallReplyArrival j s = _
  rw [State.dropCallBack] at ht
  rw [hcell] at hc hl
  simp only [execCallReplyArrival, hr, hcell, hc, hl, ht, Bool.false_eq_true, if_false]
  rfl

end

/-! ### The reply token of a cell (R226, R338) -/

/-- The ORD token of a reply: status, results, slot and block (R338). -/
def CallReply.token (q : CallReply) (slot block : Nat) : Token :=
  headToken 0xC01F [q.status.toNat, q.r0.toNat % 2 ^ 32, q.r0.toNat / 2 ^ 32, q.r1.toNat % 2 ^ 32, q.r1.toNat / 2 ^ 32]
    slot block

/-- A cell with other open calls. -/
def State.keepCalls (s : State) (c : CellId) (rest : List OpenCall) : State :=
  s.setCell c { s.cell c with calls := rest }

theorem State.inRoutes_keepCalls (s : State) (c : CellId) (rest : List OpenCall) (port : Fin 8) :
    (s.keepCalls c rest).inRoutes c port = s.inRoutes c port := by
  have program : ((s.keepCalls c rest).cell c).program = (s.cell c).program := by
    rw [State.keepCalls, State.cell_setCell_same]
  have retired : (s.keepCalls c rest).isRetired c = s.isRetired c := rfl
  rw [State.inRoutes, program, retired, State.inRoutes]

section
variable {s : State} {c : CellId} {v : VpId} {slot block : Nat} {o : OpenCall} {q : CallReply} {rest : List OpenCall}
  (hcalls : (s.cell c).calls = o :: rest) (hq : o.reply = some q) (ho : o.call.caller = .cell c v slot block)
include hcalls hq ho

/-- What the step of a cell's answered call decides, in its order. -/
theorem execCallReplyToken_eq : exec (.callReplyToken c) s =
    if s.hosted v c = false then .next ((s.keepCalls c rest).dropOrphan v (c.src 0 0))
    else if s.admits c 6 1 then .next (((s.keepCalls c rest).arrive c 6 [q.token slot block]).getD s)
    else .next s := by
  show execCallReplyToken c s = _
  simp only [execCallReplyToken, hcalls, takeAnswered, hq, ho, Bool.not_eq_true']
  rfl

theorem execCallReplyToken_orphan (hh : s.hosted v c = false) :
    exec (.callReplyToken c) s = .next ((s.keepCalls c rest).dropOrphan v (c.src 0 0)) := by
  rw [execCallReplyToken_eq hcalls hq ho, if_pos hh]

variable (hh : s.hosted v c = true)
include hh

theorem execCallReplyToken_arrives (ha : s.admits c 6 1 = true) : exec (.callReplyToken c) s =
    .next (((s.keepCalls c rest).arrive c 6 [q.token slot block]).getD s) := by
  rw [execCallReplyToken_eq hcalls hq ho, if_neg (by simp [hh]), if_pos ha]

theorem execCallReplyToken_waits (ha : s.admits c 6 1 = false) : exec (.callReplyToken c) s = .next s := by
  rw [execCallReplyToken_eq hcalls hq ho, if_neg (by simp [hh]), if_neg (by simp [ha])]

end

/-- Settles O37: a reply finds its call LOST, too late (`State.tooLate_core`) or waiting; the token of a cell's answered
call meets a port without routes, one with routes, or no VP. -/
theorem remoteReplies : Obligations.RemoteReplies := by
  intro s j r out hr hc late lost
  refine ⟨fun hl k hk => ?_, fun hl c v b m hcell => ?_, fun hl => ⟨fun k slot o hk ho hn hcall hnone only => ?_,
    fun c v b m slot o hcell ht => ?_, fun c v b m hcell ht => ?_⟩, fun c v slot block o q rest hcalls hq ho => ?_⟩
  · rw [execCallReplyArrival_lost hr hc hl, State.remoteLate_core hk]
    rfl
  · rw [execCallReplyArrival_lost hr hc hl, State.remoteLate_cell hcell]
    rfl
  · have tooLate := State.tooLate_core (s := s.dropCallBack j) hk ho hn hcall hnone only
    rw [State.dropCallBack_core, State.dropCallBack_cycle] at tooLate
    refine ⟨fun hin => ?_, fun hout => ?_⟩
    · rw [if_neg (Nat.not_le.2 hin)] at tooLate
      refine ⟨_, execCallReplyArrival_core hr hc hl tooLate hk, ?_, fun m hm => State.core_setCore_other _ _ hm⟩
      rw [State.core_setCore_same, Core.takeReply_slots, ho, Option.map_some, takeReply, if_pos ⟨hn, hcall, hnone⟩]
    · rw [if_pos hout] at tooLate
      rw [execCallReplyArrival_late hr hc hl tooLate, State.remoteLate_core hk, ← hn, ← hcall]
      rfl
  · rw [execCallReplyArrival_late hr hc hl ht, State.remoteLate_cell hcell]
    rfl
  · rw [execCallReplyArrival_cell hr hc hl ht hcell]
    rfl
  · refine ⟨fun hh hi hp => ?_, fun hh hi => ?_, fun hh hi hp => ?_, execCallReplyToken_orphan hcalls hq ho⟩
    · rw [execCallReplyToken_arrives hcalls hq ho hh (by rw [State.admits_unrouted _ _ _ hi, hp]),
        State.arrive_unrouted _ _ _ _ (by rw [State.inRoutes_keepCalls, hi])]
      rfl
    · rw [execCallReplyToken_arrives hcalls hq ho hh (State.admits_routed _ _ _ hi 1)]
      rfl
    · exact execCallReplyToken_waits hcalls hq ho hh (by rw [State.admits_unrouted _ _ _ hi, hp])

end Sys2Proof.Machine
end

section
/-!
PROOFS. The band scheduler: aging, the choice of the candidate, and its admission (O49).
-/

namespace Sys2Proof.Machine
open Sys2Proof

/-! ### A scheduler, and the turns of its partitions (R231, R385) -/

@[simp] theorem State.sched_setSched_same (s : State) (die : Fin 2) (d : Scheduler) :
    (s.setSched die d).sched die = d := by
  simp [State.sched, State.setSched]

@[simp] theorem Scheduler.turn_setTurn_same (d : Scheduler) (t : Option (BitVec 8)) (x : Fin 16 × Option (Fin 16)) :
    (d.setTurn t x).turn t = x := by
  cases t with
  | none => rfl
  | some t => exact alGet_alSet_same ..

theorem Scheduler.turn_setTurn_other (d : Scheduler) {t o : BitVec 8} (x : Fin 16 × Option (Fin 16)) (h : o ≠ t) :
    (d.setTurn (some t) x).turn (some o) = d.turn (some o) := alGet_alSet_other _ _ _ h

theorem State.slotTenant_shared {s : State} (h : s.kstrict = false) : s.slotTenant = none := by
  simp [State.slotTenant, h]

theorem State.slotTenant_strict {s : State} (h : s.kstrict = true) :
    s.slotTenant = some (Config.strictSlot s.cycle) := if_pos h

theorem State.inSlot_shared {s : State} (h : s.kstrict = false) (die : Fin 2) (q : Fin 16) :
    s.inSlot die q = true := by
  simp [State.inSlot, State.slotTenant_shared h]

theorem State.inSlot_strict {s : State} {die : Fin 2} {q : Fin 16} {l : Launch} {rest : List Launch}
    (h : s.kstrict = true) (hq : ((s.sched die).queues[q]).launches = l :: rest) :
    s.inSlot die q = true ↔ (s.vp l.vp).tenant = Config.strictSlot s.cycle := by
  have launches : (s.queue die q).launches = l :: rest := hq
  simp only [State.inSlot, State.slotTenant_strict h, launches, beq_iff_eq]

/-! ### Aging (R230) -/

theorem LaunchQueue.aged_of_cons {q : LaunchQueue} {l : Launch} {rest : List Launch} (h : q.launches = l :: rest)
    (now : Nat) : q.aged now = { q with effective := min 3 (l.priority + (now - q.headSince) / 51200) } := by
  rw [LaunchQueue.aged, h]
  rfl

@[simp] theorem LaunchQueue.aged_launches (q : LaunchQueue) (now : Nat) : (q.aged now).launches = q.launches := by
  unfold LaunchQueue.aged
  split <;> rfl

section
variable (s : State) (die : Fin 2)

theorem State.sched_age : (s.age die).sched die =
    { s.sched die with queues := Vector.ofFn fun i => ((s.sched die).queues[i]).aged s.cycle } :=
  State.sched_setSched_same ..

theorem State.queues_age (q : Fin 16) :
    ((s.age die).sched die).queues[q] = ((s.sched die).queues[q]).aged s.cycle := by
  simp [State.sched_age]

theorem State.turn_age (t : Option (BitVec 8)) : ((s.age die).sched die).turn t = (s.sched die).turn t := by
  rw [State.sched_age]
  rfl

end

/-! ### The best of some queues (R231) -/

/-- A queue has a launch that may be chosen. -/
def Scheduler.waits (d : Scheduler) (q : Fin 16) : Prop := (d.queues[q]).enabled = true ∧ (d.queues[q]).launches ≠ []

section
variable {d : Scheduler} {q : Fin 16} {l : List (Fin 16)} {best : Option (Fin 16)}

theorem Scheduler.passedOver_iff :
    (!(d.queues[q]).enabled || (d.queues[q]).launches.isEmpty) = true ↔ ¬ d.waits q := by
  rw [Scheduler.waits, Bool.or_eq_true, Bool.not_eq_true', List.isEmpty_iff, not_and,
    Classical.not_not, Decidable.imp_iff_not_or, Bool.not_eq_true]

theorem bestQueue_takes (hq : d.waits q) (h : ∀ b, best = some b → (d.queues[b]).effective < (d.queues[q]).effective) :
    bestQueue d (q :: l) best = bestQueue d l (some q) := by
  have goes := fun h => Scheduler.passedOver_iff.1 h hq
  cases best with
  | none => exact if_neg goes
  | some b => exact (if_neg goes).trans (if_pos (h b rfl))

theorem bestQueue_keeps (h : d.waits q → ∃ b, best = some b ∧ (d.queues[q]).effective ≤ (d.queues[b]).effective) :
    bestQueue d (q :: l) best = bestQueue d l best := by
  by_cases hq : d.waits q
  · obtain ⟨b, rfl, hb⟩ := h hq
    exact (if_neg fun h => Scheduler.passedOver_iff.1 h hq).trans (if_neg (Nat.not_lt.2 hb))
  · exact if_pos (Scheduler.passedOver_iff.2 hq)

/-- Either a queue is better than the best before it, or that one stays. -/
theorem bestQueue_cases (d : Scheduler) (q : Fin 16) (best : Option (Fin 16)) :
    (d.waits q ∧ ∀ b, best = some b → (d.queues[b]).effective < (d.queues[q]).effective) ∨
    (d.waits q → ∃ b, best = some b ∧ (d.queues[q]).effective ≤ (d.queues[b]).effective) := by
  by_cases hq : d.waits q
  · cases best with
    | none => exact .inl ⟨hq, by simp⟩
    | some b =>
      rcases Nat.lt_or_ge (d.queues[b]).effective (d.queues[q]).effective with h | h
      · exact .inl ⟨hq, by simpa using h⟩
      · exact .inr fun _ => ⟨b, rfl, h⟩
  · exact .inr fun h => absurd h hq

/-- No queue is chosen only where none waits. -/
theorem bestQueue_eq_none (h : bestQueue d l best = none) : best = none ∧ ∀ q ∈ l, ¬ d.waits q := by
  induction l generalizing best with
  | nil => exact ⟨h, by simp⟩
  | cons x xs ih =>
    rcases bestQueue_cases d x best with ⟨hx, hb⟩ | hk
    · rw [bestQueue_takes hx hb] at h
      cases (ih h).1
    · rw [bestQueue_keeps hk] at h
      obtain ⟨rfl, hxs⟩ := ih h
      refine ⟨rfl, List.forall_mem_cons.2 ⟨fun hx => ?_, hxs⟩⟩
      obtain ⟨b, hb, -⟩ := hk hx
      cases hb

/-- A queue of a list is the first of its best: those before it are worse, and none after it is better. -/
def Scheduler.FirstBest (d : Scheduler) (l : List (Fin 16)) (q : Fin 16) : Prop :=
  d.waits q ∧ ∃ l₁ l₂, l = l₁ ++ q :: l₂ ∧
    (∀ p ∈ l₁, d.waits p → (d.queues[p]).effective < (d.queues[q]).effective) ∧
    ∀ p ∈ l₂, d.waits p → (d.queues[p]).effective ≤ (d.queues[q]).effective

theorem Scheduler.FirstBest.cons {x : Fin 16} (h : d.FirstBest l q)
    (hx : d.waits x → (d.queues[x]).effective < (d.queues[q]).effective) : d.FirstBest (x :: l) q := by
  obtain ⟨hq, l₁, l₂, rfl, h₁, h₂⟩ := h
  exact ⟨hq, x :: l₁, l₂, rfl, List.forall_mem_cons.2 ⟨hx, h₁⟩, h₂⟩

/-- The choice is the best before the list, where no queue of it is better, or the first best of the list. -/
theorem bestQueue_eq_some (h : bestQueue d l best = some q) :
    (best = some q ∧ ∀ p ∈ l, d.waits p → (d.queues[p]).effective ≤ (d.queues[q]).effective) ∨
    (d.FirstBest l q ∧ ∀ b, best = some b → (d.queues[b]).effective < (d.queues[q]).effective) := by
  induction l generalizing best with
  | nil => exact .inl ⟨h, by simp⟩
  | cons x xs ih =>
    rcases bestQueue_cases d x best with ⟨hx, hb⟩ | hk
    · rw [bestQueue_takes hx hb] at h
      rcases ih h with ⟨hxq, hxs⟩ | ⟨hfirst, hlt⟩
      · cases hxq
        exact .inr ⟨⟨hx, [], xs, rfl, by simp, hxs⟩, hb⟩
      · have better := hlt x rfl
        exact .inr ⟨hfirst.cons fun _ => better, fun b hbest => Nat.lt_trans (hb b hbest) better⟩
    · rw [bestQueue_keeps hk] at h
      rcases ih h with ⟨hbest, hxs⟩ | ⟨hfirst, hlt⟩
      · refine .inl ⟨hbest, List.forall_mem_cons.2 ⟨fun hx => ?_, hxs⟩⟩
        obtain ⟨b, hb, hle⟩ := hk hx
        cases hbest.symm.trans hb
        exact hle
      · refine .inr ⟨hfirst.cons fun hx => ?_, hlt⟩
        obtain ⟨b, hb, hle⟩ := hk hx
        exact Nat.lt_of_le_of_lt hle (hlt b hb)

theorem bestQueue_firstBest (h : bestQueue d l none = some q) : d.FirstBest l q := by
  rcases bestQueue_eq_some h with ⟨hnone, -⟩ | ⟨hfirst, -⟩
  · cases hnone
  · exact hfirst

end

/-! ### The order from the pointer on (R231) -/

theorem queue_add_sub_cancel (p q : Fin 16) : p + (q - p) = q := by
  apply Fin.ext
  rw [Fin.val_add, Fin.val_sub]
  omega

theorem queue_add_sub_cancel_left (p i : Fin 16) : p + i - p = i := by
  apply Fin.ext
  rw [Fin.val_sub, Fin.val_add]
  omega

theorem mem_fromPointer (p q : Fin 16) : q ∈ fromPointer p :=
  List.mem_map.2 ⟨q - p, List.mem_finRange _, queue_add_sub_cancel p q⟩

/-- Queues further on in the order stand further from the pointer. -/
theorem fromPointer_sorted (p : Fin 16) : (fromPointer p).Pairwise fun a b => (a - p).val < (b - p).val := by
  refine List.pairwise_map.2 ((List.pairwise_lt_finRange 16).imp fun {a b} h => ?_)
  rwa [queue_add_sub_cancel_left, queue_add_sub_cancel_left]

/-- Among equals the first best is the nearest to the pointer. -/
theorem Scheduler.FirstBest.nearest {d : Scheduler} {p q : Fin 16} (h : d.FirstBest (fromPointer p) q) {o : Fin 16}
    (ho : d.waits o) : (d.queues[o]).effective ≤ (d.queues[q]).effective ∧
      ((d.queues[o]).effective = (d.queues[q]).effective → (q - p).val ≤ (o - p).val) := by
  obtain ⟨-, l₁, l₂, hl, h₁, h₂⟩ := h
  have sorted := fromPointer_sorted p
  have mem := mem_fromPointer p o
  rw [hl] at sorted mem
  obtain ⟨-, after, -⟩ := List.pairwise_append.1 sorted
  rcases List.mem_append.1 mem with hbefore | hfrom
  · have worse := h₁ o hbefore ho
    exact ⟨Nat.le_of_lt worse, fun he => absurd he (Nat.ne_of_lt worse)⟩
  · rcases List.mem_cons.1 hfrom with rfl | hafter
    · exact ⟨Nat.le_refl _, fun _ => Nat.le_refl _⟩
    · exact ⟨h₂ o hafter ho, fun _ => Nat.le_of_lt ((List.pairwise_cons.1 after).1 o hafter)⟩

/-! ### The scheduler's steps (R231, R232, R385) -/

section
variable {s : State} {die : Fin 2}

theorem execCandidateChoice_chosen (h : ((s.sched die).turn s.slotTenant).2 ≠ none) :
    exec (.candidateChoice die) s = .next s :=
  if_pos (Option.isSome_iff_ne_none.2 h)

/-- The queues that may be chosen from, in the order from the pointer. -/
def State.choices (s : State) (die : Fin 2) : List (Fin 16) :=
  (fromPointer ((s.sched die).turn s.slotTenant).1).filter fun q => s.inSlot die q

/-- The state in which a scheduler has chosen among its aged heads. -/
def State.choose (s : State) (die : Fin 2) : State :=
  let d := s.sched die
  s.setSched die (d.setTurn s.slotTenant ((d.turn s.slotTenant).1, bestQueue d (s.choices die) none))

theorem execCandidateChoice_chooses (h : ((s.sched die).turn s.slotTenant).2 = none) :
    exec (.candidateChoice die) s = .next ((s.age die).choose die) :=
  if_neg (by simp [h])

theorem State.turn_choose : (((s.choose die).sched die).turn s.slotTenant).2 =
    bestQueue (s.sched die) (s.choices die) none := by
  simp [State.choose]

theorem State.choices_shared (h : s.kstrict = false) : s.choices die = fromPointer (s.sched die).pointer := by
  rw [State.choices, State.slotTenant_shared h]
  exact List.filter_eq_self.2 fun q _ => State.inSlot_shared h die q

theorem execAdmission_candidate {q : Fin 16} {l : Launch} {rest : List Launch} (hk : s.kstrict = false)
    (hc : (s.sched die).candidate = some q) (hq : ((s.sched die).queues[q]).launches = l :: rest) :
    exec (.admission die) s = if s.held then .next s
      else (s.findBand die (s.queue die q) ((s.splicedWith l.vp).map s.vp) (s.vp l.vp).b true).elim (.next s)
        fun base => .next ((s.popCandidate die q rest).admitVp l.vp base) := by
  have chosen : ((s.sched die).turn s.slotTenant).2 = some q := by
    rw [State.slotTenant_shared hk]
    exact hc
  have launches : (s.queue die q).launches = l :: rest := hq
  show execAdmission die s = _
  simp only [execAdmission, chosen, launches, State.inSlot_shared hk, Bool.not_true, Bool.false_eq_true, if_false]
  cases s.findBand die (s.queue die q) ((s.splicedWith l.vp).map s.vp) (s.vp l.vp).b true <;> rfl

theorem State.turn_popCandidate (q : Fin 16) (rest : List Launch) :
    ((s.popCandidate die q rest).sched die).turn s.slotTenant = (q + 1, none) := by
  unfold State.popCandidate
  dsimp only
  rw [State.sched_setSched_same]
  exact Scheduler.turn_setTurn_same ..

end

/-- Settles O49: the candidate is the first best of the queues from the pointer on (`bestQueue_firstBest`), in strict
mode of those in the slot. -/
theorem scheduling : Obligations.Scheduling := by
  intro s die d
  refine ⟨⟨_, rfl, fun q l rest hq => ?_⟩, fun hk hc => ?_, fun hk hc => ?_, fun hk => ⟨fun hc => ?_, fun hc => ?_⟩,
    fun q l rest hk hc hq => ⟨fun hh => ?_, fun hh => ⟨fun base hb => ?_, fun hb => ?_⟩⟩, fun q rest hk => ?_⟩
  · rw [State.queues_age, LaunchQueue.aged_of_cons hq]
  · exact execCandidateChoice_chosen (by rwa [State.slotTenant_shared hk])
  · have shared : (s.age die).kstrict = false := hk
    have choice := State.turn_choose (s := s.age die) (die := die)
    rw [State.slotTenant_shared shared, State.choices_shared shared] at choice
    refine ⟨_, execCandidateChoice_chooses (by rwa [State.slotTenant_shared hk]), fun q hq => ?_, fun hnone p => ?_⟩
    · have first := bestQueue_firstBest (choice.symm.trans hq)
      exact ⟨first.1, fun p hp => first.nearest hp⟩
    · exact (bestQueue_eq_none (choice.symm.trans hnone)).2 p (mem_fromPointer _ p)
  · exact execCandidateChoice_chosen (by rwa [State.slotTenant_strict hk])
  · have slot : (s.age die).slotTenant = some (Config.strictSlot s.cycle) := State.slotTenant_strict hk
    have choice := State.turn_choose (s := s.age die) (die := die)
    rw [slot] at choice
    refine ⟨_, execCandidateChoice_chooses (by rwa [State.slotTenant_strict hk]), fun o ho => ?_, fun q hq => ?_⟩
    · rw [State.choose, State.sched_setSched_same, slot, Scheduler.turn_setTurn_other _ _ ho, State.turn_age]
    · obtain ⟨⟨-, hne⟩, l₁, l₂, hl, -⟩ := bestQueue_firstBest (choice.symm.trans hq)
      have mem : q ∈ (s.age die).choices die := by simp [hl]
      obtain ⟨l, rest, hlr⟩ := List.exists_cons_of_ne_nil hne
      have inSlot := (State.inSlot_strict (s := s.age die) hk hlr).1 (List.mem_filter.1 mem).2
      rw [State.queues_age, LaunchQueue.aged_launches] at hlr
      exact ⟨l, rest, hlr, inSlot⟩
  · rw [execAdmission_candidate hk hc hq, if_pos hh]
  · rw [execAdmission_candidate hk hc hq, if_neg (by simp [hh]), hb]
    rfl
  · rw [execAdmission_candidate hk hc hq, if_neg (by simp [hh]), hb]
    rfl
  · have popped := State.turn_popCandidate (s := s) (die := die) q rest
    rw [State.slotTenant_shared hk] at popped
    exact ⟨congrArg Prod.fst popped, congrArg Prod.snd popped⟩

end Sys2Proof.Machine
end

section
/-!
PROOFS. Control core: SBIND, SBAR, BARW, PREEMPT and RESUME (O29).
-/

namespace Sys2Proof.Machine
open Sys2Proof

section
variable {s : State} {k : CoreId} {d a b : XReg} (hk : s.focus.thread = .core k)
include hk

/-! ### SBIND (R227, R229) -/

/-- What SBIND of a queue decides, in its order. -/
theorem execSbind_eq {q : Fin 16} (hp : (s.core k).thread.priv = true)
    (ha : ((s.thread (.core k)).get a).toNat < 16) (hq : q = Fin.ofNat 16 ((s.thread (.core k)).get a).toNat) :
    exec (.sbind d a b) s =
      let x := s.queue (coreDie k) q
      let xb := ((s.thread (.core k)).get b).toNat
      if 2 ^ 32 ≤ xb ∨ bindingOk xb = false then handleDone s (.core k) d x.binding.toNat .badDesc
      else if x.launches ≠ [] then handleDone s (.core k) d x.binding.toNat .rejected
      else handleDone (s.setQueue (coreDie k) q { x with binding := BitVec.ofNat 32 xb }) (.core k) d
        x.binding.toNat .ok := by
  have reserved : field ((s.thread (.core k)).get a).toNat 63 4 = 0 := by
    rw [field_to_top _ (by decide)]
    omega
  have number : field ((s.thread (.core k)).get a).toNat 3 0 = ((s.thread (.core k)).get a).toNat := by
    rw [field_from_zero]
    omega
  have high : field ((s.thread (.core k)).get b).toNat 63 32 ≠ 0 ↔ 2 ^ 32 ≤ ((s.thread (.core k)).get b).toNat := by
    rw [field_to_top _ (by decide)]
    omega
  show execSbind d a b s = _
  simp only [execSbind, onPrivCore_priv hk hp, reserved, number, ← hq, Bool.or_eq_true, bne_iff_ne, high,
    ne_eq, not_true_eq_false, false_or, Bool.not_eq_true', List.isEmpty_eq_false_iff]

/-! ### SBAR (R237) -/

/-- Rows lo to hi of a die. -/
def rowsFromTo (die : Fin 2) (lo hi : Nat) : List RowId :=
  ((List.range 64).filter fun r => decide (lo ≤ r) && decide (r ≤ hi)).map fun r => ⟨die, Fin.ofNat 64 r⟩

/-- The rows among some that host nothing and keep an image. -/
def State.freeKept (s : State) (rows : List RowId) : List RowId := rows.filter fun r => !s.rowBusy r && s.rowKeeps r

theorem execSbar_drops {xa : Nat} (hxa : xa = ((s.thread (.core k)).get a).toNat)
    (hp : (s.thread (.core k)).priv = true) (hz : xa / 64 % 4 = 0) (ht : xa < 2 ^ 14) (hle : xa % 64 ≤ xa / 256 % 64) :
    let free := s.freeKept (rowsFromTo (coreDie k) (xa % 64) (xa / 256 % 64))
    exec (.sbar d a) s = handleDone (free.foldl (fun s r => s.dropKept r) s) (.core k) d free.length .ok := by
  have top : field xa 63 14 = 0 := by
    rw [hxa, field_to_top _ (by decide), ← hxa]
    omega
  have zero : field xa 7 6 = 0 := hz
  have lo : field xa 5 0 = xa % 64 := field_from_zero ..
  have hi : field xa 13 8 = xa / 256 % 64 := rfl
  show execSbar d a s = _
  simp only [execSbar, onCore_core hk, ← hxa, top, zero, lo, hi, hp, bne_self_eq_false,
    Bool.not_true, Bool.false_and, Bool.false_or, Bool.or_false, decide_eq_true_eq, if_neg (Nat.not_lt.2 hle)]
  rfl

/-! ### BARW (R244) -/

theorem execBarw_badDesc (h : 2 ^ 32 ≤ ((s.thread (.core k)).get a).toNat) :
    exec (.barw d a) s = handleDone s (.core k) d 0 .badDesc := by
  show execBarw d a s = _
  rw [execBarw, onCore_core hk]
  exact if_pos (bne_iff_ne.2 (by omega))

/-- What BARW of a handle decides, in its order. -/
theorem execBarw_eq (h : ((s.thread (.core k)).get a).toNat < 2 ^ 32) : exec (.barw d a) s =
    (s.named (coreDie k) (s.thread (.core k)).tenant (s.thread (.core k)).priv
      ((s.thread (.core k)).get a).toNat).elim (handleDone s (.core k) d 0 .ok) fun v =>
        if (s.vp v).stage = .preempted then handleDone s (.core k) d 1 .ok
        else if (s.core k).events = [] then .next s else handleDone s (.core k) d 2 .ok := by
  have high : ((s.thread (.core k)).get a).toNat / 2 ^ 32 = 0 := by omega
  show execBarw d a s = _
  simp only [execBarw, onCore_core hk, high, bne_self_eq_false, Bool.false_eq_true, if_false, List.isEmpty_iff]
  cases s.named (coreDie k) (s.thread (.core k)).tenant (s.thread (.core k)).priv
    ((s.thread (.core k)).get a).toNat <;> rfl

/-! ### PREEMPT (R242) -/

theorem execPreempt_unnamed (hv : s.named (coreDie k) (s.thread (.core k)).tenant (s.thread (.core k)).priv
    ((s.thread (.core k)).get a).toNat = none) :
    exec (.preempt d a) s = handleDone s (.core k) d 0 .badDesc := by
  show execPreempt d a s = _
  simp only [execPreempt, onCore_core hk, hv]

section
variable {v : VpId} (hv : s.named (coreDie k) (s.thread (.core k)).tenant (s.thread (.core k)).priv
    ((s.thread (.core k)).get a).toNat = some v)
  (hfit : ∀ w ∈ s.splicedWith v, (s.vp w).contextFits = true)
include hv hfit

theorem execPreempt_live (h : (s.vp v).stage = .live) :
    exec (.preempt d a) s = handleDone (s.startPreempt v) (.core k) d 0 .ok := by
  show execPreempt d a s = _
  simp only [execPreempt, onCore_core hk, hv, List.all_eq_true.2 hfit, h, Bool.not_true, Bool.false_eq_true, if_false]

theorem execPreempt_queued (h : (s.vp v).stage = .queued) :
    exec (.preempt d a) s = handleDone (s.preemptQueued k v) (.core k) d 0 .ok := by
  show execPreempt d a s = _
  simp only [execPreempt, onCore_core hk, hv, List.all_eq_true.2 hfit, h, Bool.not_true, Bool.false_eq_true, if_false]

theorem execPreempt_preempted (h : (s.vp v).stage = .preempted) :
    exec (.preempt d a) s = handleDone s (.core k) d 1 .ok := by
  show execPreempt d a s = _
  simp only [execPreempt, onCore_core hk, hv, List.all_eq_true.2 hfit, h, Bool.not_true, Bool.false_eq_true, if_false]

end

end

/-- A VP whose context is empty after its pre-emption. -/
def Vp.emptied (x : Vp) : Prop := x.stage = .preempted ∧ x.context = false

theorem Vp.emptied_fresh (x : Vp) : x.fresh.emptied := ⟨rfl, rfl⟩

theorem State.mem_splicedWith (s : State) (v : VpId) : v ∈ s.splicedWith v :=
  List.mem_append.2 (.inr List.mem_cons_self)

theorem State.vp_unqueue (s : State) (die : Fin 2) (q : Fin 16) (vs : List VpId) (v : VpId) :
    (s.unqueue die q vs).vp v = s.vp v := by
  unfold State.unqueue
  dsimp only
  split <;> rfl

/-- A launch taken out of its queue: its VP afresh, and its record posted (R242). -/
def State.preemptLaunch (s : State) (k : CoreId) (w : VpId) : State :=
  ((s.drop (s.tokensOf w)).setVp w (s.vp w).fresh).postVp w (record 7 0 0 (coreSrc k) w.handle)

theorem State.vp_preemptLaunch_same (s : State) (k : CoreId) (w : VpId) :
    (s.preemptLaunch k w).vp w = (s.vp w).fresh := State.vp_setVp_same ..

theorem State.vp_preemptLaunch_other (s : State) (k : CoreId) {v w : VpId} (h : v ≠ w) :
    (s.preemptLaunch k w).vp v = s.vp v := State.vp_setVp_other _ _ h

/-- A VP that is empty, or is taken out by one of some pre-emptions, is empty after them. -/
theorem State.emptied_preemptLaunches {k : CoreId} {v : VpId} (vs : List VpId) {s : State}
    (h : (s.vp v).emptied ∨ v ∈ vs) : ((vs.foldl (fun s w => s.preemptLaunch k w) s).vp v).emptied := by
  induction vs generalizing s with
  | nil => exact h.resolve_right List.not_mem_nil
  | cons w vs ih =>
    refine ih ?_
    by_cases hv : v = w
    · left
      rw [hv, State.vp_preemptLaunch_same]
      exact Vp.emptied_fresh _
    · rw [State.vp_preemptLaunch_other _ _ hv]
      exact h.imp_right fun hm => (List.mem_cons.1 hm).resolve_left hv

theorem State.emptied_preemptQueued (s : State) (k : CoreId) (v : VpId) : ((s.preemptQueued k v).vp v).emptied :=
  State.emptied_preemptLaunches (s.splicedWith v) (.inr (s.mem_splicedWith v))

/-! ### RESUME (R243) -/

/-- A release of a control core, its calls accepted, drains its store queue (R66). -/
theorem release_core {s : State} {k : CoreId} {f : State → Res} (hk : s.focus.thread = .core k)
    (ha : s.callsAccepted (.core k) = true) : release f s = f (s.drain k) := by
  rw [release_goes (by rw [hk]; exact ha), hk]
  rfl

/-- VPs that go back into their queue. -/
def State.requeue (s : State) (vs : List VpId) : State :=
  vs.foldl (fun s w => s.setVp w { s.vp w with stage := .queued }) s

theorem execResume_queues {s : State} {k : CoreId} {d b : XReg} {ca : CReg} {v : VpId} {cap : Cap}
    (hk : s.focus.thread = .core k) (ha : s.callsAccepted (.core k) = true)
    (hth : (s.drain k).thread (.core k) = s.thread (.core k)) (hcap : cap = (s.thread (.core k)).cap ca)
    (hv : (s.drain k).named (coreDie k) (s.thread (.core k)).tenant (s.thread (.core k)).priv
      ((s.thread (.core k)).get b).toNat = some v)
    (hstage : ((s.drain k).vp v).stage = .preempted) (ht : cap.tag = true) (ho : cap.otype = 0)
    (hbase : cap.base = ((s.drain k).vp v).saveCap.base) (hlen : cap.length = ((s.drain k).vp v).saveCap.length)
    (hten : cap.tenant = ((s.drain k).vp v).saveCap.tenant)
    (hband : (s.drain k).findBand (coreDie k) ((s.drain k).queue (coreDie k) ((s.drain k).vp v).queue)
      (((s.drain k).splicedWith v).map (s.drain k).vp) ((s.drain k).vp v).b false ≠ none)
    (hroom : ((s.drain k).queue (coreDie k) ((s.drain k).vp v).queue).launches.length < 64) :
    exec (.resume d ca b) s = handleDone (((s.drain k).requeue ((s.drain k).splicedWith v)).enqueueLaunch v
      ((s.drain k).vp v).queue true) (.core k) d v.handle .ok := by
  have band : ((s.drain k).findBand (coreDie k) ((s.drain k).queue (coreDie k) ((s.drain k).vp v).queue)
      (((s.drain k).splicedWith v).map (s.drain k).vp) ((s.drain k).vp v).b false).isNone = false :=
    Option.isNone_eq_false_iff.2 (Option.isSome_iff_ne_none.2 hband)
  have room : ¬ queueDepth ≤ ((s.drain k).queue (coreDie k) ((s.drain k).vp v).queue).launches.length :=
    Nat.not_le.2 hroom
  show execResume d ca b s = _
  simp only [execResume, onCore_core hk, release_core hk ha, hth, hv, hstage, ← hcap, ht, ho, hbase, hlen, hten, band,
    room, bne_self_eq_false, Bool.not_true, Bool.or_self, Bool.false_eq_true, if_false]
  rfl

/-- Settles O29, instruction by instruction: what each decides, and with which answer. -/
theorem bandInstructions : Obligations.BandInstructions := by
  constructor
  · intro s k d a b t th xa xb answer hk
    refine ⟨fun hp ha => ⟨fun hb hok => ?_, fun hbad => ?_⟩, ?_, execBarw_badDesc hk, fun ha hn => ?_,
      fun v ha hn => ⟨fun hs => ?_, fun hs he => ?_, fun hs he => ?_⟩⟩
    · have bound : ¬ (2 ^ 32 ≤ xb ∨ bindingOk xb = false) :=
        not_or.2 ⟨Nat.not_le.2 hb, (Bool.not_eq_false _).mpr hok⟩
      rw [execSbind_eq hk hp ha rfl]
      exact ⟨fun hl => (if_neg bound).trans (if_neg (Classical.not_not.2 hl)),
        fun hl => (if_neg bound).trans (if_pos hl)⟩
    · rw [execSbind_eq hk hp ha rfl]
      exact if_pos hbad
    · intro lo hi rows free hp hz ht hle
      exact execSbar_drops hk rfl hp hz ht hle
    · rw [execBarw_eq hk ha, hn]
      rfl
    · rw [execBarw_eq hk ha, hn]
      exact if_pos hs
    · rw [execBarw_eq hk ha, hn]
      exact (if_neg hs).trans (if_neg he)
    · rw [execBarw_eq hk ha, hn]
      exact (if_neg hs).trans (if_pos he)
  · intro s k d a b ca v t th die hk
    refine ⟨fun hv hfit => ⟨execPreempt_live hk hv hfit, fun hs => ?_, execPreempt_preempted hk hv hfit⟩,
      execPreempt_unnamed hk, ?_⟩
    · exact ⟨execPreempt_queued hk hv hfit hs, s.emptied_preemptQueued k v⟩
    · intro s1 x cap vs ha hth hv hstage ht ho hbase hlen hten hband hroom
      exact execResume_queues hk ha hth rfl hv hstage ht ho hbase hlen hten hband hroom

end Sys2Proof.Machine
end

section
/-!
PROOFS. Control core: LAUNCH and SPLICE (O28).
-/

namespace Sys2Proof.Machine
open Sys2Proof

/-! ### Reading a descriptor leaves the control cores alone (R239) -/

theorem cores_of_fst {α : Type} {p : State × α} {t : State} {y : α} (e : p = (t, y)) : t.cores = p.1.cores := by
  rw [e]

section
variable (s : State)

@[simp] theorem State.mark_cores (e : TlbEntry) (b : Nat) : (s.mark e b).cores = s.cores := by
  unfold State.mark
  dsimp only
  split <;> simp

@[simp] theorem State.fillTlb_cores (e : TlbEntry) : (s.fillTlb e).cores = s.cores := by
  unfold State.fillTlb
  dsimp only
  split <;> rfl

@[simp] theorem State.translate_cores (c : CacheId) (n : BitVec 8) (r va : Nat) (w : Bool) :
    (s.translate c n r va w).1.cores = s.cores := by
  unfold State.translate
  dsimp only
  (repeat' split) <;> simp

@[simp] theorem State.draw_cores : s.draw.2.cores = s.cores := rfl

@[simp] theorem State.locRead_cores (who : Sender) (l : Loc) (n : Nat) : (s.locRead who l n).1.cores = s.cores := by
  unfold State.locRead
  dsimp only
  (repeat' split) <;> simp

@[simp] theorem State.locTag_cores (l : Loc) (bits : BitVec 128) : (s.locTag l bits).1.cores = s.cores := by
  unfold State.locTag
  dsimp only
  (repeat' split) <;> simp

end

theorem State.areaLocs_cores (s : State) (x : Reach) (use : AreaUse) (l : List (Nat × Nat)) :
    (s.areaLocs x use l).1.cores = s.cores := by
  induction l generalizing s with
  | nil => rfl
  | cons q l ih =>
    obtain ⟨va, n⟩ := q
    rw [State.areaLocs]
    generalize ht : s.translate x.cache x.tenant x.root va (use == .write) = t
    obtain ⟨u, r⟩ := t
    have hu : u.cores = s.cores := (cores_of_fst ht).trans (s.translate_cores ..)
    cases r with
    | error c => exact hu
    | ok p =>
      dsimp only
      split
      · exact hu
      · generalize hl : u.areaLocs x use l = t
        obtain ⟨w, r⟩ := t
        have hw : w.cores = u.cores := (cores_of_fst hl).trans (ih u)
        cases r <;> exact hw.trans hu

theorem State.areaBytes_cores (s : State) (who : Sender) (l : List (Loc × Nat)) :
    (s.areaBytes who l).1.cores = s.cores := by
  induction l generalizing s with
  | nil => rfl
  | cons q l ih =>
    obtain ⟨l₀, n⟩ := q
    rw [State.areaBytes]
    generalize ht : s.locRead who l₀ n = t
    obtain ⟨u, r⟩ := t
    have hu : u.cores = s.cores := (cores_of_fst ht).trans (s.locRead_cores ..)
    cases r with
    | none => exact hu
    | some bs =>
      dsimp only
      generalize hl : u.areaBytes who l = t
      obtain ⟨w, r⟩ := t
      have hw : w.cores = u.cores := (cores_of_fst hl).trans (ih u)
      cases r <;> exact hw.trans hu

theorem State.areaRead_cores (s : State) (x : Reach) (use : AreaUse) (va n : Nat) :
    (s.areaRead x use va n).1.cores = s.cores := by
  rw [State.areaRead]
  generalize hl : s.areaLocs x use (pagesOf va n) = t
  obtain ⟨u, r⟩ := t
  have hu : u.cores = s.cores := (cores_of_fst hl).trans (s.areaLocs_cores ..)
  cases r with
  | error e => exact hu
  | ok ls => exact (u.areaBytes_cores ..).trans hu

theorem State.areaTag_cores (s : State) (x : Reach) (va : Nat) (bits : BitVec 128) :
    (s.areaTag x va bits).1.cores = s.cores := by
  rw [State.areaTag]
  split
  · rfl
  · generalize hl : s.areaLocs x .read [(va, 16)] = t
    obtain ⟨u, r⟩ := t
    have hu : u.cores = s.cores := (cores_of_fst hl).trans (s.areaLocs_cores ..)
    match r with
    | .error e => exact hu
    | .ok [] => exact hu
    | .ok ((l, n) :: ls) => exact (u.locTag_cores ..).trans hu

theorem State.areaCaps_cores (s : State) (x : Reach) (va : Nat) (bs : List Byte) (may : Bool) (l : List Nat) :
    (s.areaCaps x va bs may l).1.cores = s.cores := by
  induction l generalizing s with
  | nil => rfl
  | cons off l ih =>
    rw [State.areaCaps]
    generalize ht : (if may then s.areaTag x (va + off) (BitVec.ofNat 128 (leNat ((bs.drop off).take 16)))
      else (s, .ok false)) = t
    obtain ⟨u, r⟩ := t
    have hu : u.cores = s.cores := by
      refine (cores_of_fst ht).trans ?_
      split
      · exact s.areaTag_cores ..
      · rfl
    cases r with
    | error e => exact hu
    | ok tag =>
      dsimp only
      generalize hl : u.areaCaps x va bs may l = t
      obtain ⟨w, r⟩ := t
      have hw : w.cores = u.cores := (cores_of_fst hl).trans (ih u)
      cases r <;> exact hw.trans hu

theorem State.readHead_cores (s : State) (x : Reach) (cap : Cap) : (s.readHead x cap).1.cores = s.cores := by
  rw [State.readHead]
  generalize hr : s.areaRead x .read cap.base 256 = t
  obtain ⟨u, r⟩ := t
  have hu : u.cores = s.cores := (cores_of_fst hr).trans (s.areaRead_cores ..)
  cases r with
  | error e => exact hu
  | ok bs =>
    dsimp only
    generalize hc : u.areaCaps x cap.base bs cap.pC [0x10, 0x20, 0x30, 0x40, 0x50, 0x60] = t
    obtain ⟨w, r⟩ := t
    have hw : w.cores = u.cores := (cores_of_fst hc).trans (u.areaCaps_cores ..)
    cases r <;> exact hw.trans hu

/-- A control core reaches memory by its own registers alone. -/
theorem State.coreReach_of_cores {s u : State} (h : u.cores = s.cores) (k : CoreId) :
    u.thread (.core k) = s.thread (.core k) ∧ u.coreReach k = s.coreReach k := by
  have core : u.core k = s.core k := by rw [State.core, h, State.core]
  simp only [State.coreReach, State.threadRoot, State.thread_core, core, and_self]

/-! ### Where a launch whose descriptor has passed goes (R218, R239, R241) -/

section
variable {s : State} {die : Fin 2} {tenant : BitVec 8} {priv : Bool} {q : Fin 16} {y : Vp} {w : VpId}

theorem State.queueVp_room (hw : s.newVp die y.tenant = some w) (hroom : (s.queue die q).launches.length < 64) :
    s.queueVp die q y =
      some ((s.addVp w { y with stage := .queued, queue := q }).enqueueLaunch w q false, w) := by
  have room : ¬ queueDepth ≤ (s.queue die q).launches.length := Nat.not_le.2 hroom
  unfold State.queueVp
  simp only [hw]
  rw [if_neg room]

theorem State.queueVp_full (hw : s.newVp die y.tenant = some w) (hfull : 64 ≤ (s.queue die q).launches.length) :
    s.queueVp die q y = none := by
  have full : queueDepth ≤ (s.queue die q).launches.length := hfull
  unfold State.queueVp
  simp only [hw]
  rw [if_pos full]

theorem State.launchGo_queues (hw : s.newVp die y.tenant = some w) (hroom : (s.queue die q).launches.length < 64) :
    s.launchGo die tenant priv q y 0 false =
      ((s.addVp w { y with stage := .queued, queue := q }).enqueueLaunch w q false, .result .ok w.handle) := by
  rw [State.launchGo, State.queueVp_room hw hroom]
  rfl

theorem State.launchGo_waits (hw : s.newVp die y.tenant = some w) (hfull : 64 ≤ (s.queue die q).launches.length) :
    s.launchGo die tenant priv q y 0 false = (s, .waits (.launch q y 0 false)) := by
  rw [State.launchGo, State.queueVp_full hw hfull]
  rfl

variable {pred : Nat} {p : VpId} (hp : pred ≠ 0) (hn : s.named die tenant priv pred = some p)
include hp hn

theorem State.launchGo_joins (ho : s.cellsOpen y = true) (hs : s.spliceOk p y = true)
    (hw : s.newVp die y.tenant = some w) : s.launchGo die tenant priv q y pred true =
      (s.attach p w { y with queue := (s.vp p).queue }, .result .ok w.handle) := by
  simp only [State.launchGo, if_neg hp, hn, ho, hs, Bool.not_true, Bool.false_eq_true, if_false, if_true, State.joinVp,
    hw, Option.map_some]

theorem State.launchGo_noBand (ho : s.cellsOpen y = false) :
    s.launchGo die tenant priv q y pred true = (s, .result .noBand 0) := by
  simp only [State.launchGo, if_neg hp, hn, ho, Bool.not_false, if_true]

end

/-- A descriptor that passes goes on with what has been read (R239). -/
theorem State.launchInto_passes {u v : State} {x : Reach} {die : Fin 2} {q : Fin 16} {tenant : BitVec 8} {priv : Bool}
    {h : DescHead} {y : Vp} (hy : u.readVp x h = (v, .ok y)) (hten : y.tenant = tenant)
    (hqt : y.tenant = (u.queue die q).tenant) (hband : v.findBand die (u.queue die q) [y] y.b false ≠ none) :
    u.launchInto x die q tenant priv h = v.launchGo die tenant priv q (v.withKrtime y) h.pred false := by
  have foreign : ¬ (y.tenant != tenant || y.tenant != (u.queue die q).tenant) = true := by
    rw [← hqt, ← hten]
    simp
  have band : ¬ (v.findBand die (u.queue die q) [y] y.b false).isNone = true := by
    simpa using hband
  unfold State.launchInto
  simp only [hy]
  rw [if_neg foreign, if_neg band]

/-! ### LAUNCH and SPLICE of a descriptor that is read (R239 to R241) -/

section
variable {s u v : State} {k : CoreId} {d b : XReg} {ca : CReg} {h : DescHead} {y : Vp}
  (hk : s.focus.thread = .core k)
include hk

/-- LAUNCH goes on with what it has read (R228, R238). -/
theorem execLaunch_goesOn {q : Fin 16} (hw : s.work k = some (.launch q y 0 false)) :
    exec (.launch d ca b) s = launchDone (.launch d ca b) k d
      (s.launchGo (coreDie k) (s.thread (.core k)).tenant (s.thread (.core k)).priv q y 0 false) := by
  show execLaunch d ca b s = _
  simp only [execLaunch, launchWith, onCore_core hk, hw, if_true]

variable (htrap : launchTrap ((s.thread (.core k)).cap ca) (s.thread (.core k)).tenant ca = none)
  (ha : s.callsAccepted (.core k) = true) (hwork : s.work k = none)
  (hh : (s.drain k).readHead ((s.drain k).coreReach k) ((s.thread (.core k)).cap ca) = (u, .ok h))
include htrap ha hwork hh

/-- A launch instruction reads its descriptor once the core's earlier accesses are performed. -/
theorem launchWith_reads (i : Instr) (must : Bool) (read : State → CoreId → DescHead → State × LaunchEnd) :
    launchWith i must d ca s read = launchDone i k d (read u k h) := by
  simp only [launchWith, onCore_core hk, hwork, htrap, release_core hk ha, hh]

variable (hth : (s.drain k).thread (.core k) = s.thread (.core k))
  (hy : u.readVp ((s.drain k).coreReach k) h = (v, .ok y)) (hten : y.tenant = (s.thread (.core k)).tenant)
include hth hy hten

theorem execLaunch_reads {q : Fin 16} (hq : u.launchQueue k ((s.thread (.core k)).get b).toNat = .ok q)
    (hqt : y.tenant = (u.queue (coreDie k) q).tenant)
    (hband : v.findBand (coreDie k) (u.queue (coreDie k) q) [y] y.b false ≠ none) :
    exec (.launch d ca b) s = launchDone (.launch d ca b) k d
      (v.launchGo (coreDie k) (s.thread (.core k)).tenant (s.thread (.core k)).priv q (v.withKrtime y)
        h.pred false) := by
  obtain ⟨thread, reach⟩ := State.coreReach_of_cores ((cores_of_fst hh).trans (State.readHead_cores ..)) k
  show execLaunch d ca b s = _
  rw [execLaunch, launchWith_reads hk htrap ha hwork hh]
  refine congrArg (launchDone _ k d) ?_
  simp only [thread, hth, hq, reach]
  exact State.launchInto_passes hy hten hqt hband

theorem execSplice_reads (hb : ((s.thread (.core k)).get b).toNat < 2 ^ 32)
    (hpred : h.pred = 0 ∨ h.pred = ((s.thread (.core k)).get b).toNat) :
    exec (.splice d ca b) s = launchDone (.splice d ca b) k d
      (v.launchGo (coreDie k) (s.thread (.core k)).tenant (s.thread (.core k)).priv 0 (v.withKrtime y)
        ((s.thread (.core k)).get b).toNat true) := by
  obtain ⟨thread, reach⟩ := State.coreReach_of_cores ((cores_of_fst hh).trans (State.readHead_cores ..)) k
  have high : ((s.thread (.core k)).get b).toNat / 2 ^ 32 = 0 := by omega
  have named : (h.pred != 0 && h.pred != ((s.thread (.core k)).get b).toNat) = false := by
    rcases hpred with e | e <;> simp [e]
  show execSplice d ca b s = _
  rw [execSplice, launchWith_reads hk htrap ha hwork hh]
  refine congrArg (launchDone _ k d) ?_
  simp only [thread, hth, reach, hy, ← hten, high, named, bne_self_eq_false, Bool.or_self, Bool.false_eq_true, if_false]

end

/-- Settles O28: each instruction reads the descriptor and goes on as `State.launchGo` says. -/
theorem launchAndSplice : Obligations.LaunchAndSplice := by
  intro s u v k d b ca h y q w p th cap s1 die xb answer hk
  refine ⟨fun htrap ha hwork hth hh hy hten hw => ?_, fun hwork hw hroom => ?_⟩
  · have reg : xb = ((s.thread (.core k)).get b).toNat := congrArg (fun t => (t.get b).toNat) hth
    refine ⟨fun hq hqt hband hpred => ?_, fun hb hne hpred hp => ?_⟩
    · rw [reg] at hq
      rw [execLaunch_reads hk htrap ha hwork hh hth hy hten hq hqt hband, hpred]
      refine ⟨fun hroom => ?_, fun hfull => ?_⟩
      · rw [State.launchGo_queues (y := v.withKrtime y) hw hroom]
        rfl
      · rw [State.launchGo_waits (y := v.withKrtime y) hw hfull]
        rfl
    · rw [reg] at hb hne hpred hp
      rw [execSplice_reads hk htrap ha hwork hh hth hy hten hb hpred]
      refine ⟨fun ho hs => ?_, fun hrec hstat => ?_⟩
      · rw [State.launchGo_joins (y := v.withKrtime y) hne hp ho hs hw]
        rfl
      · have closed : v.cellsOpen (v.withKrtime y) = false := by
          rw [State.cellsOpen, hrec]
          exact (Bool.or_false _).trans hstat
        rw [State.launchGo_noBand hne hp closed]
        rfl
  · rw [execLaunch_goesOn hk hwork, State.launchGo_queues hw hroom]
    rfl

end Sys2Proof.Machine
end

section
/-!
PROOFS. Matrix array (O43): how a command starts, steps and completes, ACCZ, releases, and operand tokens.
-/

namespace Sys2Proof.Machine
open Sys2Proof

/-! ### What the four device steps are performed by -/

theorem exec_matrixCommandStart (c : CellId) (s : State) :
    exec (.matrixCommandStart c) s = execMatrixCommandStart c s := rfl

theorem exec_matrixOperandTake (c : CellId) (port : Fin 8) (s : State) :
    exec (.matrixOperandTake c port) s = execMatrixOperandTake c port s := rfl

theorem exec_acczCommand (c : CellId) (s : State) : exec (.acczCommand c) s = execAcczCommand c s := rfl

theorem exec_tileRelease (c : CellId) (s : State) : exec (.tileRelease c) s = execTileRelease c s := rfl

theorem Cell.arrayFree_of_none {x : Cell} (hr : x.release = none) (hd : x.due = none) : x.arrayFree = true := by
  simp [Cell.arrayFree, hr, hd]

/-! ### The metadata of an MMAS (R291) -/

section
variable {s : State} {c : CellId} {r : MatrixRun}

theorem State.readMarks_without (h : r.cmd.op.val ≠ 1 ∨ r.cmd.pattern = none) : s.readMarks c r = (s, some []) := by
  unfold State.readMarks
  split
  next n m hop hp => simp [hop, hp] at h
  next => rfl

theorem marksOk_without {cmd : MatrixCmd} (h : cmd.op.val ≠ 1 ∨ cmd.pattern = none) : marksOk cmd = true := by
  unfold marksOk
  split
  next n m hop hp => simp [hop, hp] at h
  next => rfl

section
variable {n m : Nat} (hop : r.cmd.op.val = 1) (hp : r.cmd.pattern = some (n, m))
include hop hp

theorem State.readMarks_malformed (h : fieldsOk r.cmd = false ∨ r.cmd.l.ok 5 = false ∨
      inScratch (descE r.cmd.l 5) (r.cmd.windows * r.cmd.groups * n) = false) :
    s.readMarks c r = (s, some []) := by
  rcases h with h | h | h <;> simp [State.readMarks, hop, hp, h]

theorem State.readMarks_reads (hf : fieldsOk r.cmd = true) (hl : r.cmd.l.ok 5 = true)
    (hin : inScratch (descE r.cmd.l 5) (r.cmd.windows * r.cmd.groups * n) = true) :
    s.readMarks c r =
      s.ownReads c 1 ((List.range (r.cmd.windows * r.cmd.groups * n)).map fun i => descE r.cmd.l 5 + i) := by
  simp [State.readMarks, hop, hp, hf, hl, hin]

theorem marksOk_eq :
    marksOk r.cmd = (r.cmd.l.ok 5 && inScratch (descE r.cmd.l 5) (r.cmd.windows * r.cmd.groups * n)) := by
  simp [marksOk, hop, hp]

end

/-! ### How a command starts (R282) -/

/-- A command that has started with its metadata: a scratchpad operand is complete at once. -/
def MatrixRun.begun (r : MatrixRun) (marks : List Nat) : MatrixRun :=
  { r with started := true, marks := marks, aDone := descE r.cmd.l 0 == 1, bDone := descE r.cmd.r 0 == 1 }

theorem MatrixRun.wellFormed_of_fields {all : Bool} (h : fieldsOk r.cmd = false) : r.wellFormed all = false := by
  simp [MatrixRun.wellFormed, h]

variable {pl : Place} {v : State} {marks : List Nat}

theorem State.startRun_damaged (h : s.readMarks c r = (v, none)) : s.startRun pl c r = v.eccRun pl c r := by
  rw [State.startRun, h]

theorem State.startRun_sound (h : s.readMarks c r = (v, some marks)) (hm : marksOk r.cmd = true)
    (hw : (r.begun marks).wellFormed false = true) : s.startRun pl c r = v.setRun c (r.begun marks) := by
  rw [State.startRun, h]
  exact if_pos (Bool.and_eq_true_iff.2 ⟨hm, hw⟩)

theorem State.startRun_malformed (h : s.readMarks c r = (v, some marks))
    (hbad : marksOk r.cmd = false ∨ (r.begun marks).wellFormed false = false) :
    s.startRun pl c r = v.badRun pl c (r.begun marks) false false := by
  rw [State.startRun, h]
  refine if_neg fun both => ?_
  obtain ⟨hm, hw⟩ := Bool.and_eq_true_iff.1 both
  rcases hbad with hbad | hbad
  · exact Bool.false_ne_true (hbad.symm.trans hm)
  · exact Bool.false_ne_true (hbad.symm.trans hw)

/-- An MMAS whose fields, or the place of whose metadata, are malformed (R289). -/
theorem State.startRun_misplaced {n m : Nat} (hop : r.cmd.op.val = 1) (hp : r.cmd.pattern = some (n, m))
    (h : fieldsOk r.cmd = false ∨ r.cmd.l.ok 5 = false ∨
      inScratch (descE r.cmd.l 5) (r.cmd.windows * r.cmd.groups * n) = false) :
    s.startRun pl c r = s.badRun pl c (r.begun []) false false := by
  refine State.startRun_malformed (State.readMarks_malformed hop hp h) ?_
  rw [marksOk_eq hop hp]
  rcases h with h | h | h
  · exact .inr (MatrixRun.wellFormed_of_fields h)
  · exact .inl (by rw [h, Bool.false_and])
  · exact .inl (by rw [h, Bool.and_false])

/-! ### Packets that are passed on (R288) -/

theorem State.passOn_none {port : Fin 8} (h : ∀ q ∈ r.fwd, q.1 ≠ port) : s.passOn c r port = none := by
  have absent : (r.fwd.findIdx? fun q => q.1 == port) = none := by simpa [List.findIdx?_eq_none_iff] using h
  rw [State.passOn, absent]

theorem State.passOn_nil (hf : r.fwd = []) (port : Fin 8) : s.passOn c r port = none :=
  State.passOn_none (by simp [hf])

theorem State.passOn_first {u : State} {port : Fin 8} {t : Token} {more : List (Fin 8 × Token)}
    (hf : r.fwd = (port, t) :: more) (hs : s.sendPort c port t = some u) :
    s.passOn c r port = some (u.setRun c { r with fwd := more }) := by
  simp [State.passOn, hf, List.findIdx?_cons, hs, dropNth]

/-! ### The steps of a command (R282) -/

theorem State.runStep_east {u : State} (h : s.passOn c r 1 = some u) : s.runStep pl c r = u := by
  rw [State.runStep, h]

theorem State.runStep_south {u : State} (h1 : s.passOn c r 1 = none) (h2 : s.passOn c r 2 = some u) :
    s.runStep pl c r = u := by
  rw [State.runStep, h1, h2]

section
variable {fa fb : MFmt} (hf : r.fwd = []) (ha : r.fmtA = some fa) (hb : r.fmtB = some fb)
include hf ha hb

/-- With nothing left to pass on, a command takes its next k index. -/
theorem State.runStep_index {u : State} (hk : r.k < r.cmd.steps) (h : s.matrixStep c r fa fb r.k = (u, true)) :
    s.runStep pl c r = u.setRun c { r with k := r.k + 1 } := by
  simp only [State.runStep, State.passOn_nil hf, ha, hb, if_neg (Nat.not_le.2 hk), h]

theorem State.runStep_end (hk : r.cmd.steps ≤ r.k) : s.runStep pl c r = s.completeRun c r fa := by
  simp only [State.runStep, State.passOn_nil hf, ha, hb, if_pos hk, hf, List.isEmpty_nil, if_true]

end

theorem State.popRun_eq {rest : List MatrixRun} (hm : (s.cell c).matrix = r :: rest) :
    s.popRun c = s.setCell c { s.cell c with matrix := rest } := by
  rw [State.popRun, hm, List.drop_one, List.tail_cons]

/-- A command that completes counts, and its release is due where its count says so. -/
theorem State.completeRun_eq {fa : MFmt} {rest : List MatrixRun} (hm : (s.cell c).matrix = r :: rest)
    (hd : (s.cell c).due = none) :
    s.completeRun c r fa = s.setCell c { s.cell c with
      matrix := rest, counter := (s.cell c).counter + 1
      due := if r.cmd.count ≠ 0 ∧ r.cmd.count ≤ (s.cell c).counter + 1 then some (r.cmd, fa == .i8) else none } := by
  simp [State.completeRun, State.popRun_eq hm, hd]

/-! ### MATRIX_COMMAND_START -/

section
variable {rest : List MatrixRun} (hpl : s.place c = some pl) (hm : (s.cell c).matrix = r :: rest)
  (hfree : (s.cell c).arrayFree = true) (hop : r.cmd.op.val ≠ 3)
include hpl hm hfree hop

/-- A command of a free array takes the step that it has come to. -/
theorem execMatrixCommandStart_free :
    execMatrixCommandStart c s =
      if !r.started then .next (s.startRun pl c r)
      else if !r.aDone || !r.bDone then .next s
      else if !r.ready then .next (s.readyRun pl c r)
      else .next (s.runStep pl c r) := by
  have command : r.cmd.op ≠ 3 := fun e => hop (congrArg Fin.val e)
  simp [execMatrixCommandStart, hpl, hm, hfree, command]

theorem execMatrixCommandStart_starts (hs : r.started = false) :
    execMatrixCommandStart c s = .next (s.startRun pl c r) := by
  simp [execMatrixCommandStart_free hpl hm hfree hop, hs]

/-- A command that starts with its metadata is judged by what no packet is needed for. -/
theorem execMatrixCommandStart_marked (hs : r.started = false) (hread : s.readMarks c r = (v, some marks))
    (hok : marksOk r.cmd = true) :
    ((r.begun marks).wellFormed false = true →
      execMatrixCommandStart c s = .next (v.setRun c (r.begun marks))) ∧
    ((r.begun marks).wellFormed false = false →
      execMatrixCommandStart c s = .next (v.badRun pl c (r.begun marks) false false)) := by
  rw [execMatrixCommandStart_starts hpl hm hfree hop hs]
  exact ⟨fun hw => congrArg _ (State.startRun_sound hread hok hw),
    fun hw => congrArg _ (State.startRun_malformed hread (.inr hw))⟩

theorem execMatrixCommandStart_waits (hs : r.started = true) (h : r.aDone = false ∨ r.bDone = false) :
    execMatrixCommandStart c s = .next s := by
  rw [execMatrixCommandStart_free hpl hm hfree hop, hs]
  rcases h with h | h <;> simp [h]

section
variable (hs : r.started = true) (ha : r.aDone = true) (hb : r.bDone = true)
include hs ha hb

theorem execMatrixCommandStart_readies (hr : r.ready = false) :
    execMatrixCommandStart c s = .next (s.readyRun pl c r) := by
  simp [execMatrixCommandStart_free hpl hm hfree hop, hs, ha, hb, hr]

theorem execMatrixCommandStart_steps (hr : r.ready = true) :
    execMatrixCommandStart c s = .next (s.runStep pl c r) := by
  simp [execMatrixCommandStart_free hpl hm hfree hop, hs, ha, hb, hr]

end
end

/-! ### ACCZ_COMMAND and TILE_RELEASE (R282, R283) -/

theorem execAcczCommand_clears {rest : List MatrixRun} (hm : (s.cell c).matrix = r :: rest)
    (hfree : (s.cell c).arrayFree = true) (hop : r.cmd.op.val = 3) :
    execAcczCommand c s = .next (s.setCell c ({ s.cell c with matrix := rest } : Cell).clearTile) := by
  have accz : r.cmd.op = 3 := Fin.ext hop
  simp [execAcczCommand, hm, accz, hfree, State.popRun_eq hm]

theorem sameBytes_setCell (x : Cell) : SameBytes s (s.setCell c x) := ⟨fun _ => rfl, fun _ => rfl⟩

/-- A release whose target is a port puts the tile's tokens up. -/
theorem State.releaseTile_port {cmd : MatrixCmd} {i8 : Bool} {port : Fin 8} (hp : Target.port cmd.t0 = some port) :
    s.releaseTile c cmd i8 = s.setCell c { (s.cell c).clearTile with
      due := none, releases := (s.cell c).releases + 1
      release := some ⟨port, cmd.inst, releaseTokens (s.cell c) i8, true⟩ } := by
  rw [State.releaseTile, hp]

theorem execTileRelease_due {cmd : MatrixCmd} {i8 : Bool} (hr : (s.cell c).release = none)
    (hd : (s.cell c).due = some (cmd, i8)) : execTileRelease c s = .next (s.releaseTile c cmd i8) := by
  simp only [execTileRelease, hr, hd]

/-- The next token of a release leaves where no send waits at its port. -/
theorem execTileRelease_leaves {q : Release} {t : Token} {more : List Token} {u : State}
    (hr : (s.cell c).release = some q) (ht : q.toks = t :: more) (hq : ∀ e ∈ (s.cell c).sendQ, e.1 ≠ q.port)
    (hs : s.sendPort c q.port t = some u) :
    execTileRelease c s =
      .next (if more = [] then (u.setCell c { u.cell c with release := none }).takeSnapshots c
        else u.setCell c { u.cell c with release := some { q with toks := more } }) := by
  have clear : ((s.cell c).sendQ.any fun e => e.1 == q.port) = false := by simpa using hq
  simp only [execTileRelease, hr, ht, clear, hs, Bool.and_false, Bool.false_eq_true, if_false]
  cases more <;> rfl

/-! ### MATRIX_OPERAND_TAKE (R271, R287) -/

theorem Cell.heldAt_of_idle {x : Cell} (h : x.inst = none) (port : Fin 8) : x.heldAt port = 0 := by
  simp only [Cell.heldAt, h]

theorem Kind.isHeld_of_ne {k : Kind} (hp : k ≠ .pre) (hr : k ≠ .rcf) : k.isHeld = false := by
  unfold Kind.isHeld
  split
  next => exact absurd rfl hp
  next => exact absurd rfl hr
  next => rfl

section
variable {port : Fin 8} {t : Token} {more : List Token} (hpl : s.place c = some pl)
  (hq : (s.cell c).ports[port] = t :: more) (hheld : (s.cell c).heldAt port = 0) (hk : t.k.isHeld = false)
include hpl hq hheld hk

theorem execMatrixOperandTake_skips (hs : (s.cell c).skip.contains port = true) :
    execMatrixOperandTake c port s =
      if t.k = .hdr || t.k.isMarker then
        .next (s.setCell c { s.cell c with skip := (s.cell c).skip.filter (· != port) })
      else .next (s.removeTokens c port 1) := by
  simp only [execMatrixOperandTake, hpl, hq, hheld, hk, hs, bne_self_eq_false, Bool.or_self, Bool.false_eq_true,
    if_false, if_true]

/-- A token that no fault discards is the next one of the operand that its port gives. -/
theorem execMatrixOperandTake_started {rest : List MatrixRun} (hs : (s.cell c).skip.contains port = false)
    (hm : (s.cell c).matrix = r :: rest) (hr : r.started = true) :
    execMatrixOperandTake c port s =
      if !r.aDone && descPort r.cmd.l == some port then .next (s.takeOperand pl c r true port t)
      else if !r.bDone && descPort r.cmd.r == some port then .next (s.takeOperand pl c r false port t)
      else .next s := by
  simp only [execMatrixOperandTake, hpl, hq, hheld, hk, hs, hm, hr, bne_self_eq_false, Bool.or_self, Bool.not_true,
    Bool.false_eq_true, if_false]

end
end

/-! ### The obligation -/

/-- Settles O43: the array's first command takes the step that it has come to (`execMatrixCommandStart_free`); ACCZ, a
release and an operand's token are each what the lemma of their step says. -/
theorem matrixArray : Obligations.MatrixArray := by
  intro s u c pl r rest x hpl hm
  rw [exec_matrixCommandStart, exec_acczCommand, exec_tileRelease]
  refine ⟨fun hrel hdue hop => ?_, fun hrel hdue hop => ?_, fun cmd i8 port hrel hdue hport => ?_,
    fun q t more hrel ht hq hs => execTileRelease_leaves hrel ht hq hs, fun port t more hq hpre hrcf hi => ?_⟩
  · have free := Cell.arrayFree_of_none hrel hdue
    refine ⟨fun hs => ?_, fun hs => execMatrixCommandStart_waits hpl hm free hop hs, fun hs ha hb => ?_⟩
    · intro run starts
      have goes {v : State} {marks : List Nat} (hread : s.readMarks c r = (v, some marks))
          (hok : marksOk r.cmd = true) : starts v marks :=
        execMatrixCommandStart_marked hpl hm free hop hs hread hok
      rw [execMatrixCommandStart_starts hpl hm free hop hs]
      refine ⟨fun h => ?_, fun n m hop1 hp => ⟨fun h => ?_, fun hf hl hin => ?_⟩⟩
      · have without : r.cmd.op.val ≠ 1 ∨ r.cmd.pattern = none := by rcases h with h | h | h <;> simp [h]
        exact goes (State.readMarks_without without) (marksOk_without without)
      · exact congrArg _ (State.startRun_misplaced hop1 hp h)
      · have reads := State.readMarks_reads (s := s) (c := c) hop1 hp hf hl hin
        refine ⟨fun v marks h => goes (reads.trans h) ?_,
          fun v h => congrArg _ (State.startRun_damaged (reads.trans h))⟩
        rw [marksOk_eq hop1 hp, hl, hin, Bool.and_self]
    · have steps := execMatrixCommandStart_steps hpl hm free hop hs ha hb
      refine ⟨execMatrixCommandStart_readies hpl hm free hop hs ha hb, fun t more hr hf hsend => ?_,
        fun t more hr hf hmore hsend => ?_, fun fa fb hr hf hfa hfb => ⟨fun hk hstep => ?_, fun hk => ?_⟩⟩ <;>
        rw [steps hr]
      · rw [State.runStep_east (State.passOn_first hf hsend)]
      · have east : s.passOn c r 1 = none := State.passOn_none (by simpa [hf] using hmore)
        rw [State.runStep_south east (State.passOn_first hf hsend)]
      · rw [State.runStep_index hf hfa hfb hk hstep]
      · rw [State.runStep_end hf hfa hfb hk, State.completeRun_eq hm hdue]
  · refine ⟨_, execAcczCommand_clears hm (Cell.arrayFree_of_none hrel hdue) hop, ?_⟩
    rw [State.cell_setCell_same]
    exact ⟨rfl, rfl, rfl, rfl, fun e he => State.cell_setCell_other _ _ he, sameBytes_setCell _⟩
  · rw [execTileRelease_due hrel hdue, State.releaseTile_port hport]
    rfl
  · have held := Cell.heldAt_of_idle hi port
    have kind := Kind.isHeld_of_ne hpre hrcf
    rw [exec_matrixOperandTake]
    refine ⟨fun hskip hk => ?_, fun hskip hk => ?_, fun hskip hs ha hport => ?_, fun hskip hs ha hb hport => ?_⟩
    · rw [execMatrixOperandTake_skips hpl hq held kind hskip, hk]
      rfl
    · rw [execMatrixOperandTake_skips hpl hq held kind hskip, hk]
      rfl
    · rw [execMatrixOperandTake_started hpl hq held kind hskip hm hs, ha, hport]
      simp
    · rw [execMatrixOperandTake_started hpl hq held kind hskip hm hs, ha, hb, hport]
      simp

end Sys2Proof.Machine
end

section
/-!
PROOFS. Matrix instructions (O26): the commands that reserve an entry of the array's queue, and ACCRD.
-/

namespace Sys2Proof.Machine
open Sys2Proof

/-! ### MMA, MMAS, MMAP and ACCZ (R280, R281) -/

theorem Target.ne_none_of_port {t : Target} {p : Fin 8} (h : Target.port t = some p) : t ≠ Target.none := by
  rintro rfl
  cases h

section
variable {s : State} {x : Ctx} (op : Fin 4)

/-- A command without a target reserves its entry and is held to the commit, with no output counted. -/
theorem fireMatrix_untargeted (ht : x.sh.t0 = Target.none) : fireMatrix op x s =
    .done (s.setCell x.c { s.cell x.c with reserved := (s.cell x.c).reserved + 1 })
      ((x.holding x.slot (.matrix x.slot op x.l x.r x.p x.sh.t0)).mark x.slot .done) := by
  simp only [fireMatrix, ht, bne_self_eq_false, Bool.false_and, Bool.false_eq_true, if_false, if_true]
  rfl

/-- A command that is to release the tile to a port counts the output that this will be (R283). -/
theorem fireMatrix_port {p : Fin 8} (hp : Target.port x.sh.t0 = some p) (hroom : x.inst.outputs < x.blk.outputs) :
    fireMatrix op x s =
      .done (s.setCell x.c { s.cell x.c with reserved := (s.cell x.c).reserved + 1 })
        ((x.holding x.slot (.matrix x.slot op x.l x.r x.p x.sh.t0)).output.mark x.slot .done) := by
  simp only [fireMatrix, hp, Option.isNone_some, Bool.and_false, Bool.false_eq_true, if_false,
    if_neg (Target.ne_none_of_port hp), countOutput_room hroom]
  rfl

end

/-! ### ACCRD (R294) -/

/-- The snapshot of an array without commands has 0 for the k indices of the running command. -/
theorem Cell.snapshot_idle {y : Cell} (hm : y.matrix = []) (l : Token) :
    let at' (o : Nat) : Nat := 32 * (l.at 0).toNat + 16 * (l.at 1).toNat + o
    y.snapshot l = (Token.ofList .data 0xFFFF ((List.range 16).map fun o => (y.acc.toList.getD (at' o) 0).toNat),
      Token.ofList .data 0x0007 [0, y.counter % 2 ^ 32, (maskOf fun o => y.sat.toList.getD (at' o) false).toNat]) := by
  simp only [Cell.snapshot, hm]

section
variable {s : State} {x : Ctx} {f : C3} (hfire : Fires (.accrd f) s x) (h0 : x.l.ok 0 = true) (h1 : x.l.ok 1 = true)
  (hrow : (x.l.at 0).toNat ≤ 15) (hhalf : (x.l.at 1).toNat ≤ 1)
include hfire h0 h1 hrow hhalf

/-- An ACCRD whose row and half are in range goes on by whether a tile leaves. -/
theorem execAccrd_leaves {j : Instance}
    (hgoes : (if (s.cell x.c).release.any (·.tile) then Fired.done s (x.inst.mark x.slot .issued)
      else x.results ((s.cell x.c).snapshot x.l).1 ((s.cell x.c).snapshot x.l).2 s) = .done s j) :
    Leaves (.accrd f) s x s j := by
  refine leaves_of_done (rfl : execAccrd f s = fireCell (.accrd f) _ s) hfire ?_
  simpa only [h0, h1, decide_eq_false (Nat.not_lt.2 hrow), decide_eq_false (Nat.not_lt.2 hhalf), Bool.not_true,
    Bool.or_self, Bool.false_eq_true, if_false] using hgoes

/-- During the release of a tile, ACCRD has issued and its result is still to come. -/
theorem execAccrd_waits {q : Release} (hq : (s.cell x.c).release = some q) (ht : q.tile = true) :
    Leaves (.accrd f) s x s (x.inst.mark x.slot .issued) := by
  refine execAccrd_leaves hfire h0 h1 hrow hhalf (if_pos ?_)
  rw [hq, Option.any_some, ht]

/-- While no tile leaves, ACCRD sends its snapshot at once; the ERR token of a failed command, which is no tile, does not
delay it (log 44). -/
theorem execAccrd_reads {j : Instance} (hq : ∀ q, (s.cell x.c).release = some q → q.tile = false)
    (hsends : x.sends ((s.cell x.c).snapshot x.l).1 ((s.cell x.c).snapshot x.l).2 j) : Leaves (.accrd f) s x s j := by
  have free : (s.cell x.c).release.any (·.tile) = false := by simpa [Option.any_eq_false] using hq
  exact execAccrd_leaves hfire h0 h1 hrow hhalf
    ((if_neg (Bool.eq_false_iff.1 free)).trans (Ctx.results_of_sends hsends s))

end

/-! ### The obligation -/

/-- Settles O26: the four commands are `fireMatrix` with their number, which splits on the target; ACCRD splits on
whether a tile leaves. -/
theorem cellMatrix : Obligations.CellMatrix := by
  intro s x f j y held row half at'
  have holds {i : Instr} {op : Fin 4} (hi : exec i s = fireCell i (fireMatrix op) s) : held i op := fun hfire =>
    ⟨fun ht => leaves_of_done hi hfire (fireMatrix_untargeted op ht),
      fun _ hp hroom => leaves_of_done hi hfire (fireMatrix_port op hp hroom)⟩
  refine ⟨holds rfl, holds rfl, holds rfl, holds rfl, ?waits, ?reads⟩
  case waits =>
    intro hfire h0 h1 hrow hhalf q hq ht
    exact execAccrd_waits hfire h0 h1 hrow hhalf hq ht
  case reads =>
    intro hfire h0 h1 hrow hhalf hq hm hsends
    refine execAccrd_reads hfire h0 h1 hrow hhalf hq ?_
    rw [Cell.snapshot_idle hm]
    exact hsends

end Sys2Proof.Machine
end

section
/-!
PROOFS. Control core: the read-modify-writes (O8).
-/

namespace Sys2Proof.Machine
open Sys2Proof

/-! ### The read-modify-writes (R330, R357) -/

/-- What an atomic leaves at the location of this device that it has read: its new value, or what was there where AMOCAS
has met another value than it compares with (R357). -/
def State.amoPut (u : State) (op : AmoOp) (size : Nat) (who : Sender) (l : Loc) (old opd cmp : Nat) : State :=
  if amoWrites op old cmp then u.locWrite who l (leBytes size (amoValue op size old opd cmp)) else u

section
variable {u : State} {size : Nat} {who : Sender} {l : Loc} {old opd cmp : Nat}

theorem State.amoPut_cas_equal (h : old = cmp) :
    u.amoPut .cas size who l old opd cmp = u.locWrite who l (leBytes size opd) := by
  simp [State.amoPut, amoWrites, amoValue, h]

theorem State.amoPut_cas_other (h : old ≠ cmp) : u.amoPut .cas size who l old opd cmp = u := by
  simp [State.amoPut, amoWrites, h]

end

/-- The owner of the location is this device or a scratchpad, so the operation is applied here (R330). -/
theorem amoAt_here {s u : State} {l : Loc} {size : Nat} {who : Sender} {bs : List Byte}
    (hr : s.locRead who l size = (u, some bs)) (hl : l.space = .scratch ∨ u.isLocal l.addr = true)
    (op : AmoOp) (opd cmp : Nat) :
    amoAt op size who l opd cmp s = (u.amoPut op size who l (leNat bs) opd cmp, some (leNat bs)) := by
  have here : (l.space != .scratch && !u.isLocal l.addr) = false := by
    rcases hl with h | h <;> simp [h]
  simp only [amoAt, hr, here, State.amoPut, Bool.false_eq_true, if_false]
  split <;> rfl

/-- An atomic without `.ar` that reads a location of this device applies its operation there and gives x[d] the old
value. -/
theorem amo_here {s u : State} {d : XReg} {c : CReg} {a b : XReg} {w : Bool} {l : Loc} {bs : List Byte} {size opd cmp : Nat}
    (hsize : size = if w then 8 else 4) (hopd : opd = (s.getX s.focus.thread b).toNat % 2 ^ (8 * size))
    (hcmp : cmp = (s.getX s.focus.thread d).toNat % 2 ^ (8 * size))
    (h : ReadsForAtomic s (s.getC s.focus.thread c) (s.getX s.focus.thread a) size l u bs) (op : AmoOp) :
    amo op d c a b w false s = .next
      (((u.amoPut op size ⟨(s.thread s.focus.thread).tenant, .thread s.focus.thread⟩ l (leNat bs) opd cmp).setX
        s.focus.thread d (if w then BitVec.ofNat 64 (leNat bs) else sextWord 32 (leNat bs))).retire s.focus.thread) := by
  subst hsize hopd hcmp
  obtain ⟨htag, hotype, htenant, hspace, hR, hA, v, hacc, hread, hhere⟩ := h
  have memory : ((s.getC s.focus.thread c).space == .sys || (s.getC s.focus.thread c).space == .fibre) = false := by
    rcases hspace with h | h <;> rw [h] <;> rfl
  simp [amo, htag, hotype, htenant, memory, hR, hA, hacc, amoAt_here hread hhere]

/-- Settles O8: each is `amo` of its operation, which writes the value that `amoValue` gives, and AMOCAS only where it
has met the value it compares with. -/
theorem atomics : Obligations.Atomics := by
  intro s u d c a b w l bs t size n old opd cmp put h
  have at' (op : AmoOp) := amo_here (d := d) (b := b) (w := w) rfl rfl rfl h op
  refine ⟨at' .add, at' .swap, at' .min, at' .max, at' .and, at' .or, at' .xor, fun heq => ?_, fun hne => ?_⟩
  · exact (at' .cas).trans (by rw [State.amoPut_cas_equal heq]; rfl)
  · exact (at' .cas).trans (by rw [State.amoPut_cas_other hne]; rfl)

end Sys2Proof.Machine
end

section
/-!
PROOFS. The package: register-window stores, post triggers, the serialising token, the commit of a partition table, core
starts and launch triggers (O50).
-/

namespace Sys2Proof.Machine
open Sys2Proof

/-! ### What draining a core's store queue leaves alone (R390 to R392) -/

/-- What a start of a core reads of the state stands as before: the start records and the call-number counters (R419). -/
def SameStart (s t : State) : Prop := t.startRec = s.startRec ∧ ∀ k, (t.core k).callNum = (s.core k).callNum

theorem SameStart.refl (s : State) : SameStart s s := ⟨rfl, fun _ => rfl⟩

theorem SameStart.trans {s t u : State} (h : SameStart s t) (g : SameStart t u) : SameStart s u :=
  ⟨g.1.trans h.1, fun k => (g.2 k).trans (h.2 k)⟩

theorem sameStart_of_cores {s t : State} (hr : t.startRec = s.startRec) (hc : t.cores = s.cores) : SameStart s t :=
  ⟨hr, fun k => congrArg (fun v : Vector Core 32 => v[k].callNum) hc⟩

theorem sameStart_setCore (s : State) (k : CoreId) {c : Core} (h : c.callNum = (s.core k).callNum) :
    SameStart s (s.setCore k c) := by
  refine ⟨rfl, fun j => ?_⟩
  by_cases hj : j = k
  · rw [hj, State.core_setCore_same, h]
  · rw [State.core_setCore_other _ _ hj]

theorem sameStart_foldl {α : Type} {f : State → α → State} (h : ∀ s a, SameStart s (f s a)) (l : List α)
    (s : State) : SameStart s (l.foldl f s) := by
  induction l generalizing s with
  | nil => exact .refl s
  | cons a l ih => exact (h s a).trans (ih _)

@[simp] theorem Core.wake_callNum (c : Core) : c.wake.callNum = c.callNum := by unfold Core.wake; split <;> rfl

@[simp] theorem Core.enqueue_callNum (c : Core) (k : CoreId) (r : BitVec 128) : (c.enqueue k r).callNum = c.callNum := by
  unfold Core.enqueue
  split
  · exact Core.wake_callNum _
  · split
    · rfl
    · exact Core.wake_callNum _

theorem sameStart_unpauseBand (s : State) (v : VpId) : SameStart s (s.unpauseBand v) := by
  unfold State.unpauseBand
  split
  · exact .refl s
  · refine sameStart_foldl (fun s w => ?_) _ s
    dsimp only
    split
    · exact .refl s
    · exact sameStart_of_cores rfl rfl

theorem sameStart_faultAction (s : State) (c : CellId) (replay : Bool) : SameStart s (s.faultAction c replay) := by
  have acted : SameStart s (s.setCell c { s.cell c with pending := false, action := some replay }) :=
    sameStart_of_cores rfl rfl
  unfold State.faultAction
  dsimp only
  split
  · exact acted.trans (sameStart_unpauseBand ..)
  · exact acted

theorem sameStart_sysWrite (s : State) (agent a size : Nat) (data : Word) :
    SameStart s (s.sysWrite agent a size data) := by
  unfold State.sysWrite
  dsimp only
  cases sysReg a with
  | faultWord c =>
    dsimp only
    split
    · exact sameStart_faultAction ..
    · exact sameStart_faultAction ..
    · exact .refl s
  | trigger k => exact sameStart_setCore s k (Core.enqueue_callNum ..)
  | _ => exact sameStart_of_cores rfl rfl

theorem sameStart_performOne (s : State) (t : ThreadId) (q : QueuedStore) : SameStart s (s.performOne t q) := by
  unfold State.performOne
  split
  · exact sameStart_sysWrite ..
  · exact .refl s
  · (repeat' split) <;> exact sameStart_of_cores (by simp [State.halfWrite]) (by simp [State.halfWrite])

theorem sameStart_performList (k : CoreId) (l : List QueuedStore) (s : State) : SameStart s (s.performList k l) := by
  induction l generalizing s with
  | nil => exact .refl s
  | cons q l ih => exact (sameStart_performOne s _ q).trans (ih _)

theorem sameStart_drain (s : State) (k : CoreId) : SameStart s (s.drain k) :=
  (sameStart_setCore s k (c := { s.core k with storeQ := [] }) rfl).trans (sameStart_performList k _ _)

/-! ### A store to a register of a window (R390, R392) -/

section
variable {s : State} {k m : CoreId} {q : QueuedStore} {rest : List QueuedStore} {agent a n : Nat} {data : Word}

theorem State.performOne_sys (hs : q.space = .sys) : s.performOne (.core k) q =
    s.sysWrite k.val q.addr q.bytes.length (BitVec.ofNat 64 (leNat q.bytes)) := by
  simp only [State.performOne, hs]

theorem State.performEntry_sys {sel : QueuedStore → Bool} (hq : (s.core k).storeQ = q :: rest) (hs : q.space = .sys)
    (hsel : sel q = true) : s.performEntry k 0 sel =
      (s.setCore k { s.core k with storeQ := rest }).sysWrite k.val q.addr q.bytes.length
        (BitVec.ofNat 64 (leNat q.bytes)) := by
  rw [State.performEntry_oldest hq hsel, State.performOne_sys hs]

theorem execRegisterWrite_oldest (hq : (s.core k).storeQ = q :: rest) (hs : q.space = .sys)
    (ht : (sysReg q.addr).isTrigger = false) : exec (.registerWrite k 0) s =
      .next ((s.setCore k { s.core k with storeQ := rest }).sysWrite k.val q.addr q.bytes.length
        (BitVec.ofNat 64 (leNat q.bytes))) :=
  congrArg Host.Outcome.next (State.performEntry_sys hq hs (by simp [hs, ht]))

theorem execPostTrigger_oldest (hq : (s.core k).storeQ = q :: rest) (hs : q.space = .sys)
    (ht : (sysReg q.addr).isTrigger = true) : exec (.postTrigger k 0) s =
      .next ((s.setCore k { s.core k with storeQ := rest }).sysWrite k.val q.addr q.bytes.length
        (BitVec.ofNat 64 (leNat q.bytes))) :=
  congrArg Host.Outcome.next (State.performEntry_sys hq hs (by simp [hs, ht]))

theorem State.sysWrite_staging (hr : sysReg a = .staging m) : s.sysWrite agent a 8 data =
    { s with staging := (agent, m, data) :: s.staging.filter fun x => !(x.1 == agent && x.2.1 == m) } := by
  simp only [State.sysWrite, hr, mergeHalf, if_pos]

theorem State.sysWrite_discard {c : CellId} (hr : sysReg a = .discard c) : s.sysWrite agent a n data =
    s.setCell c { s.cell c with discard := mergeHalf (s.cell c).discard a n data } := by
  simp only [State.sysWrite, hr, State.sysRead]

theorem State.sysWrite_trigger (hr : sysReg a = .trigger m) : s.sysWrite agent a n data =
    s.setCore m ((s.core m).enqueue m (data ++ s.staged? agent m)) := by
  simp only [State.sysWrite, hr]

end

/-! ### The serialising token (R328, R387) -/

section
variable {s : State} {node : Nat}

theorem State.scSkips_iff : s.scSkips node = true ↔
    ∃ k : CoreId, node = k.val ∧ k ∈ s.scSkip ∧ (s.unit (.core k)).ctx.toList.all (·.isNone) = true := by
  simp [State.scSkips, and_assoc]

/-- Only nodes of control cores are skipped, and 32 nodes lie between a core and the first grotto, so the token comes to
rest on a node that it does not skip. -/
theorem State.scSkips_scFrom (n : Nat) (h : 32 ≤ node % scNodes + n) : s.scSkips (s.scFrom n node) = false := by
  induction n generalizing node with
  | zero =>
    refine Bool.eq_false_iff.2 fun hskip => ?_
    obtain ⟨k, hk, -, -⟩ := State.scSkips_iff.1 hskip
    have hk : node % scNodes = k.val := hk
    omega
  | succ n ih =>
    rw [State.scFrom]
    split
    next hskip =>
      obtain ⟨k, hk, -, -⟩ := State.scSkips_iff.1 hskip
      refine ih ?_
      simp only [scNodes] at hk h ⊢
      omega
    next hskip => exact Bool.eq_false_iff.2 hskip

theorem State.scSkips_nextScNode (s : State) : s.scSkips s.nextScNode = false :=
  State.scSkips_scFrom 32 (Nat.le_add_left ..)

theorem State.nextScNode_unskipped (h : s.scSkip = []) : s.nextScNode = (s.scNode + 1) % 288 := by
  have unskipped : ¬ s.scSkips ((s.scNode + 1) % scNodes) = true := by simp [State.scSkips, h]
  rw [State.nextScNode, State.scFrom, if_neg unskipped, scNodes]

end

/-! ### The commit of a partition table (R384, R414) -/

section
variable {s : State} {h : Fin 24}

theorem execPartitionCommit_accepts (ht : (s.hart h).trigger = some .commit) (hok : tableOk s.staged.toList = true) :
    exec (.partitionCommit h) s = .next ({ s.setHart h { s.hart h with trigger := none } with
      partitions := some s.staged, commitResult := resultWord 0 .ok }.reportCommit .ok) := by
  show execPartitionCommit h s = _
  have hok : tableOk (s.setHart h { s.hart h with trigger := none }).staged.toList = true := hok
  simp only [execPartitionCommit, ht, hok, if_true]
  rfl

theorem execPartitionCommit_refuses (ht : (s.hart h).trigger = some .commit) (hok : tableOk s.staged.toList = false) :
    exec (.partitionCommit h) s = .next ({ s.setHart h { s.hart h with trigger := none } with
      commitResult := resultWord 0 .rejected }.reportCommit .rejected) := by
  show execPartitionCommit h s = _
  have hok : tableOk (s.setHart h { s.hart h with trigger := none }).staged.toList = false := hok
  simp only [execPartitionCommit, ht, hok, Bool.false_eq_true, if_false]
  rfl

/-! ### The start of a control core (R419) -/

variable {k : CoreId} {tenant : BitVec 8}

theorem execCoreStart_running (ht : (s.hart h).trigger = some (.coreStart k tenant)) (hk : (s.core k).halted = false) :
    exec (.coreStart h) s = .next (s.setHart h { s.hart h with trigger := none }) := by
  show execCoreStart h s = _
  have hk : ((s.setHart h { s.hart h with trigger := none }).core k).halted = false := hk
  simp [execCoreStart, ht, hk]

/-- The state in which a start performs what its core has still queued: the trigger has acted, and the token visits the
core again (R387). -/
def State.beginStart (s : State) (h : Fin 24) (k : CoreId) : State :=
  { (s.setHart h { s.hart h with trigger := none }).dropWork k with scSkip := s.scSkip.filter (· != k) }

/-- A halted core starts with its own call-number counter, from the record that is written. -/
theorem execCoreStart_starts (ht : (s.hart h).trigger = some (.coreStart k tenant)) (hk : (s.core k).halted = true) :
    ∃ (t : State) (c : Core), exec (.coreStart h) s = .next t ∧ c.callNum = (s.core k).callNum ∧
      t.core k = c.started (s.startRec[k])[0].toNat (field (s.startRec[k])[1].toNat 56 0)
        (field (s.startRec[k])[2].toNat 39 0) tenant := by
  generalize hd : (s.beginStart h k).drain k = u
  have kept : SameStart s u := hd ▸ (sameStart_of_cores rfl rfl).trans (sameStart_drain (s.beginStart h k) k)
  obtain ⟨record, calls⟩ := kept
  have hk : ((s.setHart h { s.hart h with trigger := none }).core k).halted = true := hk
  have started : exec (.coreStart h) s = .next
      ({ u with cleared := (u.core k).openCalls ++ u.cleared }.setCore k
        ((u.core k).started (u.startRec[k])[0].toNat (field (u.startRec[k])[1].toNat 56 0)
          (field (u.startRec[k])[2].toNat 39 0) tenant)) := by
    subst hd
    show execCoreStart h s = _
    simp only [execCoreStart, ht, hk, Bool.not_true, Bool.false_eq_true, if_false]
    rfl
  refine ⟨_, u.core k, started, calls k, ?_⟩
  rw [State.core_setCore_same, record]

section
variable (c : Core) (root base length : Nat) (tenant : BitVec 8)

theorem Core.started_kptbase : (c.started root base length tenant).kptbase =
    BitVec.ofNat 64 (root / 2 ^ 12 % 2 ^ 40 * 2 ^ 12) := by
  simp [Core.started, field]

theorem Core.started_pcc : (c.started root base length tenant).thread.pcc =
    Cap.make base .dense length 0x85 tenant 0 (decide (base + length ≤ 2 ^ 57)) := by
  simp only [Core.started]

theorem Core.started_c0 : (c.started root base length tenant).thread.cap 0 =
    Cap.make 0 .dense (2 ^ 40 - 1) 0xFF tenant 0 true := by
  simp [Core.started, Thread.cap]

theorem Core.started_get (r : XReg) : (c.started root base length tenant).thread.get r = 0 := by
  simp [Core.started, Thread.get, Thread.zero]

end

/-! ### The launch trigger of a hart (R418) -/

theorem execLaunchTrigger_launches {data : Word} (ht : (s.hart h).trigger = some (.launch data)) {u : State} {w : Word}
    (hl : s.spireLaunch (s.hart h).staging.toNat data.toNat = (u, w)) :
    exec (.launchTrigger h) s = .next (u.setHart h { u.hart h with trigger := none, result := w }) := by
  show execLaunchTrigger h s = _
  simp only [execLaunchTrigger, ht, hl]

theorem State.spireLaunch_malformed {pa data : Nat} (hd : data < 2 ^ 64) (h : data / 32 ≠ 0) :
    s.spireLaunch pa data = (s, resultWord 0 .badDesc) := by
  have other : field data 63 5 ≠ 0 := by
    simp only [field]
    omega
  simp [State.spireLaunch, other]

end

/-! ### The obligation -/

/-- Settles O50: a store that stands first is `sysWrite` of its register; the token, the commit, the start and the
launch each split on what they read. -/
theorem registersAndTriggers : Obligations.RegistersAndTriggers := by
  constructor
  · intro s k m q rest out data hq hs
    refine ⟨fun hr hn => ?staging, fun c hr => ?discard, fun hr => ?trigger, fun node h => if_pos h,
      fun node h => if_neg h, State.nextScNode_unskipped, fun j hj hidle hnode => ?skipped⟩
    case staging =>
      rw [execRegisterWrite_oldest hq hs (by rw [hr]; rfl), hn, State.sysWrite_staging hr]
    case discard =>
      rw [execRegisterWrite_oldest hq hs (by rw [hr]; rfl), State.sysWrite_discard hr]
      rfl
    case trigger => rw [execPostTrigger_oldest hq hs (by rw [hr]; rfl), State.sysWrite_trigger hr]
    case skipped =>
      have skips : s.scSkips s.nextScNode = true := State.scSkips_iff.2 ⟨j, hnode, hj, hidle⟩
      rw [State.scSkips_nextScNode] at skips
      contradiction
  · intro s h k tenant data x done
    refine ⟨fun ht => ⟨fun hok => ?accepts, fun hok => ?refuses⟩,
      fun ht => ⟨execCoreStart_running ht, fun hk => ?starts⟩, fun ht => ?launches⟩
    case accepts => exact execPartitionCommit_accepts ht hok
    case refuses => exact execPartitionCommit_refuses ht hok
    case starts =>
      obtain ⟨t, c, hexec, hcall, hcore⟩ := execCoreStart_starts ht hk
      refine ⟨t, hexec, ?_⟩
      simp only [hcore, field_from_zero, Nat.reduceAdd]
      exact ⟨rfl, rfl, rfl, rfl, Core.started_pcc .., Core.started_c0 .., Core.started_kptbase .., hcall,
        Core.started_get _ _ _ _ _, rfl, rfl⟩
    case launches =>
      rcases hl : s.spireLaunch x.staging.toNat data.toNat with ⟨u, w⟩
      refine ⟨u, w, _, rfl, execLaunchTrigger_launches ht hl, rfl, fun hd => ?_⟩
      rw [State.spireLaunch_malformed data.isLt hd, Prod.mk.injEq] at hl
      exact ⟨hl.1.symm, hl.2.symm⟩

end Sys2Proof.Machine
end

section
/-!
PROOFS. The package: inbound PCIe requests and the memory instructions of a hart (O52).
-/

namespace Sys2Proof.Machine
open Sys2Proof

/-! ### A range of memory by its pieces (R421) -/

section
variable {s u : State} {l : Loc} {n : Nat} {who : Sender} {bs : List Byte}

theorem State.piece_local (h : s.isLocal l.addr = true) : s.piece l n = [(l, n)] := by
  simp [State.piece, h]

/-- A piece of another module that ends in the line it begins in is one. -/
theorem State.piece_line (hf : l.fill = none) (hl : s.isLocal l.addr = false) (hn : l.addr % 64 + n ≤ 64) (h0 : 0 < n) :
    s.piece l n = [(⟨.dense, l.addr, none⟩, n)] := by
  have whole : min n (64 - l.addr % 64) = n := Nat.min_eq_left (by omega)
  simp [State.piece, hf, hl, cutLines, whole, Nat.ne_of_gt h0]

theorem State.piece_lines (hf : l.fill = none) (hl : s.isLocal l.addr = false) (ha : l.addr % 64 = 0) : s.piece l 256 =
    [(⟨.dense, l.addr, none⟩, 64), (⟨.dense, l.addr + 64, none⟩, 64), (⟨.dense, l.addr + 128, none⟩, 64),
      (⟨.dense, l.addr + 192, none⟩, 64)] := by
  have next (k : Nat) (hk : k % 64 = 0) : (l.addr + k) % 64 = 0 := by omega
  simp [State.piece, hf, hl, cutLines, ha, Nat.add_assoc, next]

/-- An aligned word is one piece, wherever it lies. -/
theorem State.piece_word {pa : Nat} (hn : n = 4 ∨ n = 8) (ha : pa % n = 0) :
    s.piece ⟨.dense, pa, none⟩ n = [(⟨.dense, pa, none⟩, n)] := by
  rcases Bool.eq_false_or_eq_true (s.isLocal pa) with h | h
  · exact State.piece_local h
  · rcases hn with rfl | rfl <;> exact State.piece_line rfl h (by dsimp only; omega) (by decide)

theorem State.areaBytes_one (h : s.locRead who l n = (u, some bs)) : s.areaBytes who [(l, n)] = (u, .ok bs) := by
  simp only [State.areaBytes, h, List.append_nil]

theorem State.areaPut_one (h : bs.length = n) : s.areaPut who [(l, n)] bs = s.locWrite who l bs := by
  simp only [State.areaPut, ← h, List.take_length]

end

/-! ### Inbound PCIe requests (R420) -/

theorem exec_pcieInboundRequest (r : PcieRequest) (s : State) :
    exec (.pcieInboundRequest r) s = execPcieInboundRequest r s := rfl

section
variable {s u : State} {pa n : Nat} {bs : List Byte} (hb : s.boot = .firmware) (he : s.endpoint = true)
include hb he

theorem execPcieInboundRequest_reads (hp : s.physOk pa n = true) (hl : s.isLocal pa = true)
    (hr : s.locRead .device ⟨.dense, pa, none⟩ n = (u, some bs)) :
    exec (.pcieInboundRequest (.read none pa n)) s = .next (u.pcieAnswer bs) := by
  simp [exec_pcieInboundRequest, execPcieInboundRequest, hb, he, hp, State.piece_local (l := ⟨.dense, pa, none⟩) hl,
    State.areaBytes_one hr]

theorem execPcieInboundRequest_unread (hp : s.physOk pa n = false) :
    exec (.pcieInboundRequest (.read none pa n)) s = .next (s.pcieAnswer []) := by
  simp [exec_pcieInboundRequest, execPcieInboundRequest, hb, he, hp]

theorem execPcieInboundRequest_writes (hp : s.physOk pa bs.length = true) (hl : s.isLocal pa = true) :
    exec (.pcieInboundRequest (.write none pa bs)) s = .next (s.locWrite .device ⟨.dense, pa, none⟩ bs) := by
  simp [exec_pcieInboundRequest, execPcieInboundRequest, hb, he, hp, State.piece_local (l := ⟨.dense, pa, none⟩) hl,
    State.areaPut_one]

theorem execPcieInboundRequest_unwritten (hp : s.physOk pa bs.length = false) :
    exec (.pcieInboundRequest (.write none pa bs)) s = .next s := by
  simp [exec_pcieInboundRequest, execPcieInboundRequest, hb, he, hp]

variable {vf : Fin 16} {p : PartitionEntry} (hv : s.partitionOfVf vf = some p)
include hv

theorem execPcieInboundRequest_vfReads (hr : s.areaRead p.reach .read pa n = (u, .ok bs)) :
    exec (.pcieInboundRequest (.read (some vf) pa n)) s = .next (u.pcieAnswer bs) := by
  simp [exec_pcieInboundRequest, execPcieInboundRequest, hb, he, hv, hr]

theorem execPcieInboundRequest_vfWrites {st : Option Status} (hw : s.areaWrite p.reach pa bs = (u, st)) :
    exec (.pcieInboundRequest (.write (some vf) pa bs)) s = .next u := by
  simp [exec_pcieInboundRequest, execPcieInboundRequest, hb, he, hv, hw]

end

/-! ### A hart's registers (R416) -/

section
variable (s : State) (h : Fin 24)

@[simp] theorem State.hart_setHart_same (x : Hart) : (s.setHart h x).hart h = x := by
  simp [State.hart, State.setHart]

@[simp] theorem State.setHart_setHart (x y : Hart) : (s.setHart h x).setHart h y = s.setHart h y := by
  simp [State.setHart]

@[simp] theorem State.setHart_mem (x : Hart) : (s.setHart h x).mem = s.mem := rfl

@[simp] theorem State.hartData_mem (v : Nat) : (s.hartData h v).mem = s.mem := rfl

@[simp] theorem State.hart_hartData_same (v : Nat) :
    (s.hartData h v).hart h = { s.hart h with data := BitVec.ofNat 64 v, fault := none } :=
  State.hart_setHart_same ..

/-- A hart without a reservation has none to lose by a write (R329). -/
theorem State.hart_memWrite_unreserved {s : State} {h : Fin 24} (hr : (s.hart h).reserved = none) (a : Nat)
    (bs : List Byte) : (s.memWrite a bs).hart h = s.hart h := by
  have hr : s.harts[h].reserved = none := hr
  simp only [State.hart, State.memWrite]
  split <;> simp_all

end

/-! ### A hart's instruction that reaches memory (R329, R416) -/

/-- A word of a hart at a physical address of memory, of no register window. -/
def State.HartWord (w : State) (pa size : Nat) : Prop :=
  w.sysOfPa pa = none ∧ w.physOk pa size = true ∧ (size = 4 ∨ size = 8) ∧ pa % size = 0

theorem exec_spireHartInstruction (h : Fin 24) (op : HartOp) (s : State) :
    exec (.spireHartInstruction h op) s = execSpireHartInstruction h op s := rfl

section
variable {w u : State} {h : Fin 24} {m : HartMode} {pa size : Nat} {bs : List Byte} (hw : w.HartWord pa size)
include hw

theorem State.HartWord.mem : w.hartMem [(pa, size)] = true := by
  obtain ⟨hsys, hphys, -, -⟩ := hw
  simp [State.hartMem, hsys, hphys]

theorem State.HartWord.locs : w.hartLocs [(pa, size)] = [(⟨.dense, pa, none⟩, size)] := by
  obtain ⟨-, -, hsize, hpa⟩ := hw
  simp [State.hartLocs, State.piece_word hsize hpa]

theorem State.HartWord.load (hr : w.locRead .device ⟨.dense, pa, none⟩ size = (u, some bs)) :
    w.hartLoad h m size [(pa, size)] = u.hartData h (leNat bs) := by
  simp [State.hartLoad, State.hartSys, hw.1, hw.mem, hw.locs, State.areaBytes_one hr]

theorem State.HartWord.store (data : Word) : w.hartStore h m size data [(pa, size)] =
    (w.locWrite .device ⟨.dense, pa, none⟩ (leBytes size data.toNat)).setHart h
      { (w.locWrite .device ⟨.dense, pa, none⟩ (leBytes size data.toNat)).hart h with
        reserved := (w.hart h).reserved, fault := none } := by
  simp [State.hartStore, State.hartSys, hw.1, hw.mem, hw.locs, State.areaPut_one]

end

section
variable {s w u : State} {h : Fin 24} {m : HartMode} {k : HartAccess} {va pa size : Nat} {bs : List Byte}

theorem State.hartAccess_reaches {go : State → List (Nat × Nat) → State} {ps : List (Nat × Nat)}
    (hr : s.hartReach h m k va size = (w, .ok ps)) : s.hartAccess h m k va size go = go w ps := by
  simp only [State.hartAccess, hr]

theorem State.hartAccess_refused {go : State → List (Nat × Nat) → State} {f : HartFault}
    (hr : s.hartReach h m k va size = (w, .error f)) : s.hartAccess h m k va size go = w.hartFault h f := by
  simp only [State.hartAccess, hr]

theorem State.hartFetch_reads (hw : w.HartWord pa 4) (hva : va % 4 = 0)
    (hr : s.hartReach h m .fetch va 4 = (w, .ok [(pa, 4)]))
    (hl : w.locRead .device ⟨.dense, pa, none⟩ 4 = (u, some bs)) : s.hartFetch h m va 4 = u.hartData h (leNat bs) := by
  have even : va % 2 = 0 := by omega
  simp [State.hartFetch, even, State.hartAccess_reaches hr, hw.mem, hw.locs, State.areaBytes_one hl]

theorem State.hartAtomic_reaches {go : State → Nat → State} (hw : w.HartWord pa size) (hva : va % size = 0)
    (hr : s.hartReach h m k va size = (w, .ok [(pa, size)])) : s.hartAtomic h m k va size go = go w pa := by
  obtain ⟨-, -, hsize, -⟩ := id hw
  have aligned : ((size == 4 || size == 8) && va % size == 0) = true := by simpa [hva] using hsize
  simp [State.hartAtomic, aligned, State.hartAccess_reaches hr, hw.mem]

theorem State.hartAmo_answers {op : AmoOp} {b expected : Word} {old : Nat}
    (ha : amoAt op size .device ⟨.dense, pa, none⟩ (b.toNat % 2 ^ (8 * size)) (expected.toNat % 2 ^ (8 * size)) w =
      (u, some old)) : w.hartAmo h op size b expected pa = u.hartData h old := by
  simp only [State.hartAmo, ha]

theorem State.hartReserve_reserves (hl : w.locRead .device ⟨.dense, pa, none⟩ size = (u, some bs))
    (hu : u.isLocal pa = true) : w.hartReserve h size pa = u.setHart h { u.hart h with
      data := BitVec.ofNat 64 (leNat bs), reserved := some (localAddr pa / 64), fault := none } := by
  have here : (u.hartData h (leNat bs)).isLocal pa = true := hu
  simp only [State.hartReserve, hl, here, if_true]
  simp [State.hartData]

theorem State.hartConditional_unreserved {data : Word} (hx : (w.hart h).reserved ≠ some (localAddr pa / 64)) :
    w.hartConditional h size data pa =
      w.setHart h { w.hart h with reserved := none, data := 1, fault := none } := by
  simp [State.hartConditional, hx, State.hartData]

/-- A store-conditional with its reservation fails, which is free (log 68), or writes; either way the reservation is
gone. -/
theorem State.hartConditional_reserved {data : Word} (hl : w.isLocal pa = true)
    (hx : (w.hart h).reserved = some (localAddr pa / 64)) :
    ((w.hartConditional h size data pa).hart h).reserved = none ∧
      (((w.hartConditional h size data pa).hart h).data = 1 ∧ (w.hartConditional h size data pa).mem = w.mem ∨
        ((w.hartConditional h size data pa).hart h).data = 0 ∧ (w.hartConditional h size data pa).mem =
          (w.memWrite (localAddr pa) (leBytes size data.toNat)).mem) := by
  have holds : (w.isLocal pa && (w.hart h).reserved == some (localAddr pa / 64)) = true := by simp [hl, hx]
  simp only [State.hartConditional, holds, if_true]
  generalize hv : (w.draw.2).setHart h { (w.draw.2).hart h with reserved := none } = v
  have hres : (v.hart h).reserved = none := by rw [← hv, State.hart_setHart_same]
  have hmem : v.mem = w.mem := by rw [← hv]; rfl
  split
  next => simp [hres, hmem]
  next => simp [State.hart_memWrite_unreserved hres, hres, hmem]

end

theorem hartSize_word {size : Nat} (h : size = 4 ∨ size = 8) : hartSize size = true := by
  rcases h with rfl | rfl <;> rfl

section
variable {s : State} {h : Fin 24} (hb : s.boot = .firmware) (ht : (s.hart h).trigger = none) (m : HartMode) (va size : Nat)
include hb ht

/-- The operating system runs, and no trigger that the hart has written waits: its instruction is performed. -/
theorem State.hartActs : ¬(!s.hartRuns h || (s.hart h).trigger.isSome) = true := by
  simp [State.hartRuns, hb, ht]

theorem exec_hart_fetch : exec (.spireHartInstruction h (.fetch m va size)) s = .next (s.hartFetch h m va size) :=
  if_neg (State.hartActs hb ht)

theorem exec_hart_load (hs : hartSize size = true) : exec (.spireHartInstruction h (.load m va size)) s =
    .next (s.hartAccess h m .load va size fun s ps => s.hartLoad h m size ps) :=
  (if_neg (State.hartActs hb ht)).trans (congrArg _ (if_pos hs))

theorem exec_hart_store (hs : hartSize size = true) (data : Word) :
    exec (.spireHartInstruction h (.store m va size data)) s =
      .next (s.hartAccess h m .store va size fun s ps => s.hartStore h m size data ps) :=
  (if_neg (State.hartActs hb ht)).trans (congrArg _ (if_pos hs))

theorem exec_hart_amo (op : AmoOp) (b expected : Word) :
    exec (.spireHartInstruction h (.amo m op va size b expected)) s =
      .next (s.hartAtomic h m .store va size fun s pa => s.hartAmo h op size b expected pa) :=
  if_neg (State.hartActs hb ht)

theorem exec_hart_loadReserved : exec (.spireHartInstruction h (.loadReserved m va size)) s =
    .next (s.hartAtomic h m .load va size fun s pa => s.hartReserve h size pa) :=
  if_neg (State.hartActs hb ht)

theorem exec_hart_storeConditional (data : Word) : exec (.spireHartInstruction h (.storeConditional m va size data)) s =
    .next (s.hartAtomic h m .store va size fun s pa => s.hartConditional h size data pa) :=
  if_neg (State.hartActs hb ht)

end

/-! ### The obligation -/

/-- Settles O52: an inbound request goes by its function; a hart's instruction goes by the place that its access has
reached, which is one piece of memory. -/
theorem hostAndHarts : Obligations.HostAndHarts := by
  intro s u w h m va pa n size bs data b expected op x loc answer there hb he
  refine ⟨execPcieInboundRequest_reads hb he, execPcieInboundRequest_unread hb he, execPcieInboundRequest_writes hb he,
    fun l k hf hl hk h0 => State.piece_line hf hl hk h0, fun l hf hl ha => State.piece_lines hf hl ha,
    execPcieInboundRequest_unwritten hb he,
    fun vf p hv => ⟨execPcieInboundRequest_vfReads hb he hv, fun st => execPcieInboundRequest_vfWrites hb he hv⟩,
    fun ht hsys hphys hsize hva hpa => ?word, fun ht hr hsys hphys hsize => ?access, fun k => rfl,
    fun ht hsize hr => ?page⟩
  case word =>
    have word : w.HartWord pa size := ⟨hsys, hphys, hsize, hpa⟩
    refine ⟨fun hr h4 hl => ?fetch, fun hr hl _ => ?load, fun hr v hv => ?store, fun hr old ha => ?amo,
      fun hr _ hl hu => ?reserved, fun hr hx => ?lost, fun hr hl hx => ?conditional⟩
    case fetch =>
      subst h4
      rw [exec_hart_fetch hb ht, State.hartFetch_reads word hva hr hl]
      rfl
    case load =>
      rw [exec_hart_load hb ht _ _ _ (hartSize_word hsize), State.hartAccess_reaches hr, word.load hl]
      rfl
    case store =>
      rw [exec_hart_store hb ht _ _ _ (hartSize_word hsize), State.hartAccess_reaches hr, word.store, hv]
    case amo =>
      rw [exec_hart_amo hb ht, State.hartAtomic_reaches word hva hr, State.hartAmo_answers ha]
      rfl
    case reserved =>
      refine ⟨_, (exec_hart_loadReserved hb ht _ _ _).trans
        (by rw [State.hartAtomic_reaches word hva hr, State.hartReserve_reserves hl hu]), ?_⟩
      rw [State.hart_setHart_same]
      exact ⟨rfl, rfl⟩
    case lost =>
      rw [exec_hart_storeConditional hb ht, State.hartAtomic_reaches word hva hr, State.hartConditional_unreserved hx]
    case conditional =>
      exact ⟨_, (exec_hart_storeConditional hb ht _ _ _ _).trans (by rw [State.hartAtomic_reaches word hva hr]),
        State.hartConditional_reserved hl hx⟩
  case access =>
    rw [exec_hart_load hb ht _ _ _ (hartSize_word hsize), State.hartAccess_reaches hr]
    simp [State.hartLoad, State.hartSys, hsys, State.hartMem, hphys, State.hartFault, x]
  case page =>
    rw [exec_hart_load hb ht _ _ _ (hartSize_word hsize), State.hartAccess_refused hr]
    rfl

end Sys2Proof.Machine
end

section
/-!
PROOFS. The package: a call refused back by another module (O53).
-/

namespace Sys2Proof.Machine
open Sys2Proof

/-! ### A capability that another module sends (R68) -/

/-- The word of ones has the base 2^57 - 1 and the length 2^40 - 1: a range beyond those of R68 (log 90). -/
theorem Cap.arrived_allOnes_untagged : (Cap.arrived (BitVec.allOnes 128)).tag = false := by decide

/-! ### A call refused back (R333, R421) -/

/-- The call of a core as the refusal of it back gives it: its capability is tagged as `Cap.arrived` says. -/
def refusedCall (f : Flit) (pa index number : Nat) (k : CoreId) (cap : BitVec 128) (payload : List Word)
    (rel forwarded : Bool) : Call :=
  { entry := index, payload := Vector.ofFn fun i => payload.getD i.val 0, cap := .arrived cap
    tenant := f.tenant, num := BitVec.ofNat 32 number, caller := .core k, home := .module pa, forwarded := forwarded
    refused := true, rel := rel, base := pa, after := [] }

theorem execFirelFlitReceive_refusesCall {s : State} {f : Flit} {pa index number : Nat} {k : CoreId} {cap : BitVec 128}
    {payload : List Word} {rel forwarded : Bool} (hb : s.boot = .firmware) (hc : f.crcOk = true)
    (hd : s.deadLinks.contains f.link = false)
    (hf : f.body = .callRefusal pa index number (.core k) cap payload rel forwarded) :
    exec (.firelFlitReceive f) s = .next { s with
      calls := insertCall (refusedCall f pa index number k cap payload rel forwarded) s.calls } := by
  have intact : ¬(s.boot != .firmware || !f.crcOk || s.deadLinks.contains f.link) = true := by rw [hb, hc, hd]; decide
  show execFirelFlitReceive f s = _
  rw [execFirelFlitReceive, if_neg intact, hf]
  rfl

/-- A device whose firmware runs, with its links at work and no call on its way. -/
def firmwareState : State := { State.reset with boot := .firmware }

/-- A flit that refuses a call of core 0 back, with the word of ones for its capability. -/
def wildRefusal : Flit := ⟨true, 0, 0, 0, .callRefusal 0 0 0 (.core 0) (BitVec.allOnes 128) [] false false⟩

/-- Refutes O53: the statement gives the call that an intact flit refuses back a tagged capability whatever its bits,
where a capability from another module is tagged only with a range of R68 (`Cap.arrived`): the call of
`wildRefusal` carries the word of ones, whose base and length lie beyond 2^57, and comes back untagged. -/
theorem not_firelLinks : ¬ Obligations.FirelLinks := by
  intro h
  obtain ⟨-, -, -, -, refusal, -⟩ := h firmwareState firmwareState wildRefusal 0 0 [] 0
  have stated := refusal 0 0 0 0 (BitVec.allOnes 128) [] false false ⟨rfl, rfl, rfl⟩ rfl
  rw [execFirelFlitReceive_refusesCall rfl rfl rfl rfl] at stated
  have calls := congrArg State.calls (Host.Outcome.next.inj stated)
  have tags : [(Cap.arrived (BitVec.allOnes 128)).tag] = [true] := 
    congrArg (List.map fun c : Call => c.cap.tag) calls
  rw [Cap.arrived_allOnes_untagged] at tags
  contradiction

end Sys2Proof.Machine
end

section
/-!
PROOFS. The reset state (O57).
-/

namespace Sys2Proof.Machine
open Sys2Proof

@[simp] theorem State.reset_core (k : CoreId) : State.reset.core k = Core.reset := by
  simp [State.core, State.reset]

@[simp] theorem State.reset_sched (d : Fin 2) : State.reset.sched d = Scheduler.reset := by
  simp [State.sched, State.reset]

@[simp] theorem Memory.tagAt_empty (a : Nat) : Memory.empty.tagAt a = false := rfl

/-- Settles O57: every core is `Core.reset`, every scheduler `Scheduler.reset`, every cell `Cell.reset`, and the
memories are empty. -/
theorem resetState : Obligations.ResetState := by
  refine ⟨fun k => ?cores, fun a => ⟨Memory.tagAt_empty a, Memory.tagAt_empty a⟩, fun d q => ?queues,
    fun c => ⟨rfl, rfl, rfl⟩, rfl, rfl, rfl, rfl⟩
  case cores =>
    simp only [State.sreg, State.reset_core]
    exact ⟨rfl, rfl, rfl, rfl, rfl, rfl, rfl, rfl, rfl, rfl, rfl, rfl, fun i => by simp [Core.reset]⟩
  case queues =>
    simp [State.queue, Scheduler.reset, LaunchQueue.enabled, bitAt]

end Sys2Proof.Machine
end

section
/-!
PROOFS. Traps and words (O12, O55): the trap instruction, the return, and words of the specification.
-/

namespace Sys2Proof.Machine
open Sys2Proof

/-- Settles O12: TRAP is the trap with its code, ERET what `Core.eret` says, and the two words decode by computation. -/
theorem trapAndReturn : Obligations.TrapAndReturn := by
  intro s k code hk
  refine ⟨rfl, rfl, trapsOn_of_exec (x := ⟨.trapInstruction, code.setWidth 64⟩) ?_, fun hp => ?_⟩
  · simp [exec, execTrap, onCore, hk]
  · simp [exec, execEret, onPrivCore, onCore, hk, hp, Core.eret]

/-- Settles O55: each word is decoded by computation. -/
theorem decodedWords : Obligations.DecodedWords := by
  refine ⟨rfl, rfl, rfl, rfl, rfl, rfl, rfl, rfl, rfl, rfl, rfl, rfl, ⟨_, rfl⟩⟩

end Sys2Proof.Machine
end

section
/-!
PROOFS. System registers (O13, O14): which mode reads and writes which register.
-/

namespace Sys2Proof.Machine
open Sys2Proof

/-- A privileged instruction in unprivileged mode (R393). -/
theorem onPrivCore_unprivileged {i : Instr} {s : State} {k : CoreId} {f : CoreId → Res} (hk : s.focus.thread = .core k)
    (hp : (s.core k).thread.priv = false) : onPrivCore i s f = .next (s.illegal (.core k) i) := by
  simp [onPrivCore, onCore, hk, hp]

/-- SYSRD of a register that unprivileged mode may not read (R388). -/
theorem sysrd_closed {s : State} {k : CoreId} {d : XReg} {n : BitVec 12} {r : SReg} (hk : s.focus.thread = .core k)
    (hp : (s.core k).thread.priv = false) (h : sregOf n.toNat = some r) (ho : r.open = false) :
    Illegal (.sysrd d n) k s :=
  trapsOn_illegal (by simp [exec, execSysrd, onCore, hk, hp, h, ho])

/-- A number that lies in a gap of the map of R389, or above it, names no register. -/
theorem sregOf_unmapped {n : Nat}
    (h : (0x005 < n ∧ n < 0x010) ∨ (0x011 < n ∧ n < 0x020) ∨ (0x022 < n ∧ n < 0x030) ∨ (0x031 < n ∧ n < 0x040) ∨
      (0x041 < n ∧ n < 0x050) ∨ (0x050 < n ∧ n < 0x060) ∨ (0x060 < n ∧ n < 0x070) ∨ 0x07F < n) : sregOf n = none := by
  by_cases hn : 0x07F < n
  · exact sregOf_above hn
  · exact sregOf_between ⟨n, by omega⟩ (by dsimp only; omega)

/-- The registers that SYSWR may not name are read-only (R389). -/
theorem sregOf_readOnly : ∀ n ∈ ([0x021, 0x022, 0x030, 0x031, 0x040] : List (BitVec 12)),
    ∀ r, sregOf n.toNat = some r → r.readOnly = true := by
  intro n hn r hr
  fin_cases hn <;> cases hr <;> rfl

/-- Settles O13: a privileged instruction is `onPrivCore`, and SYSRD and SYSWR go by the register that `sregOf` gives
for the number. -/
theorem privilege : Obligations.Privilege := by
  refine ⟨fun s k d a b ca num hk hp => ?_, fun s k d num hk => ⟨fun hn => ?_, fun hn => ?_, fun hp hn => ?_⟩⟩
  · refine ⟨?_, ?_, ?_, ?_, ?_, ?_, ?_, ?_⟩ <;> exact trapsOn_illegal (onPrivCore_unprivileged hk hp)
  · have none : sregOf num.toNat = none := sregOf_unmapped hn
    exact ⟨sysrd_outside hk none, syswr_outside hk (by simp [none])⟩
  · exact syswr_outside hk (sregOf_readOnly num hn)
  · cases h : sregOf num.toNat with
    | none => exact sysrd_outside hk h
    | some r =>
      refine sysrd_closed hk hp h (Bool.eq_false_iff.mpr fun ho => hn ?_)
      have e := sregOf_open h ho
      simp only [← BitVec.toNat_inj, List.mem_cons, List.not_mem_nil, or_false]
      exact e

/-- SYSWR of a register whose value PERM refuses: the trap's KTVAL is a free value (R384, R389). -/
theorem syswr_refused {s : State} {k : CoreId} {d : XReg} {n : BitVec 12} {r : SReg} (hk : s.focus.thread = .core k)
    (h : sregOf n.toNat = some r) (hp : (s.core k).thread.priv = true) (hr : r.readOnly = false)
    (hu : s.setSreg k r (s.getX (.core k) d) = none) :
    ∃ w t, exec (.syswr d n) s = .next t ∧ Traps k 3 w { s with fresh := s.fresh + 1 } t := by
  let u : State := { s with fresh := s.fresh + 1 }
  refine ⟨Config.freeWord s.fresh, u.trap (.core k) ⟨.perm, Config.freeWord s.fresh⟩, ?_, rfl⟩
  simp [exec, execSyswr, onPrivCore, onCore, hk, h, hp, hr, hu, State.draw, u]

theorem tenantAllowed_iff {s : State} {k : CoreId} {v : BitVec 8} :
    s.tenantAllowed k v = true ↔ ∀ p, s.partitionOfCore k = some p → p.tenant = v := by
  unfold State.tenantAllowed
  split <;> simp [*]

/-- Settles O14: a read is `sysrd_reads` and a write `syswr_writes` of the number's register; where PERM refuses the
value, the write is `syswr_refused`. -/
theorem systemRegisters : Obligations.SystemRegisters := by
  constructor
  case left =>
    intro s k d c hk
    have reads {n : BitVec 12} (r : SReg) (h : sregOf n.toNat = some r)
        (hp : (s.core k).thread.priv = true ∨ r.open = true) : exec (.sysrd d n) s = Writes s d (s.sreg k r) :=
      sysrd_reads hk h hp
    refine ⟨⟨reads .kcycle rfl (.inr rfl), reads .kinstr rfl (.inr rfl), (reads .kcid rfl (.inr rfl)).trans ?_,
     
      reads .kdevno rfl (.inr rfl)⟩, fun hp => ?_⟩
    · have die : (coreDie k).val = k.val / 16 := Nat.mod_eq_of_lt (by omega)
      simp only [State.sreg, coreNum, die]
    replace reads {n : BitVec 12} (r : SReg) (h : sregOf n.toNat = some r) := reads r h (.inl hp)
    refine ⟨(reads .kstat rfl).trans ?_, reads .kcause rfl, reads .kepc rfl, reads .ktval rfl, reads .ktvec rfl,
      reads .kscratch rfl, reads .ktenant rfl, reads .kptbase rfl, reads .kevq rfl, reads .kevhead rfl,
      reads .kevtail rfl, reads .krtime rfl, reads .kstrict rfl, fun n => reads (.kidle n) (sregOf_kidle n)⟩
    simp [State.sreg, hp, c]
  case right =>
    intro s k d c v put hk hp
    have writes {n : BitVec 12} {u : State} (r : SReg) (h : sregOf n.toNat = some r) (hr : r.readOnly = false)
        (hu : s.setSreg k r v = some u) : exec (.syswr d n) s = .next (u.retire (.core k)) :=
      syswr_writes hk h hp hr hu
    have refused {n : BitVec 12} (r : SReg) (h : sregOf n.toNat = some r) (hr : r.readOnly = false)
        (hu : s.setSreg k r v = none) := syswr_refused (d := d) hk h hp hr hu
    refine ⟨writes .kstat rfl rfl ?_, writes .kcause rfl rfl rfl, writes .kepc rfl rfl rfl, writes .ktval rfl rfl rfl,
      writes .ktvec rfl rfl rfl, writes .kscratch rfl rfl rfl, fun hv => writes .kevq rfl rfl ?_,
      fun hv => writes .kevq rfl rfl ?_, writes .kptbase rfl rfl rfl, writes .kdevno rfl rfl rfl,
      writes .krtime rfl rfl rfl, fun n => writes (.kidle n) (sregOf_kidle n) rfl rfl,
      fun ht => writes .ktenant rfl rfl ?_, fun p hpt ht => refused .ktenant rfl rfl ?_,
      fun hn => writes .kstrict rfl rfl ?_, fun p hs => refused .kstrict rfl rfl ?_⟩
    · simp [State.setSreg, bitAt_toNat, c]
    · simp only [State.setSreg, bitAt_toNat, hv, c, if_true]
    · simp only [State.setSreg, bitAt_toNat, hv, Bool.false_eq_true, if_false]
    · simp [State.setSreg, tenantAllowed_iff.mpr ht, c]
    · simp [State.setSreg, State.tenantAllowed, hpt, ht]
    · simp [State.setSreg, hn, bitAt_toNat]
    · simp [State.setSreg, hs]

end Sys2Proof.Machine
end

section
/-!
PROOFS. The package (O51): a partition's reset, power and boot.
-/

namespace Sys2Proof.Machine
open Sys2Proof

/-! ### What each step of a partition's reset leaves -/

/-- A fold whose step keeps a part of the state keeps it. -/
theorem foldl_part {α β : Type} {f : State → α → State} (g : State → β) (h : ∀ s a, g (f s a) = g s) (l : List α)
    (s : State) : g (l.foldl f s) = g s := by
  induction l generalizing s with
  | nil => rfl
  | cons a l ih => exact (ih (f s a)).trans (h s a)

@[simp] theorem State.countDrops_cores (s : State) (site : ErrorSite) (n : Nat) : (s.countDrops site n).cores = s.cores := by
  induction n generalizing s with
  | zero => rfl
  | succ n ih => exact (ih _).trans (s.countError_cores site true)

@[simp] theorem State.hostRow_cores (s : State) (r : RowId) (v : VpId) (i : Nat) : (s.hostRow r v i).cores = s.cores := by
  refine foldl_part State.cores (fun s c => ?_) _ _
  unfold State.hostCell
  cases c.isMem <;> rfl

@[simp] theorem State.releaseRow_cores (s : State) (r : RowId) : (s.releaseRow r).cores = s.cores := by
  have cells (l : List CellId) : (l.foldl (fun s c => s.setCell c (s.cell c).released) s).cores = s.cores :=
    foldl_part State.cores (f := fun s c => s.setCell c (s.cell c).released) (fun _ _ => rfl) l s
  unfold State.releaseRow
  dsimp only
  split
  · simp [cells]
  · split <;> simp [cells, State.stopWaiting]

@[simp] theorem State.dropVp_cores (s : State) (v : VpId) : (s.dropVp v).cores = s.cores :=
  foldl_part State.cores State.releaseRow_cores _ _

@[simp] theorem State.freeVp_cores (s : State) (v : VpId) : (s.freeVp v).cores = s.cores := by
  unfold State.freeVp
  dsimp only
  cases (s.vp v).succ <;> cases (s.vp v).pred <;> rfl

@[simp] theorem State.countVp_cores (s : State) (v : VpId) : (s.countVp v).cores = s.cores := by
  simp only [State.countVp, State.countDrops_cores]
  rw [foldl_part State.cores, foldl_part State.cores]
  · exact fun s c => s.countDrops_cores _ _
  · intro s f
    split <;> simp

@[simp] theorem State.resetVps_cores (s : State) (tenant : BitVec 8) (vs : List VpId) :
    (s.resetVps tenant vs).cores = s.cores := by
  have counts {α : Type} (p : α → Bool) (site : α → ErrorSite) (l : List α) (s : State) :
      (l.foldl (fun s a => if p a then s.countError (site a) true else s) s).cores = s.cores :=
    foldl_part State.cores (fun s a => by split <;> simp) l s
  simp only [State.resetVps, counts]
  exact foldl_part State.cores (fun s v => by simp) _ _

@[simp] theorem State.clearQueues_cores (s : State) (p : PartitionEntry) : (s.clearQueues p).cores = s.cores :=
  foldl_part State.cores (fun s d => foldl_part State.cores (fun s q => by split <;> rfl) _ s) _ s

@[simp] theorem State.sendReply_cores (s : State) (r : CallReply) : (s.sendReply r).cores = s.cores := by
  unfold State.sendReply; split <;> rfl

@[simp] theorem State.endRemote_cores (s : State) (t : RemoteId) (st : BitVec 16) (r0 r1 : Word) :
    (s.endRemote t st r0 r1).cores = s.cores := by
  unfold State.endRemote; dsimp only; split <;> simp

@[simp] theorem State.refuseWaiting_cores (s : State) (u : UnitId) (c : Call) : (s.refuseWaiting u c).cores = s.cores :=
  State.sendReply_cores _ _

@[simp] theorem State.resetFunctions_cores (s : State) (tenant : BitVec 8) : (s.resetFunctions tenant).cores = s.cores := by
  simp only [State.resetFunctions]
  rw [foldl_part State.cores, foldl_part State.cores]
  · exact fun s t => s.endRemote_cores t _ 0 0
  · exact fun s u => foldl_part State.cores (fun s c => s.refuseWaiting_cores u.1 c) _ _

@[simp] theorem State.resetTraffic_cores (s : State) (cores : List CoreId) (ctxs : List RemoteId) (vs : List VpId) :
    (s.resetTraffic cores ctxs vs).cores = s.cores := by
  have counts {α : Type} (p : α → Bool) (site : α → ErrorSite) (l : List α) (s : State) :
      (l.foldl (fun s a => if p a then s.countError (site a) true else s) s).cores = s.cores :=
    foldl_part State.cores (fun s a => by split <;> simp) l s
  simp only [State.resetTraffic, counts]

/-- A reply to a caller of another module leaves on a link, and stays out of the device's replies. -/
theorem State.sendReply_far (s : State) {r : CallReply} (h : r.caller.isFar = true) :
    ∃ o, s.sendReply r = { s with outbox := o } := by
  unfold State.sendReply
  cases hc : r.caller with
  | core k => simp [hc, Caller.isFar] at h
  | cell c v n b => simp [hc, Caller.isFar] at h
  | module d w n => exact ⟨_, rfl⟩

/-- Calls of other modules answered: the replies leave on links. -/
theorem foldl_sendReply_far {p : Call → Bool} (hp : ∀ c, p c = true → c.caller.isFar = true) (st : BitVec 16)
    (l : List Call) (s : State) : ∃ o, l.foldl (fun s c =>
      if p c then s.sendReply ⟨c.caller, c.num, c.entry, st, 0, 0⟩ else s) s = { s with outbox := o } := by
  induction l generalizing s with
  | nil => exact ⟨s.outbox, rfl⟩
  | cons c l ih =>
    rw [List.foldl_cons]
    split
    · next h =>
      obtain ⟨o, ho⟩ := s.sendReply_far (r := ⟨c.caller, c.num, c.entry, st, 0, 0⟩) (hp c h)
      obtain ⟨q, hq⟩ := ih { s with outbox := o }
      exact ⟨q, by rw [ho, hq]⟩
    · exact ih s

/-- The calls of other modules for a partition are answered on links; the rest of what is on its way stays. -/
theorem State.resetArrivals_eq (s : State) (tenant : BitVec 8) :
    ∃ o p, s.resetArrivals tenant = { s with outbox := o, calls := s.calls.filter p } := by
  obtain ⟨o, ho⟩ := foldl_sendReply_far (p := fun c => c.tenant == tenant && c.caller.isFar)
    (fun c h => (Bool.and_eq_true_iff.mp h).2) (BitVec.ofNat 16 Status.peerReset.code) s.calls s
  refine ⟨o, fun c => !(c.tenant == tenant && c.caller.isFar), ?_⟩
  exact (congrArg (fun u : State => { u with
    calls := u.calls.filter fun c => !(c.tenant == tenant && c.caller.isFar) }) ho :)

/-! ### The cores of a partition after its reset -/

/-- A core as a partition's reset leaves it (R387). -/
def Core.emptied (c : Core) : Prop := c.halted = true ∧ c.events = [] ∧ c.slots = Vector.replicate 16 none

theorem State.emptied_resetCore {s : State} {k : CoreId} (j : CoreId) (h : j = k ∨ (s.core k).emptied) :
    ((s.resetCore j).core k).emptied := by
  by_cases e : j = k
  · subst e
    rw [State.resetCore, State.core_setCore_same]
    exact ⟨rfl, rfl, rfl⟩
  · rw [State.resetCore, State.core_setCore_other _ _ (Ne.symm e)]
    exact h.resolve_left e

theorem State.emptied_resetCores {l : List CoreId} {k : CoreId} {s : State} (h : k ∈ l ∨ (s.core k).emptied) :
    ((l.foldl (fun s k => s.resetCore k) s).core k).emptied := by
  induction l generalizing s with
  | nil => exact h.resolve_left (by simp)
  | cons j l ih =>
    refine ih ?_
    rcases h with h | h
    · rcases List.mem_cons.mp h with e | h
      · exact .inr (State.emptied_resetCore j (.inl e.symm))
      · exact .inl h
    · exact .inr (State.emptied_resetCore j (.inr h))

theorem State.core_congr {s t : State} (h : t.cores = s.cores) (k : CoreId) : t.core k = s.core k := by
  simp only [State.core, h]

/-- Nothing of some cores is on its way after the traffic of their partition has been dropped. -/
theorem State.resetTraffic_drops {s : State} {cores : List CoreId} {k : CoreId} (hk : k ∈ cores) (ctxs : List RemoteId)
    (vs : List VpId) : (∀ r ∈ (s.resetTraffic cores ctxs vs).records, r.1 ≠ k) ∧
      (∀ c ∈ (s.resetTraffic cores ctxs vs).calls, c.caller ≠ .core k) ∧
      ∀ r ∈ (s.resetTraffic cores ctxs vs).callBack, r.caller ≠ .core k := by
  refine ⟨fun r hr e => ?_, fun c hc e => ?_, fun r hr e => ?_⟩
  · simp only [State.resetTraffic, List.mem_filter, e, List.contains_iff_mem.mpr hk] at hr
    simp at hr
  · simp only [State.resetTraffic, List.mem_filter, ownCaller, e, List.contains_iff_mem.mpr hk] at hc
    simp at hc
  · simp only [State.resetTraffic, List.mem_filter, ownCaller, e, List.contains_iff_mem.mpr hk] at hr
    simp at hr

/-- The last two steps of a reset, and the cores before them. -/
theorem State.resetPartition_eq (s : State) (p : PartitionEntry) : ∃ (u v : State) (ctxs : List RemoteId) (vs : List VpId),
    s.resetPartition p = (u.resetTraffic p.coreList ctxs vs).resetArrivals p.tenant ∧
      u.cores = (p.coreList.foldl (fun s k => s.resetCore k) v).cores := by
  let d := p.coreList.foldl (fun s k => s.drain k) s
  let v : State := { d with scSkip := p.coreList ++ d.scSkip }
  let w := (p.coreList.foldl (fun s k => s.resetCore k) v).clearQueues p
  let vs := (w.vps.filter fun y => y.2.tenant == p.tenant && y.2.stage != .free).map fun y => y.1
  refine ⟨(w.resetVps p.tenant vs).resetFunctions p.tenant, v, (w.resetVps p.tenant vs).contextsOf p.tenant, vs, rfl, ?_⟩
  rw [State.resetFunctions_cores, State.resetVps_cores, State.clearQueues_cores]

/-- What a partition's reset leaves of its cores and of what is on its way for them (R387, R350). -/
theorem State.resetPartition_core {s : State} {p : PartitionEntry} {k : CoreId} (hk : k ∈ p.coreList) :
    ((s.resetPartition p).core k).emptied ∧ (∀ r ∈ (s.resetPartition p).records, r.1 ≠ k) ∧
      (∀ c ∈ (s.resetPartition p).calls, c.caller ≠ .core k) ∧
      ∀ r ∈ (s.resetPartition p).callBack, r.caller ≠ .core k := by
  obtain ⟨u, v, ctxs, vs, hs, hcores⟩ := s.resetPartition_eq p
  obtain ⟨o, f, ht⟩ := (u.resetTraffic p.coreList ctxs vs).resetArrivals_eq p.tenant
  obtain ⟨hrec, hcalls, hback⟩ := u.resetTraffic_drops hk ctxs vs
  have hcore : ((u.resetTraffic p.coreList ctxs vs).core k).emptied := by
    rw [State.core_congr ((State.resetTraffic_cores _ _ _ _).trans hcores)]
    exact State.emptied_resetCores (.inl hk)
  rw [hs, ht]
  refine ⟨hcore, hrec, fun c hc => hcalls c (List.mem_filter.mp hc).1, hback⟩

/-! ### Power and boot -/

/-- What a power window's end decides (R425). -/
theorem execPowerWindowEnd_ends {s : State} (mW tempC : Nat) (hw : s.windowAt + 80000 ≤ s.cycle) :
    exec (.powerWindowEnd mW tempC) s = .next { s with
      powerMw := mW, tempC := tempC, overTemp := decide (95 < tempC), windowAt := s.windowAt + 80000
      held := if 1200000 < mW ∨ 95 < tempC then true else if mW < 1140000 ∧ tempC < 90 then false else s.held } := by
  simp only [exec, execPowerWindowEnd, powerWindow, Nat.not_lt.mpr hw, if_false, Bool.or_eq_true, Bool.and_eq_true,
    decide_eq_true_eq]
  rfl

section
variable {s : State} {copy : Fin 2} {n : Nat}

/-- Both signatures of a copy of n bytes verify with key slot 0 (R423 step 2). -/
def State.copyVerifies (s : State) (n : Nat) (copy : Fin 2) : Bool :=
  Config.keySlotHeld 0 && Config.signaturesVerify 0 (s.flash.read (0x1000000 * copy.val) n)
    (s.flash.read (0x1000000 * copy.val + n) 8240)

/-- A copy whose signatures verify is taken. -/
theorem State.verifiedImage_some (hi : bootImage (s.flash.read (0x1000000 * copy.val) 64) = some n)
    (hv : s.copyVerifies n copy = true) : s.verifiedImage copy = some (s.flash.read (0x1000000 * copy.val) n) := by
  rw [State.copyVerifies] at hv
  simp only [State.verifiedImage, imageOffset, signatureBytes, hi, hv, if_true]

/-- A copy without an image, or whose signatures do not verify, is not. -/
theorem State.verifiedImage_none
    (h : ∀ n, bootImage (s.flash.read (0x1000000 * copy.val) 64) = some n → s.copyVerifies n copy = false) :
    s.verifiedImage copy = none := by
  simp only [State.verifiedImage, imageOffset, signatureBytes]
  split
  · rfl
  · next n hn =>
    have hv := h n hn
    rw [State.copyVerifies] at hv
    simp only [hv, Bool.false_eq_true, if_false]

variable {b : BootInput}

theorem execModuleBoot_copyA {bs : List Byte} (h : s.boot = .powered) (ha : s.verifiedImage 0 = some bs) :
    exec (.moduleBoot b) s = .next { s with boot := .accepted 0 bs } := by
  simp only [exec, execModuleBoot, h, ha]

theorem execModuleBoot_copyB {bs : List Byte} (h : s.boot = .powered) (ha : s.verifiedImage 0 = none)
    (hb : s.verifiedImage 1 = some bs) : exec (.moduleBoot b) s = .next { s with boot := .accepted 1 bs } := by
  simp only [exec, execModuleBoot, h, ha, hb]

theorem execModuleBoot_noCopy (h : s.boot = .powered) (ha : s.verifiedImage 0 = none) (hb : s.verifiedImage 1 = none) :
    exec (.moduleBoot b) s = .next { s with boot := .failed } := by
  simp only [exec, execModuleBoot, h, ha, hb]

theorem execModuleBoot_accepted {c : Fin 2} {bs : List Byte} (h : s.boot = .accepted c bs) : exec (.moduleBoot b) s =
    .next ({ s with boot := .measured, measure0 := sha384 bs, deviceKey := some Config.deviceKey }.configurePorts bs) := by
  simp only [exec, execModuleBoot, h]

theorem execModuleBoot_record {r : PartRecord} (h : s.boot = .measured) (hr : s.verifiedRecord = some r) :
    exec (.moduleBoot b) s = .next { s with
      boot := .trained, recordOk := true, speedGrade := r.speedGrade, gddrMiB := r.gddrMiB, retired := r.retired } := by
  simp only [exec, execModuleBoot, h, hr]

theorem execModuleBoot_noRecord (h : s.boot = .measured) (hr : s.verifiedRecord = none) :
    exec (.moduleBoot b) s = .next { s with
      boot := .trained, recordOk := false, speedGrade := 0, gddrMiB := b.trainedMiB, retired := [] } := by
  simp only [exec, execModuleBoot, h, hr]

/-- Both signatures of a part record of n bytes verify with key slot 1 (R423 step 4). -/
def recordVerifies (area : List Byte) (n : Nat) : Bool :=
  Config.keySlotHeld 1 && Config.signaturesVerify 1 (area.take n) ((area.drop n).take 8240)

theorem State.verifiedRecord_some {r : PartRecord} (hr : partRecord (s.flash.read 0x2000000 0x10000) = some (r, n))
    (hv : recordVerifies (s.flash.read 0x2000000 0x10000) n = true) : s.verifiedRecord = some r := by
  rw [recordVerifies] at hv
  simp only [State.verifiedRecord, recordOffset, recordArea, signatureBytes, hr, hv, if_true]

theorem State.verifiedRecord_none (h : ∀ r n, partRecord (s.flash.read 0x2000000 0x10000) = some (r, n) →
    recordVerifies (s.flash.read 0x2000000 0x10000) n = false) : s.verifiedRecord = none := by
  simp only [State.verifiedRecord, recordOffset, recordArea, signatureBytes]
  split
  · rfl
  · next r n hn =>
    have hv := h r n hn
    rw [recordVerifies] at hv
    simp only [hv, Bool.false_eq_true, if_false]

end

/-- Settles O51: a reset empties its cores and drops their traffic (`State.resetPartition_core`); a power window goes by
its two thresholds, and boot by its phase and by what the flash's copies and record verify as. -/
theorem packageEvents : Obligations.PackageEvents := by
  intro s tenant mW tempC c b seen
  refine ⟨fun p hp => ?reset, fun hp => ?noPartition, fun hw => ⟨fun h => ?held, fun hm ht => ?released, fun hm ht h => ?between⟩,
    fun hw => ?early, fun ht => ?hot, ?boot, fun hf => ?stays⟩
  case reset =>
    refine ⟨_, by simp only [exec, execVfReset, hp]; rfl, fun k hk => ?_⟩
    obtain ⟨⟨hhalt, hev, hslots⟩, htraffic⟩ := State.resetPartition_core (s := s) hk
    exact ⟨hhalt, hev, hslots, htraffic⟩
  case noPartition => simp only [exec, execVfReset, hp]
  case held => rw [execPowerWindowEnd_ends mW tempC hw, if_pos h]
  case released => rw [execPowerWindowEnd_ends mW tempC hw, if_neg (by omega), if_pos ⟨hm, ht⟩]
  case between => rw [execPowerWindowEnd_ends mW tempC hw, if_neg (by omega), if_neg (by omega)]
  case early => simp only [exec, execPowerWindowEnd, powerWindow, hw, if_true]
  case hot => simp only [exec, execOverTemperature, holdC, ht, if_true]
  case stays => simp only [step, State.turn, hf, if_true]
  case boot =>
    intro verified image record
    refine ⟨fun h => ?_, fun h => ⟨fun n hi hv => ?_, fun n ha hi hv => ?_, fun hnone => ?_⟩, fun bs h => ?_,
      fun h => ⟨fun r n hr hv => ?_, fun hnone => ?_⟩, fun h => ?_⟩
    · simp only [exec, execModuleBoot, h]
    · exact execModuleBoot_copyA h (State.verifiedImage_some hi hv)
    · exact execModuleBoot_copyB h (State.verifiedImage_none ha) (State.verifiedImage_some hi hv)
    · exact execModuleBoot_noCopy h (State.verifiedImage_none (hnone 0)) (State.verifiedImage_none (hnone 1))
    · refine ⟨_, execModuleBoot_accepted h, rfl, rfl, rfl, fun i hi => ?_, rfl, rfl⟩
      simp [State.hartRuns, State.configurePorts, hi]
    · exact execModuleBoot_record h (State.verifiedRecord_some hr hv)
    · refine ⟨_, execModuleBoot_noRecord h (State.verifiedRecord_none fun r n hr => ?_), rfl, rfl, rfl, rfl, rfl⟩
      rcases hnone with hn | ⟨r', n', hr', hv⟩
      · cases hn.symm.trans hr
      · cases hr'.symm.trans hr
        exact hv
    · simp only [exec, execModuleBoot, h]

end Sys2Proof.Machine
end

section
/-!
PROOFS. Answers to a cell's fault (O48): replay, tear-down and watchdog.
-/

namespace Sys2Proof.Machine
open Sys2Proof

section
variable {s : State} {c : CellId} {v : VpId}

/-- A replay of a cell whose next block waits restarts that from its start (R373). -/
theorem execFaultReplay_restarts {b : Fin 32} (hv : (s.row c.rowId).host = some v) (ha : (s.cell c).action = some true)
    (hr : (s.cell c).rejected = false) (hi : (s.cell c).inst = none) (hn : (s.cell c).next = some b)
    (hb : (s.cell c).bend = false) : exec (.faultReplay c) s = .next ((s.setCell c { s.cell c with
      action := none, agens := Vector.ofFn fun i => (s.cell c).agens[i].map fun a => { a with faulted := false } }).startBlock
        v c b.val) := by
  simp only [exec, execFaultReplay, State.vpOf, hv, ha, hr, hi, hn, hb, Bool.false_eq_true, if_false]

/-- A tear-down that a handler has asked for ends the VP with the fault's own cause (R373). -/
theorem execFaultTeardown_ends {cause : Cause} (hv : (s.row c.rowId).host = some v) (ha : (s.cell c).action = some false)
    (hc : (s.cell c).cause = some cause) : exec (.faultTeardown c) s = .next ((s.setCell c { s.cell c with
      action := none }).teardown v cause (c.src (s.cell c).slot.val (s.cell c).lane.val)
        (faultPayload v.handle (s.cell c).block.val (s.cell c).srcKind.val)) := by
  simp only [exec, execFaultTeardown, State.vpOf, hv, ha, hc, State.cellFaultPayload, State.cell_setCell_same,
    Option.getD_some]

/-- The watchdog ends the VP where the fault has been pending for 2^26 cycles (R374), and does nothing before. -/
theorem execFaultWatchdog_eq (hv : (s.row c.rowId).host = some v) : exec (.faultWatchdog c) s =
    if (s.cell c).pending = false ∨ s.cycle < (s.cell c).faultAt + 2 ^ 26 then .next s
    else .next ((s.setCell c { s.cell c with pending := false }).teardown v .watchdog
      (c.src (s.cell c).slot.val (s.cell c).lane.val)
      (faultPayload v.handle (s.cell c).block.val (s.cell c).srcKind.val)) := by
  simp only [exec, execFaultWatchdog, State.vpOf, hv, State.cellFaultPayload, State.cell_setCell_same,
    Bool.or_eq_true, Bool.not_eq_true', decide_eq_true_eq]
end

/-- A tear-down of a VP that shares its band with none. -/
theorem State.teardown_alone {u : State} {v : VpId} (h : u.mates v = [v] ∨ u.mates v = []) (cause : Cause)
    (src payload : Nat) : u.teardown v cause src payload =
      (((u.dropRequests v).dropVp v).postVp v (record 3 cause.code 14 src payload)).freeVp v := by
  have none : (u.mates v).filter (fun w => w != v) = [] := by
    rcases h with h | h <;> simp [h]
  simp only [State.teardown, none, List.foldl_nil]
  rfl

/-- Settles O48: each answer to a cell's fault by the lemma of its event, and the tear-down by `State.teardown_alone`. -/
theorem cellFaultAnswers : Obligations.CellFaultAnswers := by
  intro s c v x payload hv
  refine ⟨fun b ha hr hi hn hb => execFaultReplay_restarts hv ha hr hi hn hb,
    fun cause ha hc => execFaultTeardown_ends hv ha hc, fun hp ht => ?_, fun h => ?_,
    fun u cause src payload hm => State.teardown_alone hm cause src payload⟩
  · rw [execFaultWatchdog_eq hv, if_neg (not_or.mpr ⟨by simp [x, hp], Nat.not_lt.mpr ht⟩)]
    rfl
  · rw [execFaultWatchdog_eq hv, if_pos h]

end Sys2Proof.Machine
end

section
/-!
PROOFS. Built-in functions (O38, O60): checks, steps and ends.
-/

namespace Sys2Proof.Machine
open Sys2Proof

section
variable {s u v : State} {g : GrottoId} {j : Fin 8} {x : RemoteCtx} {ws : List Nat}

theorem State.builtin_of_entry {n : Nat} (hx : (s.unit (.grotto g)).ctx[j] = some x) (he : x.call.entry = n) :
    s.builtin ⟨.grotto g, j⟩ n = some x := by
  simp [State.builtin, hx, he]

/-! ### REDUCE and ADAMW -/

/-- REDUCE or ADAMW, by its entry, with its own checks. -/
def BlockFunction (t : RemoteId) (entry : Nat) (i : Instr) (ok : Cap → List Nat → Bool) : Prop :=
  (entry = 0 ∧ i = .builtinReduce t ∧ ok = reduceOk) ∨ (entry = 1 ∧ i = .builtinAdamw t ∧ ok = adamwOk)

/-- Their first step is `State.blockStart` with the function's checks. -/
theorem exec_blockStart {i : Instr} {ok : Cap → List Nat → Bool} (hx : (s.unit (.grotto g)).ctx[j] = some x)
    (hi : BlockFunction ⟨.grotto g, j⟩ x.call.entry i ok) (hp : x.params = none) :
    exec i s = .next (s.blockStart ⟨.grotto g, j⟩ x ok) := by
  rcases hi with ⟨he, rfl, rfl⟩ | ⟨he, rfl, rfl⟩
  · simp only [exec, execBuiltinReduce, State.builtin_of_entry hx he, hp]
  · simp only [exec, execBuiltinAdamw, State.builtin_of_entry hx he, hp]

/-- After the last group it is `State.blockEnd`. -/
theorem exec_blockEnd {i : Instr} {ok : Cap → List Nat → Bool} (hx : (s.unit (.grotto g)).ctx[j] = some x)
    (hi : BlockFunction ⟨.grotto g, j⟩ x.call.entry i ok) (hp : x.params = some ws) (hd : blockWord ws 0 ≤ x.done) :
    exec i s = .next (s.blockEnd ⟨.grotto g, j⟩ x ws) := by
  rcases hi with ⟨he, rfl, rfl⟩ | ⟨he, rfl, rfl⟩
  · simp only [exec, execBuiltinReduce, State.builtin_of_entry hx he, hp, hd, if_true]
  · simp only [exec, execBuiltinAdamw, State.builtin_of_entry hx he, hp, hd, if_true]

/-- A group of REDUCE gives the tree sums of its sources' elements. -/
theorem exec_builtinReduce_group (hx : (s.unit (.grotto g)).ctx[j] = some x) (he : x.call.entry = 0)
    (hp : x.params = some ws) (hd : x.done < blockWord ws 0) :
    exec (.builtinReduce ⟨.grotto g, j⟩) s = .next (s.blockGroup ⟨.grotto g, j⟩ x ws (reduceSources ws)
      [blockDouble ws 4] fun cols => [(List.range ((cols.headD []).length)).map fun i => treeSum (rowOf cols i)]) := by
  simp only [exec, execBuiltinReduce, State.builtin_of_entry hx he, hp, Nat.not_le.mpr hd, if_false]

/-- Element i of a group of ADAMW, from the columns of parameters, gradients and moments. -/
def adamwRow (ws : List Nat) (cols : List (List Nat)) (i : Nat) : Nat × Nat × Nat :=
  adamwElem ws ((rowOf cols i).getD 0 0) ((rowOf cols i).getD 1 0) ((rowOf cols i).getD 2 0) ((rowOf cols i).getD 3 0)

/-- A group of ADAMW gives the new parameters and both moments. -/
theorem exec_builtinAdamw_group (hx : (s.unit (.grotto g)).ctx[j] = some x) (he : x.call.entry = 1)
    (hp : x.params = some ws) (hd : x.done < blockWord ws 0) :
    exec (.builtinAdamw ⟨.grotto g, j⟩) s = .next (s.blockGroup ⟨.grotto g, j⟩ x ws
      [blockDouble ws 4, blockDouble ws 10, blockDouble ws 12, blockDouble ws 14]
      [blockDouble ws 4, blockDouble ws 12, blockDouble ws 14] fun cols =>
        let rows := (List.range ((cols.headD []).length)).map (adamwRow ws cols)
        [rows.map (·.1), rows.map (·.2.1), rows.map (·.2.2)]) := by
  simp only [exec, execBuiltinAdamw, State.builtin_of_entry hx he, hp, Nat.not_le.mpr hd, if_false]
  rfl

variable {t : RemoteId} {ok : Cap → List Nat → Bool}

theorem State.blockStart_refused (h : x.call.cap.space ≠ .dense ∨ x.call.cap.pR = false ∨ x.call.cap.pW = false) :
    s.blockStart t x ok = s.builtinEnd t .perm 0 0 := by
  have h' : (x.call.cap.space != .dense || !x.call.cap.pR || !x.call.cap.pW) = true := by
    simpa [or_assoc] using h
  rw [State.blockStart, if_pos h']

theorem State.blockStart_reads (hs : x.call.cap.space = .dense) (hr : x.call.cap.pR = true) (hw : x.call.cap.pW = true)
    (ha : x.call.payload[0].toNat % 8 = 0) (hl : x.call.payload[0].toNat + 128 ≤ x.call.cap.length)
    (hb : s.builtinWords t.unit x.call.tenant (x.call.cap.base + x.call.payload[0].toNat) 32 = (u, .ok ws)) :
    s.blockStart t x ok =
      if ok x.call.cap ws then u.setCtx t { x with params := some ws } else u.builtinEnd t .badDesc 0 0 := by
  simp [State.blockStart, hs, hr, hw, ha, Nat.not_lt.mpr hl, hb]

theorem State.blockEnd_waits (h : s.podDone (.remote t) = false) : s.blockEnd t x ws = s := by
  have h' : (!s.podDone (.remote t)) = true := by rw [h]; rfl
  rw [State.blockEnd, if_pos h']

theorem State.blockEnd_ends (hd : s.podDone (.remote t) = true) (h : blockWord ws 3 = 1 ∨ blockWord ws 0 < x.done) :
    s.blockEnd t x ws = s.builtinEnd t .ok (blockWord ws 0) (blockDouble ws 8) := by
  have hd' : ¬(!s.podDone (.remote t)) = true := by simp [hd]
  rw [State.blockEnd, if_neg hd', if_pos h]

/-- The flag value is stored, and the function ends once other modules have acknowledged it. -/
theorem State.blockEnd_stores {ps : List (List (Loc × Nat))} (hd : s.podDone (.remote t) = true)
    (hf : blockWord ws 3 ≠ 1) (hc : x.done ≤ blockWord ws 0)
    (hp : s.builtinTargets t.unit x.call.tenant .badDesc 8 [blockDouble ws 6] = (u, .ok ps)) :
    s.blockEnd t x ws =
      let w := u.builtinPut t x.call.tenant 8 (ps.map fun p => (p, blockDouble ws 8))
      if w.podDone (.remote t) then w.builtinEnd t .ok (blockWord ws 0) (blockDouble ws 8)
      else w.setCtx t { x with done := blockWord ws 0 + 1 } := by
  have h : ¬(blockWord ws 3 = 1 ∨ blockWord ws 0 < x.done) := not_or.mpr ⟨hf, Nat.not_lt.mpr hc⟩
  have hd' : ¬(!s.podDone (.remote t)) = true := by simp [hd]
  rw [State.blockEnd, if_neg hd', if_neg h, hp]

/-- A group whose elements can be read and whose outputs' addresses are found is written. -/
theorem State.blockGroup_writes {inputs outputs : List Nat} {f : List (List Nat) → List (List Nat)}
    {cols : List (List Nat)} {ps : List (List (Loc × Nat))}
    (hc : s.builtinCols t.unit x.call.tenant x.done (min 16 (blockWord ws 0 - x.done)) inputs = (u, .ok cols))
    (hp : u.builtinTargets t.unit x.call.tenant .badDesc 4 (outputs.flatMap fun va =>
      (List.range (min 16 (blockWord ws 0 - x.done))).map fun i => va + 4 * (x.done + i)) = (v, .ok ps)) :
    s.blockGroup t x ws inputs outputs f = (v.builtinPut t x.call.tenant 4 (ps.zip (f cols).flatten)).setCtx t
      { x with done := x.done + min 16 (blockWord ws 0 - x.done) } := by
  simp only [State.blockGroup, hc, hp]

/-! ### FILL and COPY -/

variable {count dst n : Nat} {data : State → State × Except Status Nat}

theorem State.unitStep_ends (h : count ≤ x.done) (hd : s.podDone (.remote t) = true) :
    s.unitStep t x count dst data = s.builtinEnd t .ok count 0 := by
  simp only [State.unitStep, h, hd, if_true]

theorem State.unitStep_writes {ps : List (List (Loc × Nat))} (h : x.done < count) (hv : data s = (u, .ok n))
    (hp : u.builtinTargets t.unit x.call.tenant .perm 8 [x.call.cap.base + dst + x.done] = (v, .ok ps)) :
    s.unitStep t x count dst data =
      (v.builtinPut t x.call.tenant 8 (ps.map fun p => (p, n))).setCtx t { x with done := x.done + 8 } := by
  simp only [State.unitStep, Nat.not_le.mpr h, if_false, hv, hp]

/-- A unit of 8 bytes in one piece is one write. -/
theorem State.builtinPut_one (a n : Nat) (tenant : BitVec 8) : s.builtinPut t tenant 8 [([(⟨.dense, a, none⟩, 8)], n)] =
    s.locWrite ⟨tenant, .thread (.remote t)⟩ ⟨.dense, a, none⟩ (leBytes 8 n) := by
  rw [State.builtinPut, List.foldl_cons, List.foldl_nil, State.areaPut_one (length_leBytes 8 n)]

theorem exec_builtinFill_step (hx : (s.unit (.grotto g)).ctx[j] = some x) (he : x.call.entry = 2)
    (hp : x.params = some ws) : exec (.builtinFill ⟨.grotto g, j⟩) s = .next (s.unitStep ⟨.grotto g, j⟩ x
      x.call.payload[1].toNat x.call.payload[0].toNat fun s => (s, .ok x.call.payload[2].toNat)) := by
  simp only [exec, execBuiltinFill, State.builtin_of_entry hx he, hp]

theorem exec_builtinFill_refused (hx : (s.unit (.grotto g)).ctx[j] = some x) (he : x.call.entry = 2)
    (hp : x.params = none) (h : x.call.cap.space ≠ .dense ∨ x.call.cap.pW = false) :
    exec (.builtinFill ⟨.grotto g, j⟩) s = .next (s.builtinEnd ⟨.grotto g, j⟩ .perm 0 0) := by
  have h' : (x.call.cap.space != .dense || !x.call.cap.pW) = true := by simpa using h
  simp only [exec, execBuiltinFill, State.builtin_of_entry hx he, hp, h', if_true]

theorem exec_builtinFill_checked (hx : (s.unit (.grotto g)).ctx[j] = some x) (he : x.call.entry = 2)
    (hp : x.params = none) (hs : x.call.cap.space = .dense) (hw : x.call.cap.pW = true)
    (h0 : x.call.payload[0].toNat % 8 = 0) (h1 : x.call.payload[1].toNat % 8 = 0)
    (hl : x.call.payload[0].toNat + x.call.payload[1].toNat ≤ x.call.cap.length) :
    exec (.builtinFill ⟨.grotto g, j⟩) s = .next (s.setCtx ⟨.grotto g, j⟩ { x with params := some [] }) := by
  simp [exec, execBuiltinFill, State.builtin_of_entry hx he, hp, hs, hw, h0, h1, Nat.not_lt.mpr hl]

/-- The source's bytes as COPY reads them. -/
def State.copyRead (s : State) (t : RemoteId) (x : RemoteCtx) : State × Except Status Nat :=
  match s.builtinRead t.unit x.call.tenant (x.call.cap.base + x.call.payload[1].toNat + x.done) 8 with
  | (s, .error e) => (s, .error e)
  | (s, .ok bs) => (s, .ok (leNat bs))

theorem State.copyRead_ok {bs : List Byte}
    (h : s.builtinRead t.unit x.call.tenant (x.call.cap.base + x.call.payload[1].toNat + x.done) 8 = (u, .ok bs)) :
    s.copyRead t x = (u, .ok (leNat bs)) := by
  simp only [State.copyRead, h]

theorem exec_builtinCopy_step (hx : (s.unit (.grotto g)).ctx[j] = some x) (he : x.call.entry = 3)
    (hp : x.params = some ws) : exec (.builtinCopy ⟨.grotto g, j⟩) s = .next (s.unitStep ⟨.grotto g, j⟩ x
      x.call.payload[2].toNat x.call.payload[0].toNat fun s => s.copyRead ⟨.grotto g, j⟩ x) := by
  simp only [exec, execBuiltinCopy, State.builtin_of_entry hx he, hp]
  rfl

section
variable (hx : (s.unit (.grotto g)).ctx[j] = some x) (he : x.call.entry = 3) (hp : x.params = none)
  (hs : x.call.cap.space = .dense) (hr : x.call.cap.pR = true) (hw : x.call.cap.pW = true)
include hx he hp hs hr hw

theorem exec_builtinCopy_checked (h0 : x.call.payload[0].toNat % 8 = 0) (h1 : x.call.payload[1].toNat % 8 = 0)
    (h2 : x.call.payload[2].toNat % 8 = 0)
    (hd : x.call.payload[0].toNat + x.call.payload[2].toNat ≤ x.call.cap.length)
    (hl : x.call.payload[1].toNat + x.call.payload[2].toNat ≤ x.call.cap.length)
    (hov : x.call.payload[1].toNat + x.call.payload[2].toNat ≤ x.call.payload[0].toNat ∨
      x.call.payload[0].toNat + x.call.payload[2].toNat ≤ x.call.payload[1].toNat) :
    exec (.builtinCopy ⟨.grotto g, j⟩) s = .next (s.setCtx ⟨.grotto g, j⟩ { x with params := some [] }) := by
  have apart : x.call.payload[0].toNat < x.call.payload[1].toNat + x.call.payload[2].toNat →
      x.call.payload[0].toNat + x.call.payload[2].toNat ≤ x.call.payload[1].toNat := by omega
  simpa [exec, execBuiltinCopy, State.builtin_of_entry hx he, hp, hs, hr, hw, h0, h1, h2, Nat.not_lt.mpr hd,
    Nat.not_lt.mpr hl] using fun h h' => absurd (apart h) (Nat.not_le.mpr h')

/-- Ranges that overlap are BAD_DESC (R355). -/
theorem exec_builtinCopy_overlaps (h0 : x.call.payload[0].toNat < x.call.payload[1].toNat + x.call.payload[2].toNat)
    (h1 : x.call.payload[1].toNat < x.call.payload[0].toNat + x.call.payload[2].toNat) :
    exec (.builtinCopy ⟨.grotto g, j⟩) s = .next (s.builtinEnd ⟨.grotto g, j⟩ .badDesc 0 0) := by
  simp [exec, execBuiltinCopy, State.builtin_of_entry hx he, hp, hs, hr, hw, h0, h1]
end

end

/-- Settles O38: the first step of a function is `State.blockStart` or its own checks, each later one `State.blockGroup`
or `State.unitStep`, and the last `State.blockEnd`. -/
theorem builtIns : Obligations.BuiltIns := by
  intro s u v g j x t cap p ends checked who hx
  refine ⟨fun i ok hi => ⟨fun hp h => ?_, fun hp hs hr hw ha hl ws hws => ⟨fun hok => ?_, fun hok => ?_⟩,
      fun ws hp hd => ⟨fun hf hpod => ?_, fun hpod => ?_⟩⟩,
    fun he ws hp hd => exec_builtinReduce_group hx he hp hd, fun he ws hp hd => exec_builtinAdamw_group hx he hp hd,
    fun ws a b c d => rfl,
    fun he => ⟨fun hp hs hw h0 h1 hl => exec_builtinFill_checked hx he hp hs hw h0 h1 hl,
      fun hp h => exec_builtinFill_refused hx he hp h, fun ws hp hd hpod => ?_, fun ws a hp hd htar => ?_⟩,
    fun he => ⟨fun hp hs hr hw h0 h1 h2 hl0 hl1 hov => ?_, fun hp hs hr hw h0 h1 => ?_, fun ws hp hd hpod => ?_,
      fun ws bs a hp hd hread htar => ?_⟩,
    fun a b c d e f h => ⟨rfl, rfl⟩⟩
  · rw [exec_blockStart hx hi hp, State.blockStart_refused h]
    rfl
  · rw [exec_blockStart hx hi hp, State.blockStart_reads hs hr hw ha hl hws, if_pos hok]
  · rw [exec_blockStart hx hi hp, State.blockStart_reads hs hr hw ha hl hws, if_neg (by simp [cap, hok])]
    rfl
  · rw [exec_blockEnd hx hi hp hd, State.blockEnd_ends hpod (.inl hf)]
    rfl
  · rw [exec_blockEnd hx hi hp hd, State.blockEnd_waits hpod]
  · exact (exec_builtinFill_step hx he hp).trans (congrArg Host.Outcome.next (State.unitStep_ends hd hpod))
  · rw [← State.builtinPut_one]
    exact (exec_builtinFill_step hx he hp).trans (congrArg Host.Outcome.next (State.unitStep_writes hd rfl htar))
  · exact exec_builtinCopy_checked hx he hp hs hr hw h0 h1 h2 hl0 hl1 hov
  · exact exec_builtinCopy_overlaps hx he hp hs hr hw h0 h1
  · exact (exec_builtinCopy_step hx he hp).trans (congrArg Host.Outcome.next (State.unitStep_ends hd hpod))
  · rw [← State.builtinPut_one]
    exact (exec_builtinCopy_step hx he hp).trans
      (congrArg Host.Outcome.next (State.unitStep_writes hd (State.copyRead_ok hread) htar))

/-- Settles O60: a group that can be read and located is `State.blockGroup_writes`, the end `State.blockEnd_stores`, a unit
`State.unitStep_writes`. -/
theorem builtInsComplete : Obligations.BuiltInsComplete := by
  intro s u v g j x ws cols ps t tenant count n k at' places p base moved hx hp
  refine ⟨fun he hd hc htar => ?_, fun he hd hc htar => ?_, fun i hi => ?_, fun he hd htar => ?_,
    fun bs he hd hread htar => ?_⟩
  · rw [exec_builtinReduce_group hx he hp hd, State.blockGroup_writes (ps := ps) hc (by simpa using htar)]
    simp [moved, k, rowOf]
    rfl
  · rw [exec_builtinAdamw_group hx he hp hd, State.blockGroup_writes (ps := ps) hc (by simpa using htar)]
    simp [moved, k]
    rfl
  · have hi' : ∃ ok, BlockFunction t x.call.entry i ok := by
      rcases hi with ⟨he, hi⟩ | ⟨he, hi⟩
      · exact ⟨_, .inl ⟨he, hi, rfl⟩⟩
      · exact ⟨_, .inr ⟨he, hi, rfl⟩⟩
    obtain ⟨ok, hi'⟩ := hi'
    refine ⟨fun hd hf hpod htar => ?_, fun hpod h => ?_, fun hd hpod => ?_⟩
    · rw [exec_blockEnd hx hi' hp hd.le, State.blockEnd_stores hpod hf hd.ge htar]
      refine ⟨fun hst => ?_, fun hst => ?_⟩
      · exact congrArg Host.Outcome.next (if_pos hst)
      · exact congrArg Host.Outcome.next (if_neg (Bool.eq_false_iff.mp hst))
    · rw [exec_blockEnd hx hi' hp (by omega), State.blockEnd_ends hpod (by omega)]
      rfl
    · rw [exec_blockEnd hx hi' hp hd, State.blockEnd_waits hpod]
  · exact (exec_builtinFill_step hx he hp).trans (congrArg Host.Outcome.next (State.unitStep_writes hd rfl htar))
  · exact (exec_builtinCopy_step hx he hp).trans
      (congrArg Host.Outcome.next (State.unitStep_writes hd (State.copyRead_ok hread) htar))

end Sys2Proof.Machine
end

section
/-!
PROOFS. Callers of remote functions (O34): RCALL, its resends, and RWAIT.
-/

namespace Sys2Proof.Machine
open Sys2Proof

/-! ### The checks of a call's capability (R336) -/

section
variable {cap : Cap} {n : Nat} {tenant : BitVec 8}

theorem callCapTrap_untagged (ht : cap.tag = false) : callCapTrap cap n tenant = some ⟨.tag, BitVec.ofNat 64 n⟩ := by
  simp [callCapTrap, ht]

theorem callCapTrap_refused (ht : cap.tag = true) (h : cap.otype ≠ 0 ∨ cap.tenant ≠ tenant ∨ cap.space = .sys) :
    callCapTrap cap n tenant = some ⟨.perm, BitVec.ofNat 64 n⟩ := by
  have h' : (cap.otype != 0 || cap.tenant != tenant || cap.space == .sys) = true := by simpa [or_assoc] using h
  simp [callCapTrap, ht, h']

theorem callCapTrap_passes (ht : cap.tag = true) (ho : cap.otype = 0) (hn : cap.tenant = tenant) (hs : cap.space ≠ .sys)
    (hl : cap.length ≠ 0) : callCapTrap cap n tenant = none := by
  simp [callCapTrap, ht, ho, hn, hs, hl]
end

/-! ### RCALL -/

/-- The lowest free slot of a core is the first without a call. -/
theorem Core.freeSlot_lowest {c : Core} {slot : Fin 16} (h : c.slots[slot] = none) (hl : ∀ j < slot, c.slots[j] ≠ none) :
    c.freeSlot = some slot := by
  rw [Core.freeSlot, List.find?_eq_some_iff_getElem]
  refine ⟨by simp [h], slot.val, by simp, by simp, fun j hj => ?_⟩
  have := hl ⟨j, by omega⟩ hj
  simpa [← Option.isSome_iff_ne_none] using this

section
variable {s s1 : State} {k : CoreId} {d a b : XReg} {c : CReg} {rel : Bool} {e : Fin 32} {n : Fin 4} {home : Home} {l : Loc}
  {slot : Fin 16}

/-- The call that RCALL makes with the stores before it performed (R336). -/
def State.rcallOf (s u : State) (k : CoreId) (c : CReg) (rel : Bool) (e : Fin 32) (b : XReg) (n : Fin 4) (home : Home)
    (l : Loc) : Call :=
  { entry := ((s.thread (.core k)).get (Fin.ofNat 64 e.val)).toNat % 2 ^ 12, payload := (s.thread (.core k)).payloads b n
    cap := s.getC (.core k) c, tenant := (s.thread (.core k)).tenant, num := (u.core k).callNum, caller := .core k
    home := home, forwarded := false, refused := false, rel := rel, base := l.addr, after := [] }

/-- The caller with a call in a slot. -/
def State.openSlot (u : State) (k : CoreId) (slot : Fin 16) (call : Call) : State :=
  u.setCore k { u.core k with
    callNum := nextNum (u.core k).callNum
    slots := (u.core k).slots.set slot (some ⟨call, u.cycle, 0, none, false⟩) }

section
variable (hk : s.focus.thread = .core k) (hcap : callCapTrap (s.getC (.core k) c) c.val (s.thread (.core k)).tenant = none)
  (hh : s.targetHome (ThreadId.core k).cache (s.thread (.core k)).tenant (s.threadRoot (.core k)) (s.getC (.core k) c) =
    (s1, .ok (home, l)))
  (hf : (s1.core k).freeSlot = some slot) (ha : rel = true → s.callsAccepted (.core k) = true)
include hk hcap hh hf ha

/-- With the release flag, a call to another module waits for the acknowledgements of what is earlier (R344). -/
theorem execRcall_waits (hrel : rel = true) (hfar : home.isFar = true) (hp : (s.drain k).podDone (.core k) = false) :
    exec (.rcall d c rel e b n) s = .next (s.drain k) := by
  have accepted : ¬(rel && !s.callsAccepted (.core k)) = true := by simp [ha hrel]
  have waits : (rel && home.isFar && !(s.drainThread (.core k)).podDone (.core k)) = true := by
    rw [hrel, hfar, State.drainThread, hp]
    rfl
  simp only [exec, execRcall, onCore_core hk, hcap, hh, hf, if_neg accepted, if_pos waits]
  rfl

/-- A call whose checks pass leaves, with a slot and a number, after the caller's earlier stores (R336, R344). -/
theorem execRcall_sends (hp : rel = true → home.isFar = true → (s.drain k).podDone (.core k) = true) :
    exec (.rcall d c rel e b n) s =
      let u := if rel then s1.drain k else s1.settlePage (.core k) l
      let call := s.rcallOf u k c rel e b n home l
      .next ((((u.openSlot k slot call).sendCall call).setX (.core k) d
        (BitVec.ofNat 64 (call.num.toNat + slot.val * 2 ^ 32))).retire (.core k)) := by
  have accepted : ¬(rel && !s.callsAccepted (.core k)) = true := by
    cases rel with
    | false => simp
    | true => simp [ha]
  have performed : ¬(rel && home.isFar && !(s.drainThread (.core k)).podDone (.core k)) = true := by
    simpa [State.drainThread] using hp
  simp only [exec, execRcall, onCore_core hk, hcap, hh, hf, if_neg accepted, if_neg performed, field_from_zero]
  rfl
end

/-- RCALL whose capability fails a check (R336). -/
theorem execRcall_refused {x : Trap} (hk : s.focus.thread = .core k)
    (hcap : callCapTrap (s.getC (.core k) c) c.val (s.thread (.core k)).tenant = some x) :
    exec (.rcall d c rel e b n) s = .next (s.trap (.core k) x) := by
  simp only [exec, execRcall, onCore_core hk, hcap]

/-! ### Resends and LOST (R348) -/

variable {o : OpenCall}

theorem State.openCall_core (ho : (s.core k).slots[slot] = some o) :
    s.openCall (.core k) slot = some (o, (s.core k).krtime.toNat * 800) := by
  simp [State.openCall, ho, krtimeCycles]

theorem execCallResend_due (ho : (s.core k).slots[slot] = some o) (hr : o.reply = none) (hn : o.resends < 3)
    (ht : (o.resends + 1) * ((s.core k).krtime.toNat * 800) ≤ 4 * (s.cycle - o.sentAt)) :
    exec (.callResend (.core k) slot) s =
      .next ((s.setOpenCall (.core k) slot { o with resends := o.resends + 1 }).sendCall o.call) := by
  simp [exec, execCallResend, State.openCall_core ho, hr, hn, ht]

theorem execCallResend_early (ho : (s.core k).slots[slot] = some o)
    (ht : 4 * (s.cycle - o.sentAt) < (o.resends + 1) * ((s.core k).krtime.toNat * 800)) :
    exec (.callResend (.core k) slot) s = .next s := by
  simp [exec, execCallResend, State.openCall_core ho, Nat.not_le.mpr ht]

theorem execCallLostTimeout_due (ho : (s.core k).slots[slot] = some o) (hr : o.reply = none)
    (ht : (s.core k).krtime.toNat * 800 ≤ s.cycle - o.sentAt) :
    exec (.callLostTimeout (.core k) slot) s = .next (s.declareLost (.core k) slot o) := by
  simp [exec, execCallLostTimeout, State.openCall_core ho, OpenCall.expired, hr, ht]

/-! ### RWAIT (R346) -/

/-- A slot's handle: its call's number with the slot above it. -/
theorem handle_iff {w : Word} {num : BitVec 32} (hs : slot.val = w.toNat / 2 ^ 32 % 16) :
    w.toNat = num.toNat + slot.val * 2 ^ 32 ↔ field w.toNat 63 36 = 0 ∧ num.toNat = field w.toNat 31 0 := by
  have := w.isLt
  have := num.isLt
  simp only [field]
  omega

/-- What RWAIT writes. -/
def State.rwaitWrite (s : State) (k : CoreId) (d b : XReg) (st : Nat) (r0 r1 : Word) : Res :=
  .next ((((s.setX (.core k) d (BitVec.ofNat 64 (st * 2 ^ 48))).setX (.core k) b r0).setX (.core k) (b + 1) r1).retire
    (.core k))

variable (hk : s.focus.thread = .core k) (hs : slot.val = (s.getX (.core k) a).toNat / 2 ^ 32 % 16)
include hk hs

/-- RWAIT by the slot that its handle names. -/
theorem execRwait_eq : exec (.rwait d a b) s =
    match (s.core k).slots[slot] with
    | none => s.rwaitWrite k d b 14 0 0
    | some o =>
      if (s.getX (.core k) a).toNat = o.call.num.toNat + slot.val * 2 ^ 32 then
        match o.reply with
        | none => .next s
        | some r => (s.setCore k { s.core k with slots := (s.core k).slots.set slot none }).rwaitWrite k d b r.status.toNat
            r.r0 r.r1
      else s.rwaitWrite k d b 14 0 0 := by
  have slotOf : Fin.ofNat 16 (field (s.getX (.core k) a).toNat 35 32) = slot := Fin.ext (by
    simp only [field, Fin.ofNat, hs]
    omega)
  simp only [exec, execRwait, onCore_core hk, slotOf]
  cases ho : (s.core k).slots[slot] with
  | none => rfl
  | some o =>
    by_cases hh : (s.getX (.core k) a).toNat = o.call.num.toNat + slot.val * 2 ^ 32
    · obtain ⟨high, low⟩ := (handle_iff hs).mp hh
      have names : ¬(field (s.getX (.core k) a).toNat 63 36 != 0 ||
          o.call.num.toNat != field (s.getX (.core k) a).toNat 31 0) = true := by simp [high, low]
      simp only [if_pos hh, if_neg names]
      cases o.reply <;> rfl
    · have other : (field (s.getX (.core k) a).toNat 63 36 != 0 ||
          o.call.num.toNat != field (s.getX (.core k) a).toNat 31 0) = true := by
        rw [handle_iff hs, not_and_or] at hh
        simpa using hh
      simp only [if_neg hh, if_pos other]
      rfl
end

/-- Settles O34: RCALL by its checks (`execRcall_sends`, `execRcall_waits`), a resend and LOST by the time that has passed,
and RWAIT by the slot that its handle names (`execRwait_eq`). -/
theorem remoteCallers : Obligations.RemoteCallers := by
  refine ⟨?_, ?_⟩
  · intro s s1 k d a b c rel e n home l slot t th cap u num call opened hk
    refine ⟨fun ht ho hn hsp hl hh hslot hlow hacc => ⟨fun hp => ?_, fun hrel hfar hp => ?_⟩, fun ht => ?_,
      fun ht h => ?_, fun o ho hr => ?_⟩
    · have hcap := callCapTrap_passes (n := c.val) ht ho hn hsp hl
      exact execRcall_sends hk hcap hh (Core.freeSlot_lowest hslot hlow) hacc hp
    · exact execRcall_waits hk (callCapTrap_passes ht ho hn hsp hl) hh (Core.freeSlot_lowest hslot hlow) hacc hrel hfar hp
    · exact trapsOn_of_exec (execRcall_refused hk (callCapTrap_untagged ht))
    · exact trapsOn_of_exec (execRcall_refused hk (callCapTrap_refused ht h))
    · intro time put
      exact ⟨fun hn ht => execCallResend_due ho hr hn ht, fun hn ht => execCallResend_early ho ht,
        fun ht => execCallLostTimeout_due ho hr ht⟩
  · intro s k d a b slot t h write hk hs
    rw [execRwait_eq hk hs]
    refine ⟨fun o ho hh => ⟨fun r hr => ?_, fun hr => ?_⟩, fun hno => ?_⟩
    · simp only [ho, hr]
      exact if_pos hh
    · simp only [ho, hr]
      exact if_pos hh
    · cases ho : (s.core k).slots[slot] with
      | none => rfl
      | some o => exact if_neg (hno o ho)

end Sys2Proof.Machine
end

section
/-!
PROOFS. Arrival of remote calls (O35).
-/

namespace Sys2Proof.Machine
open Sys2Proof

/-! ### The judgement of a call (R348) -/

theorem lowestNum_mem {l : List (BitVec 32)} {n : BitVec 32} (h : lowestNum l = some n) : n ∈ l := by
  induction l generalizing n with
  | nil => cases h
  | cons m t ih =>
    unfold lowestNum at h
    split at h
    · cases h
      exact List.mem_cons_self
    · next low hlow =>
      cases h
      split
      · exact List.mem_cons_self
      · exact List.mem_cons_of_mem _ (ih hlow)

theorem lowestNum_of_ne_nil {l : List (BitVec 32)} (h : l ≠ []) : ∃ n, lowestNum l = some n := by
  cases l with
  | nil => exact absurd rfl h
  | cons m t =>
    unfold lowestNum
    split
    · exact ⟨_, rfl⟩
    · exact ⟨_, rfl⟩

section
variable {x : Unit} {c : Call}

/-- The kept numbers of a call's caller (R348). -/
def Unit.numsOf (x : Unit) (c : Caller) : List (BitVec 32) := (x.kept.filter fun q => q.caller.same c).map (·.num)

theorem Unit.judge_answered {q : KeptCall} {r : CallReply} (hf : c.forwarded = false)
    (hq : x.kept.find? (fun q => q.is c.caller c.num) = some q) (hr : q.reply = some r) : x.judge c = .repeat r := by
  simp only [Unit.judge, hq, hf, hr, Bool.false_eq_true, if_false]

theorem Unit.judge_running {q : KeptCall} (hf : c.forwarded = false)
    (hq : x.kept.find? (fun q => q.is c.caller c.num) = some q) (hr : q.reply = none) : x.judge c = .running := by
  simp only [Unit.judge, hq, hf, hr, Bool.false_eq_true, if_false]

variable (hnew : ∀ q ∈ x.kept, q.is c.caller c.num = false)
include hnew

theorem Unit.find_unkept : x.kept.find? (fun q => q.is c.caller c.num) = none :=
  List.find?_eq_none.mpr fun q hq => by simp [hnew q hq]

/-- A call that all of 256 kept numbers are above is too old. -/
theorem Unit.judge_tooOld (hl : 256 ≤ (x.numsOf c.caller).length)
    (hlow : ∀ n ∈ x.numsOf c.caller, 0 < (n - c.num).toInt) : x.judge c = .tooOld := by
  obtain ⟨low, hl'⟩ := lowestNum_of_ne_nil (l := x.numsOf c.caller) (fun h => by simp [h] at hl)
  have above : numBelow low c.num = false := by
    have := hlow low (lowestNum_mem hl')
    simp only [numBelow, decide_eq_false_iff_not]
    omega
  rw [Unit.numsOf] at hl hl'
  simp only [Unit.judge, Unit.find_unkept hnew, if_neg (Nat.not_lt.mpr hl), hl', above, Bool.false_eq_true, if_false]

theorem Unit.judge_new (hl : (x.numsOf c.caller).length < 256) :
    x.judge c = .new (⟨c.caller, c.num, none⟩ :: x.kept) := by
  rw [Unit.numsOf] at hl
  simp only [Unit.judge, Unit.find_unkept hnew, if_pos hl]

end

/-! ### Arrival (R322, R333, R344) -/

/-- An earlier call of another unit holds up none without the release flag. -/
theorem Call.behind_none {c : Call} {u : UnitId} {l : List Call} (hu : c.home = .unit u)
    (h : ∀ e ∈ l, e.caller.same c.caller = true → c.rel = false ∧ e.home ≠ c.home) : l.any c.behind = false := by
  refine List.any_eq_false.mpr fun e he => ?_
  cases hs : e.caller.same c.caller with
  | false => simp [Call.behind, hs]
  | true =>
    obtain ⟨hrel, hhome⟩ := h e he hs
    have apart : e.home.mayBe c.home = false := by
      rw [hu] at hhome ⊢
      cases hh : e.home with
      | unit w =>
        rw [hh] at hhome
        simpa [Home.mayBe] using hhome
      | module pa => rfl
    simp [Call.behind, hs, hrel, apart]

section
variable {s : State} {j : Nat} {c : Call} {u : UnitId} (hc : s.calls[j]? = some c)
include hc

theorem execRemoteCallArrival_waits (h : s.callCovered c = false ∨ s.callOrdered c = false) :
    exec (.remoteCallArrival j) s = .next s := by
  have waits : (c.refused || !s.callCovered c || !s.callOrdered c || (s.calls.take j).any c.behind) = true := by
    rcases h with h | h <;> simp [h]
  simp only [exec, execRemoteCallArrival, hc, waits, if_true]

variable (hu : c.home = .unit u)
include hu
variable (hr : c.refused = false) (hcov : s.callCovered c = true) (hord : s.callOrdered c = true)
  (hearly : ∀ e ∈ s.calls.take j, e.caller.same c.caller = true → c.rel = false ∧ e.home ≠ c.home)
include hr hcov hord hearly

/-- A call that nothing holds up is what its unit judges it to be. -/
theorem execRemoteCallArrival_judged : exec (.remoteCallArrival j) s =
    let out (s : State) : State := { s with calls := dropNth s.calls j }
    let answer (s : State) (st : BitVec 16) : State := (out s).sendReply ⟨c.caller, c.num, c.entry, st, 0, 0⟩
    match (s.unit u).judge c with
    | .repeat r => .next ((out s).sendReply { r with status := if r.status = 0 then 11 else r.status })
    | .running => .next (out s)
    | .tooOld => .next (answer s 3)
    | .new kept =>
      if (s.busyPower u c.tenant).2 then .next (answer (s.busyPower u c.tenant).1 1)
      else
        let v := (s.busyPower u c.tenant).1
        if (v.unit u).waiting.length < unitWaiting u + (v.freeContexts u).length then
          .next (((out v).setUnit u { v.unit u with waiting := (v.unit u).waiting ++ [c], kept := kept }).tellAccepted c)
        else .next (v.refuseCall j c) := by
  have goes : ¬(c.refused || !s.callCovered c || !s.callOrdered c || (s.calls.take j).any c.behind) = true := by
    simp [hr, hcov, hord, Call.behind_none hu hearly]
  simp only [exec, execRemoteCallArrival, hc, if_neg goes, hu]
  cases (s.unit u).judge c <;> rfl

end

/-! ### What a full unit and an acceptance leave -/

section
variable (s : State) (c : Call)

theorem State.tellAccepted_near (h : ∀ d w n, c.caller ≠ .module d w n) : s.tellAccepted c = s := by
  unfold State.tellAccepted
  cases hc : c.caller with
  | module d w n => exact absurd hc (h d w n)
  | core k => rfl
  | cell e v n b => rfl

theorem State.refuseCall_near (i : Nat) (h : ∀ d w n, c.caller ≠ .module d w n) :
    s.refuseCall i c = { s with calls := setNth s.calls i { c with refused := true } } := by
  unfold State.refuseCall
  cases hc : c.caller with
  | module d w n => exact absurd hc (h d w n)
  | core k => rfl
  | cell e v n b => rfl

theorem State.tellAccepted_far {d : Nat} {w : BitVec 32} {n : BitVec 8} (h : c.caller = .module d w n) :
    s.tellAccepted c = { s with outbox := s.outbox ++ [⟨none, ⟨n, .other⟩, .callAccepted c, false⟩] } := by
  simp only [State.tellAccepted, h]

theorem State.refuseCall_far (i : Nat) {d : Nat} {w : BitVec 32} {n : BitVec 8} (h : c.caller = .module d w n) :
    s.refuseCall i c = { s with
      calls := setNth s.calls i { c with refused := true }
      outbox := s.outbox ++ [⟨none, ⟨c.tenant, .other⟩, .callRefusal c, false⟩] } := by
  simp only [State.refuseCall, h]

theorem Caller.isFar_near {c : Caller} (h : ∀ d w n, c ≠ .module d w n) : c.isFar = false := by
  cases c with
  | module d w n => exact absurd rfl (h d w n)
  | core k => rfl
  | cell e v n b => rfl

/-- A call at a grotto, while the module is not held: refused where its charge exceeds the budget, else charged. -/
theorem State.busyPower_budget (g : GrottoId) (tenant : BitVec 8) (h : s.held = false) :
    s.busyPower (.grotto g) tenant =
      let b := s.budgetOf g tenant
      let used := Config.activityNow s.fresh (alGet s.activity b 0) + Config.callCharge s.fresh
      let v := { s with fresh := s.fresh + 1 }
      if s.budgetLimit b < used then (v, true) else ({ v with activity := alSet s.activity b used }, false) := by
  have open_ : ¬s.held = true := by simp [h]
  unfold State.busyPower
  dsimp only
  rw [if_neg open_]
  rfl

/-- A refused call is resent after its caller's earlier refused ones to that unit; one of another module from there. -/
theorem execCallRefusalResend_eq {s : State} {i : Nat} {e : Call} (he : s.calls[i]? = some e) (hr : e.refused = true)
    (h : ∀ f ∈ s.calls.take i, f.refused = true → f.caller.same e.caller = true → f.home.mayBe e.home = false) :
    exec (.callRefusalResend i) s =
      if e.caller.isFar then .next s else .next { s with calls := setNth s.calls i { e with refused := false } } := by
  have first : ((s.calls.take i).any fun d => d.refused && d.caller.same e.caller && d.home.mayBe e.home) = false := by
    refine List.any_eq_false.mpr fun f hf => ?_
    simpa using h f hf
  simp only [exec, execCallRefusalResend, he, hr, first]
  cases e.caller.isFar <;> rfl

end

/-- Settles O35: a call that nothing holds up is what `Unit.judge` makes of it; a new one goes by the power budget and
the unit's room. -/
theorem remoteArrival : Obligations.RemoteArrival := by
  intro s j c u x out nums lower answer room hc hu hr
  refine ⟨fun h => execRemoteCallArrival_waits hc h, fun hcov hord hearly => ⟨fun a b v w m n q r => rfl,
      fun hf => ⟨fun q r hq hqr => ?_, fun q hq hqr => ?_⟩, fun hnew => ⟨fun hl hlow => ?_, fun hl => ?_⟩⟩,
    fun k => rfl, fun g hh => ?_, fun g hh => ?_, fun i e he her hfirst => ⟨fun hnear => ?_, fun d w n hfar => ?_⟩⟩
  · rw [execRemoteCallArrival_judged hc hu hr hcov hord hearly, Unit.judge_answered hf hq hqr]
  · rw [execRemoteCallArrival_judged hc hu hr hcov hord hearly, Unit.judge_running hf hq hqr]
  · rw [execRemoteCallArrival_judged hc hu hr hcov hord hearly, Unit.judge_tooOld hnew hl hlow]
  · rw [execRemoteCallArrival_judged hc hu hr hcov hord hearly, Unit.judge_new hnew hl]
    refine ⟨fun v hv => ?_, fun v hv => ?_⟩
    · rw [hv]
      rfl
    · have room_eq : unitWaiting u = room := by cases u <;> rfl
      rw [hv]
      dsimp only
      rw [if_neg Bool.false_ne_true, room_eq]
      refine ⟨fun hroom => ?_, fun hfull => ?_⟩
      · rw [if_pos hroom]
        refine ⟨fun hnear => ?_, fun d w n hfar => ?_⟩
        · rw [State.tellAccepted_near _ c hnear]
        · rw [State.tellAccepted_far _ _ hfar]
          rfl
      · rw [if_neg (Nat.not_lt.mpr hfull)]
        refine ⟨fun hnear => ?_, fun d w n hfar => ?_⟩
        · rw [State.refuseCall_near _ c j hnear]
        · rw [State.refuseCall_far _ _ j hfar]
  · simp only [State.busyPower, hh, if_true]
  · rw [State.busyPower_budget s g c.tenant hh]
    exact ⟨fun h => if_pos h, fun h => if_neg (Nat.not_lt.mpr h)⟩
  · rw [execCallRefusalResend_eq he her hfirst, Caller.isFar_near hnear]
    rfl
  · rw [execCallRefusalResend_eq he her hfirst, hfar]
    rfl

end Sys2Proof.Machine
end

section
/-!
PROOFS. Remote functions (O36): their start, their budget, RRET and RFWD.
-/

namespace Sys2Proof.Machine
open Sys2Proof

/-! ### The start of a function (R335, R339) -/

section
variable {s v : State} {u : UnitId} {c : Call} {rest : List Call} {i : Fin 8} {more : List (Fin 8)}

/-- The unit without its oldest waiting call. -/
def State.takeWaiting (s : State) (u : UnitId) (rest : List Call) : State := s.setUnit u { s.unit u with waiting := rest }

/-- A context of the unit runs a call with a thread. -/
def State.startContext (v : State) (u : UnitId) (i : Fin 8) (c : Call) (t : Thread) : State :=
  v.setUnit u { v.unit u with ctx := (v.unit u).ctx.set i (some ⟨c, t, 4096, false, none, 0⟩) }

/-- The unit answers a call that it does not run. -/
def State.answerCall (v : State) (u : UnitId) (c : Call) (st : BitVec 16) : State :=
  let r : CallReply := ⟨c.caller, c.num, c.entry, st, 0, 0⟩
  (v.setUnit u ((v.unit u).keep r)).sendReply r

variable (hw : (s.unit u).waiting = c :: rest) (hf : s.freeContexts u = i :: more)
include hw hf

theorem execRemoteContextStart_builtin (hu : ∀ k, u ≠ .core k) (he : c.entry < 4) :
    exec (.remoteContextStart u) s = .next ((s.takeWaiting u rest).startContext u i c .zero) := by
  simp only [exec, execRemoteContextStart, hw, hf, he, if_true]
  cases u with
  | core k => exact absurd rfl (hu k)
  | grotto g => rfl

theorem execRemoteContextStart_noBuiltin {k : CoreId} (hu : u = .core k) (he : c.entry < 4) :
    exec (.remoteContextStart u) s = .next ((s.takeWaiting u rest).answerCall u c 8) := by
  subst hu
  simp only [exec, execRemoteContextStart, hw, hf, he, if_true]
  rfl

theorem execRemoteContextStart_reserved (h4 : 4 ≤ c.entry) (h64 : c.entry < 64) :
    exec (.remoteContextStart u) s = .next ((s.takeWaiting u rest).answerCall u c 8) := by
  simp only [exec, execRemoteContextStart, hw, hf, Nat.not_lt.mpr h4, h64, if_false, if_true]
  rfl

variable (h64 : 64 ≤ c.entry)
include h64

theorem execRemoteContextStart_refused {st : Status} (hr : (s.takeWaiting u rest).readTable u c = (v, .error st)) :
    exec (.remoteContextStart u) s = .next (v.answerCall u c (BitVec.ofNat 16 st.code)) := by
  rw [State.takeWaiting] at hr
  simp only [exec, execRemoteContextStart, hw, hf, Nat.not_lt.mpr h64, Nat.not_lt.mpr (Nat.le_trans (by decide : 4 ≤ 64) h64),
    if_false, hr]
  rfl

theorem execRemoteContextStart_runs {entry : Cap} (hr : (s.takeWaiting u rest).readTable u c = (v, .ok entry)) :
    exec (.remoteContextStart u) s = .next (v.startContext u i c (v.functionThread c entry)) := by
  rw [State.takeWaiting] at hr
  simp only [exec, execRemoteContextStart, hw, hf, Nat.not_lt.mpr h64, Nat.not_lt.mpr (Nat.le_trans (by decide : 4 ≤ 64) h64),
    if_false, hr]
  rfl

end

/-! ### The registers that a function starts with (R339) -/

section
variable (s : State) (c : Call) (entry : Cap)

theorem State.functionThread_payload (n : Fin 4) :
    (s.functionThread c entry).get (Fin.ofNat 64 (n.val + 1)) = c.payload[n] := by
  match n with
  | 0 => simp [State.functionThread, Thread.get]
  | 1 => simp [State.functionThread, Thread.get]
  | 2 => simp [State.functionThread, Thread.get]
  | 3 => simp [State.functionThread, Thread.get]

theorem State.functionThread_entry : (s.functionThread c entry).get 5 = BitVec.ofNat 64 c.entry := by
  simp [State.functionThread, Thread.get]

theorem State.functionThread_caller : (s.functionThread c entry).get 6 = BitVec.ofNat 64 (s.callerId c.caller) := by
  simp [State.functionThread, Thread.get]

theorem State.functionThread_number : (s.functionThread c entry).get 7 = c.num.setWidth 64 := by
  simp [State.functionThread, Thread.get]

theorem State.functionThread_above {r : XReg} (h : 8 ≤ r.val) : (s.functionThread c entry).get r = 0 := by
  have ne : r ≠ 0 := fun e => by simp [e] at h
  have apart (n : Nat) (hn : n < 8) : n ≠ r.val := by omega
  simp [State.functionThread, Thread.get, ne, apart 1, apart 2, apart 3, apart 4, apart 5, apart 6,
    apart 7]

theorem State.functionThread_capNull {r : CReg} (h : 2 ≤ r.val) : (s.functionThread c entry).cap r = Cap.null := by
  have apart (n : Nat) (hn : n < 2) : n ≠ r.val := by omega
  simp [State.functionThread, Thread.cap, apart 0, apart 1]

theorem State.functionThread_cap0 : (s.functionThread c entry).cap 0 = c.cap := by
  simp [State.functionThread, Thread.cap]

theorem State.functionThread_cap1 : (s.functionThread c entry).cap 1 = c.cap := by
  simp [State.functionThread, Thread.cap]

end

/-! ### The ends of a function (R340 to R343) -/

section
variable {s v : State} {r : RemoteId} {x : RemoteCtx} (hx : (s.unit r.unit).ctx[r.ctx] = some x)
include hx

theorem State.endRemote_eq (st : BitVec 16) (r0 r1 : Word) : s.endRemote r st r0 r1 =
    (s.setUnit r.unit ({ s.unit r.unit with ctx := (s.unit r.unit).ctx.set r.ctx none }.keep
      ⟨x.call.caller, x.call.num, x.call.entry, st, r0, r1⟩)).sendReply
        ⟨x.call.caller, x.call.num, x.call.entry, st, r0, r1⟩ := by
  simp only [State.endRemote, hx]

theorem State.thread_remote_of_ctx : s.thread (.remote r) = x.thread := by
  simp only [State.thread, hx]

/-- A trap ends the function with REMOTE_FAULT, its pc, and the cause with the low half of KTVAL (R341). -/
theorem State.trap_remote (q : Trap) : s.trap (.remote r) q =
    s.endRemote r 4 x.thread.pc (BitVec.ofNat 64 (q.cause.code + q.tval.toNat % 2 ^ 32 * 2 ^ 32)) := by
  simp only [State.trap, State.thread_remote_of_ctx hx]
  rfl

theorem State.illegal_remote {i : Instr} {w : Nat} (h : encode i = some w) : s.illegal (.remote r) i =
    s.endRemote r 4 x.thread.pc (BitVec.ofNat 64 (1 + w % 2 ^ 32 * 2 ^ 32)) := by
  have low : w % 2 ^ 64 % 2 ^ 32 = w % 2 ^ 32 := Nat.mod_mod_of_dvd w (by decide)
  rw [State.illegal, State.trap_remote hx, h, Option.getD_some, BitVec.toNat_ofNat, low]
  rfl

theorem execRemoteBudgetExhausted_spent (hb : x.budget = 0) (he : 64 ≤ x.call.entry) :
    exec (.remoteBudgetExhausted r) s =
      .next (State.trap { s with fresh := s.fresh + 1 } (.remote r) ⟨.remoteBudget, Config.freeWord s.fresh⟩) := by
  simp only [exec, execRemoteBudgetExhausted, hx, hb, he, decide_true, Bool.and_true, if_true]
  rfl

theorem execRemoteBudgetExhausted_left (hb : x.budget ≠ 0) : exec (.remoteBudgetExhausted r) s = .next s := by
  simp only [exec, execRemoteBudgetExhausted, hx, hb, decide_false, Bool.false_and, Bool.false_eq_true, if_false]

variable (hk : s.focus.thread = .remote r)
include hk

theorem onRemote_runs (i : Instr) (f : RemoteId → RemoteCtx → Res) : onRemote i s f = f r x := by
  simp only [onRemote, hk, hx]

theorem execRret_eq (d a b : XReg) : exec (.rret d a b) s =
    let st := (x.thread.get d).toNat % 2 ^ 16
    if st = 3 ∨ st = 4 ∨ st = 11 then .next (s.illegal (.remote r) (.rret d a b))
    else if s.podDone (.remote r) then
      .next (s.endRemote r (BitVec.ofNat 16 st) (x.thread.get a) (x.thread.get b))
    else .next s := by
  simp only [exec, execRret, onRemote_runs hx hk, field_from_zero]
  cases s.podDone (.remote r) <;> rfl

theorem execRfwd_again {ca : CReg} {b : XReg} (hf : x.call.forwarded = true) :
    exec (.rfwd ca b) s = .next (s.illegal (.remote r) (.rfwd ca b)) := by
  simp only [exec, execRfwd, onRemote_runs hx hk, hf, if_true]

/-- A function that no other has forwarded to passes its call on once what it has stored is performed. -/
theorem execRfwd_eq {ca : CReg} {b : XReg} {home : Home} {l : Loc} (hf : x.call.forwarded = false)
    (hc : callCapTrap (x.thread.cap ca) ca.val x.thread.tenant = none)
    (hh : s.targetHome (ThreadId.remote r).cache x.thread.tenant (s.threadRoot (.remote r)) (x.thread.cap ca) =
      (v, .ok (home, l))) : exec (.rfwd ca b) s =
    if s.podDone (.remote r) then
      .next ((v.setUnit r.unit { v.unit r.unit with ctx := (v.unit r.unit).ctx.set r.ctx none }).sendCall
        { x.call with
          entry := (x.thread.get b).toNat % 2 ^ 12
          payload := #v[x.thread.get 1, x.thread.get 2, x.thread.get 3, x.thread.get 4]
          cap := x.thread.cap ca, home := home, forwarded := true, refused := false, after := [] })
    else .next s := by
  simp only [exec, execRfwd, onRemote_runs hx hk, hf, hc, hh, field_from_zero, Bool.false_eq_true, if_false]
  cases s.podDone (.remote r) <;> rfl

end

/-- In a control thread RRET and RFWD raise ILLEGAL (R342). -/
theorem onRemote_core {s : State} {k : CoreId} (hk : s.focus.thread = .core k) (i : Instr) (f : RemoteId → RemoteCtx → Res) :
    onRemote i s f = .next (s.illegal (.core k) i) := by
  simp only [onRemote, hk]

/-- The caller id of x6 (R339). -/
theorem State.callerId_eq (s : State) (c : Caller) : s.callerId c = match c with
    | .core k => s.kdevno.toNat * 2 ^ 32 + (coreDie k).val * 2 ^ 31 + 4 * coreNum k * 2 ^ 24 + 63 * 2 ^ 16 + coreNum k
    | .cell e _ _ _ => s.kdevno.toNat * 2 ^ 32 + e.die.val * 2 ^ 31 + e.row.val * 2 ^ 24 + e.col.val * 2 ^ 16
    | .module d src _ => d % 2 ^ 12 * 2 ^ 32 + src.toNat := by
  cases c <;> simp [State.callerId, coreSrc, CellId.src, srcWord, Nat.add_assoc]

/-- Settles O36: a waiting call by its entry and the unit's kind, and a function's end by what RRET, RFWD or its budget
answers. -/
theorem remoteFunctions : Obligations.RemoteFunctions := by
  refine ⟨?_, ?_⟩
  · intro s v u c rest i more entry x w run answer source hw hf
    refine ⟨fun g hg he => execRemoteContextStart_builtin hw hf (fun k h => by simp [hg] at h) he,
      fun k hk he => execRemoteContextStart_noBuiltin hw hf hk he,
      fun h4 h64 => execRemoteContextStart_reserved hw hf h4 h64,
      fun h64 st hr => execRemoteContextStart_refused hw hf h64 hr, fun h64 hr hdev => ?_,
      fun j y hy he => ⟨fun hb => ?_, fun hb => execRemoteBudgetExhausted_left (r := ⟨u, j⟩) hy hb⟩⟩
    · refine ⟨v.functionThread c entry, execRemoteContextStart_runs hw hf h64 hr, rfl, rfl, rfl, rfl,
        v.functionThread_cap0 c entry, v.functionThread_cap1 c entry, fun r hr => v.functionThread_capNull c entry hr,
        v.functionThread_payload c entry, v.functionThread_entry c entry, ?_, v.functionThread_number c entry,
        fun r hr => v.functionThread_above c entry hr⟩
      rw [v.functionThread_caller c entry, State.callerId_eq, hdev] <;> rfl
    · refine ⟨(Config.freeWord s.fresh).toNat % 2 ^ 32, _, execRemoteBudgetExhausted_spent (r := ⟨u, j⟩) hy hb he, ?_⟩
      exact State.trap_remote (s := { s with fresh := s.fresh + 1 }) (r := ⟨u, j⟩) hy _
  · intro s v r x d a b ca home l k th cap st ended faulted
    refine ⟨fun hk hx => ⟨fun h3 h4 h11 hp => ?_, fun h3 h4 h11 hp => ?_, fun h w hw => ?_, fun hf w hw => ?_,
      fun hf ht ho hn hs hl hh => ?_, fun st r0 r1 => State.endRemote_eq hx st r0 r1⟩, fun hk => ⟨?_, ?_⟩⟩
    · rw [execRret_eq hx hk]
      exact (if_neg (fun h => h.elim h3 fun h => h.elim h4 h11)).trans (if_pos hp)
    · rw [execRret_eq hx hk]
      exact (if_neg (fun h => h.elim h3 fun h => h.elim h4 h11)).trans (if_neg (by simp [hp]))
    · rw [execRret_eq hx hk]
      exact (if_pos h).trans (congrArg Host.Outcome.next (State.illegal_remote hx hw))
    · rw [execRfwd_again hx hk hf, State.illegal_remote hx hw]
    · rw [execRfwd_eq hx hk hf (callCapTrap_passes ht ho hn hs hl) hh]
      exact ⟨fun hp => if_neg (by simp [hp]), fun hp => if_pos hp⟩
    · exact trapsOn_illegal (onRemote_core hk _ _)
    · exact trapsOn_illegal (onRemote_core hk _ _)

end Sys2Proof.Machine
end

section
/-!
PROOFS. Image instructions (O27): CFGLD, CFGCHK, CFGCLR and VSIG.
-/

namespace Sys2Proof.Machine
open Sys2Proof

/-! ### CFGLD and CFGCHK (R408, R411) -/

section
variable {s u v : State} {k : CoreId} {d b : XReg} {ca : CReg} {l : Loc} {bs : List Byte} {i : Instr} {busy : Bool} {x : Nat}
  {go : State → State → CoreId → CellId → Cap → List FrameRecord → Res}
variable (hk : s.focus.thread = .core k) (hp : (s.thread (.core k)).priv = true)
  (hx : ((s.thread (.core k)).get b).toNat = x)
  (ha : (s.dropWork k).access (.core k) ((s.thread (.core k)).cap ca) 0 4 false = (u, .ok l))
  (hlen : 36 * (x % 2 ^ 16) ≤ ((s.thread (.core k)).cap ca).length) (ht : targetOk k x = true) (h1 : 1 ≤ x % 2 ^ 16)
  (hm : x % 2 ^ 16 ≤ 1048)
include hk hp hx ha hlen ht h1 hm

/-- Past its first checks an instruction of the loader takes the row, waits for it, or reads the records. -/
theorem loader_eq (hr : u.isRetired (targetCell x) = false) : loader i busy d ca b s go =
    if busy && !s.holdsRow k (targetCell x) && u.rowBusy (targetCell x).rowId then
      .next ((u.setX (.core k) d (resultWord 0 .rowBusy)).retire (.core k))
    else if busy && !s.holdsRow k (targetCell x) then .next ((s.dropWork k).setWork k i (.config (targetCell x)))
    else match u.capBytes (.core k) ((s.thread (.core k)).cap ca) 0 4 (9 * (x % 2 ^ 16)) with
      | (_, .error e) => .next ((u.capUnmarked (s.dropWork k) (.core k) ((s.thread (.core k)).cap ca) 0 4
          (9 * (x % 2 ^ 16))).trap (.core k) e)
      | (v, .ok bs) => go v (u.capUnmarked (s.dropWork k) (.core k) ((s.thread (.core k)).cap ca) 0 4 (9 * (x % 2 ^ 16))) k
          (targetCell x) ((s.thread (.core k)).cap ca) (recordsOf bs (x % 2 ^ 16)) := by
  have count : ¬(!targetOk k x || x % 2 ^ 16 == 0 || decide (maxRecords < x % 2 ^ 16)) = true := by
    have most : maxRecords = 1048 := rfl
    simp only [ht, Bool.not_true, Bool.false_or, Bool.or_eq_true, beq_iff_eq, decide_eq_true_eq]
    omega
  have held (h : Bool) : (busy && !(busy && h)) = (busy && !h) := by cases busy <;> rfl
  simp only [loader, onPrivCore_priv hk hp, State.getX, State.getC, hx, field_from_zero, ha, Nat.not_lt.mpr hlen, if_false,
    if_neg count, hr, held, Bool.false_eq_true] <;> rfl

variable (hr : u.isRetired (targetCell x) = false)
include hr

theorem loader_rowBusy (hb : u.rowBusy (targetCell x).rowId = true) (hh : s.holdsRow k (targetCell x) = false) :
    loader i true d ca b s go = .next ((u.setX (.core k) d (resultWord 0 .rowBusy)).retire (.core k)) := by
  rw [loader_eq hk hp hx ha hlen ht h1 hm hr, hb, hh]
  rfl

theorem loader_takesRow (hb : u.rowBusy (targetCell x).rowId = false) (hh : s.holdsRow k (targetCell x) = false) :
    loader i true d ca b s go = .next ((s.dropWork k).setWork k i (.config (targetCell x))) := by
  rw [loader_eq hk hp hx ha hlen ht h1 hm hr, hb, hh]
  rfl

theorem loader_reads (hh : busy = true → s.holdsRow k (targetCell x) = true)
    (hc : u.capBytes (.core k) ((s.thread (.core k)).cap ca) 0 4 (9 * (x % 2 ^ 16)) = (v, .ok bs)) :
    loader i busy d ca b s go = go v
      (u.capUnmarked (s.dropWork k) (.core k) ((s.thread (.core k)).cap ca) 0 4 (9 * (x % 2 ^ 16))) k (targetCell x)
      ((s.thread (.core k)).cap ca) (recordsOf bs (x % 2 ^ 16)) := by
  have holds : (busy && !s.holdsRow k (targetCell x)) = false := by
    cases busy with
    | false => rfl
    | true => rw [hh rfl]; rfl
  rw [loader_eq hk hp hx ha hlen ht h1 hm hr]
  simp only [holds, Bool.false_and, Bool.false_eq_true, if_false, hc]

end

/-- What CFGLD makes of the records that it has read (R408). -/
def cfgldGo (d : XReg) (s u : State) (k : CoreId) (c : CellId) (cap : Cap) (rs : List FrameRecord) : Res :=
  match judge ⟨c, s.retired⟩ rs with
  | some f => .next (u.trap (.core k) ⟨.cfgReject, BitVec.ofNat 64 f.detail⟩)
  | none => .next (((s.loadCell c (s.thread (.core k)).tenant (programOf rs (cap.pX && cap.pC)
      (s.thread (.core k)).tenant)).setX (.core k) d (resultWord rs.length .ok)).retire (.core k))

/-- What CFGCHK answers of them (R411). -/
def cfgchkGo (d : XReg) (s _u : State) (k : CoreId) (c : CellId) (_cap : Cap) (rs : List FrameRecord) : Res :=
  .next ((s.setX (.core k) d (match judge ⟨c, s.retired⟩ rs with
    | some f => resultWord f.detail .rejected
    | none => resultWord rs.length .ok)).retire (.core k))

theorem exec_cfgld (d b : XReg) (ca : CReg) (s : State) :
    exec (.cfgld d ca b) s = loader (.cfgld d ca b) true d ca b s (cfgldGo d) := rfl

theorem exec_cfgchk (d b : XReg) (ca : CReg) (s : State) :
    exec (.cfgchk d ca b) s = loader (.cfgchk d ca b) false d ca b s (cfgchkGo d) := rfl

/-! ### CFGCLR (R412) -/

section
variable {s : State} {k : CoreId} {d a : XReg} {x : Nat}
variable (hk : s.focus.thread = .core k) (hp : (s.thread (.core k)).priv = true)
  (hx : ((s.thread (.core k)).get a).toNat = x) (ht : targetOk k x = true) (hr : s.isRetired (targetCell x) = false)
include hk hp hx ht hr

theorem execCfgclr_eq : exec (.cfgclr d a) s =
    let c := targetCell x
    let s0 := s.dropWork k
    let done (s : State) (st : Status) : Res := .next ((s.setX (.core k) d (resultWord 0 st)).retire (.core k))
    if s.holdsRow k c then done ((s0.clearScratch c).setCell c (s.cell c).cleared) .ok
    else if s.rowBusy c.rowId then done s0 .rowBusy
    else .next (s0.setWork k (.cfgclr d a) (.config c)) := by
  have busy (r : RowId) : (s.dropWork k).rowBusy r = s.rowBusy r := rfl
  have unretired : (s.dropWork k).isRetired (targetCell x) = false := hr
  simp only [exec, execCfgclr, onPrivCore_priv hk hp, State.getX, hx, ht, busy, unretired, Bool.not_true,
    Bool.false_eq_true, if_false]
  cases s.holdsRow k (targetCell x) <;> cases s.rowBusy (targetCell x).rowId <;> rfl

end

theorem State.cell_setX_retire (s : State) (t : ThreadId) (r : XReg) (v : Word) (c : CellId) :
    ((s.setX t r v).retire t).cell c = s.cell c := by
  simp [State.cell]

/-! ### VSIG (R401, R402) -/

section
variable {s u v w : State} {k : CoreId} {d b : XReg} {ca : CReg} {l : Loc} {hdr body : List Byte} {xb : Nat}
variable (hk : s.focus.thread = .core k) (hp : (s.thread (.core k)).priv = true)
  (hx : ((s.thread (.core k)).get b).toNat = xb) (hb : xb < 32)
  (ha : s.access (.core k) ((s.thread (.core k)).cap ca) 0 64 false = (u, .ok l))
  (hh : u.capBytes (.core k) ((s.thread (.core k)).cap ca) 0 4 16 = (v, .ok hdr))
include hk hp hx hb ha hh

theorem execVsig_badHeader (hbad : vsigHeaderOk hdr ((s.thread (.core k)).cap ca) (xb % 16) = false) :
    exec (.vsig d ca b) s = .next ((v.setX (.core k) d (resultWord (wordAt hdr 7) .rejected)).retire (.core k)) := by
  have fits : ¬(field xb 63 5 != 0) = true := by simp [field]; omega
  simp only [exec, execVsig, onPrivCore_priv hk hp, State.getX, State.getC, hx, if_neg fits, ha, hh, hbad,
    Bool.not_false, if_true]

/-- Without the request for a sealed entry, the answer is whether the signature verifies. -/
theorem execVsig_judges (hok : vsigHeaderOk hdr ((s.thread (.core k)).cap ca) (xb % 16) = true) (h16 : xb < 16)
    (hbody : v.capBytes (.core k) ((s.thread (.core k)).cap ca) 0x40 4 ((wordAt hdr 7 - 0x40 + 8240) / 4) = (w, .ok body)) :
    exec (.vsig d ca b) s = .next ((w.setX (.core k) d (resultWord (wordAt hdr 7)
      (if Config.signaturesVerify (xb % 16) (hdr ++ body.take (wordAt hdr 7 - 0x40)) (body.drop (wordAt hdr 7 - 0x40))
        then .ok else .rejected))).retire (.core k)) := by
  have fits : ¬(field xb 63 5 != 0) = true := by simp [field]; omega
  have plain : bitAt xb 4 = false := by simp [bitAt]; omega
  simp only [exec, execVsig, onPrivCore_priv hk hp, State.getX, State.getC, hx, if_neg fits, ha, hh, hok,
    Bool.not_true, Bool.false_eq_true, if_false, signatureBytes, hbody, plain, Bool.false_and]
  cases Config.signaturesVerify (xb % 16) (hdr ++ body.take (wordAt hdr 7 - 0x40)) (body.drop (wordAt hdr 7 - 0x40)) <;> rfl

end

/-- Settles O27: CFGLD and CFGCHK are `loader` with what each makes of the judged records, CFGCLR goes by its row, and
VSIG by its header and its signature. -/
theorem imageInstructions : Obligations.ImageInstructions := by
  refine ⟨?_, ?_⟩
  · intro s u v k d a b ca l bs th cap x n c rs s0 hk hp
    refine ⟨fun ha hlen ht h1 hm hr hc => ?_, ?_⟩
    · rw [exec_cfgld, exec_cfgchk, loader_reads (busy := false) hk hp rfl ha hlen ht h1 hm hr (fun h => by cases h) hc]
      refine ⟨fun hb hh => loader_takesRow hk hp rfl ha hlen ht h1 hm hr hb hh, fun hh hj => ?_, fun f hh hj => ?_,
        fun hb hh => loader_rowBusy hk hp rfl ha hlen ht h1 hm hr hb hh, fun hj => ?_, fun f hj => ?_⟩
      · rw [loader_reads hk hp rfl ha hlen ht h1 hm hr (fun _ => hh) hc]
        simp only [cfgldGo]
        rw [hj]
      · rw [loader_reads hk hp rfl ha hlen ht h1 hm hr (fun _ => hh) hc]
        simp only [cfgldGo]
        rw [hj]
      · simp only [cfgchkGo]
        rw [hj]
      · simp only [cfgchkGo]
        rw [hj]
    · intro x c ht hr
      rw [execCfgclr_eq hk hp rfl ht hr]
      refine ⟨fun hb hh => ?_, fun hb hh => ?_, fun hh => ⟨_, if_pos hh, ?_, fun e he => ?_, ?_⟩⟩
      · exact (if_neg (Bool.eq_false_iff.mp hh)).trans (if_pos hb)
      · exact (if_neg (Bool.eq_false_iff.mp hh)).trans (if_neg (Bool.eq_false_iff.mp hb))
      · exact (State.cell_setX_retire _ _ _ _ _).trans (State.cell_setCell_same _ _ _)
      · exact (State.cell_setX_retire _ _ _ _ _).trans (State.cell_setCell_other _ _ he)
      · rw [State.retire_mem, State.setX_mem]
        rfl
  · intro s u v w k d b ca l hdr body th cap xb sig hk hp hb ha hh
    exact ⟨fun hbad => execVsig_badHeader hk hp rfl hb ha hh hbad,
      fun hok h16 hbody => execVsig_judges hk hp rfl hb ha hh hok h16 hbody⟩

end Sys2Proof.Machine
end

section
/-!
PROOFS. Every step keeps the canonical form of both memories (O59).
-/

namespace Sys2Proof.Machine
set_option Elab.async false
open Sys2Proof

/-! ### Answers, and the states that they hold

The model changes a memory by writes, marks of a granule's tag, repairs, strikes and clears alone, and each of these
keeps the canonical form (`Memory.wf_write` to `Memory.wf_strikeTag`, and `wf_clear` below). A function of the model then
keeps it because the functions that it calls do: one lemma per function, in the order of the definitions, whose list
names those that it goes through, along each branch of its definition. -/

/-- The state of an answer has both memories in their canonical form, where there is a next state. -/
def NextWf (r : Res) : Prop := ∀ t, r = .next t → t.memWf = true

theorem nextWf_next {s : State} (h : s.memWf = true) : NextWf (.next s) := by
  intro t e
  cases e
  exact h
theorem nextWf_fault (f : Fault) : NextWf (.fault f) := fun _ e => nomatch e
theorem nextWf_refused (f : Refusal) : NextWf (.refused f) := fun _ e => nomatch e

/-- An optional state has both memories in their canonical form, where there is one. -/
def OptWf (o : Option State) : Prop := ∀ t, o = some t → t.memWf = true

theorem optWf_none : OptWf none := fun _ e => nomatch e
theorem optWf_some {s : State} (h : s.memWf = true) : OptWf (some s) := by
  intro t e
  cases e
  exact h
theorem memWf_opt {o : Option State} {t : State} (e : o = some t) (h : OptWf o) : t.memWf = true := h t e

/-- The state that a cell instruction's body leaves. -/
def Fired.state : Fired → State
  | .done s _ | .wait s | .fault s _ => s

/-- Both memories of that state in their canonical form. -/
def Fired.MemWf (f : Fired) : Prop := f.state.memWf = true

theorem Fired.memWf_done {s : State} {i : Instance} (h : s.memWf = true) : (Fired.done s i).MemWf := h
theorem Fired.memWf_wait {s : State} (h : s.memWf = true) : (Fired.wait s).MemWf := h
theorem Fired.memWf_fault {s : State} {f : CellFault} (h : s.memWf = true) : (Fired.fault s f).MemWf := h

/-- The state that a cell's element checks leave. -/
def Checked.state : Checked → State
  | .ok s _ | .fault s _ | .miss s _ _ => s

/-- Both memories of that state in their canonical form. -/
def Checked.MemWf (k : Checked) : Prop := k.state.memWf = true

theorem Checked.memWf_ok {s : State} {ls : List LaneAccess} (h : s.memWf = true) : (Checked.ok s ls).MemWf := h
theorem Checked.memWf_fault {s : State} {f : CellFault} (h : s.memWf = true) : (Checked.fault s f).MemWf := h
theorem Checked.memWf_miss {s : State} {va lane : Nat} (h : s.memWf = true) : (Checked.miss s va lane).MemWf := h
theorem memWf_checked_ok {k : Checked} {s : State} {ls : List LaneAccess} (e : k = .ok s ls) (h : k.MemWf) :
    s.memWf = true := by
  subst e
  exact h
theorem memWf_checked_fault {k : Checked} {s : State} {f : CellFault} (e : k = .fault s f) (h : k.MemWf) :
    s.memWf = true := by
  subst e
  exact h
theorem memWf_checked_miss {k : Checked} {s : State} {va lane : Nat} (e : k = .miss s va lane) (h : k.MemWf) :
    s.memWf = true := by
  subst e
  exact h

theorem optWf_map {o : Option State} {f : State → State} (h : OptWf o)
    (hf : ∀ s, s.memWf = true → (f s).memWf = true) : OptWf (o.map f) := by
  cases o with
  | none => exact optWf_none
  | some s => exact optWf_some (hf s (h s rfl))
theorem memWf_getD {o : Option State} {s : State} (ho : OptWf o) (h : s.memWf = true) : (o.getD s).memWf = true := by
  cases o with
  | none => exact h
  | some t => exact ho t rfl

/-- A fold that carries something beside the state. -/
theorem memWf_foldl_fst {α β : Type} {f : State × β → α → State × β} {l : List α} {p : State × β}
    (h : p.1.memWf = true) (hf : ∀ p a, p.1.memWf = true → (f p a).1.memWf = true) : (l.foldl f p).1.memWf = true := by
  induction l generalizing p with
  | nil => exact h
  | cons a t ih => exact ih (hf _ _ h)

theorem bytesWf_filter {l : List Host.Cell} (h : bytesWf l = true) (p : Host.Cell → Bool) :
    bytesWf (l.filter p) = true := by
  induction l with
  | nil => exact h
  | cons q t ih =>
    obtain ⟨k, b⟩ := q
    obtain ⟨hb, ha, ht⟩ := bytesWf_cons.1 h
    rw [List.filter_cons]
    split
    · exact bytesWf_cons.2 ⟨hb, fun q hq => ha q (List.mem_filter.1 hq).1, ih ht⟩
    · exact ih ht
/-- A range set to zero keeps the canonical form. -/
theorem wf_clear {m : Memory} (h : m.wf = true) (lo hi : Nat) : (m.clear lo hi).wf = true := by
  obtain ⟨hb, ht, hp, hg⟩ := Memory.wf_iff.1 h
  exact Memory.wf_iff.2
    ⟨bytesWf_filter hb _, natsWf_natsOutside ht .., natsWf_natsOutside hp .., natsWf_natsOutside hg ..⟩
theorem memWf2_scratchClear {m c : Memory} {lo hi : Nat} (h : m.wf = true ∧ c.wf = true) :
    m.wf = true ∧ (c.clear lo hi).wf = true := ⟨h.1, wf_clear h.2 lo hi⟩

/-! ### Operands of memory instructions -/

theorem State.memWf_leaveAs (s : State) (o : Outbound) (h : s.memWf = true) : (s.leaveAs o).memWf = true := h

/-! ### Bands: positions, edges, ports, records -/

theorem State.memWf_postVp (s : State) (v : VpId) (r : BitVec 128) (h : s.memWf = true) :
    (s.postVp v r).memWf = true := h
theorem State.memWf_itemFailed (s : State) (v : VpId) (wave : Nat) (c : CellId) (slot lane : Nat)
    (st : Status) (h : s.memWf = true) : (s.itemFailed v wave c slot lane st).memWf = true := h
theorem State.memWf_orphan (s : State) (v : VpId) (src : Nat) (h : s.memWf = true) : (s.orphan v src).memWf = true := h
theorem State.memWf_drop (s : State) (n : Nat) (h : s.memWf = true) : (s.drop n).memWf = true := h
theorem State.memWf_dropOrphan (s : State) (v : VpId) (src : Nat) (h : s.memWf = true) :
    (s.dropOrphan v src).memWf = true := h
theorem State.memWf_touch (s : State) (v : VpId) (h : s.memWf = true) : (s.touch v).memWf = true := h
theorem State.memWf_putPort (s : State) (c : CellId) (port : Fin 8) (ts : List Token) (h : s.memWf = true) :
    (s.putPort c port ts).memWf = true := by
  unfold State.putPort
  with_reducible repeat'
    first
      | assumption | apply State.memWf_setCell | apply State.memWf_touch | split
      | (apply memWf2; dsimp only; apply memWf2_of)
theorem State.memWf_stream (s : State) (pl : Place) (src dest : CellId) (port : Fin 8) (edge : Option Nat)
    (t : Token) (h : s.memWf = true) : OptWf (s.stream pl src dest port edge t) := by
  unfold State.stream
  with_reducible repeat'
    first
      | assumption | apply optWf_none | apply optWf_some | apply State.memWf_touch | split
      | (apply memWf2; dsimp only; apply memWf2_of)
theorem State.memWf_orphanSend (s : State) (pl : Place) (c : CellId) (port : Fin 8) (h : s.memWf = true) :
    (s.orphanSend pl c port).memWf = true := h
theorem State.memWf_sendEdge (s : State) (pl : Place) (src : CellId) (n : Nat) (t : Token) (h : s.memWf = true) :
    OptWf (s.sendEdge pl src n t) := by
  unfold State.sendEdge
  dsimp only
  with_reducible repeat'
    first
      | assumption | apply optWf_none | apply optWf_some | apply State.memWf_stream | apply State.memWf_touch
      | apply State.memWf_setVp | split
theorem State.memWf_sendEgress (s : State) (v : VpId) (n : Nat) (t : Token) (h : s.memWf = true) :
    OptWf (s.sendEgress v n t) := by
  unfold State.sendEgress
  dsimp only
  with_reducible repeat'
    first
      | assumption | apply optWf_none | apply optWf_some | apply State.memWf_touch | apply State.memWf_setVp | split
theorem State.memWf_sendHop (s : State) (pl : Place) (c : CellId) (t : Token) (w : Nat) (h : s.memWf = true) :
    OptWf (s.sendHop pl c t w) := by
  unfold State.sendHop
  with_reducible repeat'
    first
      | assumption | apply optWf_none | apply optWf_some | apply State.memWf_stream | apply State.memWf_sendEdge
      | apply State.memWf_sendEgress | apply State.memWf_orphanSend | split
theorem State.memWf_noteEow (s : State) (c : CellId) (port : Fin 8) (t : Token) (h : s.memWf = true) :
    (s.noteEow c port t).memWf = true := by
  unfold State.noteEow
  with_reducible repeat'
    first
      | assumption | apply State.memWf_setCell | split | (apply memWf2; dsimp only; apply memWf2_of)
theorem State.memWf_sendHops (s : State) (pl : Place) (c : CellId) (t : Token) (ws : List Nat) (h : s.memWf = true) :
    OptWf (s.sendHops pl c t ws) := by
  induction ws generalizing s with
  | nil => exact optWf_some h
  | cons a ws ih =>
    unfold State.sendHops
    with_reducible repeat'
      first
        | assumption | apply ih | apply optWf_none | apply optWf_some | apply State.memWf_sendHop
        | apply State.memWf_noteEow | (apply memWf_opt; assumption) | split
theorem State.memWf_sendPort (s : State) (c : CellId) (port : Fin 8) (t : Token) (h : s.memWf = true) :
    OptWf (s.sendPort c port t) := by
  unfold State.sendPort
  dsimp only
  with_reducible repeat'
    first
      | assumption | apply optWf_none | apply optWf_some | apply State.memWf_orphanSend | apply State.memWf_sendHops
      | split
theorem State.memWf_notePassed (s : State) (c : CellId) (port : Fin 8) (t : Token) (h : s.memWf = true) :
    (s.notePassed c port t).memWf = true := by
  unfold State.notePassed
  with_reducible repeat' first | assumption | apply State.memWf_setCell | split
theorem State.memWf_arrive (s : State) (c : CellId) (port : Fin 8) (ts : List Token) (h : s.memWf = true) :
    OptWf (s.arrive c port ts) := by
  induction ts generalizing s with
  | nil => exact optWf_some h
  | cons a ts ih =>
    unfold State.arrive
    dsimp only
    with_reducible repeat'
      first
        | assumption | apply ih | apply optWf_none | apply optWf_some | apply State.memWf_putPort
        | apply State.memWf_sendHops | apply State.memWf_notePassed | (apply memWf_opt; assumption) | split
theorem State.memWf_drainSends (s : State) (c : CellId) (n : Nat) (h : s.memWf = true) :
    (s.drainSends c n).memWf = true := by
  induction n generalizing s with
  | zero => exact h
  | succ n ih =>
    unfold State.drainSends
    with_reducible repeat'
      first
        | assumption | apply ih | apply State.memWf_sendPort | apply State.memWf_setCell
        | (apply memWf_opt; assumption) | split
theorem State.memWf_advance (s : State) (v : VpId) (r : RowId) (cap : Cap) (field n : Nat) (h : s.memWf = true) :
    (s.advance v r cap field n).memWf = true := by
  unfold State.advance
  dsimp only
  with_reducible repeat'
    first
      | assumption | apply State.memWf_translate | apply State.memWf_locRead | apply State.memWf_locWrite
      | (apply memWf_fst; assumption) | split
theorem State.memWf_setIngress (s : State) (v : VpId) (i : Nat) (b : Binding) (h : s.memWf = true) :
    (s.setIngress v i b).memWf = true := h
theorem State.memWf_arriveFrom (s : State) (c : CellId) (port : Fin 8) (ts : List Token) (slots : List Nat)
    (h : s.memWf = true) : OptWf (s.arriveFrom c port ts slots) := by
  unfold State.arriveFrom
  with_reducible repeat'
    first
      | assumption | apply optWf_none | apply optWf_some | apply State.memWf_setIngress | apply State.memWf_advance
      | apply State.memWf_arrive | apply optWf_map | intro _ | split
theorem State.memWf_putMarker (s : State) (c : CellId) (port : Fin 8) (t : Token) (h : s.memWf = true) :
    OptWf (s.putMarker c port t) := by
  unfold State.putMarker
  with_reducible repeat' first | assumption | apply optWf_none | apply optWf_some | apply State.memWf_arriveFrom
theorem State.memWf_removeTokens (s : State) (c : CellId) (port : Fin 8) (n : Nat) (h : s.memWf = true) :
    (s.removeTokens c port n).memWf = true := by
  unfold State.removeTokens
  with_reducible repeat'
    first
      | assumption | apply State.memWf_setCell | apply State.memWf_touch | apply State.memWf_setIngress
      | apply State.memWf_advance | split | (apply memWf2; dsimp only; apply memWf2_of)
theorem State.memWf_returnTokens (s : State) (c : CellId) (port : Fin 8) (ts : List Token) (h : s.memWf = true) :
    (s.returnTokens c port ts).memWf = true := by
  unfold State.returnTokens
  with_reducible repeat'
    first
      | assumption | apply State.memWf_setCell | apply State.memWf_setIngress | split
      | (apply memWf2; dsimp only; apply memWf2_of)

/-! ### Block instances and the frame in which a cell instruction fires -/

theorem State.memWf_raiseCell (s : State) (v : VpId) (c : CellId) (f : CellFault) (status : Nat) (h : s.memWf = true) :
    (s.raiseCell v c f status).memWf = true :=
  State.memWf_postVp _ _ _ (State.memWf_pauseBand _ _ (State.memWf_setCell _ _ _ h))
theorem State.memWf_setInst (s : State) (c : CellId) (i : Instance) (h : s.memWf = true) :
    (s.setInst c i).memWf = true := h
theorem State.memWf_startBlock (s : State) (v : VpId) (c : CellId) (n : Nat) (h : s.memWf = true) :
    (s.startBlock v c n).memWf = true := by
  unfold State.startBlock
  with_reducible repeat'
    first
      | assumption | apply State.memWf_setCell | apply State.memWf_countError | apply State.memWf_raiseCell
      | apply State.memWf_setInst | split | (apply memWf2; dsimp only; apply memWf2_of)
theorem memWf_results (x : Ctx) (t0 t1 : Token) (s : State) (h : s.memWf = true) : (Ctx.results x t0 t1 s).MemWf := by
  unfold Ctx.results
  with_reducible repeat' first | assumption | apply Fired.memWf_done | apply Fired.memWf_fault | split
theorem memWf_result (x : Ctx) (t : Token) (s : State) (h : s.memWf = true) : (Ctx.result x t s).MemWf :=
  memWf_results _ _ _ _ h
theorem memWf_forward (x : Ctx) (ins : Instr) (t : Token) (s : State) (h : s.memWf = true) :
    (Ctx.forward x ins t s).MemWf := by
  unfold Ctx.forward
  dsimp only
  with_reducible repeat' first | assumption | apply Fired.memWf_done | apply Fired.memWf_fault | split
theorem memWf_meetMarker (x : Ctx) (ins : Instr) (m : Token) (ds : List Operand) (s : State) (h : s.memWf = true) :
    (Ctx.meetMarker x ins m ds s).MemWf := by
  unfold Ctx.meetMarker
  dsimp only
  with_reducible repeat'
    first
      | assumption | apply Fired.memWf_done | apply Fired.memWf_fault | apply memWf_forward | split
theorem memWf_finish (x : Ctx) (f : Fired) (h : f.MemWf) : (f.finish x).memWf = true := by
  cases f with
  | done s i => exact State.memWf_setInst _ _ _ h
  | wait s => exact h
  | fault s f => exact State.memWf_raiseCell _ _ _ _ _ h
/-- A cell instruction keeps both memories where its body does. -/
theorem nextWf_fireCell (ins : Instr) (body : Ctx → State → Fired) (s : State) (h : s.memWf = true)
    (hbody : ∀ x s, s.memWf = true → (body x s).MemWf) : NextWf (fireCell ins body s) := by
  unfold fireCell
  dsimp only
  with_reducible repeat'
    first
      | assumption | apply nextWf_next | apply memWf_finish | apply hbody | apply memWf_forward
      | apply memWf_meetMarker | split
theorem State.memWf_deliverResult (s : State) (v : VpId) (c : CellId) (num slot : Nat) (t0 t1 : Token)
    (h : s.memWf = true) : (s.deliverResult v c num slot t0 t1).memWf = true := by
  unfold State.deliverResult
  with_reducible repeat' first | assumption | apply State.memWf_raiseCell | apply State.memWf_setInst | split

/-! ### Ranges of a tenant's memory -/

theorem State.memWf_areaLocs (s : State) (x : Reach) (use : AreaUse) (l : List (Nat × Nat)) (h : s.memWf = true) :
    (s.areaLocs x use l).1.memWf = true := by
  induction l generalizing s with
  | nil => exact h
  | cons a l ih =>
    unfold State.areaLocs
    with_reducible repeat'
      first
        | assumption | apply ih | apply State.memWf_translate | (apply memWf_fst; assumption) | split
theorem State.memWf_areaBytes (s : State) (who : Sender) (l : List (Loc × Nat)) (h : s.memWf = true) :
    (s.areaBytes who l).1.memWf = true := by
  induction l generalizing s with
  | nil => exact h
  | cons a l ih =>
    unfold State.areaBytes
    with_reducible repeat'
      first
        | assumption | apply ih | apply State.memWf_locRead | (apply memWf_fst; assumption) | split
theorem State.memWf_areaRead (s : State) (x : Reach) (use : AreaUse) (va n : Nat) (h : s.memWf = true) :
    (s.areaRead x use va n).1.memWf = true := by
  unfold State.areaRead
  with_reducible repeat'
    first
      | assumption | apply State.memWf_areaLocs | apply State.memWf_areaBytes | (apply memWf_fst; assumption) | split
theorem State.memWf_areaPut (s : State) (who : Sender) (l : List (Loc × Nat)) (bs : List Byte) (h : s.memWf = true) :
    (s.areaPut who l bs).memWf = true := by
  induction l generalizing s bs with
  | nil => exact h
  | cons a l ih =>
    unfold State.areaPut
    with_reducible repeat' first | assumption | apply ih | apply State.memWf_locWrite
theorem State.memWf_areaWrite (s : State) (x : Reach) (va : Nat) (bs : List Byte) (h : s.memWf = true) :
    (s.areaWrite x va bs).1.memWf = true := by
  unfold State.areaWrite
  with_reducible repeat'
    first
      | assumption | apply State.memWf_areaLocs | apply State.memWf_areaPut | (apply memWf_fst; assumption) | split

/-! ### The memory group of a cell and its performance -/

theorem State.memWf_checkLanes (s : State) (x : Ctx) (cap : Cap) (write : Bool) (done : List LaneAccess)
    (l : List Acting) (h : s.memWf = true) : (s.checkLanes x cap write done l).MemWf := by
  induction l generalizing s done with
  | nil => exact h
  | cons a l ih =>
    unfold State.checkLanes
    dsimp only
    with_reducible repeat'
      first
        | assumption | apply ih | apply Checked.memWf_ok | apply Checked.memWf_miss | apply Checked.memWf_fault
        | apply State.memWf_translate | (apply memWf_fst; assumption) | split
theorem State.memWf_park (s : State) (x : Ctx) (va lane : Nat) (write : Bool) (h : s.memWf = true) :
    (s.park x va lane write).memWf = true := h
theorem memWf_checkedLanes (kind : AccessKind) (m : Fin 16) (acting : Ctx → List Acting)
    (go : Ctx → List LaneAccess → Space → State → Fired) (x : Ctx) (s : State) (h : s.memWf = true)
    (hgo : ∀ x ls sp s, s.memWf = true → (go x ls sp s).MemWf) : (checkedLanes kind m acting go x s).MemWf := by
  unfold checkedLanes
  dsimp only
  split
  · exact Fired.memWf_fault h
  · have hc := State.memWf_checkLanes s x (s.cell x.c).c[m] (kind != .read) [] (acting x) h
    split
    · next e => exact hgo _ _ _ _ (memWf_checked_ok e hc)
    · next e => exact Fired.memWf_fault (memWf_checked_fault e hc)
    · next e => exact Fired.memWf_wait (State.memWf_park _ _ _ _ _ (memWf_checked_miss e hc))
theorem memWf_issue (x : Ctx) (b : CellReqBody) (i : Instance) (s : State) (h : s.memWf = true) :
    (Ctx.issue x b i s).MemWf := h
theorem memWf_hold (x : Ctx) (d : Held) (n : Nat) (s : State) (h : s.memWf = true) : (x.hold d n s).MemWf := by
  unfold Ctx.hold
  split
  · exact Fired.memWf_fault h
  · dsimp only
    split
    · exact Fired.memWf_fault h
    · exact Fired.memWf_done h
theorem memWf_issueLoad (x : Ctx) (ls : List LaneAccess) (sp : Space) (s : State) (h : s.memWf = true) :
    (issueLoad x ls sp s).MemWf := h
theorem memWf_holdStore (x : Ctx) (ls : List LaneAccess) (sp : Space) (s : State) (h : s.memWf = true) :
    (holdStore x ls sp s).MemWf := memWf_hold _ _ _ _ h
theorem memWf_issueAtomic (op : CellOp) (x : Ctx) (ls : List LaneAccess) (sp : Space) (s : State) (h : s.memWf = true) :
    (issueAtomic op x ls sp s).MemWf := by
  unfold issueAtomic
  with_reducible repeat'
    first
      | assumption | apply Fired.memWf_done | apply Fired.memWf_fault | apply memWf_issue | split
theorem nextWf_execLd (f : C3) (s : State) (h : s.memWf = true) : NextWf (execLd f s) := by
  unfold execLd
  with_reducible repeat'
    first
      | assumption | apply nextWf_fireCell | apply memWf_checkedLanes | apply memWf_issueLoad | intro _
theorem nextWf_execLdc (f : C3) (s : State) (h : s.memWf = true) : NextWf (execLdc f s) := by
  unfold execLdc
  with_reducible repeat'
    first
      | assumption | apply nextWf_fireCell | apply memWf_checkedLanes | apply memWf_issueLoad | intro _
theorem nextWf_execSt (f : C3) (s : State) (h : s.memWf = true) : NextWf (execSt f s) := by
  unfold execSt
  with_reducible repeat'
    first
      | assumption | apply nextWf_fireCell | apply memWf_checkedLanes | apply memWf_holdStore | intro _
theorem nextWf_execStc (f : C3) (s : State) (h : s.memWf = true) : NextWf (execStc f s) := by
  unfold execStc
  with_reducible repeat'
    first
      | assumption | apply nextWf_fireCell | apply memWf_checkedLanes | apply memWf_holdStore | intro _
theorem nextWf_execAtadd (f : C3) (s : State) (h : s.memWf = true) : NextWf (execAtadd f s) := by
  unfold execAtadd
  with_reducible repeat'
    first
      | assumption | apply nextWf_fireCell | apply memWf_checkedLanes | apply memWf_issueAtomic | intro _
theorem nextWf_execAtfadd (f : C3) (s : State) (h : s.memWf = true) : NextWf (execAtfadd f s) := by
  unfold execAtfadd
  with_reducible repeat'
    first
      | assumption | apply nextWf_fireCell | apply memWf_checkedLanes | apply memWf_issueAtomic | intro _
theorem nextWf_execAtmax (f : C3) (s : State) (h : s.memWf = true) : NextWf (execAtmax f s) := by
  unfold execAtmax
  with_reducible repeat'
    first
      | assumption | apply nextWf_fireCell | apply memWf_checkedLanes | apply memWf_issueAtomic | intro _
theorem memWf_checkedTable (kind : AccessKind) (m : Fin 16) (go : Ctx → CellId → State → Fired) (x : Ctx) (s : State)
    (h : s.memWf = true) (hgo : ∀ x t s, s.memWf = true → (go x t s).MemWf) : (checkedTable kind m go x s).MemWf := by
  unfold checkedTable
  dsimp only
  split
  · exact Fired.memWf_fault h
  · split
    · exact Fired.memWf_fault h
    · exact hgo _ _ _ h
theorem nextWf_execLookup (f : C3) (s : State) (h : s.memWf = true) : NextWf (execLookup f s) := by
  unfold execLookup
  with_reducible repeat'
    first
      | assumption | apply nextWf_fireCell | apply memWf_checkedTable | apply memWf_issue | intro _
theorem nextWf_execTagset (f : C3) (s : State) (h : s.memWf = true) : NextWf (execTagset f s) := by
  unfold execTagset
  dsimp only
  with_reducible repeat'
    first
      | assumption | apply nextWf_fault | apply Fired.memWf_fault | apply nextWf_fireCell | apply memWf_checkedTable
      | apply memWf_hold | intro _ | split
theorem nextWf_execTagclr (f : C3) (s : State) (h : s.memWf = true) : NextWf (execTagclr f s) := by
  unfold execTagclr
  with_reducible repeat'
    first
      | assumption | apply nextWf_fireCell | apply memWf_checkedTable | apply memWf_hold | intro _
theorem State.memWf_readLanes (s : State) (who : Sender) (hs : List Held) (sp : Space) (l : List LaneAccess)
    (h : s.memWf = true) : (s.readLanes who hs sp l).1.memWf = true := by
  induction l generalizing s with
  | nil => exact h
  | cons a l ih =>
    unfold State.readLanes
    with_reducible repeat'
      first
        | assumption | apply ih | apply State.memWf_locRead | (apply memWf_fst; assumption) | split
theorem State.memWf_atomicLane (s : State) (who : Sender) (op : CellOp) (sp : Space) (l : LaneAccess)
    (seen : Option Elem) (h : s.memWf = true) : (s.atomicLane who op sp l seen).1.memWf = true := by
  unfold State.atomicLane
  dsimp only
  with_reducible repeat'
    first
      | assumption | apply State.memWf_locRead | apply State.memWf_leaveAs | apply State.memWf_locWrite
      | (apply memWf_fst; assumption) | split
theorem State.memWf_atomicLanes (s : State) (who : Sender) (hs : List Held) (op : CellOp) (sp : Space)
    (met : List Nat) (l : List LaneAccess) (h : s.memWf = true) :
    (s.atomicLanes who hs op sp met l).1.memWf = true := by
  induction l generalizing s met with
  | nil => exact h
  | cons a l ih =>
    unfold State.atomicLanes
    with_reducible repeat' first | assumption | apply ih | apply State.memWf_atomicLane
theorem State.memWf_storeLanes (s : State) (who : Sender) (sp : Space) (ls : List LaneAccess) (h : s.memWf = true) :
    (s.storeLanes who sp ls).memWf = true := by
  unfold State.storeLanes
  with_reducible repeat'
    first
      | assumption | apply State.memWf_locWrite | apply State.memWf_healStore | apply memWf_foldl | intro _
theorem State.memWf_reportDropped (s : State) (r : CellReq) (bad : List Nat) (h : s.memWf = true) :
    (s.reportDropped r bad).memWf = true := by
  unfold State.reportDropped
  with_reducible repeat' first | assumption | apply State.memWf_itemFailed | apply State.memWf_orphan | split
theorem State.memWf_countLost (s : State) (t : CellId) (lost : List Nat) (h : s.memWf = true) :
    (s.countLost t lost).memWf = true := by
  unfold State.countLost
  with_reducible repeat' first | assumption | apply State.memWf_countError | apply memWf_foldl | intro _
theorem State.memWf_performReq (s : State) (r : CellReq) (held : Bool) (h : s.memWf = true) :
    (s.performReq r held).1.memWf = true := by
  unfold State.performReq
  with_reducible repeat'
    first
      | assumption | apply State.memWf_readLanes | apply State.memWf_storeLanes | apply State.memWf_atomicLanes
      | apply State.memWf_reportDropped | apply State.memWf_countLost | apply State.memWf_setCell
      | (apply memWf_fst; assumption) | apply memWf_foldl | intro _ | split
theorem State.memWf_performQueued (s : State) (m : CellId) (n : Nat) (r : CellReq) (h : s.memWf = true) :
    (s.performQueued m n r).memWf = true := by
  unfold State.performQueued
  with_reducible repeat'
    first
      | assumption | apply State.memWf_performReq | apply State.memWf_setMemQueue | (apply memWf_fst; assumption)
      | split
theorem State.memWf_performAt (s : State) (m : CellId) (n : Nat) (atomic : Bool) (h : s.memWf = true) :
    (s.performAt m n atomic).memWf = true := by
  unfold State.performAt
  dsimp only
  with_reducible repeat' first | assumption | apply State.memWf_performQueued | split
theorem State.memWf_performNeeded (s : State) (m : CellId) (need : CellReq → Bool) (n : Nat) (h : s.memWf = true) :
    (s.performNeeded m need n).memWf = true := by
  induction n generalizing s with
  | zero => exact h
  | succ n ih =>
    unfold State.performNeeded
    dsimp only
    with_reducible repeat' first | assumption | apply ih | apply State.memWf_performQueued | split
theorem nextWf_execMemoryCellRequest (c : CellId) (n : Nat) (s : State) (h : s.memWf = true) :
    NextWf (execMemoryCellRequest c n s) := nextWf_next (State.memWf_performAt _ _ _ _ h)
theorem nextWf_execAtomicAtOwner (c : CellId) (n : Nat) (s : State) (h : s.memWf = true) :
    NextWf (execAtomicAtOwner c n s) := nextWf_next (State.memWf_performAt _ _ _ _ h)
theorem nextWf_execMemoryCellReply (c : CellId) (s : State) (h : s.memWf = true) :
    NextWf (execMemoryCellReply c s) := by
  unfold execMemoryCellReply
  dsimp only
  with_reducible repeat'
    first
      | assumption | apply nextWf_next | apply State.memWf_setMemQueue | apply State.memWf_deliverResult
      | apply State.memWf_reportDropped | apply State.memWf_dropOrphan | split
theorem State.memWf_parkedWalk (s : State) (i : Nat) (p : Parked) (h : s.memWf = true) :
    (s.parkedWalk i p).1.memWf = true := by
  unfold State.parkedWalk
  with_reducible repeat'
    first
      | assumption | apply State.memWf_translate | apply State.memWf_withMisses | split
      | (apply memWf2; dsimp only; apply memWf2_of)
theorem nextWf_execPageWalk (i : Nat) (s : State) (h : s.memWf = true) : NextWf (execPageWalk i s) := by
  unfold execPageWalk
  with_reducible repeat'
    first
      | assumption | apply nextWf_next | apply State.memWf_parkedWalk | apply State.memWf_raiseCell
      | (apply memWf_fst; assumption) | split
theorem nextWf_execXreq (f : C3) (s : State) (h : s.memWf = true) : NextWf (execXreq f s) := by
  unfold execXreq
  dsimp only
  with_reducible repeat'
    first
      | assumption | apply nextWf_fault | apply Fired.memWf_done | apply Fired.memWf_fault | apply nextWf_fireCell
      | intro _ | split
theorem State.memWf_farLine (s : State) (t : Transfer) (h : s.memWf = true) : (s.farLine t).1.memWf = true := by
  unfold State.farLine
  with_reducible repeat' first | assumption | apply State.memWf_areaLocs | split
theorem State.memWf_moveLine (s : State) (t : Transfer) (h : s.memWf = true) : (s.moveLine t).1.memWf = true := by
  unfold State.moveLine
  dsimp only
  with_reducible repeat'
    first
      | assumption | apply State.memWf_farLine | apply State.memWf_areaBytes | apply State.memWf_areaPut
      | (apply memWf_fst; assumption) | split
theorem State.memWf_endTransfer (s : State) (i : Nat) (t : Transfer) (st : Status) (h : s.memWf = true) :
    OptWf (s.endTransfer i t st) := by
  unfold State.endTransfer
  dsimp only
  with_reducible repeat'
    first
      | assumption | apply optWf_none | apply optWf_some | apply State.memWf_itemFailed | apply State.memWf_arrive
      | apply State.memWf_dropOrphan | apply optWf_map | intro _ | split | (apply memWf2; dsimp only; apply memWf2_of)
theorem nextWf_execTransferLine (c : CellId) (s : State) (h : s.memWf = true) : NextWf (execTransferLine c s) := by
  unfold execTransferLine
  dsimp only
  with_reducible repeat'
    first
      | assumption | apply nextWf_next | apply State.memWf_moveLine | apply State.memWf_endTransfer
      | (apply memWf_fst; assumption) | apply memWf_getD | split | (apply memWf2; dsimp only; apply memWf2_of)

/-! ### Operations on fibre rows -/

theorem State.memWf_writeRows (s : State) (rows : List (Nat × List Byte)) (h : s.memWf = true) :
    (s.writeRows rows).memWf = true := by
  unfold State.writeRows
  with_reducible repeat' first | assumption | apply State.memWf_locWrite | apply memWf_foldl | intro _
/-- The session in which part of an operation ends, failed or not. -/
def endSession {α : Type} : EStateM.Result Status Session α → Session
  | .ok _ x | .error _ x => x

/-- Part of a fibre operation keeps both memories of its session in their canonical form. -/
def OwnWf {α : Type} (m : Own α) : Prop := ∀ x, x.s.memWf = true → (endSession (m x)).s.memWf = true

theorem ownWf_pure {α : Type} (a : α) : OwnWf (pure a) := fun _ h => h
theorem ownWf_throw {α : Type} (e : Status) : OwnWf (throw e : Own α) := fun _ h => h
theorem ownWf_set {y : Session} (h : y.s.memWf = true) : OwnWf (set y) := fun _ _ => h
theorem ownWf_modify {f : Session → Session} (h : ∀ x, x.s.memWf = true → (f x).s.memWf = true) :
    OwnWf (modify f : Own PUnit) := h
/-- What is read of the session has its memories in the canonical form. -/
theorem ownWf_get_bind {α : Type} {f : Session → Own α} (h : ∀ x, x.s.memWf = true → OwnWf (f x)) :
    OwnWf (get >>= f) := fun x hx => h x hx x hx
theorem ownWf_bind {α β : Type} {m : Own α} {f : α → Own β} (h : OwnWf m) (hf : ∀ a, OwnWf (f a)) :
    OwnWf (m >>= f) := by
  intro x hx
  have hm := h x hx
  show (endSession (EStateM.bind m f x)).s.memWf = true
  unfold EStateM.bind
  cases e : m x with
  | ok a y => rw [e] at hm; exact hf a y hm
  | error st y => rw [e] at hm; exact hm
theorem ownWf_forIn {α β : Type} {l : List α} {b : β} {f : α → β → Own (ForInStep β)} (h : ∀ a b, OwnWf (f a b)) :
    OwnWf (forIn l b f) := by
  induction l generalizing b with
  | nil => exact ownWf_pure b
  | cons a t ih =>
    rw [List.forIn_cons]
    refine ownWf_bind (h a b) fun r => ?_
    cases r with
    | done b => exact ownWf_pure b
    | yield b => exact ih
theorem ownWf_require (b : Bool) : OwnWf (require b) := by
  unfold require
  split
  · exact ownWf_pure _
  · exact ownWf_throw _
theorem ownWf_rowAddr (va : Nat) (write : Bool) : OwnWf (rowAddr va write) := by
  unfold rowAddr
  with_reducible repeat'
    first
      | assumption | apply ownWf_pure | apply ownWf_get_bind | apply ownWf_bind | apply ownWf_throw | apply ownWf_set
      | apply State.memWf_countError | apply State.memWf_translate | intro _ | split
theorem ownWf_readAt (va : Nat) : OwnWf (readAt va) := by
  unfold readAt
  with_reducible repeat'
    first
      | assumption | apply ownWf_pure | apply ownWf_get_bind | apply ownWf_bind | apply ownWf_throw | apply ownWf_set
      | apply ownWf_rowAddr | apply State.memWf_locRead | intro _ | split
theorem ownWf_readRow (row : Nat) : OwnWf (readRow row) := by
  unfold readRow
  with_reducible repeat'
    first
      | assumption | apply ownWf_pure | apply ownWf_get_bind | apply ownWf_bind | apply ownWf_set | apply ownWf_modify
      | apply ownWf_readAt | intro _ | split
theorem ownWf_stage (row : Nat) (ws : List Nat) : OwnWf (stage row ws) := by
  unfold stage
  with_reducible repeat' first | assumption | apply ownWf_pure | apply ownWf_modify | intro _
theorem ownWf_readTree (leaf : Bool) (row : Nat) : OwnWf (readTree leaf row) := by
  unfold readTree
  with_reducible repeat'
    first
      | assumption | apply ownWf_pure | apply ownWf_get_bind | apply ownWf_bind | apply ownWf_require
      | apply ownWf_readRow | intro _
theorem ownWf_readPool : OwnWf readPool := by
  unfold readPool
  with_reducible repeat'
    first
      | assumption | apply ownWf_pure | apply ownWf_get_bind | apply ownWf_bind | apply ownWf_require
      | apply ownWf_readRow | intro _
theorem ownWf_openHead : OwnWf openHead := by
  unfold openHead
  with_reducible repeat'
    first
      | assumption | apply ownWf_pure | apply ownWf_get_bind | apply ownWf_bind | apply ownWf_set | apply ownWf_modify
      | apply ownWf_require | apply ownWf_readAt | intro _
theorem ownWf_openRegion (ok : Bool) : OwnWf (openRegion ok) := by
  unfold openRegion
  with_reducible repeat'
    first
      | assumption | apply ownWf_pure | apply ownWf_get_bind | apply ownWf_bind | apply ownWf_set
      | apply ownWf_require | intro _
theorem ownWf_takeFree (n cur : Nat) (got : List Nat) : OwnWf (takeFree n cur got) := by
  induction n generalizing cur got with
  | zero => exact ownWf_pure _
  | succ n ih =>
    unfold takeFree
    with_reducible repeat'
      first
        | assumption | apply ih | apply ownWf_pure | apply ownWf_get_bind | apply ownWf_bind | apply ownWf_require
        | apply ownWf_readRow | intro _
theorem ownWf_takeRows (need : Nat) : OwnWf (takeRows need) := by
  unfold takeRows
  with_reducible repeat'
    first
      | assumption | apply ownWf_pure | apply ownWf_get_bind | apply ownWf_bind | apply ownWf_throw
      | apply ownWf_stage | apply ownWf_readPool | apply ownWf_takeFree | intro _ | split
theorem ownWf_pushFree (rs : List Nat) (first : Nat) : OwnWf (pushFree rs first) := by
  induction rs generalizing first with
  | nil => exact ownWf_pure _
  | cons a rs ih =>
    unfold pushFree
    with_reducible repeat'
      first
        | assumption | apply ih | apply ownWf_pure | apply ownWf_bind | apply ownWf_stage | intro _
theorem ownWf_returnRows (rows : List Nat) : OwnWf (returnRows rows) := by
  unfold returnRows
  with_reducible repeat'
    first
      | assumption | apply ownWf_pure | apply ownWf_get_bind | apply ownWf_bind | apply ownWf_stage
      | apply ownWf_readPool | apply ownWf_pushFree | intro _
theorem ownWf_descendFrom (c n row : Nat) (path : List Nat) : OwnWf (descendFrom c n row path) := by
  induction n generalizing row path with
  | zero =>
    unfold descendFrom
    with_reducible repeat'
      first
        | assumption | apply ownWf_pure | apply ownWf_bind | apply ownWf_throw | apply ownWf_readTree | intro _
  | succ n ih =>
    unfold descendFrom
    with_reducible repeat'
      first
        | assumption | apply ih | apply ownWf_pure | apply ownWf_bind | apply ownWf_throw | apply ownWf_readTree
        | intro _ | split
theorem ownWf_descend (ws : List Nat) (c : Nat) : OwnWf (descend ws c) := by
  unfold descend
  with_reducible repeat' first | assumption | apply ownWf_pure | apply ownWf_descendFrom
theorem ownWf_addEntries (path : List Nat) (entries : List (Nat × Nat)) (ts : List Touched) :
    OwnWf (addEntries path entries ts) := by
  unfold addEntries
  with_reducible repeat'
    first
      | assumption | apply ownWf_pure | apply ownWf_bind | apply ownWf_readTree | intro _ | split
theorem ownWf_splitLevel (height : Nat) (ts : List Touched) (pl : Plan) (above : List Touched) :
    OwnWf (splitLevel height ts pl above) := by
  induction ts generalizing pl above with
  | nil => exact ownWf_pure _
  | cons a ts ih =>
    unfold splitLevel
    with_reducible repeat'
      first
        | assumption | apply ih | apply ownWf_pure | apply ownWf_bind | apply ownWf_addEntries
theorem ownWf_splitLevels (n height : Nat) (ts : List Touched) (pl : Plan) : OwnWf (splitLevels n height ts pl) := by
  induction n generalizing height ts pl with
  | zero => exact ownWf_pure _
  | succ n ih =>
    unfold splitLevels
    with_reducible repeat'
      first
        | assumption | apply ih | apply ownWf_pure | apply ownWf_bind | apply ownWf_splitLevel | intro _
theorem ownWf_placeRuns (ws : List Nat) (code : Nat) (l : List (Nat × List Nat)) (ts : List Touched) (added : Nat) :
    OwnWf (placeRuns ws code l ts added) := by
  induction l generalizing ts added with
  | nil => exact ownWf_pure _
  | cons a l ih =>
    unfold placeRuns
    with_reducible repeat'
      first
        | assumption | apply ih | apply ownWf_pure | apply ownWf_bind | apply ownWf_descend | intro _
theorem ownWf_moveChildren (l : List (Nat × Bool × Nat)) (w : List Planned) : OwnWf (moveChildren l w) := by
  induction l generalizing w with
  | nil => exact ownWf_pure _
  | cons a l ih =>
    unfold moveChildren
    with_reducible repeat'
      first
        | assumption | apply ih | apply ownWf_pure | apply ownWf_bind | apply ownWf_readTree | intro _ | split
theorem ownWf_stagePlanned (taken : List Nat) (p : Planned) : OwnWf (stagePlanned taken p) := by
  unfold stagePlanned
  with_reducible repeat' first | assumption | apply ownWf_pure | apply ownWf_stage
theorem ownWf_ownMerge (pairs : List (Nat × Nat)) : OwnWf (ownMerge pairs) := by
  unfold ownMerge
  dsimp only
  with_reducible repeat'
    first
      | assumption | apply ownWf_pure | apply ownWf_get_bind | apply ownWf_bind | apply ownWf_throw
      | apply ownWf_forIn | apply ownWf_stage | apply ownWf_openHead | apply ownWf_takeRows | apply ownWf_splitLevels
      | apply ownWf_placeRuns | apply ownWf_moveChildren | apply ownWf_stagePlanned | intro _ | split
theorem ownWf_ownFormat (ok : Bool) : OwnWf (ownFormat ok) := by
  unfold ownFormat
  with_reducible repeat'
    first
      | assumption | apply ownWf_pure | apply ownWf_get_bind | apply ownWf_bind | apply ownWf_modify
      | apply ownWf_openRegion | intro _
theorem ownWf_ownNew (code flags : Nat) (ok : Bool) : OwnWf (ownNew code flags ok) := by
  unfold ownNew
  with_reducible repeat'
    first
      | assumption | apply ownWf_pure | apply ownWf_get_bind | apply ownWf_bind | apply ownWf_stage
      | apply ownWf_openRegion | apply ownWf_takeRows | intro _
theorem ownWf_readLevel (leaf : Bool) (l acc : List Nat) : OwnWf (readLevel leaf l acc) := by
  induction l generalizing acc with
  | nil => exact ownWf_pure _
  | cons a l ih =>
    unfold readLevel
    with_reducible repeat'
      first
        | assumption | apply ih | apply ownWf_pure | apply ownWf_bind | apply ownWf_readTree | intro _
theorem ownWf_readLevels (n : Nat) (level : List Nat) (acc : List (List Nat)) : OwnWf (readLevels n level acc) := by
  induction n generalizing level acc with
  | zero =>
    unfold readLevels
    with_reducible repeat' first | assumption | apply ownWf_pure | apply ownWf_bind | apply ownWf_readLevel | intro _
  | succ n ih =>
    unfold readLevels
    with_reducible repeat'
      first
        | assumption | apply ih | apply ownWf_pure | apply ownWf_bind | apply ownWf_readLevel | intro _
theorem ownWf_ownFree : OwnWf ownFree := by
  unfold ownFree
  with_reducible repeat'
    first
      | assumption | apply ownWf_pure | apply ownWf_get_bind | apply ownWf_bind | apply ownWf_require
      | apply ownWf_openHead | apply ownWf_returnRows | apply ownWf_readLevels | intro _
theorem ownWf_removeCoords (ws cs : List Nat) (ts : List Touched) (n : Nat) : OwnWf (removeCoords ws cs ts n) := by
  induction cs generalizing ts n with
  | nil => exact ownWf_pure _
  | cons a cs ih =>
    unfold removeCoords
    with_reducible repeat'
      first
        | assumption | apply ih | apply ownWf_pure | apply ownWf_bind | apply ownWf_descend | intro _ | split
theorem ownWf_current (leaf : Bool) (row : Nat) (ts : List Touched) : OwnWf (current leaf row ts) := by
  unfold current
  with_reducible repeat' first | assumption | apply ownWf_pure | apply ownWf_readTree | intro _ | split
theorem ownWf_unlinkEmpty (l ts : List Touched) (freed : List Nat) : OwnWf (unlinkEmpty l ts freed) := by
  induction l generalizing ts freed with
  | nil => exact ownWf_pure _
  | cons a l ih =>
    unfold unlinkEmpty
    with_reducible repeat'
      first
        | assumption | apply ih | apply ownWf_pure | apply ownWf_bind | apply ownWf_current | intro _ | split
theorem ownWf_ownDelete (coords : List Nat) : OwnWf (ownDelete coords) := by
  unfold ownDelete
  with_reducible repeat'
    first
      | assumption | apply ownWf_pure | apply ownWf_get_bind | apply ownWf_bind | apply ownWf_forIn
      | apply ownWf_stage | apply ownWf_openHead | apply ownWf_returnRows | apply ownWf_removeCoords
      | apply ownWf_unlinkEmpty | intro _ | split
theorem ownWf_scanFrom (n : Nat) (above : Nat → Bool) (fuel : Nat) (r : TreeRow) (got : List (Nat × Nat)) :
    OwnWf (scanFrom n above fuel r got) := by
  induction fuel generalizing r got with
  | zero =>
    unfold scanFrom
    with_reducible repeat' first | assumption | apply ownWf_pure | apply ownWf_bind | apply ownWf_throw
  | succ fuel ih =>
    unfold scanFrom
    dsimp only
    with_reducible repeat'
      first
        | assumption | apply ih | apply ownWf_pure | apply ownWf_bind | apply ownWf_throw | apply ownWf_readTree
        | intro _ | split
theorem ownWf_ownScan (cursor n : Nat) : OwnWf (ownScan cursor n) := by
  unfold ownScan
  with_reducible repeat'
    first
      | assumption | apply ownWf_pure | apply ownWf_get_bind | apply ownWf_bind | apply ownWf_openHead
      | apply ownWf_descend | apply ownWf_scanFrom | intro _ | split
theorem ownWf_lookups (ws cs : List Nat) (acc : List (Nat × Option Nat)) : OwnWf (lookups ws cs acc) := by
  induction cs generalizing acc with
  | nil => exact ownWf_pure _
  | cons a cs ih =>
    unfold lookups
    with_reducible repeat'
      first
        | assumption | apply ih | apply ownWf_pure | apply ownWf_bind | apply ownWf_descend | intro _
theorem ownWf_ownProbe (coords : List Nat) : OwnWf (ownProbe coords) := by
  unfold ownProbe
  with_reducible repeat'
    first
      | assumption | apply ownWf_pure | apply ownWf_bind | apply ownWf_openHead | apply ownWf_lookups | intro _
theorem ownWf_ownInfo (selector : Nat) : OwnWf (ownInfo selector) := by
  unfold ownInfo
  with_reducible repeat'
    first
      | assumption | apply ownWf_pure | apply ownWf_bind | apply ownWf_throw | apply ownWf_openHead | intro _ | split
theorem ownWf_run (op : FibreOp) : OwnWf (op.run) := by
  unfold FibreOp.run
  with_reducible repeat'
    first
      | assumption | apply ownWf_pure | apply ownWf_ownMerge | apply ownWf_ownFormat | apply ownWf_ownNew
      | apply ownWf_ownFree | apply ownWf_ownDelete | apply ownWf_ownScan | apply ownWf_ownProbe | apply ownWf_ownInfo
      | intro _ | split
theorem ownWf_writeAddrs (l : List (Nat × List Nat)) (acc : List (Nat × List Byte)) : OwnWf (writeAddrs l acc) := by
  induction l generalizing acc with
  | nil => exact ownWf_pure _
  | cons a l ih =>
    unfold writeAddrs
    with_reducible repeat'
      first
        | assumption | apply ih | apply ownWf_pure | apply ownWf_get_bind | apply ownWf_bind | apply ownWf_rowAddr
        | intro _
/-- The session in which a request's operation starts. -/
def State.firstSession (s : State) (q : FibreReq) : Session :=
  ⟨s, .die (Fin.ofNat 2 (q.owner.val / 128)), s.rootOf q.tenant, q, q.va, 0, 0, [], [], []⟩

/-- A whole operation: what it reads and checks, then the addresses of the rows to write. -/
theorem ownWf_plan (q : FibreReq) : OwnWf (do
    let r ← q.op.run
    let x ← get
    let rows ← writeAddrs x.out []
    pure (r, rows)) :=
  ownWf_bind (ownWf_run _) fun _ => ownWf_get_bind fun _ _ => ownWf_bind (ownWf_writeAddrs _ _) fun _ => ownWf_pure _

theorem State.memWf_fibrePlan (s : State) (q : FibreReq) (h : s.memWf = true) : (s.fibrePlan q).1.memWf = true := by
  have last := ownWf_plan q (s.firstSession q) h
  unfold State.firstSession at last
  unfold State.fibrePlan
  dsimp only
  split
  · next e => rw [e] at last; exact last
  · next e => rw [e] at last; exact last

/-! ### Fibre units -/

theorem State.memWf_setReq (s : State) (i : Nat) (q : FibreReq) (h : s.memWf = true) : (s.setReq i q).memWf = true := h
theorem State.memWf_refuseFibre (s : State) (i : Nat) (q : FibreReq) (h : s.memWf = true) :
    (s.refuseFibre i q).memWf = true := by
  unfold State.refuseFibre
  with_reducible repeat'
    first
      | assumption | apply State.memWf_setReq | split | (apply memWf2; dsimp only; apply memWf2_of)
theorem State.memWf_fibreArrive (s : State) (i : Nat) (q : FibreReq) (h : s.memWf = true) :
    (s.fibreArrive i q).memWf = true := by
  unfold State.fibreArrive
  with_reducible repeat'
    first
      | assumption | apply State.memWf_refuseFibre | apply State.memWf_draw | apply State.memWf_setReq | split
theorem State.memWf_updateHolds (s : State) (q : FibreReq) (r : FibreReply) (h : s.memWf = true) :
    (s.updateHolds q r).memWf = true := by
  unfold State.updateHolds
  with_reducible repeat' first | assumption | split | (apply memWf2; dsimp only; apply memWf2_of)
theorem State.memWf_fibreEnd (s : State) (i : Nat) (h : s.memWf = true) : (s.fibreEnd i).memWf = true := h
theorem State.memWf_fibreDone (s : State) (i : Nat) (q : FibreReq) (r : FibreReply) (h : s.memWf = true) :
    (s.fibreDone i q r).memWf = true := by
  unfold State.fibreDone
  with_reducible repeat'
    first
      | assumption | apply State.memWf_updateHolds | split | (apply memWf2; dsimp only; apply memWf2_of)
theorem State.memWf_fibrePerform (s : State) (i : Nat) (q : FibreReq) (h : s.memWf = true) :
    (s.fibrePerform i q).memWf = true := by
  unfold State.fibrePerform
  with_reducible repeat'
    first
      | assumption | apply State.memWf_fibreEnd | apply State.memWf_fibreDone | apply State.memWf_fibrePlan
      | apply State.memWf_writeRows | split | (apply memWf2; dsimp only; apply memWf2_of)
theorem State.memWf_fibreOut (s : State) (i : Nat) (q : FibreReq) (n : Nat) (h : s.memWf = true) :
    (s.fibreOut i q n).memWf = true := by
  unfold State.fibreOut
  with_reducible repeat'
    first
      | assumption | apply State.memWf_leave | apply State.memWf_setReq | apply State.memWf_countError | split
      | (apply memWf2; dsimp only; apply memWf2_of)
theorem State.memWf_fibreSend (s : State) (i : Nat) (q : FibreReq) (h : s.memWf = true) :
    (s.fibreSend i q).memWf = true := by
  unfold State.fibreSend
  with_reducible repeat' first | assumption | apply State.memWf_draw | apply State.memWf_fibreOut | split
theorem State.memWf_fibreStep (s : State) (i : Nat) (kind : FibreOp → Bool) (h : s.memWf = true) :
    (s.fibreStep i kind).memWf = true := by
  unfold State.fibreStep
  with_reducible repeat'
    first
      | assumption | apply State.memWf_fibreSend | apply State.memWf_fibreArrive | apply State.memWf_fibrePerform
      | split
theorem nextWf_execFibreFormat (i : Nat) (s : State) (h : s.memWf = true) : NextWf (execFibreFormat i s) :=
  nextWf_next (State.memWf_fibreStep _ _ _ h)
theorem nextWf_execFibreNew (i : Nat) (s : State) (h : s.memWf = true) : NextWf (execFibreNew i s) :=
  nextWf_next (State.memWf_fibreStep _ _ _ h)
theorem nextWf_execFibreFree (i : Nat) (s : State) (h : s.memWf = true) : NextWf (execFibreFree i s) :=
  nextWf_next (State.memWf_fibreStep _ _ _ h)
theorem nextWf_execFibreMerge (i : Nat) (s : State) (h : s.memWf = true) : NextWf (execFibreMerge i s) :=
  nextWf_next (State.memWf_fibreStep _ _ _ h)
theorem nextWf_execFibreDelete (i : Nat) (s : State) (h : s.memWf = true) : NextWf (execFibreDelete i s) :=
  nextWf_next (State.memWf_fibreStep _ _ _ h)
theorem nextWf_execFibreScanStep (i : Nat) (s : State) (h : s.memWf = true) : NextWf (execFibreScanStep i s) :=
  nextWf_next (State.memWf_fibreStep _ _ _ h)
theorem nextWf_execFibreProbe (i : Nat) (s : State) (h : s.memWf = true) : NextWf (execFibreProbe i s) :=
  nextWf_next (State.memWf_fibreStep _ _ _ h)
theorem nextWf_execFibreInfo (i : Nat) (s : State) (h : s.memWf = true) : NextWf (execFibreInfo i s) :=
  nextWf_next (State.memWf_fibreStep _ _ _ h)
theorem nextWf_execPoolReservation (i : Nat) (s : State) (h : s.memWf = true) : NextWf (execPoolReservation i s) := by
  unfold execPoolReservation
  with_reducible repeat'
    first
      | assumption | apply nextWf_next | apply State.memWf_fibrePlan | apply State.memWf_fibreDone
      | apply State.memWf_setReq | apply State.memWf_writeRows | (apply memWf_fst; assumption) | split
      | (apply memWf2; dsimp only; apply memWf2_of)
theorem nextWf_execHoldLapse (i : Nat) (s : State) (h : s.memWf = true) : NextWf (execHoldLapse i s) := by
  unfold execHoldLapse
  with_reducible repeat' first | assumption | apply nextWf_next | split | (apply memWf2; dsimp only; apply memWf2_of)
theorem nextWf_execFibreRefusedResend (i : Nat) (s : State) (h : s.memWf = true) :
    NextWf (execFibreRefusedResend i s) := by
  unfold execFibreRefusedResend
  with_reducible repeat'
    first
      | assumption | apply nextWf_next | apply nextWf_refused | apply State.memWf_fibreOut | apply State.memWf_setReq
      | split
theorem State.memWf_setFibreWait (s : State) (t : ThreadId) (b : Bool) (h : s.memWf = true) :
    (s.setFibreWait t b).memWf = true := by
  unfold State.setFibreWait
  with_reducible repeat'
    first
      | assumption | apply State.memWf_setCore | apply State.memWf_setUnit | split
      | (apply memWf2; dsimp only; apply memWf2_of)
theorem nextWf_execFibreReply (i : Nat) (s : State) (h : s.memWf = true) : NextWf (execFibreReply i s) := by
  unfold execFibreReply
  dsimp only
  with_reducible repeat'
    first
      | assumption | apply nextWf_next | apply State.memWf_setFibreWait | apply State.memWf_retire
      | apply State.memWf_setThread | split | (apply memWf2; dsimp only; apply memWf2_of)

/-! ### Control fibre instructions -/

theorem nextWf_fibreIssue (needs : Cap → Bool) (op : FibreOp) (head : Option (Nat × Nat)) (d : XReg)
    (c : CReg) (b : XReg) (n : Nat) (s : State) (h : s.memWf = true) : NextWf (fibreIssue needs op head d c b n s) := by
  unfold fibreIssue
  dsimp only
  with_reducible repeat'
    first
      | assumption | apply nextWf_next | apply State.memWf_trap | apply State.memWf_translate
      | apply State.memWf_withMisses | apply State.memWf_draw | apply State.memWf_setFibreWait
      | (apply memWf_fst; assumption) | split | (apply memWf2; dsimp only; apply memWf2_of)
theorem nextWf_execFnew (d : XReg) (c : CReg) (a : XReg) (s : State) (h : s.memWf = true) :
    NextWf (execFnew d c a s) := by
  unfold execFnew
  with_reducible repeat' first | assumption | apply nextWf_fibreIssue
theorem nextWf_execFmrg (d : XReg) (c : CReg) (a b : XReg) (n : Fin 4) (s : State) (h : s.memWf = true) :
    NextWf (execFmrg d c a b n s) := by
  unfold execFmrg
  with_reducible repeat' first | assumption | apply nextWf_fibreIssue
theorem nextWf_execFscan (d : XReg) (c : CReg) (a b : XReg) (n : Fin 4) (s : State) (h : s.memWf = true) :
    NextWf (execFscan d c a b n s) := by
  unfold execFscan
  with_reducible repeat' first | assumption | apply nextWf_fibreIssue
theorem nextWf_execFprobe (d : XReg) (c : CReg) (a b : XReg) (n : Fin 4) (s : State) (h : s.memWf = true) :
    NextWf (execFprobe d c a b n s) := by
  unfold execFprobe
  with_reducible repeat' first | assumption | apply nextWf_fibreIssue
theorem nextWf_execFdel (d : XReg) (c : CReg) (a b : XReg) (n : Fin 4) (s : State) (h : s.memWf = true) :
    NextWf (execFdel d c a b n s) := by
  unfold execFdel
  with_reducible repeat' first | assumption | apply nextWf_fibreIssue
theorem nextWf_execFinfo (d : XReg) (c : CReg) (a : XReg) (s : State) (h : s.memWf = true) :
    NextWf (execFinfo d c a s) := by
  unfold execFinfo
  with_reducible repeat' first | assumption | apply nextWf_fibreIssue

/-! ### Arithmetic, branches and jumps -/

theorem nextWf_aluRR (f : Word → Word → Word) (d a b : XReg) (s : State) (h : s.memWf = true) :
    NextWf (aluRR f d a b s) := nextWf_next (State.memWf_retire _ _ (State.memWf_setX _ _ _ _ h))
theorem nextWf_aluR (f : Word → Word) (d a : XReg) (s : State) (h : s.memWf = true) : NextWf (aluR f d a s) :=
  nextWf_next (State.memWf_retire _ _ (State.memWf_setX _ _ _ _ h))
theorem nextWf_branch (f : Word → Word → Bool) (a b : XReg) (off : BitVec 12) (s : State) (h : s.memWf = true) :
    NextWf (branch f a b off s) := nextWf_next (State.memWf_retireTo _ _ _ h)
theorem nextWf_execLui (d : XReg) (imm : BitVec 18) (s : State) (h : s.memWf = true) : NextWf (execLui d imm s) :=
  nextWf_next (State.memWf_retire _ _ (State.memWf_setX _ _ _ _ h))
theorem nextWf_execJal (d : XReg) (off : BitVec 18) (s : State) (h : s.memWf = true) : NextWf (execJal d off s) :=
  nextWf_next (State.memWf_retireTo _ _ _ (State.memWf_setX _ _ _ _ h))
theorem nextWf_execJalr (d a : XReg) (imm : BitVec 12) (s : State) (h : s.memWf = true) :
    NextWf (execJalr d a imm s) := by
  unfold execJalr
  dsimp only
  with_reducible repeat'
    first
      | assumption | apply nextWf_next | apply State.memWf_trap | apply State.memWf_retireTo | apply State.memWf_setX
      | split

/-! ### Loads, stores, atomics and the fence -/

theorem nextWf_loadFrom (f : Nat → Word) (size : Nat) (d : XReg) (cap : Cap) (off : Word) (s : State)
    (h : s.memWf = true) : NextWf (loadFrom f size d cap off s) := by
  unfold loadFrom
  dsimp only
  with_reducible repeat'
    first
      | assumption | apply nextWf_next | apply State.memWf_access | apply State.memWf_trap
      | apply State.memWf_threadRead | apply State.memWf_withMisses | apply State.memWf_retire
      | apply State.memWf_setX | (apply memWf_fst; assumption) | split
theorem nextWf_load (f : Nat → Word) (size : Nat) (d : XReg) (c : CReg) (a : XReg) (imm : BitVec 8)
    (s : State) (h : s.memWf = true) : NextWf (load f size d c a imm s) := nextWf_loadFrom _ _ _ _ _ _ h
theorem nextWf_release (k : State → Res) (s : State) (h : s.memWf = true)
    (hk : ∀ s, s.memWf = true → NextWf (k s)) : NextWf (release k s) := by
  unfold release
  dsimp only
  split
  · exact hk _ (State.memWf_drainThread _ _ h)
  · exact nextWf_next h
theorem nextWf_storeAt (size : Nat) (data : Word) (l : Loc) (off : Word) (s : State) (h : s.memWf = true) :
    NextWf (storeAt size data l off s) := by
  unfold storeAt
  dsimp only
  with_reducible repeat'
    first
      | assumption | apply nextWf_next | apply nextWf_fault | apply State.memWf_drainSys | apply State.memWf_trap
      | apply State.memWf_retire | apply State.memWf_enqueueStore | apply nextWf_release | intro _ | split
theorem nextWf_storeTo (size : Nat) (data : Word) (cap : Cap) (off : Word) (s : State) (h : s.memWf = true) :
    NextWf (storeTo size data cap off s) := by
  unfold storeTo
  dsimp only
  with_reducible repeat'
    first
      | assumption | apply nextWf_next | apply State.memWf_access | apply State.memWf_trap | apply nextWf_storeAt
      | (apply memWf_fst; assumption) | split
theorem nextWf_store (size : Nat) (d : XReg) (c : CReg) (a : XReg) (imm : BitVec 8) (s : State) (h : s.memWf = true) :
    NextWf (store size d c a imm s) := nextWf_storeTo _ _ _ _ _ h
theorem nextWf_execStl (d : XReg) (c : CReg) (a : XReg) (imm : BitVec 8) (s : State) (h : s.memWf = true) :
    NextWf (execStl d c a imm s) := by
  unfold execStl
  dsimp only
  with_reducible repeat'
    first
      | assumption | apply nextWf_next | apply State.memWf_access | apply State.memWf_trap | apply nextWf_release
      | apply nextWf_store | (apply memWf_fst; assumption) | intro _ | split
theorem memWf_amoAt (op : AmoOp) (size : Nat) (who : Sender) (l : Loc) (opd cmp : Nat) (s : State)
    (h : s.memWf = true) : (amoAt op size who l opd cmp s).1.memWf = true := by
  unfold amoAt
  dsimp only
  with_reducible repeat'
    first
      | assumption | apply State.memWf_locRead | apply State.memWf_leaveAs | apply State.memWf_locWrite
      | (apply memWf_fst; assumption) | split
theorem nextWf_amo (op : AmoOp) (d : XReg) (c : CReg) (a b : XReg) (w ar : Bool) (s : State) (h : s.memWf = true) :
    NextWf (amo op d c a b w ar s) := by
  unfold amo
  dsimp only
  with_reducible repeat'
    first
      | assumption | apply nextWf_next | apply State.memWf_trap | apply State.memWf_access | apply memWf_amoAt
      | apply State.memWf_settle | apply State.memWf_drainThread | apply State.memWf_withMisses
      | apply State.memWf_retire | apply State.memWf_setX | (apply memWf_fst; assumption) | split
theorem State.memWf_countSc (s : State) (h : s.memWf = true) : (s.countSc).memWf = true := h
theorem memWf_scAccess (cap : Cap) (off : Word) (write : Bool) (s : State) (h : s.memWf = true) :
    (scAccess cap off write s).1.memWf = true := by
  unfold scAccess
  dsimp only
  with_reducible repeat'
    first
      | assumption | apply State.memWf_access | apply State.memWf_withMisses | (apply memWf_fst; assumption) | split
theorem nextWf_execLdsc (d : XReg) (ca : CReg) (b : XReg) (s : State) (h : s.memWf = true) :
    NextWf (execLdsc d ca b s) := by
  unfold execLdsc
  dsimp only
  with_reducible repeat'
    first
      | assumption | apply nextWf_next | apply memWf_scAccess | apply State.memWf_trap | apply nextWf_loadFrom
      | apply State.memWf_countSc | (apply memWf_fst; assumption) | split
theorem nextWf_execStsc (d : XReg) (ca : CReg) (b : XReg) (s : State) (h : s.memWf = true) :
    NextWf (execStsc d ca b s) := by
  unfold execStsc
  dsimp only
  with_reducible repeat'
    first
      | assumption | apply nextWf_next | apply memWf_scAccess | apply State.memWf_trap | apply State.memWf_countSc
      | apply State.memWf_drainThread | apply State.memWf_retire | apply State.memWf_locWrite
      | (apply memWf_fst; assumption) | split
theorem nextWf_execFence (scope : Scope) (s : State) (h : s.memWf = true) : NextWf (execFence scope s) := by
  unfold execFence
  with_reducible repeat'
    first
      | assumption | apply nextWf_next | apply nextWf_release | apply State.memWf_retire | intro _ | split

/-! ### Capability instructions -/

/-- An instruction of a control core: ILLEGAL elsewhere, its meaning there. -/
theorem nextWf_onCore (i : Instr) (s : State) (k : CoreId → Res) (h : s.memWf = true) (hk : ∀ c, NextWf (k c)) :
    NextWf (onCore i s k) := by
  unfold onCore
  split
  · exact hk _
  · exact nextWf_next (State.memWf_illegal _ _ _ h)
theorem State.memWf_locTag (s : State) (l : Loc) (bits : BitVec 128) (h : s.memWf = true) :
    (s.locTag l bits).1.memWf = true := by
  unfold State.locTag
  dsimp only
  with_reducible repeat' first | assumption | apply State.memWf_countError | apply State.memWf_draw | split
theorem nextWf_execCld (cd c : CReg) (a : XReg) (imm : BitVec 8) (s : State) (h : s.memWf = true) :
    NextWf (execCld cd c a imm s) := by
  unfold execCld
  dsimp only
  with_reducible repeat'
    first
      | assumption | apply nextWf_next | apply State.memWf_access | apply State.memWf_trap
      | apply State.memWf_withMisses | apply State.memWf_threadRead | apply State.memWf_locTag
      | apply State.memWf_retire | apply State.memWf_setC | (apply memWf_fst; assumption) | split
theorem nextWf_execCst (cd c : CReg) (a : XReg) (imm : BitVec 8) (s : State) (h : s.memWf = true) :
    NextWf (execCst cd c a imm s) := by
  unfold execCst
  dsimp only
  with_reducible repeat'
    first
      | assumption | apply nextWf_next | apply State.memWf_access | apply State.memWf_trap
      | apply State.memWf_withMisses | apply State.memWf_retire | apply State.memWf_enqueueStore
      | (apply memWf_fst; assumption) | split
theorem nextWf_execCsetb (cd ca : CReg) (b : XReg) (s : State) (h : s.memWf = true) : NextWf (execCsetb cd ca b s) := by
  unfold execCsetb
  dsimp only
  with_reducible repeat'
    first
      | assumption | apply nextWf_next | apply nextWf_onCore | apply State.memWf_trap | apply State.memWf_retire
      | apply State.memWf_setC | intro _ | split
theorem nextWf_execCandp (cd ca : CReg) (b : XReg) (s : State) (h : s.memWf = true) : NextWf (execCandp cd ca b s) := by
  unfold execCandp
  dsimp only
  with_reducible repeat'
    first
      | assumption | apply nextWf_next | apply nextWf_onCore | apply State.memWf_trap | apply State.memWf_retire
      | apply State.memWf_setC | intro _ | split
theorem nextWf_execCget (d : XReg) (ca : CReg) (f : CapField) (s : State) (h : s.memWf = true) :
    NextWf (execCget d ca f s) := by
  unfold execCget
  with_reducible repeat'
    first
      | assumption | apply nextWf_next | apply nextWf_onCore | apply State.memWf_retire | apply State.memWf_setX
      | intro _
theorem nextWf_execCmov (cd ca : CReg) (s : State) (h : s.memWf = true) : NextWf (execCmov cd ca s) := by
  unfold execCmov
  with_reducible repeat'
    first
      | assumption | apply nextWf_next | apply nextWf_onCore | apply State.memWf_retire | apply State.memWf_setC
      | intro _

/-! ### System registers and the SYS functions -/

theorem nextWf_onPrivCore (i : Instr) (s : State) (k : CoreId → Res) (h : s.memWf = true)
    (hk : ∀ c, NextWf (k c)) : NextWf (onPrivCore i s k) := by
  refine nextWf_onCore _ _ _ h fun c => ?_
  split
  · exact hk c
  · exact nextWf_next (State.memWf_illegal _ _ _ h)
theorem State.memWf_setSreg (s : State) (k : CoreId) (r : SReg) (v : Word) (h : s.memWf = true) :
    OptWf (s.setSreg k r v) := by
  unfold State.setSreg
  with_reducible repeat'
    first
      | assumption | apply optWf_none | apply optWf_some | apply State.memWf_setCore | split
      | (apply memWf2; dsimp only; apply memWf2_of)
theorem nextWf_execSysrd (d : XReg) (num : BitVec 12) (s : State) (h : s.memWf = true) :
    NextWf (execSysrd d num s) := by
  unfold execSysrd
  with_reducible repeat'
    first
      | assumption | apply nextWf_next | apply nextWf_onCore | apply State.memWf_illegal | apply State.memWf_retire
      | apply State.memWf_setX | intro _ | split
theorem nextWf_execSyswr (d : XReg) (num : BitVec 12) (s : State) (h : s.memWf = true) :
    NextWf (execSyswr d num s) := by
  unfold execSyswr
  with_reducible repeat'
    first
      | assumption | apply nextWf_next | apply nextWf_onPrivCore | apply State.memWf_illegal
      | apply State.memWf_setSreg | apply State.memWf_retire | apply State.memWf_draw | apply State.memWf_trap
      | (apply memWf_opt; assumption) | intro _ | split
theorem nextWf_execTrap (code : BitVec 12) (s : State) (h : s.memWf = true) : NextWf (execTrap code s) := by
  unfold execTrap
  with_reducible repeat'
    first
      | assumption | apply nextWf_next | apply nextWf_onCore | apply State.memWf_trap | intro _
theorem nextWf_execEret (s : State) (h : s.memWf = true) : NextWf (execEret s) := by
  unfold execEret
  with_reducible repeat'
    first
      | assumption | apply nextWf_next | apply nextWf_onPrivCore | apply State.memWf_setCore | intro _
theorem nextWf_execWfe (s : State) (h : s.memWf = true) : NextWf (execWfe s) := by
  unfold execWfe
  dsimp only
  with_reducible repeat'
    first
      | assumption | apply nextWf_next | apply nextWf_onCore | apply State.memWf_retire | apply State.memWf_setCore
      | intro _ | split
theorem nextWf_execSev (s : State) (h : s.memWf = true) : NextWf (execSev s) := by
  unfold execSev
  with_reducible repeat'
    first
      | assumption | apply nextWf_next | apply nextWf_onCore | apply nextWf_release | apply State.memWf_retire
      | intro _ | split | (apply memWf2; dsimp only; apply memWf2_of)
theorem nextWf_execHalt (s : State) (h : s.memWf = true) : NextWf (execHalt s) := by
  unfold execHalt
  with_reducible repeat'
    first
      | assumption | apply nextWf_next | apply nextWf_onCore | apply State.memWf_drain | apply State.memWf_setCore
      | intro _
theorem State.memWf_drainAll (s : State) (h : s.memWf = true) : (s.drainAll).memWf = true := by
  unfold State.drainAll
  with_reducible repeat' first | assumption | apply State.memWf_drain | apply memWf_foldl
theorem nextWf_execTlbi (a b : XReg) (s : State) (h : s.memWf = true) : NextWf (execTlbi a b s) := by
  unfold execTlbi
  dsimp only
  with_reducible repeat'
    first
      | assumption | apply nextWf_next | apply nextWf_onPrivCore | apply State.memWf_illegal
      | apply State.memWf_drainAll | apply State.memWf_retire | intro _ | split
      | (apply memWf2; dsimp only; apply memWf2_of)
theorem nextWf_execCrc (d a b : XReg) (s : State) (h : s.memWf = true) : NextWf (execCrc d a b s) := by
  unfold execCrc
  with_reducible repeat'
    first
      | assumption | apply nextWf_next | apply nextWf_onCore | apply State.memWf_retire | apply State.memWf_setX
      | intro _
theorem nextWf_execCyc (d : XReg) (s : State) (h : s.memWf = true) : NextWf (execCyc d s) := by
  unfold execCyc
  with_reducible repeat'
    first
      | assumption | apply nextWf_next | apply nextWf_onCore | apply State.memWf_retire | apply State.memWf_setX
      | intro _
theorem nextWf_execIfence (s : State) (h : s.memWf = true) : NextWf (execIfence s) := by
  unfold execIfence
  with_reducible repeat'
    first
      | assumption | apply nextWf_next | apply nextWf_onCore | apply State.memWf_retire | apply State.memWf_setCore
      | intro _
theorem memWf_popEvent (k : CoreId) (d : XReg) (r : BitVec 128) (s : State) (h : s.memWf = true) :
    (popEvent k d r s).memWf = true := State.memWf_retire _ _ (State.memWf_setCore _ _ _ (State.memWf_setX _ _ _ _ h))
theorem nextWf_execEvpopPoll (d : XReg) (s : State) (h : s.memWf = true) : NextWf (execEvpopPoll d s) := by
  unfold execEvpopPoll
  with_reducible repeat'
    first
      | assumption | apply nextWf_next | apply nextWf_onCore | apply State.memWf_retire | apply State.memWf_setX
      | apply memWf_popEvent | intro _ | split
theorem nextWf_execEvpopWait (d : XReg) (s : State) (h : s.memWf = true) : NextWf (execEvpopWait d s) := by
  unfold execEvpopWait
  with_reducible repeat'
    first
      | assumption | apply nextWf_next | apply nextWf_onCore | apply memWf_popEvent | intro _ | split
theorem State.memWf_capBytes (s : State) (t : ThreadId) (cap : Cap) (off step : Nat) (n : Nat) (h : s.memWf = true) :
    (s.capBytes t cap off step n).1.memWf = true := by
  induction n generalizing s off with
  | zero => exact h
  | succ n ih =>
    unfold State.capBytes
    with_reducible repeat'
      first
        | assumption | apply ih | apply State.memWf_access | apply State.memWf_threadRead
        | (apply memWf_fst; assumption) | split
theorem State.memWf_unmarked (s u : State) (h : s.memWf = true) (hu : u.memWf = true) : (s.unmarked u).memWf = true :=
  memWf2 ⟨(memWf2_of hu).1, (memWf2_of h).2⟩
/-- What remains of reads whose marks are taken back: dense memory of one state, scratch memory of the other. -/
theorem State.memWf_capUnmarked (s u : State) (t : ThreadId) (cap : Cap) (off step n : Nat) (h : s.memWf = true)
    (hu : u.memWf = true) : (s.capUnmarked u t cap off step n).memWf = true := by
  induction n generalizing s u off with
  | zero => exact State.memWf_unmarked _ _ h hu
  | succ n ih =>
    unfold State.capUnmarked
    dsimp only
    split
    · next e => exact State.memWf_unmarked _ _ (memWf_fst e (State.memWf_access _ _ _ _ _ _ h)) hu
    · next e =>
      have ha := memWf_fst e (State.memWf_access _ _ _ _ _ _ h)
      split
      · next e' =>
        exact State.memWf_unmarked _ _ (memWf_fst e' (State.memWf_threadRead _ _ _ _ ha))
          (State.memWf_threadRead _ _ _ _ hu)
      · next e' => exact ih _ _ _ (memWf_fst e' (State.memWf_threadRead _ _ _ _ ha)) (State.memWf_threadRead _ _ _ _ hu)
theorem nextWf_execVsig (d : XReg) (ca : CReg) (b : XReg) (s : State) (h : s.memWf = true) :
    NextWf (execVsig d ca b s) := by
  unfold execVsig
  dsimp only
  with_reducible repeat'
    first
      | assumption | apply nextWf_next | apply nextWf_onPrivCore | apply State.memWf_retire | apply State.memWf_setX
      | apply State.memWf_illegal | apply State.memWf_access | apply State.memWf_trap | apply State.memWf_capUnmarked
      | apply State.memWf_capBytes | apply State.memWf_enqueueStore | (apply memWf_fst; assumption) | intro _ | split

/-! ### Remote calls and the built-in functions -/

theorem State.memWf_targetHome (s : State) (cache : CacheId) (tenant : BitVec 8) (root : Nat) (cap : Cap)
    (h : s.memWf = true) : (s.targetHome cache tenant root cap).1.memWf = true := by
  unfold State.targetHome
  with_reducible repeat'
    first
      | assumption | apply State.memWf_translate | apply State.memWf_withMisses | (apply memWf_fst; assumption)
      | split
theorem State.memWf_leaveCall (s : State) (c : Call) (h : s.memWf = true) : (s.leaveCall c).memWf = true := by
  unfold State.leaveCall
  with_reducible repeat'
    first
      | assumption | apply State.memWf_leave | apply State.memWf_sendReply | apply State.memWf_countError | split
theorem State.memWf_sendCall (s : State) (c : Call) (h : s.memWf = true) : (s.sendCall c).memWf = true := by
  unfold State.sendCall
  with_reducible repeat'
    first
      | assumption | apply State.memWf_leaveCall | split | (apply memWf2; dsimp only; apply memWf2_of)
theorem State.memWf_busyPower (s : State) (u : UnitId) (tenant : BitVec 8) (h : s.memWf = true) :
    (s.busyPower u tenant).1.memWf = true := by
  unfold State.busyPower
  with_reducible repeat'
    first
      | assumption | apply State.memWf_draw | (apply memWf_snd; assumption) | split
      | (apply memWf2; dsimp only; apply memWf2_of)
theorem State.memWf_refuseCall (s : State) (i : Nat) (c : Call) (h : s.memWf = true) :
    (s.refuseCall i c).memWf = true := by
  unfold State.refuseCall
  with_reducible repeat' first | assumption | split | (apply memWf2; dsimp only; apply memWf2_of)
theorem State.memWf_tellAccepted (s : State) (c : Call) (h : s.memWf = true) : (s.tellAccepted c).memWf = true := by
  unfold State.tellAccepted
  with_reducible repeat' first | assumption | split | (apply memWf2; dsimp only; apply memWf2_of)
theorem nextWf_execRemoteCallArrival (i : Nat) (s : State) (h : s.memWf = true) :
    NextWf (execRemoteCallArrival i s) := by
  unfold execRemoteCallArrival
  dsimp only
  with_reducible repeat'
    first
      | assumption | apply nextWf_next | apply nextWf_refused | apply State.memWf_leaveCall
      | apply State.memWf_sendReply | apply State.memWf_busyPower | apply State.memWf_tellAccepted
      | apply State.memWf_setUnit | apply State.memWf_refuseCall | split | (apply memWf2; dsimp only; apply memWf2_of)
theorem nextWf_execCallRefusalResend (i : Nat) (s : State) (h : s.memWf = true) :
    NextWf (execCallRefusalResend i s) := by
  unfold execCallRefusalResend
  with_reducible repeat'
    first
      | assumption | apply nextWf_next | apply nextWf_refused | split | (apply memWf2; dsimp only; apply memWf2_of)
theorem State.memWf_readTable (s : State) (u : UnitId) (c : Call) (h : s.memWf = true) :
    (s.readTable u c).1.memWf = true := by
  unfold State.readTable
  dsimp only
  with_reducible repeat'
    first
      | assumption | apply State.memWf_translate | apply State.memWf_locRead | apply State.memWf_locTag
      | (apply memWf_fst; assumption) | split
theorem nextWf_execRemoteContextStart (u : UnitId) (s : State) (h : s.memWf = true) :
    NextWf (execRemoteContextStart u s) := by
  unfold execRemoteContextStart
  dsimp only
  with_reducible repeat'
    first
      | assumption | apply nextWf_next | apply State.memWf_setUnit | apply State.memWf_sendReply
      | apply State.memWf_readTable | (apply memWf_fst; assumption) | split
theorem nextWf_execRemoteBudgetExhausted (t : RemoteId) (s : State) (h : s.memWf = true) :
    NextWf (execRemoteBudgetExhausted t s) := by
  unfold execRemoteBudgetExhausted
  with_reducible repeat'
    first
      | assumption | apply nextWf_next | apply State.memWf_draw | apply State.memWf_trap | split
theorem State.memWf_setOpenCall (s : State) (c : CallerId) (slot : Fin 16) (o : OpenCall) (h : s.memWf = true) :
    (s.setOpenCall c slot o).memWf = true := by
  unfold State.setOpenCall
  with_reducible repeat' first | assumption | apply State.memWf_setCore | apply State.memWf_setCell | split
theorem nextWf_execCallResend (c : CallerId) (slot : Fin 16) (s : State) (h : s.memWf = true) :
    NextWf (execCallResend c slot s) := by
  unfold execCallResend
  with_reducible repeat'
    first
      | assumption | apply nextWf_next | apply State.memWf_sendCall | apply State.memWf_setOpenCall | split
theorem State.memWf_declareLost (s : State) (c : CallerId) (slot : Fin 16) (o : OpenCall) (h : s.memWf = true) :
    (s.declareLost c slot o).memWf = true := by
  unfold State.declareLost
  with_reducible repeat'
    first
      | assumption | apply State.memWf_setOpenCall | split | (apply memWf2; dsimp only; apply memWf2_of)
theorem nextWf_execCallLostTimeout (c : CallerId) (slot : Fin 16) (s : State) (h : s.memWf = true) :
    NextWf (execCallLostTimeout c slot s) := by
  unfold execCallLostTimeout
  with_reducible repeat' first | assumption | apply nextWf_next | apply State.memWf_declareLost | split
theorem State.memWf_remoteLate (s : State) (r : CallReply) (h : s.memWf = true) : (s.remoteLate r).memWf = true := by
  unfold State.remoteLate
  with_reducible repeat' first | assumption | apply State.memWf_post | split
theorem nextWf_execCallReplyArrival (i : Nat) (s : State) (h : s.memWf = true) : NextWf (execCallReplyArrival i s) := by
  unfold execCallReplyArrival
  dsimp only
  with_reducible repeat'
    first
      | assumption | apply nextWf_next | apply State.memWf_countError | apply State.memWf_remoteLate
      | apply State.memWf_declareLost | apply State.memWf_setCore | apply State.memWf_setCell | split
      | (apply memWf2; dsimp only; apply memWf2_of)
theorem State.memWf_builtinRead (s : State) (u : UnitId) (tenant : BitVec 8) (va n : Nat) (h : s.memWf = true) :
    (s.builtinRead u tenant va n).1.memWf = true := State.memWf_areaRead _ _ _ _ _ h
theorem State.memWf_builtinWords (s : State) (u : UnitId) (tenant : BitVec 8) (va : Nat) (n : Nat)
    (h : s.memWf = true) : (s.builtinWords u tenant va n).1.memWf = true := by
  induction n generalizing s va with
  | zero => exact h
  | succ n ih =>
    unfold State.builtinWords
    with_reducible repeat'
      first
        | assumption | apply ih | apply State.memWf_builtinRead | (apply memWf_fst; assumption) | split
theorem State.memWf_builtinPieces (s : State) (x : Reach) (denied : Status) (l : List (Nat × Nat))
    (h : s.memWf = true) : (s.builtinPieces x denied l).1.memWf = true := by
  induction l generalizing s with
  | nil => exact h
  | cons a l ih =>
    unfold State.builtinPieces
    with_reducible repeat'
      first
        | assumption | apply ih | apply State.memWf_translate | (apply memWf_fst; assumption) | split
theorem State.memWf_builtinTargets (s : State) (u : UnitId) (tenant : BitVec 8) (denied : Status) (n : Nat)
    (l : List Nat) (h : s.memWf = true) : (s.builtinTargets u tenant denied n l).1.memWf = true := by
  induction l generalizing s with
  | nil => exact h
  | cons a l ih =>
    unfold State.builtinTargets
    with_reducible repeat'
      first
        | assumption | apply ih | apply State.memWf_builtinPieces | (apply memWf_fst; assumption) | split
theorem State.memWf_builtinPut (s : State) (t : RemoteId) (tenant : BitVec 8) (n : Nat) (xs : List (List
    (Loc × Nat) × Nat)) (h : s.memWf = true) : (s.builtinPut t tenant n xs).memWf = true := by
  unfold State.builtinPut
  with_reducible repeat' first | assumption | apply State.memWf_areaPut | apply memWf_foldl | intro _
theorem State.memWf_setCtx (s : State) (t : RemoteId) (x : RemoteCtx) (h : s.memWf = true) :
    (s.setCtx t x).memWf = true := h
theorem State.memWf_builtinEnd (s : State) (t : RemoteId) (st : Status) (r0 r1 : Nat) (h : s.memWf = true) :
    (s.builtinEnd t st r0 r1).memWf = true := State.memWf_endRemote _ _ _ _ _ h
theorem State.memWf_blockStart (s : State) (t : RemoteId) (x : RemoteCtx) (ok : Cap → List Nat → Bool)
    (h : s.memWf = true) : (s.blockStart t x ok).memWf = true := by
  unfold State.blockStart
  with_reducible repeat'
    first
      | assumption | apply State.memWf_builtinEnd | apply State.memWf_builtinWords | apply State.memWf_setCtx
      | (apply memWf_fst; assumption) | split | (apply memWf2; dsimp only; apply memWf2_of)
theorem State.memWf_blockEnd (s : State) (t : RemoteId) (x : RemoteCtx) (ws : List Nat) (h : s.memWf = true) :
    (s.blockEnd t x ws).memWf = true := by
  unfold State.blockEnd
  with_reducible repeat'
    first
      | assumption | apply State.memWf_builtinEnd | apply State.memWf_builtinTargets | apply State.memWf_builtinPut
      | apply State.memWf_setCtx | (apply memWf_fst; assumption) | split | (apply memWf2; dsimp only; apply memWf2_of)
theorem State.memWf_builtinCols (s : State) (u : UnitId) (tenant : BitVec 8) (first n : Nat) (l : List Nat)
    (h : s.memWf = true) : (s.builtinCols u tenant first n l).1.memWf = true := by
  induction l generalizing s with
  | nil => exact h
  | cons a l ih =>
    unfold State.builtinCols
    with_reducible repeat'
      first
        | assumption | apply ih | apply State.memWf_builtinWords | (apply memWf_fst; assumption) | split
theorem State.memWf_blockGroup (s : State) (t : RemoteId) (x : RemoteCtx) (ws : List Nat)
    (inputs outputs : List Nat) (f : List (List Nat) → List (List Nat)) (h : s.memWf = true) :
    (s.blockGroup t x ws inputs outputs f).memWf = true := by
  unfold State.blockGroup
  with_reducible repeat'
    first
      | assumption | apply State.memWf_builtinCols | apply State.memWf_builtinEnd | apply State.memWf_builtinTargets
      | apply State.memWf_setCtx | apply State.memWf_builtinPut | (apply memWf_fst; assumption) | split
      | (apply memWf2; dsimp only; apply memWf2_of)
theorem nextWf_execBuiltinReduce (t : RemoteId) (s : State) (h : s.memWf = true) : NextWf (execBuiltinReduce t s) := by
  unfold execBuiltinReduce
  with_reducible repeat'
    first
      | assumption | apply nextWf_next | apply State.memWf_blockStart | apply State.memWf_blockEnd
      | apply State.memWf_blockGroup | intro _ | split
theorem nextWf_execBuiltinAdamw (t : RemoteId) (s : State) (h : s.memWf = true) : NextWf (execBuiltinAdamw t s) := by
  unfold execBuiltinAdamw
  with_reducible repeat'
    first
      | assumption | apply nextWf_next | apply State.memWf_blockStart | apply State.memWf_blockEnd
      | apply State.memWf_blockGroup | intro _ | split
theorem State.memWf_unitStep (s : State) (t : RemoteId) (x : RemoteCtx) (count dst : Nat)
    (data : State → State × Except Status Nat) (h : s.memWf = true)
    (hdata : ∀ s, s.memWf = true → (data s).1.memWf = true) : (s.unitStep t x count dst data).memWf = true := by
  unfold State.unitStep
  with_reducible repeat'
    first
      | assumption | apply hdata | apply State.memWf_setCtx | apply State.memWf_builtinPut
      | apply State.memWf_builtinEnd | apply State.memWf_builtinTargets | (apply memWf_fst; assumption) | split
theorem nextWf_execBuiltinFill (t : RemoteId) (s : State) (h : s.memWf = true) : NextWf (execBuiltinFill t s) := by
  unfold execBuiltinFill
  dsimp only
  with_reducible repeat'
    first
      | assumption | apply nextWf_next | apply State.memWf_unitStep | apply State.memWf_builtinEnd
      | apply State.memWf_setCtx | intro _ | split
theorem nextWf_execBuiltinCopy (t : RemoteId) (s : State) (h : s.memWf = true) : NextWf (execBuiltinCopy t s) := by
  unfold execBuiltinCopy
  dsimp only
  with_reducible repeat'
    first
      | assumption | apply nextWf_next | apply State.memWf_unitStep | apply State.memWf_builtinRead
      | apply State.memWf_builtinEnd | apply State.memWf_setCtx | (apply memWf_fst; assumption) | intro _ | split

/-! ### RCALL, RWAIT, RRET and RFWD -/

theorem State.memWf_settlePage (s : State) (t : ThreadId) (l : Loc) (h : s.memWf = true) :
    (s.settlePage t l).memWf = true := State.memWf_settle _ _ _ _ _ h
theorem nextWf_execRcall (d : XReg) (c : CReg) (rel : Bool) (e : Fin 32) (b : XReg) (n : Fin 4) (s : State)
    (h : s.memWf = true) : NextWf (execRcall d c rel e b n s) := by
  unfold execRcall
  dsimp only
  with_reducible repeat'
    first
      | assumption | apply nextWf_next | apply nextWf_onCore | apply State.memWf_trap | apply State.memWf_targetHome
      | apply State.memWf_drainThread | apply State.memWf_settlePage | apply State.memWf_setCore
      | apply State.memWf_retire | apply State.memWf_setX | apply State.memWf_sendCall | (apply memWf_fst; assumption)
      | intro _ | split
theorem nextWf_execRwait (d a b : XReg) (s : State) (h : s.memWf = true) : NextWf (execRwait d a b s) := by
  unfold execRwait
  dsimp only
  with_reducible repeat'
    first
      | assumption | apply nextWf_next | apply nextWf_onCore | apply State.memWf_retire | apply State.memWf_setX
      | apply State.memWf_setCore | intro _ | split
theorem nextWf_onRemote (i : Instr) (s : State) (k : RemoteId → RemoteCtx → Res) (h : s.memWf = true)
    (hk : ∀ t x, NextWf (k t x)) : NextWf (onRemote i s k) := by
  unfold onRemote
  split
  · exact nextWf_next (State.memWf_illegal _ _ _ h)
  · split
    · exact nextWf_next h
    · exact hk _ _
theorem nextWf_execRret (d a b : XReg) (s : State) (h : s.memWf = true) : NextWf (execRret d a b s) := by
  unfold execRret
  dsimp only
  with_reducible repeat'
    first
      | assumption | apply nextWf_next | apply nextWf_onRemote | apply State.memWf_illegal
      | apply State.memWf_endRemote | intro _ | split
theorem nextWf_execRfwd (ca : CReg) (b : XReg) (s : State) (h : s.memWf = true) : NextWf (execRfwd ca b s) := by
  unfold execRfwd
  dsimp only
  with_reducible repeat'
    first
      | assumption | apply nextWf_next | apply nextWf_onRemote | apply State.memWf_illegal | apply State.memWf_trap
      | apply State.memWf_targetHome | apply State.memWf_sendCall | apply State.memWf_setUnit
      | (apply memWf_fst; assumption) | intro _ | split

/-! ### Fibre forms and calls of a cell -/

theorem memWf_cellFibre (needs : Cap → Bool) (m : Fin 16) (go : Ctx → Cap → Nat → State → Fired) (x : Ctx) (s : State)
    (h : s.memWf = true) (hgo : ∀ x cap pa s, s.memWf = true → (go x cap pa s).MemWf) :
    (cellFibre needs m go x s).MemWf := by
  unfold cellFibre
  dsimp only
  with_reducible repeat'
    first
      | assumption | apply Fired.memWf_fault | apply Fired.memWf_wait | apply State.memWf_park | apply hgo
      | apply State.memWf_translate | (apply memWf_fst; assumption) | split
theorem memWf_postFibre (op : FibreOp) (x : Ctx) (cap : Cap) (pa : Nat) (s : State) (h : s.memWf = true) :
    (postFibre op x cap pa s).MemWf := by
  unfold postFibre
  with_reducible repeat' first | assumption | apply Fired.memWf_done | apply Fired.memWf_fault | split
theorem nextWf_execCellFmrg (f : C3) (s : State) (h : s.memWf = true) : NextWf (execCellFmrg f s) := by
  unfold execCellFmrg
  with_reducible repeat'
    first
      | assumption | apply nextWf_fireCell | apply memWf_cellFibre | apply memWf_postFibre | intro _
theorem nextWf_execCellFscan (f : C3) (s : State) (h : s.memWf = true) : NextWf (execCellFscan f s) := by
  unfold execCellFscan
  with_reducible repeat'
    first
      | assumption | apply nextWf_fireCell | apply memWf_cellFibre | apply memWf_postFibre | intro _
theorem nextWf_execCellFprobe (f : C3) (s : State) (h : s.memWf = true) : NextWf (execCellFprobe f s) := by
  unfold execCellFprobe
  with_reducible repeat'
    first
      | assumption | apply nextWf_fireCell | apply memWf_cellFibre | apply memWf_issue | intro _ | split
      | (apply memWf2; dsimp only; apply memWf2_of)
theorem nextWf_execFibrePostedReply (i : Nat) (s : State) (h : s.memWf = true) : NextWf (execFibrePostedReply i s) := by
  unfold execFibrePostedReply
  dsimp only
  with_reducible repeat'
    first
      | assumption | apply nextWf_next | apply State.memWf_dropOrphan | apply State.memWf_arrive | apply memWf_getD
      | split | (apply memWf2; dsimp only; apply memWf2_of)
theorem nextWf_execFprobeReply (i : Nat) (s : State) (h : s.memWf = true) : NextWf (execFprobeReply i s) := by
  unfold execFprobeReply
  with_reducible repeat'
    first
      | assumption | apply nextWf_next | apply State.memWf_dropOrphan | apply State.memWf_setMemQueue
      | apply State.memWf_itemFailed | apply State.memWf_deliverResult | split
      | (apply memWf2; dsimp only; apply memWf2_of)
theorem nextWf_execCellRcall (f : C3) (s : State) (h : s.memWf = true) : NextWf (execCellRcall f s) := by
  unfold execCellRcall
  dsimp only
  with_reducible repeat'
    first
      | assumption | apply nextWf_fault | apply Fired.memWf_done | apply Fired.memWf_fault | apply nextWf_fireCell
      | intro _ | split
theorem State.memWf_sendCellCall (s : State) (v : VpId) (c : CellId) (block slot entry : Nat)
    (payload : Vector Word 4) (rel : Bool) (cap : Cap) (after : List (Nat × Nat))
    (h : s.memWf = true) : (s.sendCellCall v c block slot entry payload rel cap after).memWf = true := by
  unfold State.sendCellCall
  with_reducible repeat'
    first
      | assumption | apply State.memWf_setCell | apply State.memWf_targetHome | apply State.memWf_sendCall
      | (apply memWf_fst; assumption) | split | (apply memWf2; dsimp only; apply memWf2_of)
theorem nextWf_execCallReplyToken (c : CellId) (s : State) (h : s.memWf = true) : NextWf (execCallReplyToken c s) := by
  unfold execCallReplyToken
  dsimp only
  with_reducible repeat'
    first
      | assumption | apply nextWf_next | apply State.memWf_setCell | apply State.memWf_dropOrphan
      | apply State.memWf_arrive | apply memWf_getD | split

/-! ### Commits, drains and arriving tokens -/

theorem State.memWf_performAhead (s : State) (c : CellId) (i : Instance) (rs : List CellReq) (h : s.memWf = true) :
    (s.performAhead c i rs).memWf = true := State.memWf_performNeeded _ _ _ _ h
theorem State.memWf_performNow (s : State) (n : Nat) (rs : List CellReq) (h : s.memWf = true) :
    (s.performNow n rs).memWf = true := by
  induction n generalizing s rs with
  | zero => exact h
  | succ n ih =>
    cases rs with
    | nil => exact h
    | cons r rs => exact ih _ _ (State.memWf_performReq _ _ _ h)
theorem State.memWf_applyHeld (s : State) (c : CellId) (pl : Place) (i : Instance) (x : Held) (h : s.memWf = true) :
    (s.applyHeld c pl i x).memWf = true := by
  cases x with
  | send | matrix => exact State.memWf_setCell _ _ _ h
  | fibre | xfer => exact h
  | call => exact State.memWf_sendCellCall _ _ _ _ _ _ _ _ _ _ h
  | store | table => exact h
theorem State.memWf_applyAll (s : State) (c : CellId) (pl : Place) (i : Instance) (hs : List (Nat × Held))
    (h : s.memWf = true) : (s.applyAll c pl i hs).memWf = true := by
  induction hs generalizing s with
  | nil => exact h
  | cons a hs ih =>
    unfold State.applyAll
    with_reducible repeat' first | assumption | apply ih | apply State.memWf_applyHeld
theorem State.memWf_issueHeld (s : State) (c : CellId) (rs : List CellReq) (h : s.memWf = true) :
    (s.issueHeld c rs).memWf = true := State.memWf_setMemQueue _ _ _ (State.memWf_performNow _ _ _ h)
theorem State.memWf_removeTaken (s : State) (c : CellId) (i : Instance) (h : s.memWf = true) :
    (s.removeTaken c i).memWf = true := by
  unfold State.removeTaken
  dsimp only
  with_reducible repeat' first | assumption | apply State.memWf_removeTokens | apply memWf_foldl | intro _ | split
theorem State.memWf_resumeSends (s : State) (c : CellId) (h : s.memWf = true) : (s.resumeSends c).memWf = true := by
  unfold State.resumeSends
  with_reducible repeat' first | assumption | apply State.memWf_drainSends | split
theorem State.memWf_commit (s : State) (c : CellId) (pl : Place) (i : Instance) (h : s.memWf = true) :
    (s.commit c pl i).memWf = true := by
  unfold State.commit
  with_reducible repeat'
    first
      | assumption | apply State.memWf_removeTaken | apply State.memWf_setCell | apply State.memWf_touch
      | apply State.memWf_applyAll | apply State.memWf_issueHeld
theorem State.memWf_follow (s : State) (v : VpId) (c : CellId) (e : Exit) (h : s.memWf = true) :
    (s.follow v c e).memWf = true := by
  cases e with
  | block n => exact State.memWf_startBlock _ _ _ _ h
  | bend => exact State.memWf_setCell _ _ _ h
theorem nextWf_execBlockCommit (c : CellId) (s : State) (h : s.memWf = true) : NextWf (execBlockCommit c s) := by
  unfold execBlockCommit
  with_reducible repeat'
    first
      | assumption | apply nextWf_next | apply State.memWf_follow | apply State.memWf_resumeSends
      | apply State.memWf_commit | apply State.memWf_performAhead | split
theorem nextWf_execSendResume (c : CellId) (s : State) (h : s.memWf = true) : NextWf (execSendResume c s) :=
  nextWf_next (State.memWf_resumeSends _ _ h)
theorem nextWf_execBlockQuiescence (c : CellId) (s : State) (h : s.memWf = true) :
    NextWf (execBlockQuiescence c s) := by
  unfold execBlockQuiescence
  with_reducible repeat' first | assumption | apply nextWf_next | apply State.memWf_raiseCell | split
theorem memWf_finishDrain (s : State) (x : Ctx) (ins : Instr) (sl : Slot) (h : s.memWf = true) :
    (finishDrain s x ins sl).MemWf := by
  unfold finishDrain
  with_reducible repeat' first | assumption | apply Fired.memWf_done | apply memWf_forward | split
theorem nextWf_execMarkerDrain (c : CellId) (port : Fin 8) (s : State) (h : s.memWf = true) :
    NextWf (execMarkerDrain c port s) := by
  unfold execMarkerDrain
  dsimp only
  with_reducible repeat'
    first
      | assumption | apply nextWf_next | apply State.memWf_setInst | apply memWf_finish | apply memWf_finishDrain
      | split
theorem nextWf_execTokenReceive (i : Nat) (codeOk : Bool) (s : State) (h : s.memWf = true) :
    NextWf (execTokenReceive i codeOk s) := by
  unfold execTokenReceive
  dsimp only
  with_reducible repeat'
    first
      | assumption | apply nextWf_next | apply State.memWf_dropOrphan | apply State.memWf_setCell
      | apply State.memWf_countError | apply State.memWf_arrive | apply State.memWf_touch
      | (apply memWf_opt; assumption) | split | (apply memWf2; dsimp only; apply memWf2_of)

/-! ### The matrix array -/

theorem State.memWf_ownRead (s : State) (c : CellId) (a n : Nat) (h : s.memWf = true) :
    (s.ownRead c a n).1.memWf = true := by
  unfold State.ownRead
  with_reducible repeat' first | assumption | apply State.memWf_locRead | (apply memWf_fst; assumption) | split
theorem State.memWf_ownReads (s : State) (c : CellId) (n : Nat) (l : List Nat) (h : s.memWf = true) :
    (s.ownReads c n l).1.memWf = true := by
  induction l generalizing s with
  | nil => exact h
  | cons a l ih =>
    unfold State.ownReads
    with_reducible repeat'
      first
        | assumption | apply ih | apply State.memWf_ownRead | (apply memWf_fst; assumption) | split
theorem State.memWf_columnA (s : State) (c : CellId) (r : MatrixRun) (f : MFmt) (rows : List Nat) (k kc : Nat)
    (h : s.memWf = true) : (s.columnA c r f rows k kc).1.memWf = true := by
  unfold State.columnA
  with_reducible repeat' first | assumption | apply State.memWf_ownReads | split
theorem State.memWf_rowB (s : State) (c : CellId) (r : MatrixRun) (f : MFmt) (k : Nat) (h : s.memWf = true) :
    (s.rowB c r f k).1.memWf = true := by
  unfold State.rowB
  with_reducible repeat' first | assumption | apply State.memWf_ownReads | split
theorem State.memWf_block (s : State) (c : CellId) (r : MatrixRun) (isA : Bool) (p line j : Nat) (h : s.memWf = true) :
    (s.block c r isA p line j).1.memWf = true := by
  unfold State.block
  dsimp only
  with_reducible repeat'
    first
      | assumption | apply State.memWf_ownReads | apply State.memWf_ownRead | (apply memWf_fst; assumption) | split
theorem State.memWf_blocks (s : State) (c : CellId) (r : MatrixRun) (isA : Bool) (p j : Nat) (l : List Nat)
    (h : s.memWf = true) : (s.blocks c r isA p j l).1.memWf = true := by
  induction l generalizing s with
  | nil => exact h
  | cons a l ih =>
    unfold State.blocks
    with_reducible repeat'
      first
        | assumption | apply ih | apply State.memWf_block | (apply memWf_fst; assumption) | split
theorem State.memWf_setTile (s : State) (c : CellId) (t : Tile) (h : s.memWf = true) :
    (s.setTile c t).memWf = true := h
theorem State.memWf_countIdle (s : State) (c : CellId) (idle : List Nat) (h : s.memWf = true) :
    (s.countIdle c idle).memWf = true := h
theorem State.memWf_macUnit (s : State) (c : CellId) (r : MatrixRun) (fa fb : MFmt) (rows : List Nat)
    (k kc : Nat) (h : s.memWf = true) : (s.macUnit c r fa fb rows k kc).1.memWf = true := by
  unfold State.macUnit
  with_reducible repeat'
    first
      | assumption | apply State.memWf_columnA | apply State.memWf_rowB | apply State.memWf_setTile
      | (apply memWf_fst; assumption) | split
theorem State.memWf_macUnits (s : State) (c : CellId) (r : MatrixRun) (fa fb : MFmt) (l : List
    (List Nat × Nat × Nat)) (h : s.memWf = true) : (s.macUnits c r fa fb l).1.memWf = true := by
  induction l generalizing s with
  | nil => exact h
  | cons a l ih =>
    unfold State.macUnits
    with_reducible repeat'
      first
        | assumption | apply ih | apply State.memWf_macUnit | (apply memWf_fst; assumption) | split
theorem State.memWf_matrixStep (s : State) (c : CellId) (r : MatrixRun) (fa fb : MFmt) (n : Nat) (h : s.memWf = true) :
    (s.matrixStep c r fa fb n).1.memWf = true := by
  unfold State.matrixStep
  with_reducible repeat'
    first
      | assumption | apply State.memWf_blocks | apply State.memWf_setTile | apply State.memWf_macUnits
      | apply State.memWf_countIdle | (apply memWf_fst; assumption) | split
theorem State.memWf_packetReads (s : State) (c : CellId) (n : Nat) (l : List (Option Nat)) (h : s.memWf = true) :
    (s.packetReads c n l).1.memWf = true := by
  induction l generalizing s with
  | nil => exact h
  | cons a l ih =>
    unfold State.packetReads
    with_reducible repeat'
      first
        | assumption | apply ih | apply State.memWf_ownRead | apply State.memWf_draw | (apply memWf_fst; assumption)
        | split
theorem State.memWf_readRows (s : State) (c : CellId) (n : Nat) (l : List (List (Option Nat))) (h : s.memWf = true) :
    (s.readRows c n l).1.memWf = true := by
  induction l generalizing s with
  | nil => exact h
  | cons a l ih =>
    unfold State.readRows
    with_reducible repeat'
      first
        | assumption | apply ih | apply State.memWf_packetReads | (apply memWf_fst; assumption) | split
theorem State.memWf_allBlocks (s : State) (c : CellId) (r : MatrixRun) (isA : Bool) (p : Nat) (l : List
    (Nat × Nat)) (h : s.memWf = true) : (s.allBlocks c r isA p l).1.memWf = true := by
  induction l generalizing s with
  | nil => exact h
  | cons a l ih =>
    unfold State.allBlocks
    with_reducible repeat'
      first
        | assumption | apply ih | apply State.memWf_block | (apply memWf_fst; assumption) | split
theorem State.memWf_buildPacket (s : State) (c : CellId) (r : MatrixRun) (isA : Bool) (f : MFmt) (h : s.memWf = true) :
    (s.buildPacket c r isA f).1.memWf = true := by
  unfold State.buildPacket
  dsimp only
  with_reducible repeat'
    first
      | assumption | apply State.memWf_allBlocks | apply State.memWf_readRows | (apply memWf_fst; assumption) | split
theorem State.memWf_buildPasses (s : State) (c : CellId) (r : MatrixRun) (fa fb : MFmt) (h : s.memWf = true) :
    (s.buildPasses c r fa fb).1.memWf = true := by
  unfold State.buildPasses
  dsimp only
  with_reducible repeat' first | assumption | apply State.memWf_buildPacket | (apply memWf_fst; assumption) | split
theorem State.memWf_setRun (s : State) (c : CellId) (r : MatrixRun) (h : s.memWf = true) :
    (s.setRun c r).memWf = true := h
theorem State.memWf_popRun (s : State) (c : CellId) (h : s.memWf = true) : (s.popRun c).memWf = true := h
theorem State.memWf_failRun (s : State) (pl : Place) (c : CellId) (r : MatrixRun) (st : Status) (h : s.memWf = true) :
    (s.failRun pl c r st).memWf = true := by
  unfold State.failRun
  with_reducible repeat'
    first
      | assumption | apply State.memWf_popRun | apply State.memWf_setCell | apply State.memWf_itemFailed | split
theorem State.memWf_eccRun (s : State) (pl : Place) (c : CellId) (r : MatrixRun) (h : s.memWf = true) :
    (s.eccRun pl c r).memWf = true := State.memWf_failRun _ _ _ _ _ (State.memWf_setCell _ _ _ h)
theorem State.memWf_noteHeaders (s : State) (c : CellId) (r : MatrixRun) (h : s.memWf = true) :
    (s.noteHeaders c r).memWf = true := h
theorem State.memWf_dropOperand (s : State) (c : CellId) (r : MatrixRun) (isA drop : Bool) (h : s.memWf = true) :
    (s.dropOperand c r isA drop).memWf = true := by
  unfold State.dropOperand
  with_reducible repeat' first | assumption | apply State.memWf_setCell | apply State.memWf_returnTokens | split
theorem State.memWf_badRun (s : State) (pl : Place) (c : CellId) (r : MatrixRun) (dropA dropB : Bool)
    (h : s.memWf = true) : (s.badRun pl c r dropA dropB).memWf = true := by
  unfold State.badRun
  with_reducible repeat' first | assumption | apply State.memWf_failRun | apply State.memWf_dropOperand
theorem State.memWf_releaseTile (s : State) (c : CellId) (cmd : MatrixCmd) (i8 : Bool) (h : s.memWf = true) :
    (s.releaseTile c cmd i8).memWf = true := h
theorem State.memWf_completeRun (s : State) (c : CellId) (r : MatrixRun) (fa : MFmt) (h : s.memWf = true) :
    (s.completeRun c r fa).memWf = true := h
theorem State.memWf_readMarks (s : State) (c : CellId) (r : MatrixRun) (h : s.memWf = true) :
    (s.readMarks c r).1.memWf = true := by
  unfold State.readMarks
  dsimp only
  with_reducible repeat' first | assumption | apply State.memWf_ownReads | split
theorem State.memWf_startRun (s : State) (pl : Place) (c : CellId) (r : MatrixRun) (h : s.memWf = true) :
    (s.startRun pl c r).memWf = true := by
  unfold State.startRun
  with_reducible repeat'
    first
      | assumption | apply State.memWf_readMarks | apply State.memWf_eccRun | apply State.memWf_setRun
      | apply State.memWf_badRun | (apply memWf_fst; assumption) | split | (apply memWf2; dsimp only; apply memWf2_of)
theorem State.memWf_readyRun (s : State) (pl : Place) (c : CellId) (r : MatrixRun) (h : s.memWf = true) :
    (s.readyRun pl c r).memWf = true := by
  unfold State.readyRun
  with_reducible repeat'
    first
      | assumption | apply State.memWf_badRun | apply State.memWf_buildPasses | apply State.memWf_noteHeaders
      | apply State.memWf_eccRun | apply State.memWf_setRun | apply State.memWf_setTile
      | (apply memWf_fst; assumption) | split
theorem State.memWf_passOn (s : State) (c : CellId) (r : MatrixRun) (port : Fin 8) (h : s.memWf = true) :
    OptWf (s.passOn c r port) := by
  unfold State.passOn
  with_reducible repeat'
    first
      | assumption | apply optWf_none | apply optWf_some | apply State.memWf_setRun | apply State.memWf_sendPort
      | apply optWf_map | intro _ | split
theorem State.memWf_runStep (s : State) (pl : Place) (c : CellId) (r : MatrixRun) (h : s.memWf = true) :
    (s.runStep pl c r).memWf = true := by
  unfold State.runStep
  with_reducible repeat'
    first
      | assumption | apply State.memWf_passOn | apply State.memWf_completeRun | apply State.memWf_matrixStep
      | apply State.memWf_eccRun | apply State.memWf_setRun | (apply memWf_fst; assumption)
      | (apply memWf_opt; assumption) | split
theorem nextWf_execMatrixCommandStart (c : CellId) (s : State) (h : s.memWf = true) :
    NextWf (execMatrixCommandStart c s) := by
  unfold execMatrixCommandStart
  with_reducible repeat'
    first
      | assumption | apply nextWf_next | apply State.memWf_startRun | apply State.memWf_readyRun
      | apply State.memWf_runStep | split
theorem State.memWf_wrongRun (s : State) (pl : Place) (c : CellId) (r : MatrixRun) (dropA dropB : Bool)
    (h : s.memWf = true) : (s.wrongRun pl c r dropA dropB).memWf = true := by
  unfold State.wrongRun
  dsimp only
  with_reducible repeat' first | assumption | apply State.memWf_badRun | apply State.memWf_removeTokens | split
theorem State.memWf_takeOperand (s : State) (pl : Place) (c : CellId) (r : MatrixRun) (isA : Bool)
    (port : Fin 8) (t : Token) (h : s.memWf = true) : (s.takeOperand pl c r isA port t).memWf = true := by
  unfold State.takeOperand
  dsimp only
  with_reducible repeat'
    first
      | assumption | apply State.memWf_wrongRun | apply State.memWf_removeTokens | apply State.memWf_badRun
      | apply State.memWf_setRun | split
theorem nextWf_execMatrixOperandTake (c : CellId) (port : Fin 8) (s : State) (h : s.memWf = true) :
    NextWf (execMatrixOperandTake c port s) := by
  unfold execMatrixOperandTake
  dsimp only
  with_reducible repeat'
    first
      | assumption | apply nextWf_next | apply State.memWf_setCell | apply State.memWf_removeTokens
      | apply State.memWf_takeOperand | split
theorem nextWf_execAcczCommand (c : CellId) (s : State) (h : s.memWf = true) : NextWf (execAcczCommand c s) := by
  unfold execAcczCommand
  with_reducible repeat'
    first
      | assumption | apply nextWf_next | apply State.memWf_popRun | apply State.memWf_setCell | split
theorem State.memWf_takeSnapshots (s : State) (c : CellId) (h : s.memWf = true) : (s.takeSnapshots c).memWf = true := by
  unfold State.takeSnapshots
  with_reducible repeat' first | assumption | apply State.memWf_deliverResult | apply memWf_foldl | intro _ | split
theorem nextWf_execTileRelease (c : CellId) (s : State) (h : s.memWf = true) : NextWf (execTileRelease c s) := by
  unfold execTileRelease
  dsimp only
  with_reducible repeat'
    first
      | assumption | apply nextWf_next | apply State.memWf_releaseTile | apply State.memWf_takeSnapshots
      | apply State.memWf_setCell | apply State.memWf_sendPort | (apply memWf_opt; assumption) | split
theorem memWf_fireMatrix (op : Fin 4) (x : Ctx) (s : State) (h : s.memWf = true) : (fireMatrix op x s).MemWf := by
  unfold fireMatrix
  dsimp only
  with_reducible repeat'
    first
      | assumption | apply Fired.memWf_done | apply Fired.memWf_fault | apply State.memWf_setCell | split
theorem nextWf_execMma (f : C3) (s : State) (h : s.memWf = true) : NextWf (execMma f s) := by
  unfold execMma
  with_reducible repeat' first | assumption | apply nextWf_fireCell | apply memWf_fireMatrix
theorem nextWf_execMmas (f : C3) (s : State) (h : s.memWf = true) : NextWf (execMmas f s) := by
  unfold execMmas
  with_reducible repeat' first | assumption | apply nextWf_fireCell | apply memWf_fireMatrix
theorem nextWf_execMmap (f : C3) (s : State) (h : s.memWf = true) : NextWf (execMmap f s) := by
  unfold execMmap
  with_reducible repeat' first | assumption | apply nextWf_fireCell | apply memWf_fireMatrix
theorem nextWf_execAccz (f : C3) (s : State) (h : s.memWf = true) : NextWf (execAccz f s) := by
  unfold execAccz
  with_reducible repeat' first | assumption | apply nextWf_fireCell | apply memWf_fireMatrix
theorem nextWf_execAccrd (f : C3) (s : State) (h : s.memWf = true) : NextWf (execAccrd f s) := by
  unfold execAccrd
  dsimp only
  with_reducible repeat'
    first
      | assumption | apply nextWf_fault | apply Fired.memWf_done | apply Fired.memWf_fault | apply nextWf_fireCell
      | apply memWf_results | intro _ | split

/-! ### The kept state of a cell -/

theorem State.memWf_savePart (s : State) (x : Reach) (v : VpId) (wave : Nat) (c : CellId) (va : Nat)
    (bs : List Byte) (h : s.memWf = true) : (s.savePart x v wave c va bs).memWf = true := by
  unfold State.savePart
  with_reducible repeat'
    first
      | assumption | apply State.memWf_areaWrite | apply State.memWf_itemFailed | (apply memWf_fst; assumption)
      | split
theorem State.memWf_loadPart (s : State) (x : Reach) (v : VpId) (wave : Nat) (c : CellId) (va n : Nat)
    (h : s.memWf = true) : (s.loadPart x v wave c va n).1.memWf = true := by
  unfold State.loadPart
  with_reducible repeat'
    first
      | assumption | apply State.memWf_areaRead | apply State.memWf_itemFailed | (apply memWf_fst; assumption) | split
theorem State.memWf_saveTags (s : State) (x : Reach) (v : VpId) (wave : Nat) (c : CellId) (va : Nat)
    (h : s.memWf = true) : (s.saveTags x v wave c va).memWf = true := by
  unfold State.saveTags
  with_reducible repeat'
    first
      | assumption | apply State.memWf_savePart | apply State.memWf_itemFailed | apply State.memWf_countError | split
theorem State.memWf_saveLines (s : State) (x : Reach) (v : VpId) (wave : Nat) (c : CellId) (va : Nat)
    (n : Nat) (i : Nat) (h : s.memWf = true) : (s.saveLines x v wave c va n i).memWf = true := by
  induction n generalizing s i with
  | zero => exact h
  | succ n ih =>
    unfold State.saveLines
    with_reducible repeat'
      first
        | assumption | apply ih | apply State.memWf_locRead | apply State.memWf_itemFailed
        | apply State.memWf_savePart | (apply memWf_fst; assumption) | split
theorem State.memWf_loadLines (s : State) (x : Reach) (v : VpId) (wave : Nat) (c : CellId) (va : Nat)
    (n : Nat) (i : Nat) (h : s.memWf = true) : (s.loadLines x v wave c va n i).memWf = true := by
  induction n generalizing s i with
  | zero => exact h
  | succ n ih =>
    unfold State.loadLines
    with_reducible repeat'
      first
        | assumption | apply ih | apply State.memWf_loadPart | apply State.memWf_scratchWrite
        | (apply memWf_fst; assumption) | split
theorem State.memWf_saveRegs (s : State) (x : Reach) (v : VpId) (wave : Nat) (c : CellId) (va : Nat)
    (l : List Nat) (h : s.memWf = true) : (s.saveRegs x v wave c va l).memWf = true := by
  induction l generalizing s va with
  | nil => exact h
  | cons a l ih =>
    unfold State.saveRegs
    with_reducible repeat'
      first
        | assumption | apply ih | apply State.memWf_itemFailed | apply State.memWf_countError
        | apply State.memWf_savePart | split
theorem State.memWf_loadRegs (s : State) (x : Reach) (v : VpId) (wave : Nat) (c : CellId) (va : Nat)
    (l : List Nat) (h : s.memWf = true) : (s.loadRegs x v wave c va l).memWf = true := by
  induction l generalizing s va with
  | nil => exact h
  | cons a l ih =>
    unfold State.loadRegs
    with_reducible repeat'
      first
        | assumption | apply ih | apply State.memWf_setCell | apply State.memWf_loadPart
        | apply State.memWf_countError | apply State.memWf_itemFailed | (apply memWf_fst; assumption) | split
theorem State.memWf_saveCell (s : State) (v : VpId) (wave : Nat) (c : CellId) (e : ImageEntry) (va : Nat)
    (h : s.memWf = true) : (s.saveCell v wave c e va).memWf = true := by
  unfold State.saveCell
  with_reducible repeat'
    first
      | assumption | apply State.memWf_saveRegs | apply State.memWf_savePart | apply State.memWf_saveTags
      | apply State.memWf_saveLines | split
theorem State.memWf_loadKept (s : State) (v : VpId) (wave : Nat) (c : CellId) (e : ImageEntry) (va : Nat)
    (h : s.memWf = true) : (s.loadKept v wave c e va).memWf = true := by
  unfold State.loadKept
  dsimp only
  with_reducible repeat'
    first
      | assumption | apply State.memWf_loadRegs | apply State.memWf_loadPart | apply State.memWf_setCell
      | apply State.memWf_loadLines | (apply memWf_fst; assumption) | split

/-! ### Address generators -/

theorem State.memWf_agenLanes (s : State) (c : CellId) (tenant : BitVec 8) (cap : Cap) (write : Bool)
    (a : Agen) (l : List Nat) (h : s.memWf = true) : (s.agenLanes c tenant cap write a l).1.memWf = true := by
  induction l generalizing s with
  | nil => exact h
  | cons a l ih =>
    unfold State.agenLanes
    dsimp only
    with_reducible repeat'
      first
        | assumption | apply ih | apply State.memWf_translate | (apply memWf_fst; assumption) | split
theorem State.memWf_agenAccess (s : State) (c : CellId) (tenant : BitVec 8) (a : Agen) (write : Bool)
    (lanes : List Nat) (h : s.memWf = true) : (s.agenAccess c tenant a write lanes).1.memWf = true := by
  unfold State.agenAccess
  dsimp only
  with_reducible repeat' first | assumption | apply State.memWf_agenLanes | split
theorem State.memWf_agenRead (s : State) (who : Sender) (l : List (Nat × Loc)) (h : s.memWf = true) :
    (s.agenRead who l).1.memWf = true := by
  induction l generalizing s with
  | nil => exact h
  | cons a l ih =>
    unfold State.agenRead
    with_reducible repeat' first | assumption | apply ih | apply State.memWf_locRead
theorem State.memWf_agenWrite (s : State) (who : Sender) (t : Token) (ls : List (Nat × Loc)) (h : s.memWf = true) :
    (s.agenWrite who t ls).memWf = true := by
  unfold State.agenWrite
  with_reducible repeat'
    first
      | assumption | apply State.memWf_locWrite | apply State.memWf_healStore | apply memWf_foldl | intro _
theorem State.memWf_setAgen (s : State) (c : CellId) (gen : Fin 2) (a : Agen) (h : s.memWf = true) :
    (s.setAgen c gen a).memWf = true := h
theorem State.memWf_agenFault (s : State) (pl : Place) (c : CellId) (gen : Fin 2) (a : Agen) (e : AgenFault)
    (h : s.memWf = true) : (s.agenFault pl c gen a e).memWf = true := by
  unfold State.agenFault
  with_reducible repeat' first | assumption | apply State.memWf_setAgen | apply State.memWf_raiseCell | split
theorem State.memWf_agenSend (s : State) (pl : Place) (c : CellId) (gen : Fin 2) (a : Agen) (h : s.memWf = true) :
    (s.agenSend pl c gen a).memWf = true := by
  unfold State.agenSend
  with_reducible repeat'
    first
      | assumption | apply State.memWf_sendPort | apply State.memWf_setAgen | apply State.memWf_setVp
      | apply State.memWf_agenAccess | apply State.memWf_agenFault | apply State.memWf_agenRead
      | apply State.memWf_itemFailed | (apply memWf_fst; assumption) | (apply memWf_opt; assumption)
      | apply memWf_getD | split | (apply memWf2; dsimp only; apply memWf2_of)
theorem State.memWf_agenReceive (s : State) (pl : Place) (c : CellId) (gen : Fin 2) (a : Agen) (h : s.memWf = true) :
    (s.agenReceive pl c gen a).memWf = true := by
  unfold State.agenReceive
  with_reducible repeat'
    first
      | assumption | apply State.memWf_setAgen | apply State.memWf_removeTokens | apply State.memWf_agenAccess
      | apply State.memWf_agenFault | apply State.memWf_agenWrite | (apply memWf_fst; assumption) | split
      | (apply memWf2; dsimp only; apply memWf2_of)
theorem nextWf_execAddressGeneratorToken (c : CellId) (gen : Fin 2) (s : State) (h : s.memWf = true) :
    NextWf (execAddressGeneratorToken c gen s) := by
  unfold execAddressGeneratorToken
  dsimp only
  with_reducible repeat'
    first
      | assumption | apply nextWf_next | apply nextWf_fault | apply State.memWf_agenReceive
      | apply State.memWf_agenSend | split

/-! ### CFGLD, CFGCHK and CFGCLR -/

theorem State.memWf_clearScratch (s : State) (c : CellId) (h : s.memWf = true) : (s.clearScratch c).memWf = true :=
  memWf2 (memWf2_scratchClear (memWf2_of h))
theorem State.memWf_loadCell (s : State) (c : CellId) (tenant : BitVec 8) (p : Program) (h : s.memWf = true) :
    (s.loadCell c tenant p).memWf = true := State.memWf_setCell _ _ _ (State.memWf_clearScratch _ _ h)
theorem State.memWf_dropWork (s : State) (k : CoreId) (h : s.memWf = true) : (s.dropWork k).memWf = true := h
theorem State.memWf_setWork (s : State) (k : CoreId) (i : Instr) (w : CoreWork) (h : s.memWf = true) :
    (s.setWork k i w).memWf = true := h
/-- The frame of CFGLD and CFGCHK: on a trap the two memories are those of before its reads. -/
theorem nextWf_loader (i : Instr) (busy : Bool) (d : XReg) (ca : CReg) (b : XReg) (s : State)
    (go : State → State → CoreId → CellId → Cap → List FrameRecord → Res) (h : s.memWf = true)
    (hgo : ∀ s u k c cap rs, s.memWf = true → u.memWf = true → NextWf (go s u k c cap rs)) :
    NextWf (loader i busy d ca b s go) := by
  unfold loader
  refine nextWf_onPrivCore _ _ _ h fun k => ?_
  dsimp only
  with_reducible repeat'
    first
      | assumption | apply hgo | apply nextWf_next | apply State.memWf_capUnmarked | apply State.memWf_trap
      | apply State.memWf_withMisses | apply State.memWf_retire | apply State.memWf_setX | apply State.memWf_setWork
      | apply State.memWf_dropWork | apply State.memWf_access | apply State.memWf_capBytes
      | (apply memWf_fst; assumption) | split
theorem nextWf_execCfgld (d : XReg) (ca : CReg) (b : XReg) (s : State) (h : s.memWf = true) :
    NextWf (execCfgld d ca b s) := by
  unfold execCfgld
  with_reducible repeat'
    first
      | assumption | apply nextWf_next | apply nextWf_loader | apply State.memWf_trap | apply State.memWf_retire
      | apply State.memWf_setX | apply State.memWf_loadCell | intro _ | split
theorem nextWf_execCfgchk (d : XReg) (ca : CReg) (b : XReg) (s : State) (h : s.memWf = true) :
    NextWf (execCfgchk d ca b s) := by
  unfold execCfgchk
  with_reducible repeat'
    first
      | assumption | apply nextWf_next | apply nextWf_loader | apply State.memWf_retire | apply State.memWf_setX
      | intro _
theorem nextWf_execCfgclr (d a : XReg) (s : State) (h : s.memWf = true) : NextWf (execCfgclr d a s) := by
  unfold execCfgclr
  dsimp only
  with_reducible repeat'
    first
      | assumption | apply nextWf_next | apply nextWf_onPrivCore | apply State.memWf_dropWork
      | apply State.memWf_retire | apply State.memWf_setX | apply State.memWf_setWork | apply State.memWf_setCell
      | apply State.memWf_clearScratch | intro _ | split

/-! ### Rows that host a VP -/

theorem State.memWf_hostCell (s : State) (same : Bool) (c : CellId) (h : s.memWf = true) :
    (s.hostCell same c).memWf = true := by
  unfold State.hostCell
  with_reducible repeat' first | assumption | apply State.memWf_clearScratch | apply State.memWf_setCell | split
theorem State.memWf_hostAs (s : State) (r : RowId) (v : VpId) (i : Nat) (h : s.memWf = true) :
    (s.hostAs r v i).memWf = true := by
  unfold State.hostAs
  with_reducible repeat'
    first
      | assumption | apply State.memWf_setRow | apply State.memWf_hostCell | apply memWf_foldl | intro _
theorem State.memWf_hostRow (s : State) (r : RowId) (v : VpId) (i : Nat) (h : s.memWf = true) :
    (s.hostRow r v i).memWf = true := State.memWf_hostAs _ _ _ _ h
theorem State.memWf_stopWaiting (s : State) (w : VpId) (i : Nat) (h : s.memWf = true) :
    (s.stopWaiting w i).memWf = true := h
theorem State.memWf_releaseRow (s : State) (r : RowId) (h : s.memWf = true) : (s.releaseRow r).memWf = true := by
  unfold State.releaseRow
  with_reducible repeat'
    first
      | assumption | apply State.memWf_setCell | apply State.memWf_setRow | apply State.memWf_hostRow
      | apply State.memWf_stopWaiting | apply memWf_foldl | intro _ | split
      | (apply memWf2; dsimp only; apply memWf2_of)
theorem State.memWf_endOutput (s : State) (pl : Place) (c : CellId) (port : Fin 8) (h : s.memWf = true) :
    (s.endOutput pl c port).memWf = true := by
  unfold State.endOutput
  dsimp only
  with_reducible repeat'
    first
      | assumption | apply State.memWf_sendHop | apply State.memWf_noteEow | (apply memWf_opt; assumption) | split
theorem State.memWf_discardTokens (s : State) (c : CellId) (port : Fin 8) (n : Nat) (h : s.memWf = true) :
    (s.discardTokens c port n).memWf = true := State.memWf_setCell _ _ _ (State.memWf_removeTokens _ _ _ _ h)
theorem State.memWf_endInput (s : State) (c : CellId) (port : Fin 8) (h : s.memWf = true) :
    (s.endInput c port).memWf = true := by
  unfold State.endInput
  dsimp only
  with_reducible repeat' first | assumption | apply State.memWf_discardTokens | split
theorem State.memWf_endWave (s : State) (v : VpId) (die : Fin 2) (p e : Nat) (h : s.memWf = true) :
    (s.endWave v die p e).memWf = true := by
  unfold State.endWave
  dsimp only
  with_reducible repeat'
    first
      | assumption | apply State.memWf_endOutput | apply State.memWf_endInput | apply memWf_foldl | intro _ | split
theorem State.memWf_setPhase (s : State) (r : RowId) (ph : Phase) (h : s.memWf = true) :
    (s.setPhase r ph).memWf = true := h
theorem nextWf_execWaveMarkerCompletion (r : RowId) (s : State) (h : s.memWf = true) :
    NextWf (execWaveMarkerCompletion r s) := by
  unfold execWaveMarkerCompletion
  dsimp only
  with_reducible repeat'
    first
      | assumption | apply nextWf_next | apply State.memWf_endWave | apply State.memWf_setPhase | apply memWf_foldl
      | intro _ | split
theorem State.memWf_dropReplies (s : State) (c : CellId) (h : s.memWf = true) : (s.dropReplies c).memWf = true := h
theorem nextWf_execEngineDrainEnd (r : RowId) (s : State) (h : s.memWf = true) : NextWf (execEngineDrainEnd r s) := by
  unfold execEngineDrainEnd
  dsimp only
  with_reducible repeat'
    first
      | assumption | apply nextWf_next | apply State.memWf_setPhase | apply State.memWf_dropReplies
      | apply memWf_foldl | intro _ | split
theorem State.memWf_placeToken (s : State) (c : CellId) (port : Fin 8) (t : Token) (h : s.memWf = true) :
    (s.placeToken c port t).memWf = true := by
  unfold State.placeToken
  with_reducible repeat'
    first
      | assumption | apply State.memWf_putPort | apply State.memWf_setIngress | split
      | (apply memWf2; dsimp only; apply memWf2_of)
theorem State.memWf_dropLate (s : State) (c : CellId) (h : s.memWf = true) : (s.dropLate c).memWf = true := by
  unfold State.dropLate
  dsimp only
  with_reducible repeat'
    first
      | assumption | apply State.memWf_discardTokens | apply State.memWf_placeToken | apply memWf_foldl | intro _
      | split
theorem State.memWf_takeKind (s : State) (c : CellId) (port : Fin 8) (k : Kind) (h : s.memWf = true) :
    (s.takeKind c port k).memWf = true := by
  unfold State.takeKind
  with_reducible repeat' first | assumption | apply State.memWf_setIngress | apply State.memWf_setCell | split
theorem State.memWf_placeRcf (s : State) (p : Nat) (c : CellId) (h : s.memWf = true) :
    (s.placeRcf p c).memWf = true := by
  unfold State.placeRcf
  with_reducible repeat' first | assumption | apply State.memWf_placeToken | apply memWf_foldl | intro _
theorem State.memWf_takeRcf (s : State) (c : CellId) (h : s.memWf = true) : (s.takeRcf c).memWf = true := by
  unfold State.takeRcf
  with_reducible repeat' first | assumption | apply State.memWf_takeKind | apply memWf_foldl | intro _
theorem nextWf_execRcfPlacement (r : RowId) (s : State) (h : s.memWf = true) : NextWf (execRcfPlacement r s) := by
  unfold execRcfPlacement
  dsimp only
  with_reducible repeat'
    first
      | assumption | apply nextWf_next | apply State.memWf_dropLate | apply State.memWf_setPhase
      | apply State.memWf_placeRcf | apply State.memWf_takeRcf | apply memWf_foldl | intro _ | split
theorem nextWf_execStateSave (r : RowId) (s : State) (h : s.memWf = true) : NextWf (execStateSave r s) := by
  unfold execStateSave
  with_reducible repeat'
    first
      | assumption | apply nextWf_next | apply State.memWf_saveCell | apply State.memWf_setRow | apply memWf_foldl
      | intro _ | split
theorem nextWf_execPositionLeave (r : RowId) (s : State) (h : s.memWf = true) : NextWf (execPositionLeave r s) := by
  unfold execPositionLeave
  dsimp only
  with_reducible repeat'
    first
      | assumption | apply nextWf_next | apply State.memWf_releaseRow | apply State.memWf_setRow | split

/-! ### Rings, binding buffers and PRE tokens -/

theorem State.memWf_notePre (s : State) (v : VpId) (c : CellId) (port : Fin 8) (t : Token) (h : s.memWf = true) :
    (s.notePre v c port t).memWf = true := by
  unfold State.notePre
  with_reducible repeat'
    first
      | assumption | apply State.memWf_setVp | split | (apply memWf2; dsimp only; apply memWf2_of)
theorem nextWf_execRingDelivery (v : VpId) (edge : Nat) (s : State) (h : s.memWf = true) :
    NextWf (execRingDelivery v edge s) := by
  unfold execRingDelivery
  dsimp only
  with_reducible repeat'
    first
      | assumption | apply nextWf_next | apply State.memWf_touch | apply State.memWf_setVp
      | apply State.memWf_countError | apply State.memWf_arrive | apply State.memWf_notePre
      | apply State.memWf_setCell | (apply memWf_opt; assumption) | split
theorem State.memWf_stopBinding (s : State) (v : VpId) (c : CellId) (wave : Nat) (st : Status) (h : s.memWf = true) :
    OptWf (s.stopBinding v c wave st) := by
  unfold State.stopBinding
  with_reducible repeat'
    first
      | assumption | apply optWf_none | apply optWf_some | apply State.memWf_itemFailed | apply State.memWf_putMarker
      | apply optWf_map | intro _ | split
theorem State.memWf_counts (s : State) (x : Reach) (b : Binding) (h : s.memWf = true) :
    (s.counts x b).1.memWf = true := by
  unfold State.counts
  with_reducible repeat' first | assumption | apply State.memWf_areaRead | (apply memWf_fst; assumption) | split
theorem State.memWf_slotToken (s : State) (x : Reach) (c : CellId) (va : Nat) (h : s.memWf = true) :
    (s.slotToken x c va).1.memWf = true := by
  unfold State.slotToken
  with_reducible repeat'
    first
      | assumption | apply State.memWf_areaLocs | apply State.memWf_areaBytes | apply State.memWf_countError
      | (apply memWf_fst; assumption) | split
theorem nextWf_execIngressBindingTake (v : VpId) (binding : Nat) (s : State) (h : s.memWf = true) :
    NextWf (execIngressBindingTake v binding s) := by
  unfold execIngressBindingTake
  dsimp only
  with_reducible repeat'
    first
      | assumption | apply nextWf_next | apply State.memWf_stopBinding | apply State.memWf_setIngress
      | apply State.memWf_counts | apply State.memWf_slotToken | apply State.memWf_arriveFrom
      | apply State.memWf_notePre | (apply memWf_fst; assumption) | (apply memWf_opt; assumption) | apply optWf_map
      | intro _ | split
theorem nextWf_execEgressBindingWrite (v : VpId) (binding : Nat) (s : State) (h : s.memWf = true) :
    NextWf (execEgressBindingWrite v binding s) := by
  unfold execEgressBindingWrite
  dsimp only
  with_reducible repeat'
    first
      | assumption | apply nextWf_next | apply State.memWf_setVp | apply State.memWf_stopBinding
      | apply State.memWf_counts | apply State.memWf_areaWrite | apply State.memWf_advance | apply State.memWf_touch
      | (apply memWf_fst; assumption) | (apply memWf_opt; assumption) | split
theorem State.memWf_watchVp (s : State) (v : VpId) (h : s.memWf = true) : (s.watchVp v).memWf = true := by
  unfold State.watchVp
  with_reducible repeat'
    first
      | assumption | apply State.memWf_setVp | split | (apply memWf2; dsimp only; apply memWf2_of)
theorem State.memWf_watch (s : State) (h : s.memWf = true) : (s.watch).memWf = true := by
  unfold State.watch
  with_reducible repeat' first | assumption | apply State.memWf_watchVp | apply memWf_foldl | intro _
theorem nextWf_execOrphanTokenDrop (c : CellId) (port : Fin 8) (s : State) (h : s.memWf = true) :
    NextWf (execOrphanTokenDrop c port s) := by
  unfold execOrphanTokenDrop
  with_reducible repeat'
    first
      | assumption | apply nextWf_next | apply State.memWf_dropOrphan | split
      | (apply memWf2; dsimp only; apply memWf2_of)

/-! ### Tile images and positions that go live -/

theorem State.memWf_readHeader (s : State) (r : RowId) (tenant : BitVec 8) (cap : Cap) (rows : Nat)
    (h : s.memWf = true) : (s.readHeader r tenant cap rows).1.memWf = true := by
  unfold State.readHeader
  with_reducible repeat' first | assumption | apply State.memWf_areaRead | (apply memWf_fst; assumption) | split
theorem State.memWf_readImage (s : State) (r : RowId) (y : Vp) (e : Nat) (h : s.memWf = true) :
    (s.readImage r y e).1.memWf = true := by
  unfold State.readImage
  dsimp only
  with_reducible repeat'
    first
      | assumption | apply State.memWf_readHeader | apply State.memWf_areaRead | (apply memWf_fst; assumption) | split
theorem State.memWf_measure (s : State) (v : VpId) (h : s.memWf = true) : (s.measure v).memWf = true := by
  unfold State.measure
  with_reducible repeat'
    first
      | assumption | apply State.memWf_readHeader | apply State.memWf_setVp | (apply memWf_fst; assumption)
      | apply memWf_foldl | intro _ | split | (apply memWf2; dsimp only; apply memWf2_of)
theorem State.memWf_cellLive (s : State) (v : VpId) (e p k : Nat) (c : CellId) (l : Load) (h : s.memWf = true) :
    (s.cellLive v e p k c l).memWf = true := by
  unfold State.cellLive
  dsimp only
  with_reducible repeat'
    first
      | assumption | apply State.memWf_setCell | apply State.memWf_loadKept | apply State.memWf_startBlock
      | apply memWf2_scratchClear | apply memWf2_of | split | (apply memWf2; dsimp only)
theorem State.memWf_memLive (s : State) (c : CellId) (l : Load) (h : s.memWf = true) :
    (s.memLive c l).memWf = true := h
theorem State.memWf_rejectCell (s : State) (v : VpId) (c : CellId) (cause : Cause) (st : Nat) (h : s.memWf = true) :
    (s.rejectCell v c cause st).memWf = true := State.memWf_raiseCell _ _ _ _ _ (State.memWf_setCell _ _ _ h)
theorem State.memWf_holdCell (s : State) (c : CellId) (h : s.memWf = true) : (s.holdCell c).memWf = true := h
theorem State.memWf_goCell (s : State) (v : VpId) (e p : Nat) (kc : Nat × CellId) (l : Except Status Load)
    (h : s.memWf = true) : (s.goCell v e p kc l).memWf = true := by
  unfold State.goCell
  with_reducible repeat'
    first
      | assumption | apply State.memWf_memLive | apply State.memWf_cellLive | apply State.memWf_rejectCell | split
theorem State.memWf_rejectSpan (s : State) (v : VpId) (cells : List (Nat × CellId)) (cause : Cause) (st : Nat)
    (h : s.memWf = true) : (s.rejectSpan v cells cause st).memWf = true := by
  unfold State.rejectSpan
  with_reducible repeat'
    first
      | assumption | apply State.memWf_holdCell | apply State.memWf_rejectCell | apply memWf_foldl | intro _ | split
theorem State.memWf_loadSpan (s : State) (v : VpId) (e p : Nat) (cells : List (Nat × CellId)) (h : s.memWf = true) :
    (s.loadSpan v e p cells).1.memWf = true := by
  unfold State.loadSpan
  dsimp only
  with_reducible repeat'
    first
      | assumption | apply State.memWf_rejectSpan | apply State.memWf_goCell | apply State.memWf_readImage
      | (apply memWf_fst; assumption) | apply memWf_foldl | intro _ | split
theorem nextWf_execPositionGoLive (r : RowId) (s : State) (h : s.memWf = true) : NextWf (execPositionGoLive r s) := by
  unfold execPositionGoLive
  dsimp only
  with_reducible repeat'
    first
      | assumption | apply nextWf_next | apply State.memWf_setRow | apply memWf_foldl_fst | intro _
      | apply State.memWf_loadSpan | split
theorem State.memWf_reloadRow (s : State) (r : RowId) (h : s.memWf = true) : (s.reloadRow r).memWf = true := by
  unfold State.reloadRow
  dsimp only
  with_reducible repeat' first | assumption | apply State.memWf_loadSpan | apply memWf_foldl | intro _ | split
theorem nextWf_execImagePreload (r : RowId) (s : State) (h : s.memWf = true) : NextWf (execImagePreload r s) := by
  unfold execImagePreload
  dsimp only
  with_reducible repeat'
    first
      | assumption | apply nextWf_next | apply State.memWf_readImage | apply State.memWf_setCell
      | (apply memWf_fst; assumption) | split

/-! ### How a VP ends -/

theorem State.memWf_freeVp (s : State) (v : VpId) (h : s.memWf = true) : (s.freeVp v).memWf = true := by
  unfold State.freeVp
  with_reducible repeat'
    first
      | assumption | apply State.memWf_setVp | split | (apply memWf2; dsimp only; apply memWf2_of)
theorem State.memWf_releaseRows (s : State) (v : VpId) (h : s.memWf = true) : (s.releaseRows v).memWf = true := by
  unfold State.releaseRows
  with_reducible repeat' first | assumption | apply State.memWf_releaseRow | apply memWf_foldl
theorem nextWf_execVpCompletion (v : VpId) (s : State) (h : s.memWf = true) : NextWf (execVpCompletion v s) := by
  unfold execVpCompletion
  dsimp only
  with_reducible repeat'
    first
      | assumption | apply nextWf_next | apply State.memWf_setVp | apply State.memWf_postVp
      | apply State.memWf_releaseRows | apply State.memWf_freeVp | split
theorem State.memWf_dropRequests (s : State) (v : VpId) (h : s.memWf = true) : (s.dropRequests v).memWf = true := by
  unfold State.dropRequests
  with_reducible repeat'
    first
      | assumption | apply State.memWf_dropOrphan | apply memWf_foldl | intro _ | split
      | (apply memWf2; dsimp only; apply memWf2_of)
theorem State.memWf_dropVp (s : State) (v : VpId) (h : s.memWf = true) : (s.dropVp v).memWf = true := by
  unfold State.dropVp
  with_reducible repeat'
    first
      | assumption | apply State.memWf_drop | apply State.memWf_setVp | apply State.memWf_releaseRows | split
      | (apply memWf2; dsimp only; apply memWf2_of)
theorem State.memWf_teardown (s : State) (v : VpId) (cause : Cause) (src payload : Nat) (h : s.memWf = true) :
    (s.teardown v cause src payload).memWf = true := by
  unfold State.teardown
  with_reducible repeat'
    first
      | assumption | apply State.memWf_dropVp | apply State.memWf_dropRequests | apply State.memWf_freeVp
      | apply State.memWf_postVp | apply State.memWf_unpauseBand | apply memWf_foldl
theorem State.memWf_abandonFault (s : State) (c : CellId) (h : s.memWf = true) : (s.abandonFault c).memWf = true := by
  unfold State.abandonFault
  with_reducible repeat'
    first
      | assumption | apply State.memWf_setCell | split | (apply memWf2; dsimp only; apply memWf2_of)
theorem State.memWf_preemptOne (s : State) (v : VpId) (h : s.memWf = true) : (s.preemptOne v).memWf = true := by
  unfold State.preemptOne
  with_reducible repeat'
    first
      | assumption | apply State.memWf_setVp | apply State.memWf_abandonFault | apply memWf_foldl
theorem State.memWf_startPreempt (s : State) (v : VpId) (h : s.memWf = true) : (s.startPreempt v).memWf = true := by
  unfold State.startPreempt
  with_reducible repeat' first | assumption | apply State.memWf_preemptOne | apply memWf_foldl
theorem State.memWf_writeContext (s : State) (v : VpId) (wave : Nat) (c : CellId) (h : s.memWf = true) :
    (s.writeContext v wave c).memWf = true := by
  unfold State.writeContext
  with_reducible repeat'
    first
      | assumption | apply State.memWf_draw | apply State.memWf_saveRegs | apply State.memWf_savePart
      | apply State.memWf_saveTags | apply State.memWf_saveLines
theorem State.memWf_writeHeader (s : State) (v : VpId) (h : s.memWf = true) : (s.writeHeader v).memWf = true := by
  unfold State.writeHeader
  with_reducible repeat' first | assumption | apply State.memWf_draw | apply State.memWf_savePart
theorem State.memWf_takePres (s : State) (c : CellId) (h : s.memWf = true) : (s.takePres c).memWf = true := by
  unfold State.takePres
  with_reducible repeat' first | assumption | apply State.memWf_takeKind | apply memWf_foldl | intro _
theorem nextWf_execCellContextSave (c : CellId) (s : State) (h : s.memWf = true) :
    NextWf (execCellContextSave c s) := by
  unfold execCellContextSave
  dsimp only
  with_reducible repeat'
    first
      | assumption | apply nextWf_next | apply State.memWf_takePres | apply State.memWf_writeContext
      | apply State.memWf_unpauseBand | apply State.memWf_abandonFault | apply State.memWf_setCell | split
theorem State.memWf_endPreempt (s : State) (v : VpId) (h : s.memWf = true) : (s.endPreempt v).memWf = true := by
  unfold State.endPreempt
  with_reducible repeat'
    first
      | assumption | apply State.memWf_takePres | apply State.memWf_setCell | apply State.memWf_writeHeader
      | apply State.memWf_setVp | apply State.memWf_releaseRow | apply State.memWf_setRow | apply State.memWf_postVp
      | apply memWf_foldl | intro _
theorem State.memWf_putPre (s : State) (v : VpId) (q : CellId × Fin 8 × Bool) (h : s.memWf = true) :
    OptWf (s.putPre v q) := by
  unfold State.putPre
  with_reducible repeat'
    first
      | assumption | apply optWf_none | apply optWf_some | apply State.memWf_sendPort | apply State.memWf_putMarker
      | split
theorem State.memWf_putPres (s : State) (v : VpId) (l : List (CellId × Fin 8 × Bool)) (h : s.memWf = true) :
    (s.putPres v l).memWf = true := by
  induction l generalizing s with
  | nil => exact h
  | cons a l ih =>
    unfold State.putPres
    with_reducible repeat'
      first
        | assumption | apply ih | apply State.memWf_putPre | apply State.memWf_setVp | (apply memWf_opt; assumption)
        | split
theorem nextWf_execPreInsertion (v : VpId) (s : State) (h : s.memWf = true) : NextWf (execPreInsertion v s) := by
  unfold execPreInsertion
  dsimp only
  with_reducible repeat'
    first
      | assumption | apply nextWf_next | apply State.memWf_putPres | apply State.memWf_endPreempt | apply memWf_foldl
      | intro _ | split
theorem State.memWf_resumeCell (s : State) (v : VpId) (i : Nat) (c : CellId) (old : Cell) (h : s.memWf = true) :
    (s.resumeCell v i c old).memWf = true := by
  unfold State.resumeCell
  with_reducible repeat'
    first
      | assumption | apply State.memWf_setCell | apply State.memWf_rejectCell | apply State.memWf_loadRegs
      | apply State.memWf_loadPart | apply State.memWf_loadLines | apply State.memWf_startBlock
      | (apply memWf_fst; assumption) | split | (apply memWf2; dsimp only; apply memWf2_of)
theorem State.memWf_resumeRow (s : State) (v : VpId) (q : Nat × Row) (h : s.memWf = true) :
    (s.resumeRow v q).memWf = true := State.memWf_setRow _ _ _ (State.memWf_hostAs _ _ _ _ h)
theorem State.memWf_resumeOne (s : State) (v : VpId) (base : Nat) (h : s.memWf = true) :
    (s.resumeOne v base).memWf = true := by
  unfold State.resumeOne
  with_reducible repeat'
    first
      | assumption | apply State.memWf_setVp | apply State.memWf_resumeRow | apply State.memWf_hostRow
      | apply State.memWf_resumeCell | apply State.memWf_reloadRow | apply memWf_foldl | intro _
theorem nextWf_execDeadlockTimeout (v : VpId) (s : State) (h : s.memWf = true) : NextWf (execDeadlockTimeout v s) := by
  unfold execDeadlockTimeout
  dsimp only
  with_reducible repeat'
    first
      | assumption | apply nextWf_next | apply State.memWf_touch | apply State.memWf_postVp
      | apply State.memWf_startPreempt | apply State.memWf_teardown | split
theorem nextWf_execFaultReplay (c : CellId) (s : State) (h : s.memWf = true) : NextWf (execFaultReplay c s) := by
  unfold execFaultReplay
  dsimp only
  with_reducible repeat'
    first
      | assumption | apply nextWf_next | apply State.memWf_setCell | apply State.memWf_reloadRow
      | apply State.memWf_startBlock | split
theorem nextWf_execFaultTeardown (c : CellId) (s : State) (h : s.memWf = true) : NextWf (execFaultTeardown c s) := by
  unfold execFaultTeardown
  dsimp only
  with_reducible repeat'
    first
      | assumption | apply nextWf_next | apply State.memWf_setCell | apply State.memWf_teardown | split
theorem nextWf_execFaultWatchdog (c : CellId) (s : State) (h : s.memWf = true) : NextWf (execFaultWatchdog c s) := by
  unfold execFaultWatchdog
  dsimp only
  with_reducible repeat'
    first
      | assumption | apply nextWf_next | apply nextWf_fault | apply State.memWf_setCell | apply State.memWf_teardown
      | split

/-! ### Launches -/

theorem State.memWf_areaTag (s : State) (x : Reach) (va : Nat) (bits : BitVec 128) (h : s.memWf = true) :
    (s.areaTag x va bits).1.memWf = true := by
  unfold State.areaTag
  with_reducible repeat'
    first
      | assumption | apply State.memWf_areaLocs | apply State.memWf_locTag | (apply memWf_fst; assumption) | split
theorem State.memWf_areaCaps (s : State) (x : Reach) (va : Nat) (bs : List Byte) (may : Bool) (l : List Nat)
    (h : s.memWf = true) : (s.areaCaps x va bs may l).1.memWf = true := by
  induction l generalizing s with
  | nil => exact h
  | cons a l ih =>
    unfold State.areaCaps
    dsimp only
    with_reducible repeat'
      first
        | assumption | apply ih | apply State.memWf_areaTag | (apply memWf_fst; assumption) | split
theorem State.memWf_readHead (s : State) (x : Reach) (cap : Cap) (h : s.memWf = true) :
    (s.readHead x cap).1.memWf = true := by
  unfold State.readHead
  with_reducible repeat'
    first
      | assumption | apply State.memWf_areaRead | apply State.memWf_areaCaps | (apply memWf_fst; assumption) | split
theorem State.memWf_readEntries (s : State) (x : Reach) (cap : Cap) (n : Nat)
    (f : List Byte → Nat → Cap → Option α) (h : s.memWf = true) : (s.readEntries x cap n f).1.memWf = true := by
  unfold State.readEntries
  with_reducible repeat'
    first
      | assumption | apply State.memWf_areaRead | apply State.memWf_areaCaps | (apply memWf_fst; assumption) | split
theorem State.memWf_readBindings (s : State) (x : Reach) (cap : Cap) (y : Vp) (h : s.memWf = true) :
    (s.readBindings x cap y).1.memWf = true := by
  unfold State.readBindings
  with_reducible repeat' first | assumption | apply State.memWf_readEntries | split
theorem State.memWf_readVp (s : State) (x : Reach) (d : DescHead) (h : s.memWf = true) :
    (s.readVp x d).1.memWf = true := by
  unfold State.readVp
  dsimp only
  with_reducible repeat'
    first
      | assumption | apply State.memWf_readEntries | apply State.memWf_areaRead | apply State.memWf_readBindings
      | (apply memWf_fst; assumption) | split
theorem State.memWf_setQueue (s : State) (die : Fin 2) (q : Fin 16) (x : LaunchQueue) (h : s.memWf = true) :
    (s.setQueue die q x).memWf = true := h
theorem State.memWf_enqueueLaunch (s : State) (v : VpId) (q : Fin 16) (resume : Bool) (h : s.memWf = true) :
    (s.enqueueLaunch v q resume).memWf = true := by
  unfold State.enqueueLaunch
  with_reducible repeat'
    first
      | assumption | apply State.memWf_setQueue | split | (apply memWf2; dsimp only; apply memWf2_of)
theorem State.memWf_unqueue (s : State) (die : Fin 2) (q : Fin 16) (vs : List VpId) (h : s.memWf = true) :
    (s.unqueue die q vs).memWf = true := by
  unfold State.unqueue
  with_reducible repeat'
    first
      | assumption | apply State.memWf_setQueue | apply State.memWf_setSched | split
      | (apply memWf2; dsimp only; apply memWf2_of)
theorem State.memWf_addVp (s : State) (v : VpId) (x : Vp) (h : s.memWf = true) : (s.addVp v x).memWf = true := h
theorem State.memWf_spliceRow (s : State) (p v : VpId) (q : Nat × RowId) (h : s.memWf = true) :
    (s.spliceRow p v q).memWf = true := by
  unfold State.spliceRow
  with_reducible repeat'
    first
      | assumption | apply State.memWf_hostRow | apply State.memWf_setRow | apply State.memWf_setVp | split
      | (apply memWf2; dsimp only; apply memWf2_of)
theorem State.memWf_attach (s : State) (p v : VpId) (y : Vp) (h : s.memWf = true) : (s.attach p v y).memWf = true := by
  unfold State.attach
  with_reducible repeat'
    first
      | assumption | apply State.memWf_measure | apply State.memWf_setVp | apply State.memWf_addVp
      | apply State.memWf_spliceRow | apply memWf_foldl | intro _
theorem State.memWf_queueVp (s : State) (die : Fin 2) (q : Fin 16) (y : Vp) (h : s.memWf = true) :
    ∀ p, s.queueVp die q y = some p → p.1.memWf = true := by
  intro p e
  unfold State.queueVp at e
  split at e
  · cases e
  · split at e <;> cases e
    exact State.memWf_enqueueLaunch _ _ _ _ (State.memWf_addVp _ _ _ h)
theorem State.memWf_joinVp (s : State) (die : Fin 2) (q : Fin 16) (y : Vp) (v : VpId) (h : s.memWf = true) :
    ∀ p, s.joinVp die q y v = some p → p.1.memWf = true := by
  intro p e
  obtain ⟨w, -, rfl⟩ := Option.map_eq_some_iff.1 e
  exact State.memWf_attach _ _ _ _ h
theorem State.memWf_launchGo (s : State) (die : Fin 2) (tenant : BitVec 8) (priv : Bool) (q : Fin 16) (y : Vp)
    (pred : Nat) (must : Bool) (h : s.memWf = true) : (s.launchGo die tenant priv q y pred must).1.memWf = true := by
  unfold State.launchGo
  dsimp only
  split
  · split
    · exact h
    · split
      · exact h
      · next e => exact State.memWf_queueVp _ _ _ _ h _ e
  · split
    · exact h
    · split
      · exact h
      · split
        · exact h
        · next e => exact State.memWf_joinVp _ _ _ _ _ h _ e
theorem State.memWf_launchInto (s : State) (x : Reach) (die : Fin 2) (q : Fin 16) (tenant : BitVec 8) (priv : Bool)
    (d : DescHead) (h : s.memWf = true) : (s.launchInto x die q tenant priv d).1.memWf = true := by
  unfold State.launchInto
  dsimp only
  with_reducible repeat'
    first
      | assumption | apply State.memWf_readVp | apply State.memWf_launchGo | (apply memWf_fst; assumption) | split
theorem nextWf_launchDone (i : Instr) (k : CoreId) (d : XReg) (r : State × LaunchEnd) (h : r.1.memWf = true) :
    NextWf (launchDone i k d r) := by
  unfold launchDone
  split
  · exact nextWf_next (State.memWf_setWork _ _ _ _ h)
  · exact nextWf_next (State.memWf_retire _ _ (State.memWf_setX _ _ _ _ (State.memWf_dropWork _ _ h)))
/-- A launch keeps both memories where its reading of the descriptor does. -/
theorem nextWf_launchWith (i : Instr) (must : Bool) (d : XReg) (ca : CReg) (s : State)
    (read : State → CoreId → DescHead → State × LaunchEnd) (h : s.memWf = true)
    (hread : ∀ s k x, s.memWf = true → (read s k x).1.memWf = true) : NextWf (launchWith i must d ca s read) := by
  unfold launchWith
  refine nextWf_onCore _ _ _ h fun k => ?_
  dsimp only
  with_reducible repeat'
    first
      | assumption | apply hread | apply nextWf_launchDone | apply State.memWf_launchGo | apply nextWf_next
      | apply State.memWf_trap | apply nextWf_release | apply State.memWf_readHead | (apply memWf_fst; assumption)
      | intro _ | split
theorem nextWf_execLaunch (d : XReg) (ca : CReg) (b : XReg) (s : State) (h : s.memWf = true) :
    NextWf (execLaunch d ca b s) := by
  unfold execLaunch
  dsimp only
  with_reducible repeat' first | assumption | apply nextWf_launchWith | apply State.memWf_launchInto | intro _ | split
theorem nextWf_execSplice (d : XReg) (ca : CReg) (b : XReg) (s : State) (h : s.memWf = true) :
    NextWf (execSplice d ca b s) := by
  unfold execSplice
  dsimp only
  with_reducible repeat'
    first
      | assumption | apply nextWf_launchWith | apply State.memWf_readVp | apply State.memWf_launchGo
      | (apply memWf_fst; assumption) | intro _ | split
theorem nextWf_handleDone (s : State) (t : ThreadId) (d : XReg) (v : Nat) (st : Status) (h : s.memWf = true) :
    NextWf (handleDone s t d v st) := nextWf_next (State.memWf_retire _ _ (State.memWf_setX _ _ _ _ h))
theorem State.memWf_preemptQueued (s : State) (k : CoreId) (v : VpId) (h : s.memWf = true) :
    (s.preemptQueued k v).memWf = true := by
  unfold State.preemptQueued
  with_reducible repeat'
    first
      | assumption | apply State.memWf_unqueue | apply State.memWf_postVp | apply State.memWf_setVp
      | apply State.memWf_drop | apply memWf_foldl | intro _
theorem nextWf_execPreempt (d a : XReg) (s : State) (h : s.memWf = true) : NextWf (execPreempt d a s) := by
  unfold execPreempt
  dsimp only
  with_reducible repeat'
    first
      | assumption | apply nextWf_onCore | apply nextWf_handleDone | apply State.memWf_startPreempt
      | apply State.memWf_preemptQueued | intro _ | split
theorem nextWf_execResume (d : XReg) (ca : CReg) (b : XReg) (s : State) (h : s.memWf = true) :
    NextWf (execResume d ca b s) := by
  unfold execResume
  dsimp only
  with_reducible repeat'
    first
      | assumption | apply nextWf_next | apply nextWf_onCore | apply nextWf_release | apply nextWf_handleDone
      | apply State.memWf_setVp | apply State.memWf_enqueueLaunch | apply memWf_foldl | intro _ | split
theorem nextWf_execBarw (d a : XReg) (s : State) (h : s.memWf = true) : NextWf (execBarw d a s) := by
  unfold execBarw
  dsimp only
  with_reducible repeat'
    first
      | assumption | apply nextWf_next | apply nextWf_onCore | apply nextWf_handleDone | intro _ | split
theorem nextWf_execSbind (d a b : XReg) (s : State) (h : s.memWf = true) : NextWf (execSbind d a b s) := by
  unfold execSbind
  dsimp only
  with_reducible repeat'
    first
      | assumption | apply nextWf_onPrivCore | apply nextWf_handleDone | apply State.memWf_setQueue | intro _ | split
theorem State.memWf_dropKept (s : State) (r : RowId) (h : s.memWf = true) : (s.dropKept r).memWf = true := by
  unfold State.dropKept
  with_reducible repeat' first | assumption | apply State.memWf_setCell | apply memWf_foldl | intro _
theorem nextWf_execSbar (d a : XReg) (s : State) (h : s.memWf = true) : NextWf (execSbar d a s) := by
  unfold execSbar
  dsimp only
  with_reducible repeat'
    first
      | assumption | apply nextWf_onCore | apply nextWf_handleDone | apply State.memWf_dropKept | apply memWf_foldl
      | intro _ | split

/-! ### The band scheduler -/

theorem State.memWf_age (s : State) (die : Fin 2) (h : s.memWf = true) : (s.age die).memWf = true := h
theorem nextWf_execPriorityAging (die : Fin 2) (s : State) (h : s.memWf = true) : NextWf (execPriorityAging die s) :=
  nextWf_next h
theorem nextWf_execCandidateChoice (die : Fin 2) (s : State) (h : s.memWf = true) :
    NextWf (execCandidateChoice die s) := by
  unfold execCandidateChoice
  dsimp only
  with_reducible repeat'
    first
      | assumption | apply nextWf_next | apply State.memWf_age | apply State.memWf_setSched | split
theorem State.memWf_popCandidate (s : State) (die : Fin 2) (q : Fin 16) (rest : List Launch) (h : s.memWf = true) :
    (s.popCandidate die q rest).memWf = true := h
theorem State.memWf_admitVp (s : State) (v : VpId) (base : Nat) (h : s.memWf = true) :
    (s.admitVp v base).memWf = true := by
  unfold State.admitVp
  with_reducible repeat'
    first
      | assumption | apply State.memWf_resumeOne | apply State.memWf_measure | apply State.memWf_setVp
      | apply State.memWf_hostRow | apply State.memWf_setRow | apply memWf_foldl | intro _ | split
      | (apply memWf2; dsimp only; apply memWf2_of)
theorem nextWf_execAdmission (die : Fin 2) (s : State) (h : s.memWf = true) : NextWf (execAdmission die s) := by
  unfold execAdmission
  dsimp only
  with_reducible repeat'
    first
      | assumption | apply nextWf_next | apply State.memWf_setSched | apply State.memWf_admitVp
      | apply State.memWf_popCandidate | split

/-! ### What surrounds the control cores -/

theorem nextWf_execEventRecordArrival (i : Nat) (s : State) (h : s.memWf = true) :
    NextWf (execEventRecordArrival i s) := by
  unfold execEventRecordArrival
  with_reducible repeat'
    first
      | assumption | apply nextWf_next | apply State.memWf_setCore | split
      | (apply memWf2; dsimp only; apply memWf2_of)
theorem nextWf_execWfeTimeout (k : CoreId) (s : State) (h : s.memWf = true) : NextWf (execWfeTimeout k s) := by
  unfold execWfeTimeout
  with_reducible repeat' first | assumption | apply nextWf_next | apply State.memWf_setCore | split
theorem State.memWf_performEntry (s : State) (k : CoreId) (n : Nat) (sel : QueuedStore → Bool) (h : s.memWf = true) :
    (s.performEntry k n sel).memWf = true := by
  unfold State.performEntry
  with_reducible repeat'
    first
      | assumption | apply State.memWf_performOne | apply State.memWf_setCore | split
      | (apply memWf2; dsimp only; apply memWf2_of)
theorem nextWf_execLineOwnerAccess (k : CoreId) (n : Nat) (s : State) (h : s.memWf = true) :
    NextWf (execLineOwnerAccess k n s) := nextWf_next (State.memWf_performEntry _ _ _ _ h)
theorem nextWf_execRegisterWrite (k : CoreId) (n : Nat) (s : State) (h : s.memWf = true) :
    NextWf (execRegisterWrite k n s) := nextWf_next (State.memWf_performEntry _ _ _ _ h)
theorem nextWf_execPostTrigger (k : CoreId) (n : Nat) (s : State) (h : s.memWf = true) :
    NextWf (execPostTrigger k n s) := nextWf_next (State.memWf_performEntry _ _ _ _ h)
theorem nextWf_execScTokenVisit (node : Nat) (s : State) (h : s.memWf = true) : NextWf (execScTokenVisit node s) := by
  unfold execScTokenVisit
  with_reducible repeat' first | assumption | apply nextWf_next | split | (apply memWf2; dsimp only; apply memWf2_of)
theorem nextWf_execKevqEmpty (k : CoreId) (s : State) (h : s.memWf = true) : NextWf (execKevqEmpty k s) := by
  unfold execKevqEmpty
  with_reducible repeat' first | assumption | apply nextWf_next | apply State.memWf_setCore | split

/-! ### The Spire -/

theorem State.memWf_setHart (s : State) (h : Fin 24) (x : Hart) (hs : s.memWf = true) :
    (s.setHart h x).memWf = true := hs
theorem State.memWf_setRoutes (s : State) (j : Nat) (w : Word) (h : s.memWf = true) :
    (s.setRoutes j w).memWf = true := h
theorem State.memWf_spireWrite (s : State) (h : Fin 24) (r : SpireReg) (a size : Nat) (data : Word)
    (hs : s.memWf = true) : (s.spireWrite h r a size data).memWf = true := by
  unfold State.spireWrite
  dsimp only
  with_reducible repeat'
    first
      | assumption | apply State.memWf_setHart | apply State.memWf_setRoutes | split
      | (apply memWf2; dsimp only; apply memWf2_of)
theorem State.memWf_hartFault (s : State) (h : Fin 24) (f : HartFault) (hs : s.memWf = true) :
    (s.hartFault h f).memWf = true := hs
theorem State.memWf_hartData (s : State) (h : Fin 24) (v : Nat) (hs : s.memWf = true) :
    (s.hartData h v).memWf = true := hs
theorem State.memWf_hartDone (s : State) (h : Fin 24) (hs : s.memWf = true) : (s.hartDone h).memWf = true := hs
theorem State.memWf_hartWalk (s : State) (x : Hart) (m : HartMode) (k : HartAccess) (va : Nat) (level : Nat)
    (table : Nat) (h : s.memWf = true) : (s.hartWalk x m k va level table).1.memWf = true := by
  induction level generalizing s table with
  | zero => exact h
  | succ level ih =>
    unfold State.hartWalk
    dsimp only
    with_reducible repeat'
      first
        | assumption | apply ih | apply State.memWf_locRead | (apply memWf_fst; assumption) | split
theorem State.memWf_hartPieces (s : State) (x : Hart) (m : HartMode) (k : HartAccess) (l : List (Nat × Nat))
    (h : s.memWf = true) : (s.hartPieces x m k l).1.memWf = true := by
  induction l generalizing s with
  | nil => exact h
  | cons a l ih =>
    unfold State.hartPieces
    with_reducible repeat'
      first
        | assumption | apply ih | apply State.memWf_hartWalk | (apply memWf_fst; assumption) | split
theorem State.memWf_hartReach (s : State) (h : Fin 24) (m : HartMode) (k : HartAccess) (va size : Nat)
    (hs : s.memWf = true) : (s.hartReach h m k va size).1.memWf = true := by
  unfold State.hartReach
  dsimp only
  with_reducible repeat' first | assumption | apply State.memWf_hartPieces | split
theorem State.memWf_hartLoad (s : State) (h : Fin 24) (m : HartMode) (size : Nat) (ps : List (Nat × Nat))
    (hs : s.memWf = true) : (s.hartLoad h m size ps).memWf = true := by
  unfold State.hartLoad
  dsimp only
  with_reducible repeat'
    first
      | assumption | apply State.memWf_hartFault | apply State.memWf_hartData | apply State.memWf_areaBytes
      | (apply memWf_fst; assumption) | split
theorem State.memWf_hartStore (s : State) (h : Fin 24) (m : HartMode) (size : Nat) (data : Word) (ps : List
    (Nat × Nat)) (hs : s.memWf = true) : (s.hartStore h m size data ps).memWf = true := by
  unfold State.hartStore
  dsimp only
  with_reducible repeat'
    first
      | assumption | apply State.memWf_hartFault | apply State.memWf_hartDone | apply State.memWf_spireWrite
      | apply State.memWf_sysWrite | apply State.memWf_areaPut | apply State.memWf_setHart | split
theorem State.memWf_hartAccess (s : State) (hart : Fin 24) (m : HartMode) (k : HartAccess) (va size : Nat)
    (go : State → List (Nat × Nat) → State) (h : s.memWf = true)
    (hgo : ∀ s ps, s.memWf = true → (go s ps).memWf = true) : (s.hartAccess hart m k va size go).memWf = true := by
  have hr := State.memWf_hartReach s hart m k va size h
  unfold State.hartAccess
  split
  · next e => exact State.memWf_hartFault _ hart _ (memWf_fst e hr)
  · next e => exact hgo _ _ (memWf_fst e hr)
theorem State.memWf_hartFetch (s : State) (h : Fin 24) (m : HartMode) (va size : Nat) (hs : s.memWf = true) :
    (s.hartFetch h m va size).memWf = true := by
  unfold State.hartFetch
  with_reducible repeat'
    first
      | assumption | apply State.memWf_hartAccess | apply State.memWf_hartFault | apply State.memWf_areaBytes
      | apply State.memWf_hartData | (apply memWf_fst; assumption) | intro _ | split
theorem State.memWf_hartAtomic (s : State) (hart : Fin 24) (m : HartMode) (k : HartAccess) (va size : Nat)
    (go : State → Nat → State) (h : s.memWf = true) (hgo : ∀ s pa, s.memWf = true → (go s pa).memWf = true) :
    (s.hartAtomic hart m k va size go).memWf = true := by
  unfold State.hartAtomic
  split
  · exact State.memWf_hartFault s hart _ h
  · refine State.memWf_hartAccess _ _ _ _ _ _ _ h fun s ps h => ?_
    with_reducible repeat' first | assumption | apply hgo | apply State.memWf_hartFault | split
theorem State.memWf_hartAmo (s : State) (h : Fin 24) (op : AmoOp) (size : Nat) (b expected : Word) (pa : Nat)
    (hs : s.memWf = true) : (s.hartAmo h op size b expected pa).memWf = true := by
  unfold State.hartAmo
  dsimp only
  with_reducible repeat'
    first
      | assumption | apply memWf_amoAt | apply State.memWf_hartFault | apply State.memWf_hartData
      | (apply memWf_fst; assumption) | split
theorem State.memWf_hartReserve (s : State) (h : Fin 24) (size pa : Nat) (hs : s.memWf = true) :
    (s.hartReserve h size pa).memWf = true := by
  unfold State.hartReserve
  dsimp only
  with_reducible repeat'
    first
      | assumption | apply State.memWf_locRead | apply State.memWf_hartFault | apply State.memWf_hartData
      | apply State.memWf_setHart | (apply memWf_fst; assumption) | split
theorem State.memWf_hartConditional (s : State) (h : Fin 24) (size : Nat) (data : Word) (pa : Nat)
    (hs : s.memWf = true) : (s.hartConditional h size data pa).memWf = true := by
  unfold State.hartConditional
  dsimp only
  with_reducible repeat'
    first
      | assumption | apply State.memWf_draw | apply State.memWf_setHart | apply State.memWf_hartData
      | apply State.memWf_memWrite | split
theorem State.memWf_hartTranslation (s : State) (h : Fin 24) (satp : Word) (sum mxr : Bool) (hs : s.memWf = true) :
    (s.hartTranslation h satp sum mxr).memWf = true := hs
theorem nextWf_execSpireHartInstruction (h : Fin 24) (op : HartOp) (s : State) (hs : s.memWf = true) :
    NextWf (execSpireHartInstruction h op s) := by
  unfold execSpireHartInstruction
  with_reducible repeat'
    first
      | assumption | apply nextWf_next | apply State.memWf_hartFetch | apply State.memWf_hartAccess
      | apply State.memWf_hartLoad | apply State.memWf_hartStore | apply State.memWf_hartAtomic
      | apply State.memWf_hartAmo | apply State.memWf_hartReserve | apply State.memWf_hartConditional
      | apply State.memWf_hartDone | apply State.memWf_hartTranslation | intro _ | split
theorem State.memWf_physCaps (s : State) (pa : Nat) (bs : List Byte) (l : List Nat) (h : s.memWf = true) :
    (s.physCaps pa bs l).1.memWf = true := by
  induction l generalizing s with
  | nil => exact h
  | cons a l ih =>
    unfold State.physCaps
    with_reducible repeat' first | assumption | apply ih | apply State.memWf_locTag
theorem State.memWf_readHeadPhys (s : State) (pa : Nat) (h : s.memWf = true) : (s.readHeadPhys pa).1.memWf = true := by
  unfold State.readHeadPhys
  with_reducible repeat'
    first
      | assumption | apply State.memWf_areaBytes | apply State.memWf_physCaps | (apply memWf_fst; assumption) | split
theorem State.memWf_spireLaunch (s : State) (pa : Nat) (data : Nat) (h : s.memWf = true) :
    (s.spireLaunch pa data).1.memWf = true := by
  unfold State.spireLaunch
  dsimp only
  with_reducible repeat'
    first
      | assumption | apply State.memWf_readHeadPhys | apply State.memWf_launchInto | (apply memWf_fst; assumption)
      | split
theorem nextWf_execLaunchTrigger (h : Fin 24) (s : State) (hs : s.memWf = true) : NextWf (execLaunchTrigger h s) := by
  unfold execLaunchTrigger
  dsimp only
  with_reducible repeat'
    first
      | assumption | apply nextWf_next | apply State.memWf_spireLaunch | apply State.memWf_setHart | split
theorem State.memWf_reportCommit (s : State) (st : Status) (h : s.memWf = true) : (s.reportCommit st).memWf = true := by
  unfold State.reportCommit
  dsimp only
  with_reducible repeat' first | assumption | apply State.memWf_post | apply memWf_foldl | intro _ | split
theorem nextWf_execPartitionCommit (h : Fin 24) (s : State) (hs : s.memWf = true) :
    NextWf (execPartitionCommit h s) := by
  unfold execPartitionCommit
  dsimp only
  with_reducible repeat'
    first
      | assumption | apply nextWf_next | apply State.memWf_setHart | apply State.memWf_reportCommit | split
      | (apply memWf2; dsimp only; apply memWf2_of)
theorem nextWf_execCoreStart (h : Fin 24) (s : State) (hs : s.memWf = true) : NextWf (execCoreStart h s) := by
  unfold execCoreStart
  dsimp only
  with_reducible repeat'
    first
      | assumption | apply nextWf_next | apply State.memWf_setHart | apply State.memWf_dropWork
      | apply State.memWf_drain | apply State.memWf_setCore | split | (apply memWf2; dsimp only; apply memWf2_of)

/-! ### Boot -/

theorem State.memWf_flashWrite (s : State) (off : Nat) (bs : List Byte) (h : s.memWf = true) :
    (s.flashWrite off bs).memWf = true := h
theorem State.memWf_configurePorts (s : State) (bs : List Byte) (h : s.memWf = true) :
    (s.configurePorts bs).memWf = true := h
theorem nextWf_execModuleBoot (b : BootInput) (s : State) (h : s.memWf = true) : NextWf (execModuleBoot b s) := by
  unfold execModuleBoot
  with_reducible repeat'
    first
      | assumption | apply nextWf_next | apply State.memWf_configurePorts | split
      | (apply memWf2; dsimp only; apply memWf2_of)

/-! ### Integer instructions of a cell -/

theorem nextWf_fireInt2 (i : Instr) (f : C3) (op : Nat → Nat → Nat → Nat) (s : State) (h : s.memWf = true) :
    NextWf (fireInt2 i f op s) := by
  unfold fireInt2
  with_reducible repeat' first | assumption | apply nextWf_fireCell | apply memWf_result | intro _
theorem nextWf_fireInt1 (i : Instr) (f : C3) (op : Nat → Nat → Nat) (s : State) (h : s.memWf = true) :
    NextWf (fireInt1 i f op s) := by
  unfold fireInt1
  with_reducible repeat' first | assumption | apply nextWf_fireCell | apply memWf_result | intro _
theorem nextWf_execCmp (f : C3) (s : State) (h : s.memWf = true) : NextWf (execCmp f s) := by
  unfold execCmp
  with_reducible repeat' first | assumption | apply nextWf_fireCell | apply memWf_result | intro _
theorem nextWf_fireImm (i : Instr) (op : Elem → Elem) (s : State) (h : s.memWf = true) : NextWf (fireImm i op s) := by
  unfold fireImm
  with_reducible repeat' first | assumption | apply nextWf_fireCell | apply memWf_result | intro _

/-! ### Float instructions of a cell -/

theorem nextWf_fireFloat2 (i : Instr) (op : Nat → Nat → Nat) (s : State) (h : s.memWf = true) :
    NextWf (fireFloat2 i op s) := by
  unfold fireFloat2
  with_reducible repeat' first | assumption | apply nextWf_fireCell | apply memWf_result | intro _
theorem nextWf_fireFloat1 (i : Instr) (op : Nat → Nat) (s : State) (h : s.memWf = true) :
    NextWf (fireFloat1 i op s) := by
  unfold fireFloat1
  with_reducible repeat' first | assumption | apply nextWf_fireCell | apply memWf_result | intro _
theorem nextWf_execFma (f : C3) (s : State) (h : s.memWf = true) : NextWf (execFma f s) := by
  unfold execFma
  with_reducible repeat' first | assumption | apply nextWf_fireCell | apply memWf_result | intro _
theorem nextWf_execUnpk (f : C3) (s : State) (h : s.memWf = true) : NextWf (execUnpk f s) := by
  unfold execUnpk
  with_reducible repeat' first | assumption | apply nextWf_fireCell | apply memWf_result | intro _
theorem nextWf_execPack (f : C3) (s : State) (h : s.memWf = true) : NextWf (execPack f s) := by
  unfold execPack
  with_reducible repeat' first | assumption | apply nextWf_fireCell | apply memWf_result | intro _

/-! ### Block, dataflow and stream instructions of a cell -/

theorem nextWf_execNop (s : State) (h : s.memWf = true) : NextWf (execNop s) := nextWf_next h
theorem memWf_exitTo (x : Ctx) (e : Exit) (s : State) (h : s.memWf = true) : (Ctx.exitTo x e s).MemWf := by
  unfold Ctx.exitTo
  with_reducible repeat' first | assumption | apply Fired.memWf_done | apply Fired.memWf_fault | split
theorem nextWf_execBx (f : C3) (s : State) (h : s.memWf = true) : NextWf (execBx f s) := by
  unfold execBx
  dsimp only
  with_reducible repeat'
    first
      | assumption | apply nextWf_fault | apply Fired.memWf_fault | apply nextWf_fireCell | apply memWf_exitTo
      | intro _ | split
theorem nextWf_execBxi (f : CB) (s : State) (h : s.memWf = true) : NextWf (execBxi f s) := by
  unfold execBxi
  with_reducible repeat' first | assumption | apply nextWf_fireCell | apply memWf_exitTo | intro _
theorem nextWf_execBend (f : CB) (s : State) (h : s.memWf = true) : NextWf (execBend f s) := by
  unfold execBend
  with_reducible repeat' first | assumption | apply nextWf_fireCell | apply memWf_exitTo | intro _
theorem nextWf_execMov (f : C3) (s : State) (h : s.memWf = true) : NextWf (execMov f s) := by
  unfold execMov
  with_reducible repeat' first | assumption | apply nextWf_fireCell | apply memWf_result | intro _
theorem nextWf_execMovi (f : CI) (s : State) (h : s.memWf = true) : NextWf (execMovi f s) := by
  unfold execMovi
  with_reducible repeat' first | assumption | apply nextWf_fireCell | apply memWf_result | intro _
theorem nextWf_execMovh (f : CI) (s : State) (h : s.memWf = true) : NextWf (execMovh f s) := by
  unfold execMovh
  with_reducible repeat' first | assumption | apply nextWf_fireCell | apply memWf_result | intro _
theorem nextWf_execNull (f : C3) (s : State) (h : s.memWf = true) : NextWf (execNull f s) := by
  unfold execNull
  with_reducible repeat' first | assumption | apply nextWf_fireCell | apply memWf_result | intro _
theorem nextWf_execIota (f : C3) (s : State) (h : s.memWf = true) : NextWf (execIota f s) := by
  unfold execIota
  with_reducible repeat' first | assumption | apply nextWf_fireCell | apply memWf_result | intro _
theorem nextWf_execCid (f : C3) (s : State) (h : s.memWf = true) : NextWf (execCid f s) := by
  unfold execCid
  with_reducible repeat' first | assumption | apply nextWf_fireCell | apply memWf_result | intro _
theorem nextWf_execCellCyc (f : C3) (s : State) (h : s.memWf = true) : NextWf (execCellCyc f s) := by
  unfold execCellCyc
  with_reducible repeat' first | assumption | apply nextWf_fireCell | apply memWf_result | intro _
theorem nextWf_execCellTrap (f : C3) (s : State) (h : s.memWf = true) : NextWf (execCellTrap f s) := by
  unfold execCellTrap
  with_reducible repeat'
    first
      | assumption | apply nextWf_fault | apply Fired.memWf_fault | apply nextWf_fireCell | intro _
theorem nextWf_execTestk (f : C3) (s : State) (h : s.memWf = true) : NextWf (execTestk f s) := by
  unfold execTestk
  with_reducible repeat' first | assumption | apply nextWf_fireCell | apply memWf_result | intro _
theorem nextWf_execSel (f : C3) (s : State) (h : s.memWf = true) : NextWf (execSel f s) := by
  unfold execSel
  with_reducible repeat' first | assumption | apply nextWf_fireCell | apply memWf_result | intro _
theorem nextWf_execSetv (f : C3) (s : State) (h : s.memWf = true) : NextWf (execSetv f s) := by
  unfold execSetv
  with_reducible repeat' first | assumption | apply nextWf_fireCell | apply memWf_result | intro _
theorem nextWf_execGetv (f : C3) (s : State) (h : s.memWf = true) : NextWf (execGetv f s) := by
  unfold execGetv
  with_reducible repeat' first | assumption | apply nextWf_fireCell | apply memWf_result | intro _
theorem nextWf_execRcv (f : C3) (s : State) (h : s.memWf = true) : NextWf (execRcv f s) := by
  unfold execRcv
  dsimp only
  with_reducible repeat'
    first
      | assumption | apply nextWf_fault | apply Fired.memWf_done | apply Fired.memWf_wait | apply Fired.memWf_fault
      | apply nextWf_fireCell | intro _ | split
theorem nextWf_execMark (f : C3) (s : State) (h : s.memWf = true) : NextWf (execMark f s) := by
  unfold execMark
  dsimp only
  with_reducible repeat'
    first
      | assumption | apply nextWf_fault | apply Fired.memWf_fault | apply nextWf_fireCell | apply memWf_result
      | intro _ | split
theorem nextWf_execJoinp (f : C3) (s : State) (h : s.memWf = true) : NextWf (execJoinp f s) := by
  unfold execJoinp
  dsimp only
  with_reducible repeat'
    first
      | assumption | apply nextWf_fault | apply Fired.memWf_fault | apply nextWf_fireCell | apply memWf_result
      | intro _ | split

/-! ### Lane instructions of a cell -/

theorem nextWf_fireLane1 (i : Instr) (op : Token → Token) (s : State) (h : s.memWf = true) :
    NextWf (fireLane1 i op s) := by
  unfold fireLane1
  with_reducible repeat' first | assumption | apply nextWf_fireCell | apply memWf_result | intro _
theorem nextWf_fireLane2 (i : Instr) (op : Token → Token → Token × Token) (s : State) (h : s.memWf = true) :
    NextWf (fireLane2 i op s) := by
  unfold fireLane2
  with_reducible repeat' first | assumption | apply nextWf_fireCell | apply memWf_results | intro _

/-! ### The package -/

theorem State.memWf_countDrops (s : State) (site : ErrorSite) (n : Nat) (h : s.memWf = true) :
    (s.countDrops site n).memWf = true := by
  induction n generalizing s with
  | zero => exact h
  | succ n ih =>
    unfold State.countDrops
    with_reducible repeat' first | assumption | apply ih | apply State.memWf_countError
theorem State.memWf_resetCore (s : State) (k : CoreId) (h : s.memWf = true) : (s.resetCore k).memWf = true := h
theorem State.memWf_clearQueue (s : State) (d : Fin 2) (q : Fin 16) (h : s.memWf = true) :
    (s.clearQueue d q).memWf = true := h
theorem State.memWf_clearQueues (s : State) (p : PartitionEntry) (h : s.memWf = true) :
    (s.clearQueues p).memWf = true := by
  unfold State.clearQueues
  with_reducible repeat' first | assumption | apply State.memWf_clearQueue | apply memWf_foldl | intro _ | split
theorem State.memWf_countVp (s : State) (v : VpId) (h : s.memWf = true) : (s.countVp v).memWf = true := by
  unfold State.countVp
  with_reducible repeat'
    first
      | assumption | apply State.memWf_countDrops | apply State.memWf_countError | apply memWf_foldl | intro _ | split
theorem State.memWf_resetVps (s : State) (tenant : BitVec 8) (vs : List VpId) (h : s.memWf = true) :
    (s.resetVps tenant vs).memWf = true := by
  unfold State.resetVps
  with_reducible repeat'
    first
      | assumption | apply State.memWf_freeVp | apply State.memWf_dropVp | apply State.memWf_countVp
      | apply State.memWf_countError | apply memWf_foldl | intro _ | split
      | (apply memWf2; dsimp only; apply memWf2_of)
theorem State.memWf_refuseWaiting (s : State) (u : UnitId) (c : Call) (h : s.memWf = true) :
    (s.refuseWaiting u c).memWf = true := State.memWf_sendReply _ _ (State.memWf_setUnit _ _ _ h)
theorem State.memWf_resetFunctions (s : State) (tenant : BitVec 8) (h : s.memWf = true) :
    (s.resetFunctions tenant).memWf = true := by
  unfold State.resetFunctions
  with_reducible repeat'
    first
      | assumption | apply State.memWf_endRemote | apply State.memWf_setUnit | apply State.memWf_refuseWaiting
      | apply memWf_foldl | intro _
theorem State.memWf_resetTraffic (s : State) (cores : List CoreId) (ctxs : List RemoteId) (vs : List VpId)
    (h : s.memWf = true) : (s.resetTraffic cores ctxs vs).memWf = true := by
  unfold State.resetTraffic
  with_reducible repeat'
    first
      | assumption | apply State.memWf_countError | apply memWf_foldl | intro _ | split
      | (apply memWf2; dsimp only; apply memWf2_of)
theorem State.memWf_resetArrivals (s : State) (tenant : BitVec 8) (h : s.memWf = true) :
    (s.resetArrivals tenant).memWf = true := by
  unfold State.resetArrivals
  with_reducible repeat'
    first
      | assumption | apply State.memWf_sendReply | apply memWf_foldl | intro _ | split
      | (apply memWf2; dsimp only; apply memWf2_of)
theorem State.memWf_resetPartition (s : State) (p : PartitionEntry) (h : s.memWf = true) :
    (s.resetPartition p).memWf = true := by
  unfold State.resetPartition
  with_reducible repeat'
    first
      | assumption | apply State.memWf_drain | apply State.memWf_resetCore | apply State.memWf_clearQueues
      | apply State.memWf_resetVps | apply State.memWf_resetFunctions | apply State.memWf_resetArrivals
      | apply State.memWf_resetTraffic | apply memWf_foldl | intro _ | split
      | (apply memWf2; dsimp only; apply memWf2_of)
theorem nextWf_execVfReset (tenant : BitVec 8) (s : State) (h : s.memWf = true) : NextWf (execVfReset tenant s) := by
  unfold execVfReset
  with_reducible repeat' first | assumption | apply nextWf_next | apply State.memWf_resetPartition | split
theorem nextWf_execPowerWindowEnd (mW tempC : Nat) (s : State) (h : s.memWf = true) :
    NextWf (execPowerWindowEnd mW tempC s) := by
  unfold execPowerWindowEnd
  with_reducible repeat' first | assumption | apply nextWf_next | split | (apply memWf2; dsimp only; apply memWf2_of)
theorem nextWf_execOverTemperature (tempC : Nat) (s : State) (h : s.memWf = true) :
    NextWf (execOverTemperature tempC s) := by
  unfold execOverTemperature
  with_reducible repeat' first | assumption | apply nextWf_next | split | (apply memWf2; dsimp only; apply memWf2_of)
theorem State.memWf_pcieAnswer (s : State) (bs : List Byte) (h : s.memWf = true) : (s.pcieAnswer bs).memWf = true := h
theorem nextWf_execPcieInboundRequest (req : PcieRequest) (s : State) (h : s.memWf = true) :
    NextWf (execPcieInboundRequest req s) := by
  unfold execPcieInboundRequest
  with_reducible repeat'
    first
      | assumption | apply nextWf_next | apply State.memWf_pcieAnswer | apply State.memWf_areaBytes
      | apply State.memWf_areaPut | apply State.memWf_areaRead | apply State.memWf_areaWrite
      | apply State.memWf_resetPartition | (apply memWf_fst; assumption) | split
theorem State.memWf_flitMemory (s : State) (f : Flit) (h : s.memWf = true) : (s.flitMemory f).memWf = true := by
  unfold State.flitMemory
  dsimp only
  with_reducible repeat'
    first
      | assumption | apply State.memWf_locRead | apply State.memWf_locTag | apply State.memWf_memWrite
      | apply memWf_amoAt | apply State.memWf_atomicLane | (apply memWf_fst; assumption) | apply memWf2_setTag
      | apply memWf2_of | split | (apply memWf2; dsimp only)
theorem State.memWf_fibreAgain (s : State) (q : FibreReq) (h : s.memWf = true) : (s.fibreAgain q).memWf = true := by
  unfold State.fibreAgain
  with_reducible repeat'
    first
      | assumption | apply State.memWf_setReq | split | (apply memWf2; dsimp only; apply memWf2_of)
theorem State.memWf_callAgain (s : State) (c : Call) (h : s.memWf = true) : (s.callAgain c).memWf = true := by
  unfold State.callAgain
  with_reducible repeat' first | assumption | split | (apply memWf2; dsimp only; apply memWf2_of)
theorem State.memWf_acknowledged (s : State) (i : Nat) (h : s.memWf = true) : (s.acknowledged i).memWf = true := by
  unfold State.acknowledged
  with_reducible repeat' first | assumption | split | (apply memWf2; dsimp only; apply memWf2_of)
theorem State.memWf_accepted (s : State) (c : CallerId) (num : BitVec 32) (h : s.memWf = true) :
    (s.accepted c num).memWf = true := by
  unfold State.accepted
  with_reducible repeat' first | assumption | apply State.memWf_setCore | apply State.memWf_setCell | split
theorem nextWf_execFirelFlitReceive (f : Flit) (s : State) (h : s.memWf = true) :
    NextWf (execFirelFlitReceive f s) := by
  unfold execFirelFlitReceive
  dsimp only
  with_reducible repeat'
    first
      | assumption | apply nextWf_next | apply State.memWf_fibreAgain | apply State.memWf_callAgain
      | apply State.memWf_countError | apply State.memWf_setReq | apply State.memWf_acknowledged
      | apply State.memWf_accepted | apply State.memWf_flitMemory | split
      | (apply memWf2; dsimp only; apply memWf2_of)
theorem State.memWf_dropCutOff (s : State) (h : s.memWf = true) : (s.dropCutOff).memWf = true := by
  unfold State.dropCutOff
  with_reducible repeat'
    first
      | assumption | apply State.memWf_countDrops | split | (apply memWf2; dsimp only; apply memWf2_of)
theorem nextWf_execFirelLinkFailure (link : Fin 12) (s : State) (h : s.memWf = true) :
    NextWf (execFirelLinkFailure link s) := by
  unfold execFirelLinkFailure
  dsimp only
  with_reducible repeat'
    first
      | assumption | apply nextWf_next | apply State.memWf_dropCutOff | apply State.memWf_post | split
      | (apply memWf2; dsimp only; apply memWf2_of)

/-! ### Every instruction -/

/-- Every instruction keeps both memories in their canonical form. -/
theorem nextWf_exec (i : Instr) (s : State) (h : s.memWf = true) : NextWf (exec i s) := by
  cases i
  all_goals dsimp only [exec]
  case add | sub | mul | mulh | mulhu | div | divu | rem | remu | and | or | xor | shl | shr | sar | slt | sltu
    | min | max | minu | maxu =>
    exact nextWf_aluRR _ _ _ _ _ h
  case clz | popc | addi | andi | ori | xori | shli | shri | sari | slti | sltiu => exact nextWf_aluR _ _ _ _ h
  case lui => exact nextWf_execLui _ _ _ h
  case beq | bne | blt | bge | bltu | bgeu => exact nextWf_branch _ _ _ _ _ h
  case jal => exact nextWf_execJal _ _ _ h
  case jalr => exact nextWf_execJalr _ _ _ _ h
  case ldb | ldh | ldw | ldd | ldbu | ldhu | ldwu => exact nextWf_load _ _ _ _ _ _ _ h
  case stb | sth | stw | std => exact nextWf_store _ _ _ _ _ _ h
  case lda => exact nextWf_load _ _ _ _ _ _ _ h
  case stl => exact nextWf_execStl _ _ _ _ _ h
  case amoadd | amoswp | amocas | amomin | amomax | amoand | amoor | amoxor => exact nextWf_amo _ _ _ _ _ _ _ _ h
  case cld => exact nextWf_execCld _ _ _ _ _ h
  case cst => exact nextWf_execCst _ _ _ _ _ h
  case csetb => exact nextWf_execCsetb _ _ _ _ h
  case candp => exact nextWf_execCandp _ _ _ _ h
  case cget => exact nextWf_execCget _ _ _ _ h
  case cmov => exact nextWf_execCmov _ _ _ h
  case fnew => exact nextWf_execFnew _ _ _ _ h
  case ffree => exact nextWf_fibreIssue _ _ _ _ _ _ _ _ h
  case fmrg => exact nextWf_execFmrg _ _ _ _ _ _ h
  case fscan => exact nextWf_execFscan _ _ _ _ _ _ h
  case fprobe => exact nextWf_execFprobe _ _ _ _ _ _ h
  case fdel => exact nextWf_execFdel _ _ _ _ _ _ h
  case finfo => exact nextWf_execFinfo _ _ _ _ h
  case launch => exact nextWf_execLaunch _ _ _ _ h
  case splice => exact nextWf_execSplice _ _ _ _ h
  case preempt => exact nextWf_execPreempt _ _ _ h
  case resume => exact nextWf_execResume _ _ _ _ h
  case cfgld => exact nextWf_execCfgld _ _ _ _ h
  case evpopPoll => exact nextWf_execEvpopPoll _ _ h
  case evpopWait => exact nextWf_execEvpopWait _ _ h
  case rcall => exact nextWf_execRcall _ _ _ _ _ _ _ h
  case rwait => exact nextWf_execRwait _ _ _ _ h
  case rret => exact nextWf_execRret _ _ _ _ h
  case rfwd => exact nextWf_execRfwd _ _ _ h
  case fence => exact nextWf_execFence _ _ h
  case trap => exact nextWf_execTrap _ _ h
  case eret => exact nextWf_execEret _ h
  case sysrd => exact nextWf_execSysrd _ _ _ h
  case syswr => exact nextWf_execSyswr _ _ _ h
  case wfe => exact nextWf_execWfe _ h
  case sev => exact nextWf_execSev _ h
  case halt => exact nextWf_execHalt _ h
  case tlbi => exact nextWf_execTlbi _ _ _ h
  case crc => exact nextWf_execCrc _ _ _ _ h
  case vsig => exact nextWf_execVsig _ _ _ _ h
  case ldsc => exact nextWf_execLdsc _ _ _ _ h
  case stsc => exact nextWf_execStsc _ _ _ _ h
  case cfgchk => exact nextWf_execCfgchk _ _ _ _ h
  case cfgclr => exact nextWf_execCfgclr _ _ _ h
  case barw => exact nextWf_execBarw _ _ _ h
  case ifence => exact nextWf_execIfence _ h
  case sbind => exact nextWf_execSbind _ _ _ _ h
  case sbar => exact nextWf_execSbar _ _ _ h
  case cyc => exact nextWf_execCyc _ _ h
  case nop => exact nextWf_execNop _ h
  case bx => exact nextWf_execBx _ _ h
  case bxi => exact nextWf_execBxi _ _ h
  case bend => exact nextWf_execBend _ _ h
  case mov => exact nextWf_execMov _ _ h
  case movi => exact nextWf_execMovi _ _ h
  case movh => exact nextWf_execMovh _ _ h
  case null => exact nextWf_execNull _ _ h
  case iota => exact nextWf_execIota _ _ h
  case cid => exact nextWf_execCid _ _ h
  case cellCyc => exact nextWf_execCellCyc _ _ h
  case cellTrap => exact nextWf_execCellTrap _ _ h
  case testk => exact nextWf_execTestk _ _ h
  case sel => exact nextWf_execSel _ _ h
  case setv => exact nextWf_execSetv _ _ h
  case getv => exact nextWf_execGetv _ _ h
  case cellAdd | cellSub | cellMul | cellMulh | cellMin | cellMax | cellAnd | cellOr | cellXor | cellShl
    | cellShr | cellSar =>
    exact nextWf_fireInt2 _ _ _ _ h
  case cellClz | cellPopc => exact nextWf_fireInt1 _ _ _ _ h
  case cmp => exact nextWf_execCmp _ _ h
  case cellAddi | cellAndi | cellOri | cellShli | cellShri | cellSari => exact nextWf_fireImm _ _ _ h
  case fadd | fsub | fmul => exact nextWf_fireFloat2 _ _ _ h
  case fma => exact nextWf_execFma _ _ h
  case fmin | fmax => exact nextWf_fireFloat2 _ _ _ h
  case fabs => exact nextWf_fireFloat1 _ _ _ h
  case fcmp => exact nextWf_fireFloat2 _ _ _ h
  case fcvt => exact nextWf_fireFloat1 _ _ _ h
  case unpk => exact nextWf_execUnpk _ _ h
  case pack => exact nextWf_execPack _ _ h
  case fexp2 | flog2 | frcp | frsq | ftanh => exact nextWf_fireFloat1 _ _ _ h
  case radd | rmax | rmin | psum => exact nextWf_fireLane1 _ _ _ h
  case perm => exact nextWf_fireLane2 _ _ _ h
  case bcst | lsh => exact nextWf_fireLane1 _ _ _ h
  case cmpk | expd | nzscan | join => exact nextWf_fireLane2 _ _ _ h
  case ld => exact nextWf_execLd _ _ h
  case ldc => exact nextWf_execLdc _ _ h
  case st => exact nextWf_execSt _ _ h
  case stc => exact nextWf_execStc _ _ h
  case atadd => exact nextWf_execAtadd _ _ h
  case atfadd => exact nextWf_execAtfadd _ _ h
  case atmax => exact nextWf_execAtmax _ _ h
  case lookup => exact nextWf_execLookup _ _ h
  case tagset => exact nextWf_execTagset _ _ h
  case tagclr => exact nextWf_execTagclr _ _ h
  case cellFmrg => exact nextWf_execCellFmrg _ _ h
  case cellFprobe => exact nextWf_execCellFprobe _ _ h
  case cellFscan => exact nextWf_execCellFscan _ _ h
  case rcv => exact nextWf_execRcv _ _ h
  case mark => exact nextWf_execMark _ _ h
  case xreq => exact nextWf_execXreq _ _ h
  case cellRcall => exact nextWf_execCellRcall _ _ h
  case joinp => exact nextWf_execJoinp _ _ h
  case mma => exact nextWf_execMma _ _ h
  case mmas => exact nextWf_execMmas _ _ h
  case mmap => exact nextWf_execMmap _ _ h
  case accrd => exact nextWf_execAccrd _ _ h
  case accz => exact nextWf_execAccz _ _ h
  case fibreFormat => exact nextWf_execFibreFormat _ _ h
  case fibreNew => exact nextWf_execFibreNew _ _ h
  case fibreFree => exact nextWf_execFibreFree _ _ h
  case fibreMerge => exact nextWf_execFibreMerge _ _ h
  case poolReservation => exact nextWf_execPoolReservation _ _ h
  case fibreDelete => exact nextWf_execFibreDelete _ _ h
  case fibreScanStep => exact nextWf_execFibreScanStep _ _ h
  case fibreProbe => exact nextWf_execFibreProbe _ _ h
  case fibreInfo => exact nextWf_execFibreInfo _ _ h
  case holdLapse => exact nextWf_execHoldLapse _ _ h
  case fibreRefusedResend => exact nextWf_execFibreRefusedResend _ _ h
  case fibreReply => exact nextWf_execFibreReply _ _ h
  case fibrePostedReply => exact nextWf_execFibrePostedReply _ _ h
  case fprobeReply => exact nextWf_execFprobeReply _ _ h
  case pageWalk => exact nextWf_execPageWalk _ _ h
  case blockCommit => exact nextWf_execBlockCommit _ _ h
  case blockQuiescence => exact nextWf_execBlockQuiescence _ _ h
  case markerDrain => exact nextWf_execMarkerDrain _ _ _ h
  case sendResume => exact nextWf_execSendResume _ _ h
  case tokenReceive => exact nextWf_execTokenReceive _ _ _ h
  case memoryCellRequest => exact nextWf_execMemoryCellRequest _ _ _ h
  case memoryCellReply => exact nextWf_execMemoryCellReply _ _ h
  case transferLine => exact nextWf_execTransferLine _ _ h
  case addressGeneratorToken => exact nextWf_execAddressGeneratorToken _ _ _ h
  case matrixCommandStart => exact nextWf_execMatrixCommandStart _ _ h
  case matrixOperandTake => exact nextWf_execMatrixOperandTake _ _ _ h
  case acczCommand => exact nextWf_execAcczCommand _ _ h
  case tileRelease => exact nextWf_execTileRelease _ _ h
  case positionLeave => exact nextWf_execPositionLeave _ _ h
  case waveMarkerCompletion => exact nextWf_execWaveMarkerCompletion _ _ h
  case engineDrainEnd => exact nextWf_execEngineDrainEnd _ _ h
  case rcfPlacement => exact nextWf_execRcfPlacement _ _ h
  case stateSave => exact nextWf_execStateSave _ _ h
  case positionGoLive => exact nextWf_execPositionGoLive _ _ h
  case imagePreload => exact nextWf_execImagePreload _ _ h
  case ringDelivery => exact nextWf_execRingDelivery _ _ _ h
  case ingressBindingTake => exact nextWf_execIngressBindingTake _ _ _ h
  case egressBindingWrite => exact nextWf_execEgressBindingWrite _ _ _ h
  case deadlockTimeout => exact nextWf_execDeadlockTimeout _ _ h
  case vpCompletion => exact nextWf_execVpCompletion _ _ h
  case preInsertion => exact nextWf_execPreInsertion _ _ h
  case cellContextSave => exact nextWf_execCellContextSave _ _ h
  case orphanTokenDrop => exact nextWf_execOrphanTokenDrop _ _ _ h
  case candidateChoice => exact nextWf_execCandidateChoice _ _ h
  case admission => exact nextWf_execAdmission _ _ h
  case priorityAging => exact nextWf_execPriorityAging _ _ h
  case eventRecordArrival => exact nextWf_execEventRecordArrival _ _ h
  case wfeTimeout => exact nextWf_execWfeTimeout _ _ h
  case remoteCallArrival => exact nextWf_execRemoteCallArrival _ _ h
  case callRefusalResend => exact nextWf_execCallRefusalResend _ _ h
  case remoteContextStart => exact nextWf_execRemoteContextStart _ _ h
  case remoteBudgetExhausted => exact nextWf_execRemoteBudgetExhausted _ _ h
  case builtinReduce => exact nextWf_execBuiltinReduce _ _ h
  case builtinAdamw => exact nextWf_execBuiltinAdamw _ _ h
  case builtinFill => exact nextWf_execBuiltinFill _ _ h
  case builtinCopy => exact nextWf_execBuiltinCopy _ _ h
  case callReplyArrival => exact nextWf_execCallReplyArrival _ _ h
  case callReplyToken => exact nextWf_execCallReplyToken _ _ h
  case callResend => exact nextWf_execCallResend _ _ _ h
  case callLostTimeout => exact nextWf_execCallLostTimeout _ _ _ h
  case lineOwnerAccess => exact nextWf_execLineOwnerAccess _ _ _ h
  case atomicAtOwner => exact nextWf_execAtomicAtOwner _ _ _ h
  case scTokenVisit => exact nextWf_execScTokenVisit _ _ h
  case firelFlitReceive => exact nextWf_execFirelFlitReceive _ _ h
  case firelLinkFailure => exact nextWf_execFirelLinkFailure _ _ h
  case faultReplay => exact nextWf_execFaultReplay _ _ h
  case faultTeardown => exact nextWf_execFaultTeardown _ _ h
  case faultWatchdog => exact nextWf_execFaultWatchdog _ _ h
  case kevqEmpty => exact nextWf_execKevqEmpty _ _ h
  case postTrigger => exact nextWf_execPostTrigger _ _ _ h
  case launchTrigger => exact nextWf_execLaunchTrigger _ _ h
  case partitionCommit => exact nextWf_execPartitionCommit _ _ h
  case coreStart => exact nextWf_execCoreStart _ _ h
  case registerWrite => exact nextWf_execRegisterWrite _ _ _ h
  case vfReset => exact nextWf_execVfReset _ _ h
  case powerWindowEnd => exact nextWf_execPowerWindowEnd _ _ _ h
  case overTemperature => exact nextWf_execOverTemperature _ _ h
  case moduleBoot => exact nextWf_execModuleBoot _ _ h
  case pcieInboundRequest => exact nextWf_execPcieInboundRequest _ _ h
  case spireHartInstruction => exact nextWf_execSpireHartInstruction _ _ _ h

/-! ### Turns -/

theorem State.memWf_keepWord (s : State) (t : ThreadId) (pa : Nat) (w : BitVec 32) (h : s.memWf = true) :
    (s.keepWord t pa w).memWf = true := by
  unfold State.keepWord
  with_reducible repeat' first | assumption | apply State.memWf_setCore | split
theorem State.memWf_fetchAt (s : State) (t : ThreadId) (pc : Word) (h : s.memWf = true) :
    (s.fetchAt t pc).1.memWf = true := by
  unfold State.fetchAt
  with_reducible repeat'
    first
      | assumption | apply State.memWf_translate | apply State.memWf_withMisses | apply State.memWf_threadRead
      | apply State.memWf_keepWord | (apply memWf_fst; assumption) | split
      | (apply memWf2; dsimp only; apply memWf2_of)
theorem State.memWf_fetch (s : State) (t : ThreadId) (h : s.memWf = true) : (s.fetch t).1.memWf = true :=
  State.memWf_fetchAt _ _ _ h
theorem State.memWf_prefetch (s : State) (k : CoreId) (pc : Word) (h : s.memWf = true) :
    (s.prefetch k pc).memWf = true := by
  unfold State.prefetch
  with_reducible repeat'
    first
      | assumption | apply State.memWf_fetchAt | apply State.memWf_withMisses | (apply memWf_fst; assumption) | split
theorem State.memWf_onThread (s : State) (t : ThreadId) (h : s.memWf = true) : (s.onThread t).memWf = true := h
theorem State.memWf_onSlot (s : State) (c : CellId) (n : Nat) (h : s.memWf = true) : (s.onSlot c n).memWf = true := h
theorem nextWf_runThread (s : State) (t : ThreadId) (h : s.memWf = true) : NextWf (s.runThread t) := by
  unfold State.runThread
  with_reducible repeat'
    first
      | assumption | apply nextWf_next | apply State.memWf_fetch | apply State.memWf_fetchTrap
      | apply State.memWf_trap | apply nextWf_exec | apply State.memWf_onThread | (apply memWf_fst; assumption)
      | split
theorem nextWf_runCore (s : State) (k : CoreId) (h : s.memWf = true) : NextWf (s.runCore k) := by
  unfold State.runCore
  dsimp only
  with_reducible repeat'
    first
      | assumption | apply nextWf_next | apply nextWf_exec | apply State.memWf_onThread | apply nextWf_runThread
      | apply State.memWf_setCore | split
theorem nextWf_runRemote (s : State) (t : RemoteId) (h : s.memWf = true) : NextWf (s.runRemote t) := by
  unfold State.runRemote
  with_reducible repeat'
    first
      | assumption | apply nextWf_next | apply nextWf_execRemoteBudgetExhausted | apply nextWf_runThread | split
theorem State.memWf_fireBad (s : State) (c : CellId) (b : Block) (i : Instance) (n : Nat) (ins : Instr)
    (h : s.memWf = true) : (s.fireBad c b i n ins).memWf = true := by
  unfold State.fireBad
  with_reducible repeat' first | assumption | apply State.memWf_countError | apply State.memWf_raiseCell | split
theorem nextWf_runSlot (s : State) (c : CellId) (n : Nat) (h : s.memWf = true) : NextWf (s.runSlot c n) := by
  unfold State.runSlot
  with_reducible repeat'
    first
      | assumption | apply nextWf_next | apply State.memWf_fireBad | apply nextWf_exec | apply State.memWf_onSlot
      | split
theorem State.memWf_strikeWord (s : State) (c : CellId) (block : Fin 32) (n : Nat) (h : s.memWf = true) :
    (s.strikeWord c block n).memWf = true := by
  unfold State.strikeWord
  with_reducible repeat'
    first
      | assumption | apply State.memWf_setCell | split | (apply memWf2; dsimp only; apply memWf2_of)
theorem State.memWf_strikeReg (s : State) (c : CellId) (r : Fin 64) (h : s.memWf = true) :
    (s.strikeReg c r).memWf = true := by
  unfold State.strikeReg
  with_reducible repeat' first | assumption | apply State.memWf_setCell | split
theorem State.memWf_strikeRing (s : State) (v : VpId) (edge n : Nat) (h : s.memWf = true) :
    (s.strikeRing v edge n).memWf = true := by
  unfold State.strikeRing
  with_reducible repeat'
    first
      | assumption | apply State.memWf_setVp | split | (apply memWf2; dsimp only; apply memWf2_of)
theorem State.memWf_strikeUnit (s : State) (sp : Space) (unit : Nat) (h : s.memWf = true) :
    (s.strikeUnit sp unit).memWf = true := by
  obtain ⟨hm, hc⟩ := memWf2_of h
  unfold State.strikeUnit
  split
  · split
    · exact memWf2 ⟨hm, Memory.wf_strike hc _⟩
    · exact h
  · split
    · exact memWf2 ⟨Memory.wf_strike hm _, hc⟩
    · exact h
  · exact h
  · exact h
theorem State.memWf_strikeTag (s : State) (sp : Space) (granule : Nat) (h : s.memWf = true) :
    (s.strikeTag sp granule).memWf = true := by
  obtain ⟨hm, hc⟩ := memWf2_of h
  unfold State.strikeTag
  split
  · split
    · exact memWf2 ⟨hm, Memory.wf_strikeTag hc _⟩
    · exact h
  · split
    · exact memWf2 ⟨Memory.wf_strikeTag hm _, hc⟩
    · exact h
  · exact h
  · exact h
theorem State.memWf_strikeTable (s : State) (c : CellId) (n : Fin 64) (h : s.memWf = true) :
    (s.strikeTable c n).memWf = true := by
  unfold State.strikeTable
  with_reducible repeat' first | assumption | apply State.memWf_setCell | split
theorem nextWf_act (s : State) (a : Action) (h : s.memWf = true) : NextWf (s.act a) := by
  unfold State.act
  with_reducible repeat'
    first
      | assumption | apply nextWf_next | apply nextWf_runCore | apply nextWf_runRemote | apply nextWf_runSlot
      | apply nextWf_exec | apply State.memWf_setCore | apply State.memWf_prefetch | apply State.memWf_strikeTag
      | apply State.memWf_strikeTable | apply State.memWf_strikeUnit | apply State.memWf_strikeWord
      | apply State.memWf_strikeReg | apply State.memWf_strikeRing | apply State.memWf_countError
      | apply State.memWf_flashWrite | split | (apply memWf2; dsimp only; apply memWf2_of)
theorem State.memWf_queueMiss (s : State) (m : Parked) (h : s.memWf = true) : (s.queueMiss m).memWf = true := by
  unfold State.queueMiss
  with_reducible repeat' first | assumption | split | (apply memWf2; dsimp only; apply memWf2_of)
/-- A unit that waits for a walker leaves the memories; one that does not leaves what its step left. -/
theorem nextWf_orWait (s : State) (r : Res) (h : s.memWf = true) (hr : NextWf r) : NextWf (s.orWait r) := by
  unfold State.orWait
  split
  · next t =>
    have ht : t.memWf = true := hr t rfl
    split
    · exact nextWf_next ht
    · split
      · exact nextWf_next (State.memWf_queueMiss _ _ h)
      · exact nextWf_next ht
  · exact hr
theorem nextWf_contextMove (t : RemoteId) (x : RemoteCtx) (s : State) (h : s.memWf = true) :
    NextWf (contextMove t x s) := by
  match e : x.call.entry with
  | 0 => simpa only [contextMove, e] using nextWf_execBuiltinReduce t s h
  | 1 => simpa only [contextMove, e] using nextWf_execBuiltinAdamw t s h
  | 2 => simpa only [contextMove, e] using nextWf_execBuiltinFill t s h
  | 3 => simpa only [contextMove, e] using nextWf_execBuiltinCopy t s h
  | n + 4 => simpa only [contextMove, e] using nextWf_runRemote s t h
theorem nextWf_fibreMove (op : FibreOp) (n : Nat) (s : State) (h : s.memWf = true) : NextWf (fibreMove op n s) := by
  cases op with
  | format => exact nextWf_execFibreFormat _ _ h
  | new => exact nextWf_execFibreNew _ _ h
  | free => exact nextWf_execFibreFree _ _ h
  | merge => exact nextWf_execFibreMerge _ _ h
  | delete => exact nextWf_execFibreDelete _ _ h
  | scan => exact nextWf_execFibreScanStep _ _ h
  | probe => exact nextWf_execFibreProbe _ _ h
  | info => exact nextWf_execFibreInfo _ _ h
/-- Each move of a list keeps both memories in their canonical form. -/
def MovesWf (l : List Move) : Prop := ∀ m ∈ l, ∀ s, s.memWf = true → NextWf (m s)

theorem movesWf_nil : MovesWf [] := fun _ hm => nomatch hm
theorem movesWf_cons {m : Move} {l : List Move} (h : ∀ s, s.memWf = true → NextWf (m s)) (hl : MovesWf l) :
    MovesWf (m :: l) := by
  intro q hq
  rcases List.mem_cons.1 hq with rfl | hq
  · exact h
  · exact hl q hq
theorem movesWf_append {l r : List Move} (hl : MovesWf l) (hr : MovesWf r) : MovesWf (l ++ r) := by
  intro q hq
  rcases List.mem_append.1 hq with hq | hq
  · exact hl q hq
  · exact hr q hq
theorem movesWf_flatMap {α : Type} {l : List α} {f : α → List Move} (h : ∀ a, MovesWf (f a)) :
    MovesWf (l.flatMap f) := by
  intro q hq
  obtain ⟨a, -, ha⟩ := List.mem_flatMap.1 hq
  exact h a q ha
theorem movesWf_map {α : Type} {l : List α} {f : α → Move} (h : ∀ a s, s.memWf = true → NextWf (f a s)) :
    MovesWf (l.map f) := by
  intro q hq
  obtain ⟨a, -, rfl⟩ := List.mem_map.1 hq
  exact h a
theorem movesWf_filterMap {α β : Type} {l : List α} {g : α → Option β} {f : α → β → Move}
    (h : ∀ a b s, s.memWf = true → NextWf (f a b s)) : MovesWf (l.filterMap fun a => (g a).map (f a)) := by
  intro q hq
  obtain ⟨a, -, ha⟩ := List.mem_filterMap.1 hq
  obtain ⟨b, -, rfl⟩ := Option.map_eq_some_iff.1 ha
  exact h a b
theorem movesWf_each (n : Nat) {f : Nat → Move} (h : ∀ i s, s.memWf = true → NextWf (f i s)) : MovesWf (each n f) :=
  movesWf_map h

theorem movesWf_coreMoves (s : State) : MovesWf s.coreMoves := by
  unfold State.coreMoves
  dsimp only
  with_reducible repeat'
    first
      | assumption | apply movesWf_nil | apply movesWf_append | apply movesWf_cons | apply movesWf_flatMap
      | apply nextWf_runCore | apply nextWf_execWfeTimeout | apply nextWf_execLineOwnerAccess
      | apply nextWf_execRegisterWrite | apply nextWf_execPostTrigger | apply nextWf_execKevqEmpty
      | apply nextWf_execCallResend | apply nextWf_execCallLostTimeout | intro _ | split
theorem movesWf_unitMoves (s : State) : MovesWf s.unitMoves := by
  unfold State.unitMoves
  with_reducible repeat'
    first
      | assumption | apply movesWf_nil | apply movesWf_append | apply movesWf_cons | apply movesWf_flatMap
      | apply movesWf_map | apply movesWf_filterMap | apply nextWf_execRemoteContextStart | apply nextWf_contextMove
      | intro _ | split
theorem movesWf_trafficMoves (s : State) : MovesWf s.trafficMoves := by
  unfold State.trafficMoves
  with_reducible repeat'
    first
      | assumption | apply movesWf_nil | apply movesWf_append | apply movesWf_cons | apply movesWf_flatMap
      | apply movesWf_each | apply nextWf_execEventRecordArrival | apply nextWf_execRemoteCallArrival
      | apply nextWf_execCallRefusalResend | apply nextWf_execCallReplyArrival | apply nextWf_fibreMove
      | apply nextWf_execFibreRefusedResend | apply nextWf_execFibreReply | apply nextWf_execFibrePostedReply
      | apply nextWf_execFprobeReply | apply nextWf_execHoldLapse | apply nextWf_execPageWalk
      | apply nextWf_execTokenReceive | intro _
theorem movesWf_cellMoves (c : CellId) (x : Cell) : MovesWf (cellMoves c x) := by
  unfold cellMoves
  with_reducible repeat'
    first
      | assumption | apply movesWf_nil | apply movesWf_append | apply movesWf_cons | apply movesWf_flatMap
      | apply movesWf_each | apply nextWf_runSlot | apply nextWf_execBlockCommit | apply nextWf_execBlockQuiescence
      | apply nextWf_execMarkerDrain | apply nextWf_execMatrixOperandTake | apply nextWf_execSendResume
      | apply nextWf_execMemoryCellReply | apply nextWf_execTransferLine | apply nextWf_execAddressGeneratorToken
      | apply nextWf_execMatrixCommandStart | apply nextWf_execAcczCommand | apply nextWf_execTileRelease
      | apply nextWf_execCallReplyToken | apply nextWf_execCellContextSave | apply nextWf_execFaultReplay
      | apply nextWf_execFaultTeardown | apply nextWf_execFaultWatchdog | apply nextWf_execCallResend
      | apply nextWf_execCallLostTimeout | intro _ | split
theorem movesWf_queueMoves (s : State) : MovesWf s.queueMoves := by
  unfold State.queueMoves
  with_reducible repeat'
    first
      | assumption | apply movesWf_nil | apply movesWf_append | apply movesWf_cons | apply movesWf_flatMap
      | apply nextWf_execMemoryCellRequest | apply nextWf_execAtomicAtOwner | intro _
theorem movesWf_bandMoves (s : State) : MovesWf s.bandMoves := by
  unfold State.bandMoves
  with_reducible repeat'
    first
      | assumption | apply movesWf_nil | apply movesWf_append | apply movesWf_cons | apply movesWf_flatMap
      | apply movesWf_each | apply nextWf_execWaveMarkerCompletion | apply nextWf_execEngineDrainEnd
      | apply nextWf_execRcfPlacement | apply nextWf_execStateSave | apply nextWf_execPositionLeave
      | apply nextWf_execPositionGoLive | apply nextWf_execImagePreload | apply nextWf_execRingDelivery
      | apply nextWf_execIngressBindingTake | apply nextWf_execEgressBindingWrite | apply nextWf_execPreInsertion
      | apply nextWf_execVpCompletion | apply nextWf_execDeadlockTimeout | apply nextWf_execPriorityAging
      | apply nextWf_execCandidateChoice | apply nextWf_execAdmission | intro _
theorem movesWf_spireMoves (s : State) : MovesWf s.spireMoves := by
  unfold State.spireMoves
  with_reducible repeat'
    first
      | assumption | apply movesWf_nil | apply movesWf_append | apply movesWf_cons | apply movesWf_map
      | apply movesWf_filterMap | apply nextWf_execLaunchTrigger | apply nextWf_execPartitionCommit
      | apply nextWf_execCoreStart | apply nextWf_execScTokenVisit | intro _ | split
theorem movesWf_bootMoves (s : State) : MovesWf s.bootMoves := by
  unfold State.bootMoves
  with_reducible repeat'
    first
      | assumption | apply movesWf_nil | apply movesWf_append | apply movesWf_cons | apply nextWf_execModuleBoot
      | intro _ | split
theorem movesWf_moves (s : State) : MovesWf s.moves := by
  unfold State.moves
  with_reducible repeat'
    first
      | apply movesWf_append | apply movesWf_flatMap | apply movesWf_coreMoves | apply movesWf_unitMoves
      | apply movesWf_trafficMoves | apply movesWf_cellMoves | apply movesWf_queueMoves | apply movesWf_bandMoves
      | apply movesWf_spireMoves | apply movesWf_bootMoves | intro _
theorem nextWf_ownTurn (s : State) (h : s.memWf = true) : NextWf s.ownTurn := by
  have hw : s.watch.memWf = true := State.memWf_watch s h
  unfold State.ownTurn
  dsimp only
  split
  · next e => exact nextWf_orWait _ _ hw (movesWf_moves _ _ (List.mem_of_getElem? e) _ hw)
  · exact nextWf_next hw
/-- Every turn keeps both memories in their canonical form. -/
theorem nextWf_turn (s : State) (h : s.memWf = true) : NextWf (s.turn) := by
  unfold State.turn
  with_reducible repeat'
    first
      | assumption | apply nextWf_fault | apply nextWf_ownTurn | apply State.memWf_watch | apply nextWf_orWait
      | apply nextWf_act | split | (apply memWf2; dsimp only; apply memWf2_of)

/-! ### The obligation -/

/-- Settles O59: what an action of the schedule does, or a move of an empty one, goes through operations that each keep
the canonical form. -/
theorem stepKeepsMemory : Obligations.StepKeepsMemory := by
  unfold Obligations.StepKeepsMemory
  intro s t h e
  exact nextWf_turn s h t e

end Sys2Proof.Machine
end

section
/-!
PROOFS. What the kinds of the operands decide (O17), the exits and TRAP of the cells (O19), and RCV (O24).
-/

namespace Sys2Proof.Machine
open Sys2Proof

/-! ### The kinds of the operands (R138 to R143) -/

/-- The first ERR of the operands is what propagates. -/
theorem propagated_err {a b : List Operand} {o : Operand} (ho : o.tok.k = .err) (ha : ∀ y ∈ a, y.tok.k ≠ .err) :
    propagated (a ++ o :: b) = some o.tok := by
  have hfind : (a ++ o :: b).find? (fun o => o.tok.k == .err) = some o :=
    List.find?_eq_some_iff_append.2 ⟨by simp [ho], a, b, rfl, by simpa using ha⟩
  simp [propagated, hfind]

/-- Without an ERR, NUL propagates where an operand is NUL. -/
theorem propagated_nul {ops : List Operand} (he : ∀ o ∈ ops, o.tok.k ≠ .err) (hn : ∃ o ∈ ops, o.tok.k = .nul) :
    propagated ops = some .nul := by
  have hfind : ops.find? (fun o => o.tok.k == .err) = none := by simpa using he
  have hany : (ops.any fun o => o.tok.k == .nul) = true := by simpa using hn
  simp [propagated, hfind, hany]

theorem propagated_none {ops : List Operand} (he : ∀ o ∈ ops, o.tok.k ≠ .err) (hn : ∀ o ∈ ops, o.tok.k ≠ .nul) :
    propagated ops = none := by
  have hfind : ops.find? (fun o => o.tok.k == .err) = none := by simpa using he
  have hany : (ops.any fun o => o.tok.k == .nul) = false := by simpa using hn
  simp [propagated, hfind, hany]

/-- The marker of the highest kind code is one of those given, and no other has a higher code. -/
theorem highest_spec (t : Token) (ts : List Token) :
    ∃ m ∈ t :: ts, highest (t :: ts) = some m ∧ ∀ u ∈ t :: ts, u.k.code ≤ m.k.code := by
  induction ts generalizing t with
  | nil => exact ⟨t, by simp, rfl, by simp⟩
  | cons u us ih =>
    obtain ⟨m, hm, hhigh, hmax⟩ := ih u
    rw [highest, hhigh]
    by_cases hlt : t.k.code < m.k.code
    · exact ⟨m, List.mem_cons_of_mem _ hm, by simp [hlt],
        List.forall_mem_cons.2 ⟨hlt.le, hmax⟩⟩
    · exact ⟨t, List.mem_cons_self, by simp [hlt],
        List.forall_mem_cons.2 ⟨le_refl _, fun v hv => (hmax v hv).trans (not_lt.1 hlt)⟩⟩

theorem markerVerdict_compute {data : List Operand} (h : ∀ o ∈ data, o.tok.k.isMarker = false) :
    markerVerdict data = .compute := by
  have hnone : (data.filter fun o => o.tok.k.isMarker) = [] := List.filter_eq_nil_iff.2 (by simpa using h)
  simp [markerVerdict, hnone, highest]

/-- A marker among the data operands: the one of the highest kind code, with the other operands to discard. -/
theorem markerVerdict_marker {data : List Operand} {o : Operand} (ho : o ∈ data) (hk : o.tok.k.isMarker = true) :
    ∃ m ∈ data, m.tok.k.isMarker = true ∧ (∀ u ∈ data, u.tok.k.isMarker = true → u.tok.k.code ≤ m.tok.k.code) ∧
      markerVerdict data = .marker m.tok (data.filter fun o => !o.tok.k.isMarker) := by
  have hmem (u : Operand) : u ∈ (data.filter fun o => o.tok.k.isMarker) ↔ u ∈ data ∧ u.tok.k.isMarker = true :=
    List.mem_filter
  cases hl : data.filter (fun o => o.tok.k.isMarker) with
  | nil => exact absurd ((hmem o).2 ⟨ho, hk⟩) (by simp [hl])
  | cons t ts =>
    obtain ⟨m, hm, hhigh, hmax⟩ := highest_spec t.tok (ts.map (·.tok))
    rw [← List.map_cons (f := fun o : Operand => o.tok), ← hl] at hm hmax
    obtain ⟨q, hq, rfl⟩ := List.mem_map.1 hm
    obtain ⟨hqd, hqk⟩ := (hmem q).1 hq
    refine ⟨q, hqd, hqk, fun u hu huk => hmax _ (List.mem_map_of_mem ((hmem u).2 ⟨hu, huk⟩)), ?_⟩
    simp only [markerVerdict, hl, List.map_cons, hhigh]

/-- A predicate does not let an instruction of a shape run (R140). -/
theorem pmSuppresses_iff (pm : Pm) (t : Token) :
    pmSuppresses pm t = true ↔ (pm = .onTrue ∧ t.true? = false) ∨ (pm = .onFalse ∧ t.true? = true) := by
  cases pm <;> simp [pmSuppresses]

section
variable {x : Shape} {l r p : Option Operand}

theorem Shape.judge_propagated {t : Token} (h : propagated (l.toList ++ r.toList ++ p.toList) = some t) :
    x.judge false l r p = .propagate t := by
  simp only [Shape.judge, Bool.false_eq_true, if_false, h]

variable (h : propagated (l.toList ++ r.toList ++ p.toList) = none)
include h

theorem Shape.judge_suppressed {q : Operand} (hp : p = some q) (hs : pmSuppresses x.pm q.tok = true) :
    x.judge false l r p = .suppressed := by
  subst hp
  simp only [Shape.judge, Bool.false_eq_true, if_false, h, hs, if_true]

theorem Shape.judge_markerVerdict (hs : ¬ ∃ q, p = some q ∧ pmSuppresses x.pm q.tok = true) :
    x.judge false l r p = markerVerdict (l.toList ++ r.toList ++ (if x.third then p.toList else [])) := by
  cases p with
  | none => simp only [Shape.judge, Bool.false_eq_true, if_false, h]
  | some q =>
    have hq : pmSuppresses x.pm q.tok ≠ true := fun hq => hs ⟨q, rfl, hq⟩
    simp only [Shape.judge, Bool.false_eq_true, if_false, h, hq]

end

/-- What an instruction without an exit or an output sends in place of a result; nothing but its cell's instance
differs. -/
theorem exec_of_propagates {s : State} {x : Ctx} {t : Token} {j : Instance} {i : Instr} (hexit : isExit i = false)
    (hout : isOutput i = false) (h : FiresAs (.propagate t) i s x ∨ FiresAs (.marker t []) i s x)
    (hsends : x.sends t t j) : exec i s = .next (s.setInst x.c j) := by
  have hforward : x.forward i t s = .done s j := Ctx.forward_of_sends hsends s hexit hout
  rcases h with h | h
  all_goals
    obtain ⟨sl, hshape, _⟩ := id h
    obtain ⟨body, hbody⟩ := exec_fires (i := i) (by simp [hshape])
    rw [hbody]
  · rw [fire_propagate h, hforward]; rfl
  · rw [fire_marker h, Ctx.meetMarker, List.isEmpty_nil, if_pos rfl, hforward]; rfl

/-- Settles O17: `Shape.judge` asks for an ERR, a NUL, the predicate and the markers in this order; what propagates is
sent by `Ctx.forward`. -/
theorem operandKinds : Obligations.OperandKinds := by
  refine ⟨fun x l r p => ?_, fun s x t j f g i hi => ?_⟩
  · simp only [← pmSuppresses_iff]
    refine ⟨fun a b o hops ho ha => Shape.judge_propagated (hops ▸ propagated_err ho ha), fun he =>
      ⟨fun hn => Shape.judge_propagated (propagated_nul he hn), fun hn =>
        ⟨fun ⟨q, hp, hq⟩ => Shape.judge_suppressed (propagated_none he hn) hp hq, fun hs => ?_⟩⟩⟩
    rw [Shape.judge_markerVerdict (propagated_none he hn) hs]
    refine ⟨markerVerdict_compute, fun o ho hk => ?_⟩
    obtain ⟨m, hm, hmk, hmax, hv⟩ := markerVerdict_marker ho hk
    exact ⟨m, hm, hmk, hmax o ho hk, hv⟩
  · have hplain : isExit i = false ∧ isOutput i = false := by
      revert i
      simp only [List.forall_mem_cons, isExit, isOutput, and_self, true_and]
      exact fun _ h => absurd h List.not_mem_nil
    exact exec_of_propagates hplain.1 hplain.2

/-! ### Exits, TRAP and RCV (R153, R154, R169, R187) -/

/-- A body that faults raises the fault at its slot. -/
theorem exec_of_fault {ins : Instr} {body : Ctx → State → Fired} {s : State} {x : Ctx} {f : CellFault}
    (hi : exec ins s = fireCell ins body s) (hfire : Fires ins s x) (hb : body x s = .fault s f) :
    exec ins s = .next (s.raiseCell x.pl.v x.c f 0) := by
  rw [hi, fire_compute hfire, hb]; rfl

theorem Instance.mark_exit (i : Instance) (n : Nat) (f : Firing) : (i.mark n f).exit = i.exit := by
  unfold Instance.mark
  split <;> rfl

/-- An exit is taken where none has been; a second one is EXIT_COUNT. -/
theorem Ctx.exitTo_first {x : Ctx} (h : x.inst.exit = none) (e : Exit) (s : State) :
    x.exitTo e s = .done s { x.inst.mark x.slot .done with exit := some e } := by
  simp [Ctx.exitTo, Instance.takeExit, Instance.mark_exit, h]
theorem Ctx.exitTo_second {x : Ctx} {e₀ : Exit} (h : x.inst.exit = some e₀) (e : Exit) (s : State) :
    x.exitTo e s = .fault s (slotFault .exitCount x.slot) := by
  simp [Ctx.exitTo, Instance.takeExit, Instance.mark_exit, h]

section
variable {f : C3} {s : State} {x : Ctx} (hfire : Fires (.bx f) s x)
include hfire

/-- BX to a block of the program is an exit. -/
theorem bx_exits {y : Block} (hok : x.l.ok 0 = true) (hy : (s.cell x.c).program.block (x.l.at 0).toNat = some y)
    (hn : (x.l.at 0).toNat ≤ 31) (he : x.inst.exit = none) :
    Leaves (.bx f) s x s
      { x.inst.mark x.slot .done with exit := some (.block (Fin.ofNat 32 (x.l.at 0).toNat)) } := by
  refine leaves_of_done (rfl : execBx f s = fireCell (.bx f) _ s) hfire ?_
  simp only [hok, hy, hn, not_lt.2, decide_false, Bool.not_true, Bool.or_self, Option.isNone_some,
    Bool.false_eq_true, if_false]
  exact Ctx.exitTo_first he _ s

/-- BX to no block of the program is ILLEGAL. -/
theorem bx_illegal (h : x.l.ok 0 = false ∨ (s.cell x.c).program.block (x.l.at 0).toNat = none ∨ 31 < (x.l.at 0).toNat) :
    exec (.bx f) s = .next (s.raiseCell x.pl.v x.c ⟨.illegal, x.slot, 0, 0, 0⟩ 0) := by
  refine exec_of_fault (rfl : execBx f s = fireCell (.bx f) _ s) hfire (if_pos ?_)
  rcases h with h | h | h <;> simp [h]

end

/-- TRAP faults its block (R158, R371). -/
theorem cellTrap_faults {s : State} {x : Ctx} {f : C3} (hfire : Fires (.cellTrap f) s x) :
    exec (.cellTrap f) s = .next (s.raiseCell x.pl.v x.c ⟨.trapInstruction, x.slot, 0, 0, 0⟩ 0) :=
  exec_of_fault (rfl : execCellTrap f s = fireCell (.cellTrap f) _ s) hfire rfl

/-- The block of a cell whose instruction fires is its instance's. -/
theorem FiresAs.blockNum {v : Verdict} {i : Instr} {s : State} {x : Ctx} (h : FiresAs v i s x) :
    (s.cell x.c).blockNum = x.inst.block := by
  obtain ⟨sl, _, hrun, _, _, _, _, _, hx⟩ := h
  have hc : x.c = s.focus.cell := congrArg Ctx.c hx
  rw [hc]
  have hinst : (s.cell s.focus.cell).inst = some x.inst := by
    unfold Cell.running at hrun
    split at hrun
    · cases hrun
    · next i hi =>
      split at hrun
      · cases hrun
      · cases hrun; exact hi
  rw [Cell.blockNum, hinst]

/-- Settles O19: an exit is `Ctx.exitTo`, and a fault of the block is `State.raiseCell`. -/
theorem cellExitsAndFaults : Obligations.CellExitsAndFaults := by
  constructor
  · intro s x f b out n
    refine ⟨fun hf he => leaves_of_done (rfl : execBxi b s = fireCell (.bxi b) _ s) hf (Ctx.exitTo_first he _ s),
      fun hf he => leaves_of_done (rfl : execBend b s = fireCell (.bend b) _ s) hf (Ctx.exitTo_first he _ s),
      fun hf hok ⟨y, hy⟩ hn he => bx_exits hf hok hy hn he, fun hf h => bx_illegal hf h,
      fun e hf he => exec_of_fault (rfl : execBxi b s = fireCell (.bxi b) _ s) hf (Ctx.exitTo_second he _ s)⟩
  · intro s x f hfire
    have hblock := hfire.blockNum
    refine ⟨_, cellTrap_faults hfire, ⟨by simp, by simp⟩, ?_⟩
    rw [State.raiseCell_cell, State.raiseCell_records]
    simp [hblock, Cause.hasValue, Cause.code, faultPayload]

/-- Settles O24: RCV takes what `rcvToken` gives and sends it to its targets. -/
theorem cellReceive : Obligations.CellReceive := by
  intro s x f t j port hfire htok hemit
  refine leaves_of_done (rfl : execRcv f s = fireCell (.rcv f) _ s) hfire ?_
  simp only [htok, hemit, port]

end Sys2Proof.Machine
end

section
/-!
PROOFS. The memory and table instructions of the cells (O23).
-/

namespace Sys2Proof.Machine
open Sys2Proof

/-! ### What the checks of R182 let through -/

section
variable {s u : State} {x : Ctx} {kind : AccessKind} {m : Fin 16} {acting : Ctx → List Acting}
  {go : Ctx → List LaneAccess → Space → State → Fired} {ls : List LaneAccess}

/-- Lanes that pass their checks go on, in the state that their translations leave. -/
theorem checkedLanes_passes (hc : cellCapCause (s.cell x.c).c[m] kind false x.pl.x.tenant = none)
    (hl : s.checkLanes x (s.cell x.c).c[m] (kind != .read) [] (acting x) = .ok u ls) :
    checkedLanes kind m acting go x s = go x ls (s.cell x.c).c[m].space u := by
  simp only [checkedLanes, hc, hl]

/-- A capability that fails its check faults the block at lane 0. -/
theorem checkedLanes_refused {c : Cause} (hc : cellCapCause (s.cell x.c).c[m] kind false x.pl.x.tenant = some c) :
    checkedLanes kind m acting go x s = .fault s ⟨c, x.slot, 0, 0, 0⟩ := by
  simp only [checkedLanes, hc]
  rfl

end

section
variable {s : State} {x : Ctx} {kind : AccessKind} {m : Fin 16} {go : Ctx → CellId → State → Fired}
  (hc : cellCapCause (s.cell x.c).c[m] kind true x.pl.x.tenant = none)
include hc

/-- The tag table of a compute cell of the die that is not retired is gone on with (R186). -/
theorem checkedTable_passes (hmem : (scratchCell (s.cell x.c).c[m].base).isMem = false)
    (hdie : (scratchCell (s.cell x.c).c[m].base).die = x.c.die) (hhigh : field (s.cell x.c).c[m].base 56 31 = 0)
    (hrow : field (s.cell x.c).c[m].base 23 18 ≤ 35) (hret : s.isRetired (scratchCell (s.cell x.c).c[m].base) = false) :
    checkedTable kind m go x s = go x (scratchCell (s.cell x.c).c[m].base) s := by
  simp only [checkedTable, hc, hmem, hdie, hhigh, hret, bne_self_eq_false, decide_eq_false (Nat.not_lt.2 hrow)]
  rfl

/-- The table of a memory cell, of another die or of a retired cell is PERM. -/
theorem checkedTable_elsewhere (h : (scratchCell (s.cell x.c).c[m].base).isMem = true ∨
    (scratchCell (s.cell x.c).c[m].base).die ≠ x.c.die ∨ s.isRetired (scratchCell (s.cell x.c).c[m].base) = true) :
    checkedTable kind m go x s = .fault s ⟨.perm, x.slot, 0, 0, 0⟩ := by
  simp only [checkedTable, hc]
  refine if_pos ?_
  rcases h with h | h | h <;> simp [h, -Fin.getElem_fin]

end

/-! ### Held to the commit, or queued at once (R149, R150, R152) -/

section
variable {s u : State} {x : Ctx} {j : Instance} (hroom : x.inst.outputs < x.blk.outputs)
include hroom

/-- What is held counts one output, and its ORD goes to its targets. -/
theorem Ctx.hold_sends {h : Held} {n : Nat} (hemit : emit x.blk x.slot x.sh (some (Token.ofList .ord 0x0003 [0, n]))
      (some (Token.ofList .ord 0x0003 [0, n])) x.ports (x.slot :: x.after)
      ((x.holding x.slot h).output.mark x.slot .done) = .ok j) : x.hold h n s = .done s j := by
  unfold Ctx.hold
  rw [countOutput_room hroom]
  exact (congrArg (fun e : Except CellFault Instance => match e with
    | .error f => Fired.fault s f
    | .ok i => .done s i) hemit :)

/-- An atomic with a target joins its memory cell's queue; one without is held to the commit (R185). -/
theorem issueAtomic_queued {op : CellOp} {ls : List LaneAccess} {sp : Space} (ht : x.sh.t0 ≠ Target.none) :
    issueAtomic op x ls sp s = .done (s.setMemQueue x.c.server (s.memQueue x.c.server ++
      [⟨x.c, x.pl.v, x.blk.num.val, x.slot, x.inst.num, .lanes op sp ls x.after, none⟩]))
      (x.inst.output.mark x.slot .issued) := by
  simp only [issueAtomic, if_neg ht, countOutput_room hroom]
  rfl
theorem issueAtomic_held {op : CellOp} {ls : List LaneAccess} {sp : Space} (ht : x.sh.t0 = Target.none) :
    issueAtomic op x ls sp s =
      .done s ((x.holding x.slot (.store x.slot op sp ls x.after)).output.mark x.slot .done) := by
  simp only [issueAtomic, if_pos ht, countOutput_room hroom]
  rfl

end

/-- Every memory instruction checks its capability first, and faults at lane 0 where that fails (R182). -/
theorem exec_memory_refused {s : State} {x : Ctx} {f : C3} {c : Cause} {i : Instr} {kind : AccessKind}
    (hi : (i, kind) ∈ [(.ld f, .read), (.ldc f, .read), (.st f, .write), (.stc f, .write), (.atadd f, .atomic),
      (.atfadd f, .atomic), (.atmax f, AccessKind.atomic)]) (hfire : Fires i s x)
    (hc : cellCapCause (s.cell x.c).c[f.m] kind false x.pl.x.tenant = some c) :
    exec i s = .next (s.raiseCell x.pl.v x.c ⟨c, x.slot, 0, 0, 0⟩ 0) := by
  suffices h : ∃ acting go, exec i s = fireCell i (checkedLanes kind f.m acting go) s by
    obtain ⟨acting, go, h⟩ := h
    exact exec_of_fault h hfire (checkedLanes_refused hc)
  simp only [List.mem_cons, Prod.mk.injEq, List.not_mem_nil, or_false] at hi
  rcases hi with ⟨rfl, rfl⟩ | ⟨rfl, rfl⟩ | ⟨rfl, rfl⟩ | ⟨rfl, rfl⟩ | ⟨rfl, rfl⟩ | ⟨rfl, rfl⟩ | ⟨rfl, rfl⟩
  · exact ⟨_, _, (rfl : execLd f s = _)⟩
  · exact ⟨_, _, (rfl : execLdc f s = _)⟩
  · exact ⟨_, _, (rfl : execSt f s = _)⟩
  · exact ⟨_, _, (rfl : execStc f s = _)⟩
  · exact ⟨_, _, (rfl : execAtadd f s = _)⟩
  · exact ⟨_, _, (rfl : execAtfadd f s = _)⟩
  · exact ⟨_, _, (rfl : execAtmax f s = _)⟩

/-- Settles O23: `checkedLanes` and `checkedTable` go on where their checks pass, with a request for the queue
(`Ctx.issue`) or an effect held to the commit (`Ctx.hold`). -/
theorem cellMemory : Obligations.CellMemory := by
  refine ⟨?_, fun s x f c i kind hi hfire hc => exec_memory_refused hi hfire hc, ?_⟩
  · intro s u x f ls j cap passes queued atomic store
    have atomics {i : Instr} {op : CellOp}
        (hi : exec i s = fireCell i (checkedLanes .atomic f.m actBoth (issueAtomic op)) s) : atomic i op :=
      fun hfire ⟨hc, hl⟩ hroom =>
        ⟨fun ht => leaves_of_done hi hfire ((checkedLanes_passes hc hl).trans (issueAtomic_queued hroom ht)),
          fun ht => leaves_of_done hi hfire ((checkedLanes_passes hc hl).trans (issueAtomic_held hroom ht))⟩
    have stores {i : Instr} {acting : Ctx → List Acting}
        (hi : exec i s = fireCell i (checkedLanes .write f.m acting holdStore) s) : store i (acting x) :=
      fun hfire ⟨hc, hl⟩ hroom hemit =>
        leaves_of_done hi hfire ((checkedLanes_passes hc hl).trans (Ctx.hold_sends hroom hemit))
    exact ⟨fun hfire ⟨hc, hl⟩ => leaves_of_done (rfl : execLd f s = _) hfire (checkedLanes_passes hc hl),
      fun hfire ⟨hc, hl⟩ => leaves_of_done (rfl : execLdc f s = _) hfire (checkedLanes_passes hc hl),
      stores (rfl : execSt f s = _), stores (rfl : execStc f s = _), atomics (rfl : execAtadd f s = _),
      atomics (rfl : execAtfadd f s = _), atomics (rfl : execAtmax f s = _)⟩
  · intro s x f j cap t there body held
    refine ⟨fun h hfire hc => exec_of_fault (rfl : execLookup f s = _) hfire (checkedTable_elsewhere hc h),
      fun ⟨hmem, hdie, hhigh, hrow, hret⟩ => ⟨fun hfire hc => leaves_of_done (rfl : execLookup f s = _) hfire
        (checkedTable_passes hc hmem hdie hhigh hrow hret), fun hc hroom => ⟨fun hfire hgood hemit => ?_,
          fun hfire hemit => ?_⟩⟩⟩
    · refine leaves_of_done (rfl : execTagset f s = _) hfire
        ((checkedTable_passes hc hmem hdie hhigh hrow hret).trans ?_)
      have hnone : (tableLanes x true).find? (fun l => entryBad l.2.2) = none := by simpa using hgood
      simp only [hnone]
      exact Ctx.hold_sends hroom hemit
    · exact leaves_of_done (rfl : execTagclr f s = _) hfire
        ((checkedTable_passes hc hmem hdie hhigh hrow hret).trans (Ctx.hold_sends hroom hemit))

end Sys2Proof.Machine
end

section
/-!
PROOFS. A fibre unit's steps on a request (O31).
-/

namespace Sys2Proof.Machine
open Sys2Proof

theorem setNth_eq_set {α : Type} (l : List α) (n : Nat) (y : α) : setNth l n y = l.set n y := by
  induction l generalizing n with
  | nil => rfl
  | cons x l ih =>
    cases n with
    | zero => rfl
    | succ n => rw [setNth, ih, List.set_cons_succ]

/-! ### A request between its issuer and its owner (R98, R318, R421) -/

/-- The step that a unit's request of each operation is taken on by. -/
theorem exec_fibreStepOf (s : State) (j : Nat) (op : FibreOp) :
    ∃ kind : FibreOp → Bool, kind op = true ∧ exec (fibreStepOf j op) s = .next (s.fibreStep j kind) := by
  cases op with
  | format o => exact ⟨_, rfl, (rfl : execFibreFormat j s = _)⟩
  | new c f o => exact ⟨_, rfl, (rfl : execFibreNew j s = _)⟩
  | free => exact ⟨_, rfl, (rfl : execFibreFree j s = _)⟩
  | merge ps => exact ⟨_, rfl, (rfl : execFibreMerge j s = _)⟩
  | delete cs => exact ⟨_, rfl, (rfl : execFibreDelete j s = _)⟩
  | scan c n x => exact ⟨_, rfl, (rfl : execFibreScanStep j s = _)⟩
  | probe cs => exact ⟨_, rfl, (rfl : execFibreProbe j s = _)⟩
  | info n => exact ⟨_, rfl, (rfl : execFibreInfo j s = _)⟩

section
variable {s : State} {j : Nat} {q : FibreReq} (hq : s.fibreReqs[j]? = some q)
include hq

/-- What the step does: nothing behind held effects; else the request leaves, arrives, is performed, or waits. -/
theorem exec_fibre_behind (h : s.orderedBehind q = true) : exec (fibreStepOf j q.op) s = .next s := by
  obtain ⟨kind, hk, e⟩ := exec_fibreStepOf s j q.op
  rw [e]
  simp [State.fibreStep, hq, hk, h]
theorem exec_fibre_sends (h : s.orderedBehind q = false) (hl : s.isLocal q.pa = false) :
    exec (fibreStepOf j q.op) s = .next (s.fibreSend j q) := by
  obtain ⟨kind, hk, e⟩ := exec_fibreStepOf s j q.op
  rw [e]
  simp [State.fibreStep, hq, hk, h, hl]
theorem exec_fibre_arrives (h : s.orderedBehind q = false) (hl : s.isLocal q.pa = true) (ht : q.ticket = none) :
    exec (fibreStepOf j q.op) s = .next (s.fibreArrive j q) := by
  obtain ⟨kind, hk, e⟩ := exec_fibreStepOf s j q.op
  rw [e]
  simp [State.fibreStep, hq, hk, h, hl, ht]
theorem exec_fibre_performs {n : Nat} (h : s.orderedBehind q = false) (hl : s.isLocal q.pa = true)
    (ht : q.ticket = some n) (hn : s.fibreNext q n = true) :
    exec (fibreStepOf j q.op) s = .next (s.fibrePerform j q) := by
  obtain ⟨kind, hk, e⟩ := exec_fibreStepOf s j q.op
  rw [e]
  simp [State.fibreStep, hq, hk, h, hl, ht, hn]
theorem exec_fibre_waits {n : Nat} (hl : s.isLocal q.pa = true) (ht : q.ticket = some n)
    (hn : s.fibreNext q n = false) : exec (fibreStepOf j q.op) s = .next s := by
  obtain ⟨kind, hk, e⟩ := exec_fibreStepOf s j q.op
  rw [e]
  simp [State.fibreStep, hq, hk, hl, ht, hn]

/-! ### Reservations and resends (R98, R105) -/

/-- A merge that reserves its rows is performed with that, and lists its reply. -/
theorem exec_poolReservation_ok {u : State} {n : Nat} {ps : List (Nat × Nat)} {rows : List (Nat × Nat × List Byte)}
    {r : FibreReply} {pool : Nat × Nat × List Byte} (hop : q.op = .merge ps) (ht : q.ticket = some n)
    (hr : q.reserved = none) (hl : s.isLocal q.pa = true) (hn : s.fibreNext q n = true)
    (hp : s.fibrePlan q = (u, rows, r)) (hst : r.status = .ok) (hpool : rows.find? (fun x => x.1 == 0) = some pool) :
    let done := (u.writeRows (rows.map (·.2))).setReq j { q with reserved := some r }
    exec (.poolReservation j) s = .next { done with replies := done.replies ++ [r] } := by
  show execPoolReservation j s = _
  simp only [execPoolReservation, hq, hop, ht, hr, hl, hn, hp, hst, hpool]
  rfl

/-- A refused request whose turn it is. -/
theorem exec_fibreRefusedResend_ready (hr : q.refused = true)
    (hb : ∀ r ∈ s.fibreReqs.take j, r.sameRoute q = true → r.refused = false)
    (hm : ∀ d m id n, q.agent ≠ .module d m id n) :
    (q.ticket = none → exec (.fibreRefusedResend j) s = .next (s.setReq j { q with refused := false })) ∧
      ∀ n, q.ticket = some n →
        exec (.fibreRefusedResend j) s = .next (s.fibreOut j { q with refused := false } n) := by
  have hturn : (q.refused && !((s.fibreReqs.take j).any fun r => r.sameRoute q && r.refused)) = true := by
    simpa [hr] using hb
  refine ⟨fun ht => ?_, fun n ht => ?_⟩
  all_goals
    show execFibreRefusedResend j s = _
    simp only [execFibreRefusedResend, hq, hturn, if_true, ht]

theorem exec_fibreRefusedResend_module {d m id : Nat} {n : BitVec 8} (h : q.agent = .module d m id n) :
    exec (.fibreRefusedResend j) s = .next s := by
  show execFibreRefusedResend j s = _
  simp [execFibreRefusedResend, hq, h]

end

theorem exec_holdLapse_expired {s : State} {m : Nat} {h : Hold} (hm : s.holds[m]? = some h)
    (he : 65536 ≤ s.cycle - h.last) :
    exec (.holdLapse m) s = .next { s with holds := setNth s.holds m { h with lapsed := true } } := by
  show execHoldLapse m s = _
  simp [execHoldLapse, hm, State.expired, he]

section
variable {s : State} {j : Nat} {q : FibreReq}

/-- A request whose turn to arrive it is joins those that have, or is refused back where 64 wait (R98). -/
theorem State.fibreArrive_ready (hr : q.refused = false)
    (hb : ∀ r ∈ s.fibreReqs.take j, r.sameRoute q = true → r.ticket ≠ none) :
    s.fibreArrive j q =
      if s.heldBack q ∧
          64 ≤ (s.fibreReqs.filter fun r => r.pa == q.pa && r.ticket.isSome && s.heldBack r).length then
        s.refuseFibre j q
      else { s with fresh := s.fresh + 1 }.setReq j { q with ticket := some s.fresh, arrived := s.cycle } := by
  have hnone : ((s.fibreReqs.take j).any fun r => r.sameRoute q && r.ticket.isNone) = false := by
    simpa [Option.isSome_iff_ne_none] using hb
  simp only [State.fibreArrive, hr, hnone, Bool.or_self, Bool.false_eq_true, if_false, Bool.and_eq_true,
    decide_eq_true_eq]
  rfl

theorem State.refuseFibre_module {d m id : Nat} {n : BitVec 8} (h : q.agent = .module d m id n) :
    s.refuseFibre j q = { s.setReq j { q with refused := true } with
      outbox := s.outbox ++ [⟨none, ⟨n, .other⟩, .fibreRefusal d id, false⟩] } := by
  simp only [State.refuseFibre, h]
  rfl
theorem State.refuseFibre_here (h : ∀ d m id n, q.agent ≠ .module d m id n) :
    s.refuseFibre j q = s.setReq j { q with refused := true } := by
  unfold State.refuseFibre
  split
  · next e => exact absurd e (h _ _ _ _)
  · rfl

/-- A request for another module, whose turn it is, takes a number and leaves. -/
theorem State.fibreSend_ready (ht : q.ticket = none)
    (hb : ∀ r ∈ s.fibreReqs.take j, r.sameRoute q = true → r.ticket ≠ none ∧ r.refused = false) :
    s.fibreSend j q = { s with fresh := s.fresh + 1 }.fibreOut j q s.fresh := by
  have hnone : ((s.fibreReqs.take j).any fun r => r.sameRoute q && (r.ticket.isNone || r.refused)) = false := by
    simpa [Option.isSome_iff_ne_none] using hb
  simp only [State.fibreSend, ht, hnone, Option.isSome_none, Bool.or_self, Bool.false_eq_true, if_false]
  rfl

/-- It leaves on its link under its number. -/
theorem State.fibreOut_reaches {n : Nat} (h : s.reaches (q.pa / 2 ^ 40 % 4096) = true) : s.fibreOut j q n =
    { s.setReq j { q with ticket := some n, arrived := s.cycle } with
      outbox := s.outbox ++ [⟨s.linkOf q.pa, ⟨q.tenant, .other⟩, .fibreRequest n q, false⟩] } := by
  simp only [State.fibreOut, h, if_true]
  rfl

/-- Where no link reaches its module it is answered. -/
theorem State.fibreOut_unreachable {n : Nat} (h : s.reaches (q.pa / 2 ^ 40 % 4096) = false) : s.fibreOut j q n =
    { s.countError .link true with
      fibreReqs := dropNth s.fibreReqs j, replies := s.replies ++ [q.unreachable] } := by
  simp only [State.fibreOut, h, Bool.false_eq_true, if_false, State.countError_fibreReqs, State.countError_replies]

/-! ### Its performance (R98, R101, R105) -/

theorem State.fibrePerform_reserved {r : FibreReply} (h : q.reserved = some r) :
    s.fibrePerform j q = { s with fibreReqs := dropNth s.fibreReqs j } := by
  simp only [State.fibrePerform, h]
  rfl

theorem State.fibrePerform_whole {u : State} {rows : List (Nat × Nat × List Byte)} {r : FibreReply}
    (h : q.reserved = none) (hl : s.lapsedFor q = false) (hp : s.fibrePlan q = (u, rows, r)) :
    s.fibrePerform j q = (u.writeRows (rows.map (·.2))).fibreDone j q r := by
  simp only [State.fibrePerform, h, hl, hp, Bool.false_eq_true, if_false]

/-- What a request leaves as it ends: holds may change, and its reply is listed. -/
theorem State.fibreDone_frame (s : State) (j : Nat) (q : FibreReq) (r : FibreReply) :
    (s.fibreDone j q r).mem = s.mem ∧ (s.fibreDone j q r).fibreReqs = dropNth s.fibreReqs j ∧
      (s.fibreDone j q r).replies = s.replies ++ [r] := by
  have hholds : ∃ hs, s.updateHolds q r = { s with holds := hs } := by
    unfold State.updateHolds
    dsimp only
    split
    · split <;> exact ⟨_, rfl⟩
    · split <;> exact ⟨_, rfl⟩
    · exact ⟨s.holds, rfl⟩
  obtain ⟨hs, e⟩ := hholds
  rw [State.fibreDone, e]
  exact ⟨rfl, rfl, rfl⟩

/-- The step of a holder whose hold has lapsed is TIMEOUT. -/
theorem State.fibrePerform_lapsed (h : q.reserved = none) (hl : s.lapsedFor q = true) :
    (s.fibrePerform j q).mem = s.mem ∧ (s.fibrePerform j q).fibreReqs = dropNth s.fibreReqs j ∧
      ∃ r, (s.fibrePerform j q).replies = s.replies ++ [r] ∧ r.agent = q.agent ∧ r.status = .timeout ∧ r.pairs = [] := by
  simp only [State.fibrePerform, h, hl, if_true]
  obtain ⟨hmem, hreqs, hreplies⟩ := State.fibreDone_frame { s with holds := s.holds.filter fun h =>
    !(h.pa == q.pa && h.holder == q.agent.holder && s.expired h) } j q ⟨q.agent, q.op, .timeout, 0, 0,
      min (s.cycle - q.arrived) 0xFFFF, 0, [], [], q.op.cursor, true, q.owner⟩
  exact ⟨hmem, hreqs, _, hreplies, rfl, rfl, rfl⟩

end

theorem getElem?_setReq {s : State} {j : Nat} {q : FibreReq} (r : FibreReq) (hq : s.fibreReqs[j]? = some q) :
    (s.setReq j r).fibreReqs[j]? = some r := by
  show (setNth s.fibreReqs j r)[j]? = _
  rw [setNth_eq_set, List.getElem?_set_self (List.getElem?_eq_some_iff.1 hq).1]

/-- Settles O31: the cases of `State.fibreStep`, and the steps that stand beside it. -/
theorem fibreUnits : Obligations.FibreUnits := by
  intro s u j n q rows r i waiting hq
  refine ⟨exec_fibre_behind hq, fun ho hl ht hb => ⟨fun hreach => ?_, fun hreach => ?_⟩,
    fun ho hl ht hr hb => ?_, fun ho hl ht hn => ⟨fun hr hlap hp => ?_, fun hr hlap => ?_, fun hr => ?_,
      fun ps hop hr hp hst pool hpool => exec_poolReservation_ok hq hop ht hr hl hn hp hst hpool⟩,
    fun hl ht hn => exec_fibre_waits hq hl ht hn, fun hr hb hm => ⟨fun ht => ?_, fun ht hreach => ?_⟩,
    fun d m id n h => exec_fibreRefusedResend_module hq h, fun m h hm he => exec_holdLapse_expired hm he⟩
  · rw [exec_fibre_sends hq ho hl, State.fibreSend_ready ht hb, State.fibreOut_reaches (by exact hreach)]
    exact ⟨_, rfl, rfl, rfl, getElem?_setReq _ (by exact hq), rfl⟩
  · rw [exec_fibre_sends hq ho hl, State.fibreSend_ready ht hb, State.fibreOut_unreachable (by exact hreach)]
    exact ⟨_, rfl, State.countError_mem .., rfl, q.unreachable, rfl, rfl, rfl⟩
  · rw [exec_fibre_arrives hq ho hl ht, State.fibreArrive_ready hr hb]
    refine ⟨fun h => ?_, fun hheld hfull => ?_⟩
    · rw [if_neg]
      rintro ⟨hheld, hfull⟩
      rcases h with h | h
      · rw [h] at hheld
        cases hheld
      · exact absurd hfull (not_le.2 h)
    · rw [if_pos ⟨hheld, hfull⟩]
      exact ⟨fun h => by rw [State.refuseFibre_here h], fun d m id n h => by rw [State.refuseFibre_module h]⟩
  · rw [exec_fibre_performs hq ho hl ht hn, State.fibrePerform_whole hr hlap hp]
  · rw [exec_fibre_performs hq ho hl ht hn]
    obtain ⟨hmem, hreqs, r, hreply, hagent, hstatus, hpairs⟩ := State.fibrePerform_lapsed (j := j) hr hlap
    exact ⟨_, r, rfl, hmem, hreqs, hreply, hagent, hstatus, hpairs⟩
  · rw [exec_fibre_performs hq ho hl ht hn, State.fibrePerform_reserved hr]
  · exact (exec_fibreRefusedResend_ready hq hr hb hm).1 ht
  · rw [(exec_fibreRefusedResend_ready hq hr hb hm).2 n ht, State.fibreOut_reaches (by exact hreach)]
    simp only [← ht]

end Sys2Proof.Machine
end

section
/-!
PROOFS. What a fibre operation that fails leaves, how rows split and pairs are sorted (O32).
-/

namespace Sys2Proof.Machine
open Sys2Proof

/-! ### What an operation that does not fail answers -/

/-- Every result of a part of an operation that does not fail satisfies P. -/
def Yields {α : Type} (P : α → Prop) (m : Own α) : Prop := ∀ x a y, m x = .ok a y → P a

section
variable {α β : Type} {P : α → Prop}

theorem yields_pure {a : α} (h : P a) : Yields P (pure a : Own α) := by
  intro x b y e
  cases e
  exact h

theorem yields_throw (st : Status) : Yields P (throw st : Own α) := fun _ _ _ e => nomatch e

/-- The result is the last part's. -/
theorem yields_bind {m : Own β} {f : β → Own α} (h : ∀ b, Yields P (f b)) : Yields P (m >>= f) := by
  intro x a z e
  change EStateM.bind m f x = .ok a z at e
  unfold EStateM.bind at e
  split at e
  · exact h _ _ _ _ e
  · cases e

end

/-- An operation that does not fail is OK; a probe may be NOT_FOUND. -/
def FibreResult.goes (op : FibreOp) (r : FibreResult) : Prop :=
  r.status = .ok ∨ r.status = .notFound ∧ ∃ cs, op = .probe cs

/-- Every operation but a probe ends with OK where it does not fail. -/
theorem FibreOp.run_goes (op : FibreOp) : Yields (FibreResult.goes op) op.run := by
  cases op with
  | probe cs =>
    refine yields_bind fun _ => yields_bind fun ans => yields_pure ?_
    by_cases h : (ans.any fun a => a.2.isNone) = true
    · exact .inr ⟨if_pos h, cs, rfl⟩
    · exact .inl (if_neg h)
  | _ =>
    simp only [FibreOp.run, ownFormat, ownNew, ownFree, ownMerge, ownDelete, ownScan, ownInfo]
    with_reducible repeat' first
      | (refine yields_bind fun _ => ?_) | split | exact yields_throw _ | refine yields_pure ?_
    all_goals exact .inl rfl

/-! ### The plan of an operation (R102, R107) -/

/-- What a plan answers: an operation that goes on has its result's status, one that fails writes no row. -/
theorem State.fibrePlan_cases {s u : State} {q : FibreReq} {rows : List (Nat × Nat × List Byte)} {r : FibreReply}
    (h : s.fibrePlan q = (u, rows, r)) :
    (r.status = .ok ∨ (r.status = .notFound ∧ ∃ cs, q.op = .probe cs)) ∨
      (rows = [] ∧ r.splits = 0 ∧ r.cursor = q.op.cursor ∧ r.pairs = [] ∧ r.endFlag = true) := by
  unfold State.fibrePlan at h
  dsimp only at h
  split at h
  · next res out x e =>
    cases h
    refine .inl (?_ : FibreResult.goes q.op res)
    change EStateM.bind q.op.run _ _ = _ at e
    unfold EStateM.bind at e
    split at e
    · next res' y e' =>
      have hgoes := FibreOp.run_goes q.op _ _ _ e'
      have hres : Yields (fun z => z.1 = res') (do
        let x ← get
        let rows ← writeAddrs x.out []
        pure (res', rows) : Own (FibreResult × List (Nat × List Byte))) :=
        yields_bind fun _ => yields_bind fun _ => yields_pure rfl
      obtain rfl : res = res' := hres _ _ _ e
      exact hgoes
    · cases e
  · cases h
    exact .inr ⟨rfl, rfl, rfl, rfl, rfl⟩

/-- The parts of the cost word fit their fields. -/
theorem State.fibrePlan_bounds {s u : State} {q : FibreReq} {rows : List (Nat × Nat × List Byte)} {r : FibreReply}
    (h : s.fibrePlan q = (u, rows, r)) : r.work < 2 ^ 16 ∧ r.splits < 2 ^ 16 ∧ r.wait < 2 ^ 16 := by
  unfold State.fibrePlan at h
  dsimp only at h
  split at h
  all_goals
    cases h
    dsimp only
    omega

theorem Status.code_le (st : Status) : st.code ≤ 16 := by cases st <;> decide

/-- The status of a cost word is the reply's. -/
theorem FibreReply.cost_status {r : FibreReply} (hw : r.work < 2 ^ 16) (hs : r.splits < 2 ^ 16) (ht : r.wait < 2 ^ 16) :
    r.cost.toNat / 2 ^ 48 = r.status.code := by
  have hc := r.status.code_le
  rw [FibreReply.cost, BitVec.toNat_ofNat]
  omega

/-! ### Rows split evenly (R93) -/

/-- Cutting loses nothing. -/
theorem cut_flatten {q k rr : Nat} {l : List (Nat × Nat)} (hr : rr ≤ k) (hl : l.length = k * q + rr) :
    (cut l q k rr).flatten = l := by
  induction k generalizing l rr with
  | zero => simpa [cut, eq_comm] using (by omega : l.length = 0)
  | succ k ih =>
    rw [Nat.succ_mul] at hl
    have hn : (l.drop (if 0 < rr then q + 1 else q)).length = k * q + (rr - 1) := by
      rw [List.length_drop]
      split <;> omega
    rw [cut, List.flatten_cons, ih (by omega) hn, List.take_append_drop]

theorem cut_length (q k rr : Nat) (l : List (Nat × Nat)) : (cut l q k rr).length = k := by
  induction k generalizing l rr with
  | zero => rfl
  | succ k ih => rw [cut, List.length_cons, ih]

/-- The first parts are longer by one. -/
theorem cut_part_length {q k rr i : Nat} {l p : List (Nat × Nat)} (hr : rr ≤ k) (hl : l.length = k * q + rr)
    (hp : (cut l q k rr)[i]? = some p) : p.length = q + if i < rr then 1 else 0 := by
  induction k generalizing l rr i with
  | zero => simp [cut] at hp
  | succ k ih =>
    rw [Nat.succ_mul] at hl
    cases i with
    | zero =>
      obtain rfl : l.take (if 0 < rr then q + 1 else q) = p := by simpa [cut] using hp
      rw [List.length_take]
      split <;> omega
    | succ i =>
      have hn : (l.drop (if 0 < rr then q + 1 else q)).length = k * q + (rr - 1) := by
        rw [List.length_drop]
        split <;> omega
      rw [ih (by omega) hn (by simpa [cut] using hp)]
      congr 1
      exact if_congr (by omega) rfl rfl

/-- A row of more than 6 items splits into as few parts as hold 6 each. -/
theorem parts_spec {l : List (Nat × Nat)} (h : 6 < l.length) :
    (parts l).flatten = l ∧ (parts l).length = (l.length + 5) / 6 ∧
      ∀ i p, (parts l)[i]? = some p → p.length = l.length / ((l.length + 5) / 6) +
        (if i < l.length % ((l.length + 5) / 6) then 1 else 0) ∧ p.length ≤ 6 := by
  unfold parts
  dsimp only
  have hk6 : l.length ≤ 6 * ((l.length + 5) / 6) := by omega
  generalize (l.length + 5) / 6 = k at *
  have hk : 0 < k := by omega
  have hr : l.length % k < k := Nat.mod_lt _ hk
  have hl : l.length = k * (l.length / k) + l.length % k := (Nat.div_add_mod _ _).symm
  refine ⟨cut_flatten hr.le hl, cut_length .., fun i p hp => ?_⟩
  have hlen := cut_part_length hr.le hl hp
  refine ⟨hlen, ?_⟩
  have hq : l.length / k ≤ 6 := Nat.div_le_of_le_mul (by omega)
  by_cases hi : i < l.length % k
  · have hlt : l.length / k < 6 := by
      rw [Nat.div_lt_iff_lt_mul hk]
      rcases Nat.lt_or_ge l.length (6 * k) with h | h
      · exact h
      · rw [Nat.le_antisymm hk6 h, Nat.mul_mod_left] at hi
        exact absurd hi (Nat.not_lt_zero _)
    rw [hlen, if_pos hi]
    omega
  · rw [hlen, if_neg hi]
    exact hq

/-! ### Pairs sorted stably (R84, R92) -/

theorem mem_insertPair {p r : Nat × Nat} {l : List (Nat × Nat)} : r ∈ insertPair p l ↔ r = p ∨ r ∈ l := by
  induction l with
  | nil => simp [insertPair]
  | cons q t ih =>
    rw [insertPair]
    split
    · exact List.mem_cons
    · rw [List.mem_cons, ih, List.mem_cons]
      tauto

theorem insertPair_pairwise {p : Nat × Nat} {l : List (Nat × Nat)} (h : l.Pairwise fun a b => a.1 ≤ b.1) :
    (insertPair p l).Pairwise fun a b => a.1 ≤ b.1 := by
  induction l with
  | nil => simp [insertPair]
  | cons q t ih =>
    obtain ⟨hq, ht⟩ := List.pairwise_cons.1 h
    rw [insertPair]
    split
    · next hp =>
      exact List.pairwise_cons.2 ⟨List.forall_mem_cons.2 ⟨hp, fun r hr => hp.trans (hq r hr)⟩, h⟩
    · next hp =>
      refine List.pairwise_cons.2 ⟨fun r hr => ?_, ih ht⟩
      rcases mem_insertPair.1 hr with rfl | hr
      · exact (not_le.1 hp).le
      · exact hq r hr

/-- A pair is put before those of its coordinate. -/
theorem filter_insertPair (p : Nat × Nat) (l : List (Nat × Nat)) (c : Nat) :
    (insertPair p l).filter (fun r => r.1 == c) = (p :: l).filter fun r => r.1 == c := by
  induction l with
  | nil => rfl
  | cons q t ih =>
    rw [insertPair]
    split
    · rfl
    · next hp =>
      rw [List.filter_cons, ih]
      by_cases hq : q.1 = c
      · have hpc : p.1 ≠ c := by omega
        simp [hq, hpc]
      · simp [List.filter_cons, hq]

theorem foldr_insertPair_pairwise (l : List (Nat × Nat)) :
    (l.foldr insertPair []).Pairwise fun a b => a.1 ≤ b.1 := by
  induction l with
  | nil => exact List.Pairwise.nil
  | cons p l ih => exact insertPair_pairwise ih

theorem filter_foldr_insertPair (l : List (Nat × Nat)) (c : Nat) :
    (l.foldr insertPair []).filter (fun r => r.1 == c) = l.filter fun r => r.1 == c := by
  induction l with
  | nil => rfl
  | cons p l ih => rw [List.foldr_cons, filter_insertPair, List.filter_cons, ih, List.filter_cons]

/-- The pairs of one coordinate keep their order, and "no coordinate" has none. -/
theorem filter_sortPairs (l : List (Nat × Nat)) (c : Nat) :
    (sortPairs l).filter (fun p => p.1 == c) = if c = 0xFFFFFFFF then [] else l.filter fun p => p.1 == c := by
  rw [sortPairs, filter_foldr_insertPair, List.filter_filter]
  split
  · next hc => exact List.filter_eq_nil_iff.2 fun p _ => by simp [hc, noRow]
  · next hc =>
    refine List.filter_congr fun p _ => ?_
    by_cases hp : p.1 = c
    · simp [hp, hc, noRow]
    · simp [hp]

/-- Settles O32: an operation's plan either has its result's status or no row; the rest is what `parts` and
`sortPairs` do to a list. -/
theorem fibreRows : Obligations.FibreRows := by
  refine ⟨fun s u q rows r h => ?_, fun l hl => parts_spec hl, fun l => ⟨foldr_insertPair_pairwise _, filter_sortPairs l⟩⟩
  obtain ⟨hw, hs, ht⟩ := State.fibrePlan_bounds h
  refine ⟨fun hok hnf => ?_, fun c n x hop hok => ?_, FibreReply.cost_status hw hs ht⟩
  · rcases State.fibrePlan_cases h with (hst | ⟨hst, -⟩) | ⟨hrows, hsplits, -⟩
    · exact absurd hst hok
    · exact absurd hst hnf
    · exact ⟨hrows, hsplits⟩
  · rcases State.fibrePlan_cases h with (hst | ⟨-, cs, hcs⟩) | ⟨-, -, hcursor, hpairs, hend⟩
    · exact absurd hst hok
    · rw [hop] at hcs
      cases hcs
    · exact ⟨by rw [hcursor, hop]; rfl, hpairs, hend⟩

end Sys2Proof.Machine
end

section
/-!
PROOFS. The commit of a block instance and its quiescence (O39).
-/

namespace Sys2Proof.Machine
open Sys2Proof

/-! ### When a block commits (R155, R156) -/

/-- What the commit of a block asks of its instance. -/
theorem commitMet_iff {b : Block} {i : Instance} : commitMet b i = true ↔
    (∀ r : Fin 64, b.mask.getLsbD r.val = true → ∃ t, (r, t) ∈ i.writes) ∧ i.outputs = b.outputs ∧ i.exit ≠ none ∧
      i.drains = [] := by
  have hwritten (r : Fin 64) : (i.writes.any fun w => w.1 == r) = true ↔ ∃ t, (r, t) ∈ i.writes := by
    simp [List.any_eq_true]
  simp only [commitMet, Bool.and_eq_true, List.all_eq_true, List.mem_finRange, forall_const, Bool.or_eq_true,
    Bool.not_eq_true', hwritten, beq_iff_eq, Option.isSome_iff_ne_none, List.isEmpty_iff, and_assoc, ← imp_iff_not_or,
    ← Bool.not_eq_true]

section
variable {s : State} {c : CellId} {pl : Place} {b : Block} {i : Instance}
  (hrun : (s.cell c).running = some (b, i)) (hpl : s.place c = some pl)
include hrun hpl

/-- A cell whose fault waits for its answer neither commits nor is quiescent (R371). -/
theorem execBlockCommit_stopped (h : (s.cell c).stopped = true) : exec (.blockCommit c) s = .next s := by
  show execBlockCommit c s = _
  simp only [execBlockCommit, hrun, hpl, h, Bool.true_or, if_true]
  cases i.exit <;> rfl
theorem execBlockQuiescence_stopped (h : (s.cell c).stopped = true) : exec (.blockQuiescence c) s = .next s := by
  show execBlockQuiescence c s = _
  simp only [execBlockQuiescence, hrun, hpl, h, Bool.true_or, if_true]

/-- A commit that must wait. -/
theorem execBlockCommit_waits (h : commitMet b i = false ∨ (s.cell c).sendQ ≠ []) :
    exec (.blockCommit c) s = .next s := by
  have hwait : ((s.cell c).stopped || !commitMet b i || !(s.cell c).sendQ.isEmpty) = true := by
    rcases h with h | h <;> simp [h]
  show execBlockCommit c s = _
  simp only [execBlockCommit, hrun, hpl, hwait, if_true]
  cases i.exit <;> rfl

/-- A commit that takes place. -/
theorem execBlockCommit_commits {e : Exit} (hs : (s.cell c).stopped = false) (hm : commitMet b i = true)
    (he : i.exit = some e) (hq : (s.cell c).sendQ = []) :
    exec (.blockCommit c) s = .next ((((s.performAhead c i
      ((sortHeld i.held).filterMap fun h => heldReq c pl.v i h.2)).commit c pl i).resumeSends c).follow pl.v c e) := by
  show execBlockCommit c s = _
  simp only [execBlockCommit, hrun, hpl, hs, hm, he, hq, List.isEmpty_nil]
  rfl

/-- A quiescent instance that does not commit. -/
theorem execBlockQuiescence_raises (hs : (s.cell c).stopped = false) (hm : commitMet b i = false) (hd : i.drains = [])
    (ha : ∀ n < b.words.length, slotAlive b i n = false) :
    exec (.blockQuiescence c) s = .next (s.raiseCell pl.v c ⟨.exitCount, 0, 0, 0, 3⟩ 0) := by
  have hdead : (List.range b.words.length).any (slotAlive b i) = false := by simpa using ha
  show execBlockQuiescence c s = _
  simp only [execBlockQuiescence, hrun, hpl, hs, hm, hd, hdead, List.isEmpty_nil]
  rfl

/-- One that commits, drains or can still do something. -/
theorem execBlockQuiescence_alive
    (h : commitMet b i = true ∨ i.drains ≠ [] ∨ ∃ n < b.words.length, slotAlive b i n = true) :
    exec (.blockQuiescence c) s = .next s := by
  have halive : ((s.cell c).stopped || commitMet b i || !i.drains.isEmpty ||
      (List.range b.words.length).any (slotAlive b i)) = true := by
    rcases h with h | h | h
    · simp [h]
    · simp [h]
    · have : (List.range b.words.length).any (slotAlive b i) = true := by simpa using h
      simp [this]
  show execBlockQuiescence c s = _
  simp only [execBlockQuiescence, hrun, hpl, halive, if_true]

end

/-! ### What a commit with nothing held leaves (R157) -/

/-- A register that no write names keeps its token. -/
theorem writeRegs_other {g : Vector Token 64} {ws : List (Fin 64 × Token)} {r : Fin 64} (h : ∀ w ∈ ws, w.1 ≠ r) :
    (writeRegs g ws)[r] = g[r] := by
  induction ws generalizing g with
  | nil => rfl
  | cons w ws ih =>
    obtain ⟨hw, hws⟩ := List.forall_mem_cons.1 h
    rw [writeRegs, ih hws, Fin.getElem_fin, Vector.getElem_set_ne _ _ fun e => hw (Fin.ext e), Fin.getElem_fin]

/-- Of writes to different registers, each stands. -/
theorem writeRegs_mem {g : Vector Token 64} {ws : List (Fin 64 × Token)} (hn : (ws.map (·.1)).Nodup) {w : Fin 64 × Token}
    (hw : w ∈ ws) : (writeRegs g ws)[w.1] = w.2 := by
  induction ws generalizing g with
  | nil => cases hw
  | cons v ws ih =>
    obtain ⟨hv, hn⟩ := List.nodup_cons.1 (List.map_cons ▸ hn)
    rw [writeRegs]
    rcases List.mem_cons.1 hw with rfl | hw
    · rw [writeRegs_other fun u hu e => hv (List.mem_map.2 ⟨u, hu, e⟩)]
      simp
    · exact ih hn hw

/-- Tokens taken from port 0, which no ingress buffer feeds, leave it; of the cell's state only the port and the EOWs met
differ. -/
theorem State.removeTokens_north (s : State) (c : CellId) (n : Nat) : ∃ got, (s.removeTokens c 0 n).cell c =
    { s.cell c with ports := (s.cell c).ports.set 0 ((s.cell c).ports[0].drop n), gotEow := got } := by
  have hin (u : State) : u.ingressAt c 0 = none := rfl
  simp only [State.removeTokens, hin]
  split
  · exact ⟨_, State.cell_setCell_same ..⟩
  · split
    · exact ⟨_, State.cell_setCell_same ..⟩
    · exact ⟨_, State.cell_setCell_same ..⟩

theorem State.removeTaken_north {s : State} {c : CellId} {i : Instance} (h : ∀ t ∈ i.taken, t.1 = 0) :
    ∃ got, (s.removeTaken c i).cell c =
      { s.cell c with ports := (s.cell c).ports.set 0 ((s.cell c).ports[0].drop i.taken.length), gotEow := got } := by
  have hzero : i.takenAt 0 = i.taken.length := by
    rw [Instance.takenAt, List.filter_eq_self.2 fun t ht => by simp [h t ht]]
  have hother (p : Fin 8) (hp : p ≠ 0) : i.takenAt p = 0 := by
    rw [Instance.takenAt, List.filter_eq_nil_iff.2 fun t ht => by simpa [h t ht] using hp.symm, List.length_nil]
  have hall : s.removeTaken c i = if i.taken.length = 0 then s else s.removeTokens c 0 i.taken.length := by
    have hports : List.finRange 8 = [0, 1, 2, 3, 4, 5, 6, 7] := by decide
    simp only [State.removeTaken, hports, List.foldl_cons, List.foldl_nil, hzero, hother _ (by decide : (1 : Fin 8) ≠ 0),
      hother _ (by decide : (2 : Fin 8) ≠ 0), hother _ (by decide : (3 : Fin 8) ≠ 0),
      hother _ (by decide : (4 : Fin 8) ≠ 0), hother _ (by decide : (5 : Fin 8) ≠ 0),
      hother _ (by decide : (6 : Fin 8) ≠ 0), hother _ (by decide : (7 : Fin 8) ≠ 0), if_true]
  rw [hall]
  split
  · next h0 => exact ⟨(s.cell c).gotEow, by simp [h0]⟩
  · exact State.removeTokens_north ..

/-- A commit with nothing held. -/
theorem State.commit_empty {s : State} {c : CellId} {pl : Place} {i : Instance} (hh : i.held = [])
    (hq : (s.cell c).sendQ = []) (ht : ∀ t ∈ i.taken, t.1 = 0) :
    ∃ x : Cell, (s.commit c pl i).cell c = x ∧ x.sendQ = [] ∧ x.inst = none ∧ x.g = writeRegs (s.cell c).g i.writes ∧
      x.ports[0] = (s.cell c).ports[0].drop i.taken.length := by
  obtain ⟨got, e⟩ := State.removeTaken_north (s := s) (c := c) ht
  refine ⟨_, rfl, ?_⟩
  simp [State.commit, hh, sortHeld, State.issueHeld, State.applyAll, State.performNow, State.touch, e, hq]

theorem State.resumeSends_nil {s : State} {c : CellId} (h : (s.cell c).sendQ = []) : s.resumeSends c = s := by
  simp [State.resumeSends, h, State.drainSends]

/-- Settles O39: both steps ask `commitMet`, and a commit with nothing held is the record update of `State.commit`. -/
theorem blockCommit : Obligations.BlockCommit := by
  intro s c pl b i x met hrun hpl
  have hmet : met ↔ commitMet b i = true := commitMet_iff.symm
  have hnot : ¬ met ↔ commitMet b i = false := by rw [hmet, Bool.not_eq_true]
  refine ⟨fun hp => ?_, fun hp ha => ?_, fun hu => ?_, fun hu => ?_⟩
  · have hs : x.stopped = true := by simp [Cell.stopped, hp]
    exact ⟨execBlockCommit_stopped hrun hpl hs, execBlockQuiescence_stopped hrun hpl hs⟩
  · have hs : x.stopped = false := by simp [Cell.stopped, hp, ha]
    refine ⟨fun e hm he hq => ⟨execBlockCommit_commits hrun hpl hs (hmet.1 hm) he hq,
      fun hb => State.performNeeded_none _ _ _ _ hb⟩, fun h => execBlockCommit_waits hrun hpl (h.imp_left hnot.1),
      fun hm he hq hh hn hb ht => ?_, fun hm hd hdead => execBlockQuiescence_raises hrun hpl hs (hnot.1 hm) hd hdead,
      fun h => execBlockQuiescence_alive hrun hpl (h.imp_left hmet.1)⟩
    have hahead : s.performAhead c i [] = s := State.performNeeded_none _ _ _ _ hb
    obtain ⟨y, hy, hyq, hyi, hyg, hyp⟩ := State.commit_empty (pl := pl) hh hq ht
    rw [execBlockCommit_commits hrun hpl hs (hmet.1 hm) he hq, hh, show sortHeld [] = [] from rfl, List.filterMap_nil,
      hahead, State.resumeSends_nil (by rw [hy, hyq])]
    refine ⟨_, rfl, ?_⟩
    simp only [State.follow, State.cell_setCell_same, hy, hyi, hyg, hyp, true_and]
    exact ⟨fun w hw => writeRegs_mem hn hw, fun r hr => writeRegs_other hr, rfl⟩
  · show Host.Outcome.next (s.resumeSends c) = _
    rw [State.resumeSends, if_pos hu]
  · show Host.Outcome.next (s.resumeSends c) = _
    rw [State.resumeSends, if_neg (by simp [hu])]

end Sys2Proof.Machine
end

section
/-!
PROOFS. A token's arrival at its port, and the drain of a port up to a marker (O40).
-/

namespace Sys2Proof.Machine
open Sys2Proof

/-! ### The arrival of a token (R134, R159, R160, R226) -/

theorem Phase.beforeRcf_eq_false {p : Phase} : p.beforeRcf = false ↔ p ∈ [.rcf, .taken, .saved, .left, .empty] := by
  cases p <;> simp [Phase.beforeRcf]

/-- A compute cell's switch stands at the cell's place. -/
theorem State.switchPlace_of_place {s : State} {c : CellId} {pl : Place} (h : s.place c = some pl) :
    s.switchPlace c = some pl := by
  have hc : c.isMem = false := by
    by_contra hm
    rw [Bool.not_eq_false] at hm
    unfold State.place at h
    dsimp only at h
    split at h
    · rw [if_pos hm] at h
      cases h
    · cases h
  unfold State.switchPlace
  dsimp only
  split
  · simpa [hc] using h
  · next hno =>
    unfold State.place at h
    dsimp only at h
    split at h
    · next v p hv hp => exact absurd hp (hno v p hv)
    · cases h

/-- A token that is no EOW leaves no note at the cells that it passes. -/
theorem State.sendHops_one {s u : State} {pl : Place} {c : CellId} {t : Token} {w : Nat} (ht : t.k ≠ .eow)
    (h : s.sendHop pl c t w = some u) : s.sendHops pl c t [w] = some u := by
  simp [State.sendHops, h, State.noteEow, ht]

/-- Flight j has left its stream. -/
def State.dropFlight (s : State) (j : Nat) : State := { s with flights := dropNth s.flights j }

@[simp] theorem State.row_dropFlight (s : State) (j : Nat) (r : RowId) : (s.dropFlight j).row r = s.row r := rfl
@[simp] theorem State.hosted_dropFlight (s : State) (j : Nat) (v : VpId) (c : CellId) :
    (s.dropFlight j).hosted v c = s.hosted v c := rfl

section
variable {s : State} {j : Nat} {f : Flight} (hf : s.flights[j]? = some f)
  (hfirst : ∀ g ∈ s.flights.take j, ¬ (g.src = f.src ∧ g.dest = f.dest ∧ g.port = f.port))
include hf hfirst

/-- The step of the first flight of a route. -/
theorem execTokenReceive_first (ok : Bool) : exec (.tokenReceive j ok) s =
    if !(s.dropFlight j).hosted f.vp f.dest then .next ((s.dropFlight j).dropOrphan f.vp (f.dest.src 0 0))
    else if f.edge.isSome && !((s.dropFlight j).row f.dest.rowId).phase.beforeRcf then
      .next ((s.dropFlight j).setCell f.dest { s.cell f.dest with discard := (s.cell f.dest).discard + 1 })
    else if !(s.dropFlight j).admits f.dest f.port (if ok then [f.tok] else damaged).length then .next s
    else match (if ok then s.dropFlight j else (s.dropFlight j).countError (.cell f.dest) true).arrive f.dest f.port
        (if ok then [f.tok] else damaged) with
      | none => .next s
      | some t => .next (t.touch f.vp) := by
  have hnone : ((s.flights.take j).any fun g => g.src == f.src && g.dest == f.dest && g.port == f.port) = false := by
    simpa [and_assoc] using hfirst
  show execTokenReceive j ok s = _
  unfold execTokenReceive
  rw [hf]
  dsimp only
  rw [hnone]
  rfl

/-- For a row that no longer hosts its VP. -/
theorem execTokenReceive_orphan {ok : Bool} (hh : s.hosted f.vp f.dest = false) :
    exec (.tokenReceive j ok) s = .next ((s.dropFlight j).dropOrphan f.vp (f.dest.src 0 0)) := by
  rw [execTokenReceive_first hf hfirst, State.hosted_dropFlight, hh]
  rfl

variable (hh : s.hosted f.vp f.dest = true)
include hh

/-- On an edge to a row that has placed its RCF. -/
theorem execTokenReceive_late {ok : Bool} (he : f.edge ≠ none) (hp : (s.row f.dest.rowId).phase.beforeRcf = false) :
    exec (.tokenReceive j ok) s = .next ((s.dropFlight j).setCell f.dest
      { s.cell f.dest with discard := (s.cell f.dest).discard + 1 }) := by
  rw [execTokenReceive_first hf hfirst, State.hosted_dropFlight, hh, if_neg (by simp), if_pos]
  simpa [Option.isSome_iff_ne_none, he] using hp

variable (hl : ¬ (f.edge ≠ none ∧ (s.row f.dest.rowId).phase.beforeRcf = false))
include hl

/-- One that the port has no room for waits. -/
theorem execTokenReceive_waits {ok : Bool}
    (ha : (s.dropFlight j).admits f.dest f.port (if ok then [f.tok] else damaged).length = false) :
    exec (.tokenReceive j ok) s = .next s := by
  rw [execTokenReceive_first hf hfirst, State.hosted_dropFlight, hh, if_neg (by simp), if_neg, if_pos (by simp [ha])]
  simpa [Option.isSome_iff_ne_none] using hl

/-- One that the port takes arrives. -/
theorem execTokenReceive_arrives {ok : Bool} {u : State}
    (ha : (s.dropFlight j).admits f.dest f.port (if ok then [f.tok] else damaged).length = true)
    (hu : (if ok then s.dropFlight j else (s.dropFlight j).countError (.cell f.dest) true).arrive f.dest f.port
      (if ok then [f.tok] else damaged) = some u) :
    exec (.tokenReceive j ok) s = .next (u.touch f.vp) := by
  rw [execTokenReceive_first hf hfirst, State.hosted_dropFlight, hh, if_neg (by simp), if_neg, if_neg (by simp [ha]), hu]
  simpa [Option.isSome_iff_ne_none] using hl

end

/-! ### Drains (R143) -/

theorem takeForDrain_one {port : Fin 8} {t : Token} {d : Drain} (hp : d.port = port) (hf : d.fin = false) :
    takeForDrain port t [d] = [{ d with
      fin := t.k == d.kind || t.k == .eow, eow := if t.k = .eow ∧ d.kind ≠ .eow then some t else none }] := by
  simp [takeForDrain, hp, hf]

/-- The EOW that a single drain met in place of another marker. -/
theorem lowestEow_one (d : Drain) : lowestEow [d] = d.eow := by
  have hfind (p : Fin 8) : (match [d].find? fun d => d.port == p && d.eow.isSome with
      | some d => d.eow
      | none => none) = if d.port = p then d.eow else none := by
    by_cases hp : d.port = p
    · cases he : d.eow <;> simp [hp, he]
    · simp [hp]
  have hport (q : Fin 8) (t : Option Token) :
      ((List.finRange 8).filterMap fun p => if q = p then t else none).head? = t := by
    cases t with
    | none => simp
    | some t => fin_cases q <;> rfl
  exact (congrArg (fun g => ((List.finRange 8).filterMap g).head?) (funext hfind)).trans (hport _ _)

section
variable {s : State} {c : CellId} {port : Fin 8} {pl : Place} {b : Block} {i : Instance} {d : Drain} {t : Token}
  (hrun : (s.cell c).running = some (b, i)) (hpl : s.place c = some pl) (hd : i.drains = [d]) (hp : d.port = port)
  (hf : d.fin = false) (ht : ((s.cell c).ports[port])[i.takenAt port]? = some t) (hk : t.k.isHeld = false)
  (ho : (s.cell c).arrayOwns port = false) (hs : (s.cell c).stopped = false)
include hrun hpl hd hp hf ht hk ho hs

/-- The only drain of an instance takes the next token of its port: it goes on, or its slot fires. -/
theorem execMarkerDrain_takes :
    let j : Instance := { i with
      taken := i.taken ++ [(port, t)]
      drains := [{ d with
        fin := t.k == d.kind || t.k == .eow, eow := if t.k = .eow ∧ d.kind ≠ .eow then some t else none }]
      discards := i.discards + if t.k.isMarker then 0 else 1 }
    ((t.k == d.kind || t.k == .eow) = false → exec (.markerDrain c port) s = .next (s.setInst c j)) ∧
      ∀ ins sl sh, (t.k == d.kind || t.k == .eow) = true → b.instr d.slot = some ins → i.slots[d.slot]? = some sl →
        instrShape ins = some sh →
        exec (.markerDrain c port) s = .next ((finishDrain s (Ctx.of c pl b j d.slot sh sl) ins sl).finish
          (Ctx.of c pl b j d.slot sh sl)) := by
  have hfind : [d].find? (fun d => d.port == port && !d.fin) = some d := by simp [hp, hf]
  intro j
  refine ⟨fun hstop => ?_, fun ins sl sh hstop hins hsl hsh => ?_⟩
  all_goals
    show execMarkerDrain c port s = _
    simp only [execMarkerDrain, hrun, hpl, hd, hfind, ht, hk, ho, hs, takeForDrain_one hp hf, List.any_cons, List.any_nil,
      hstop]
  · simp [j, hstop]
  · simp [hins, hsl, hsh, j, hstop]

end

/-- A slot whose only drain has stopped fires with its marker, or with the EOW met. -/
theorem finishDrain_marker {s : State} {x : Ctx} {ins : Instr} {sl : Slot} {d : Drain} {m : Token} {ds : List Operand}
    (hd : x.inst.drains = [d]) (hslot : d.slot = x.slot) (hj : x.sh.judge (isTestk ins) sl.l sl.r sl.p = .marker m ds) :
    finishDrain s x ins sl =
      ({ x with inst := { x.inst with drains := [] } } : Ctx).forward ins (d.eow.getD m) s := by
  simp [finishDrain, hd, hslot, hj, lowestEow_one]

/-- A token that its cell's switch passes on by one entry. -/
theorem State.arrive_passed {s u : State} {c : CellId} {port : Fin 8} {pl : Place} {t : Token} {w : Nat}
    (hpl : s.place c = some pl) (hr : s.inRoutes c port = [w]) (ht : t.k ≠ .eow) (hu : s.sendHop pl c t w = some u) :
    s.arrive c port [t] = some u := by
  simp [State.arrive, State.switchPlace_of_place hpl, hr, State.sendHops_one ht hu, State.notePassed, ht]

/-- A retired cell passes what arrives at N on to S, and at S on to N (R4, R159). -/
theorem State.inRoutes_retired {s : State} {c : CellId} {port : Fin 8} (h : s.isRetired c = true)
    (hp : port = 0 ∨ port = 2) : s.inRoutes c port = [if port = 0 then 2 * 2 ^ 24 else 0] := by
  rcases hp with rfl | rfl <;> simp [State.inRoutes, h]

theorem State.inRoutes_countError (s : State) (site : ErrorSite) (b : Bool) (c : CellId) (port : Fin 8) :
    (s.countError site b).inRoutes c port = s.inRoutes c port := by
  have hret : (s.countError site b).isRetired c = s.isRetired c := by
    rw [State.isRetired, State.countError_retired, State.isRetired]
  have hcell : (s.countError site b).cell c = s.cell c := by rw [State.cell, State.countError_cells, State.cell]
  unfold State.inRoutes
  rw [hret, hcell]

/-- What a body leaves depends on its context's cell and VP only. -/
theorem Fired.finish_congr {x y : Ctx} (hc : x.c = y.c) (hv : x.pl.v = y.pl.v) (f : Fired) : f.finish x = f.finish y := by
  cases f <;> simp [Fired.finish, hc, hv]

/-- Settles O40: what arrives is admitted by its port or passed on by its cell's switch, and a drain takes one token of its
port a step. -/
theorem tokenArrival : Obligations.TokenArrival := by
  constructor
  · intro s j f ok out late hf hfirst
    have hlate : late ↔ f.edge ≠ none ∧ (s.row f.dest.rowId).phase.beforeRcf = false :=
      and_congr_right fun _ => Phase.beforeRcf_eq_false.symm
    refine ⟨fun hh => execTokenReceive_orphan hf hfirst hh, fun hh hl => ?_, fun pl u hh hl hret hok hk hpl hport hu => ?_,
      fun hh hl hret hroutes => ?_⟩
    · obtain ⟨he, hphase⟩ := hlate.1 hl
      exact execTokenReceive_late hf hfirst hh he hphase
    · have hin : (s.dropFlight j).inRoutes f.dest f.port = [if f.port = 0 then 2 * 2 ^ 24 else 0] :=
        State.inRoutes_retired (s := s.dropFlight j) hret hport
      subst hok
      exact execTokenReceive_arrives hf hfirst hh (hlate.not.1 hl) (State.admits_routed _ _ _ (by simp [hin]) _)
        (State.arrive_passed (s := s.dropFlight j) hpl hin hk hu)
    · have hin : (s.dropFlight j).inRoutes f.dest f.port = [] := by
        show s.inRoutes f.dest f.port = []
        rw [State.inRoutes, hret]
        exact hroutes
      have hadmits (n : Nat) : (s.dropFlight j).admits f.dest f.port n = out.portRoom f.dest f.port n :=
        State.admits_unrouted _ _ _ hin n
      refine ⟨fun hok hroom => ?_, fun hok hroom => ?_, fun hok hroom => ?_⟩
      all_goals subst hok
      · exact execTokenReceive_arrives hf hfirst hh (hlate.not.1 hl) ((hadmits _).trans hroom)
          (State.arrive_unrouted _ _ _ _ hin)
      · exact execTokenReceive_waits hf hfirst hh (hlate.not.1 hl) ((hadmits _).trans hroom)
      · refine execTokenReceive_arrives hf hfirst hh (hlate.not.1 hl) ((hadmits _).trans hroom)
          (State.arrive_unrouted _ _ _ _ ?_)
        exact (State.inRoutes_countError ..).trans hin
  · intro s c port pl b i d t x stops d' hrun hpl hd hp hfin ht hpre hrcf ho hpend hact j
    have hheld : t.k.isHeld = false := by
      cases hk : t.k <;> simp_all [Kind.isHeld]
    have hs : x.stopped = false := by simp [Cell.stopped, hpend, hact]
    obtain ⟨hgo, hstop⟩ := execMarkerDrain_takes hrun hpl hd hp hfin ht hheld ho hs
    refine ⟨hgo, fun ins sl sh m ds hst hins hsl hsh hj => ?_⟩
    rw [hstop ins sl sh hst hins hsl hsh, finishDrain_marker rfl rfl hj, apply_ite (Option.getD · m)]
    exact congrArg Host.Outcome.next (Fired.finish_congr rfl rfl _)

end Sys2Proof.Machine
end

section
/-!
PROOFS. A memory cell performs its queue, and a cell takes its replies (O41).
-/

namespace Sys2Proof.Machine
open Sys2Proof

/-! ### Whose turn it is (R132, R322) -/

theorem mustWait_iff {q : List CellReq} {n : Nat} {r : CellReq} : mustWait q n r = true ↔
    ∃ k e, q[k]? = some e ∧ k ≠ n ∧ mustPrecede e r (decide (k < n)) = true := by
  simp only [mustWait, List.any_eq_true, Bool.and_eq_true, bne_iff_ne, Prod.exists, List.mem_zipIdx_iff_getElem?]
  exact ⟨fun ⟨e, k, h⟩ => ⟨k, e, h⟩, fun ⟨k, e, h⟩ => ⟨e, k, h⟩⟩

section
variable {s : State} {m : CellId} {n : Nat} {r : CellReq} (hr : (s.memQueue m)[n]? = some r)
include hr

/-- A request that another must precede, or whose held stores another module has not acknowledged, waits. -/
theorem performAt_waits (h : mustWait (s.memQueue m) n r = true ∨ s.storesFar r = true) :
    exec (.memoryCellRequest m n) s = .next s ∧ exec (.atomicAtOwner m n) s = .next s := by
  have wait (atomic : Bool) : s.performAt m n atomic = s := by
    have hblocked : (r.reply.isSome || r.body == .probe || r.isAtomic != atomic || mustWait (s.memQueue m) n r ||
        s.storesFar r) = true := by
      rcases h with h | h <;> simp [h]
    simp only [State.performAt, hr, hblocked, if_true]
  exact ⟨congrArg Host.Outcome.next (wait false), congrArg Host.Outcome.next (wait true)⟩

variable (hn : r.reply = none) (hw : mustWait (s.memQueue m) n r = false) (hf : s.storesFar r = false)
include hn hw hf

/-- One that may go is performed by the step for its kind. -/
theorem performAt_performs {sp : Space} {op : CellOp} {ls : List LaneAccess} {o : List Nat}
    (hb : r.body = .lanes op sp ls o) : s.performAt m n r.isAtomic = s.performQueued m n r := by
  have hprobe : (r.body == .probe) = false := by simp [hb]
  simp only [State.performAt, hr, hn, hprobe, hw, hf, bne_self_eq_false, Option.isSome_none, Bool.or_self,
    Bool.false_eq_true, if_false]

end

/-! ### What is performed (R183 to R185) -/

theorem State.heldOf_nil (s : State) (r : CellReq) : s.heldOf r [] = [] := by
  unfold State.heldOf
  split
  · rfl
  · split
    · rfl
    · refine List.filter_eq_nil_iff.2 fun h _ => ?_
      cases h <;> simp

/-- The values of lanes, and ORD. -/
def wholeReply (vs : List (Nat × Option Elem)) : Token × Token :=
  (Token.lanes .data (fun i => (laneValue vs i).isSome) (fun i => (laneValue vs i).getD 0),
    Token.ofList .ord 0x0003 [0, vs.length])

theorem droppedLanes_whole {vs : List (Nat × Option Elem)} (h : ∀ v ∈ vs, v.2 ≠ none) : droppedLanes vs = [] := by
  rw [droppedLanes, List.filter_eq_nil_iff.2 fun v hv => ?_, List.map_nil]
  simpa using h v hv

/-- Lanes of which none is dropped are answered whole. -/
theorem laneReply_whole {vs : List (Nat × Option Elem)} (h : ∀ v ∈ vs, v.2 ≠ none) : laneReply vs = wholeReply vs := by
  simp [laneReply, wholeReply, droppedLanes_whole h]

section
variable {s u : State} {m : CellId} {n : Nat} {r : CellReq} {sp : Space} {ls : List LaneAccess}

/-- A load. -/
theorem performQueued_load {vs : List (Nat × Option Elem)} (hb : r.body = .lanes .load sp ls [])
    (hread : s.readLanes ⟨(s.vp r.vp).tenant, .cell r.cell r.inst r.slot⟩ [] sp ls = (u, vs)) (hv : ∀ v ∈ vs, v.2 ≠ none) :
    s.performQueued m n r = u.setMemQueue m (setNth (u.memQueue m) n { r with reply := some (wholeReply vs) }) := by
  have hsender : s.senderOf r true = ⟨(s.vp r.vp).tenant, .cell r.cell r.inst r.slot⟩ := rfl
  simp only [State.performQueued, State.performReq, hb, State.heldOf_nil, hsender, hread, laneReply_whole hv]

/-- A store. -/
theorem performQueued_store {o : List Nat} (hb : r.body = .lanes .store sp ls o) : s.performQueued m n r =
    (s.storeLanes ⟨(s.vp r.vp).tenant, .cell r.cell r.inst r.slot⟩ sp ls).setMemQueue m
      (dropNth ((s.storeLanes ⟨(s.vp r.vp).tenant, .cell r.cell r.inst r.slot⟩ sp ls).memQueue m) n) := by
  simp only [State.performQueued, State.performReq, hb]
  rfl

/-- An atomic that a slot waits for. -/
theorem performQueued_atomic {op : CellOp} {vs : List (Nat × Option Elem)} (hb : r.body = .lanes op sp ls [])
    (hl : op ≠ .load) (hs : op ≠ .store) (hh : r.isHeld s = false)
    (hread : s.atomicLanes ⟨(s.vp r.vp).tenant, .other⟩ [] op sp [] ls = (u, vs)) (hv : ∀ v ∈ vs, v.2 ≠ none) :
    s.performQueued m n r = u.setMemQueue m (setNth (u.memQueue m) n { r with reply := some (wholeReply vs) }) := by
  have hsender : s.senderOf r false = ⟨(s.vp r.vp).tenant, .other⟩ := rfl
  cases op with
  | load => exact absurd rfl hl
  | store => exact absurd rfl hs
  | _ => simp only [State.performQueued, State.performReq, hb, State.heldOf_nil, hh, hsender, hread, laneReply_whole hv,
      Bool.false_eq_true, if_false]

end

/-! ### Damaged units (R376) -/

theorem Memory.heal_of_clean {m : Memory} (h : m.poison = []) (units : List Nat) : m.heal units = m := by
  cases m
  subst h
  rfl

/-- A healed unit reads correctly. -/
theorem Memory.heal_unit {m : Memory} {units : List Nat} {a : Nat} (ha : a % 8 = 0) (hu : a / 8 ∈ units) :
    (m.heal units).bad a 8 = false := by
  rw [← Bool.not_eq_true]
  simp only [Memory.bad, Memory.heal, List.any_eq_true, List.mem_filter, Bool.and_eq_true, decide_eq_true_eq,
    Bool.not_eq_true', List.contains_eq_mem, decide_eq_false_iff_not]
  rintro ⟨u, ⟨-, hout⟩, hlo, hhi⟩
  exact hout ((by omega : a / 8 = u) ▸ hu)

/-! ### Replies (R132, R183, R226) -/

section
variable {s : State} {c : CellId} {p : Nat} {e : CellReq} {t0 t1 : Token} (hpend : (s.cell c).pending = false)
  (hact : (s.cell c).action = none) (ho : oldestOf c (s.memQueue c.server) 0 = some (p, e)) (hr : e.reply = some (t0, t1))
include hpend hact ho hr

theorem execMemoryCellReply_takes : exec (.memoryCellReply c) s =
    if (s.setMemQueue c.server (dropNth (s.memQueue c.server) p)).hosted e.vp c then
      .next (((s.setMemQueue c.server (dropNth (s.memQueue c.server) p)).reportDropped e (replyDropped t1)).deliverResult
        e.vp c e.inst e.slot t0 t1)
    else .next ((s.setMemQueue c.server (dropNth (s.memQueue c.server) p)).dropOrphan e.vp (c.src 0 0)) := by
  have hholds : (s.cell c).holdsReply = false := by simp [Cell.holdsReply, Cell.stopped, hpend, hact]
  show execMemoryCellReply c s = _
  simp only [execMemoryCellReply, hholds, ho, hr, Bool.false_eq_true, if_false]

end

/-- Settles O41: `mustWait` says whose turn it is, `State.performReq` what is done, and replies leave in order. -/
theorem memoryCellSteps : Obligations.MemoryCellSteps := by
  intro s u m n r q whole who hr hn
  refine ⟨fun hfar => performAt_waits hr (.inr hfar), fun hf hfree => ?_, fun h => performAt_waits hr (.inl (mustWait_iff.2 h)),
    fun v ls hmem hscr => ?_, fun v a ha => ?_, fun a first ha => by simp [mustPrecede, ha],
    fun old opd => ⟨rfl, rfl, rfl⟩, fun c p e t0 t1 hpend hact ho he => ?_⟩
  · have hw : mustWait q n r = false := by
      rw [← Bool.not_eq_true, mustWait_iff]
      rintro ⟨k, e, hk, hne, h⟩
      rw [hfree k e hk hne] at h
      cases h
    have performs {sp : Space} {op : CellOp} {ls : List LaneAccess} {o : List Nat} (hb : r.body = .lanes op sp ls o) :=
      performAt_performs hr hn hw hf hb
    refine ⟨fun sp ls vs hb hread hv => ?_, fun sp ls o hb => ?_, fun op sp ls vs hb hl hs hh hread hv => ?_⟩
    · have hkind : r.isAtomic = false := by rw [CellReq.isAtomic, hb]
      refine congrArg Host.Outcome.next (?_ : s.performAt m n false = _)
      rw [← hkind, performs hb]
      exact performQueued_load hb hread hv
    · have hkind : r.isAtomic = false := by rw [CellReq.isAtomic, hb]
      refine congrArg Host.Outcome.next (?_ : s.performAt m n false = _)
      rw [← hkind, performs hb]
      exact performQueued_store hb
    · have hkind : r.isAtomic = true := by
        rw [CellReq.isAtomic, hb]
        cases op with
        | load => exact absurd rfl hl
        | store => exact absurd rfl hs
        | _ => rfl
      refine congrArg Host.Outcome.next (?_ : s.performAt m n true = _)
      rw [← hkind, performs hb]
      exact performQueued_atomic hb hl hs hh hread hv
  · simp only [State.healStore, Memory.heal_of_clean hmem, Memory.heal_of_clean hscr]
  · refine Memory.heal_unit ha ?_
    simp [State.localWord, wholeUnits, ha]
  · have hne (h : t1.k ≠ .err) : replyDropped t1 = [] := if_neg h
    have heq (h : t1.k = .err) : replyDropped t1 = (List.range 16).filter fun i => (t1.at 1).getLsbD i := if_pos h
    intro v
    refine ⟨fun hh h => ?_, fun hh h => ?_, fun hh => ?_⟩
    all_goals rw [execMemoryCellReply_takes hpend hact ho he]
    · rw [if_pos hh, hne h]
      rfl
    · rw [if_pos hh, heq h]
    · rw [if_neg (by simpa using hh)]

end Sys2Proof.Machine
end

section
/-!
PROOFS. XREQ's transfers, and the address generators (O42).
-/

namespace Sys2Proof.Machine
open Sys2Proof

/-! ### Transfers (R189) -/

/-- A transfer whose VP is there ends with its completion at XFER, and a failed one with its report. -/
theorem State.endTransfer_here {s : State} {n : Nat} {t : Transfer} {st : Status} (hh : s.hosted t.vp t.cell = true)
    (hr : s.inRoutes t.cell 7 = []) :
    let w := { s with transfers := dropNth s.transfers n }.putPort t.cell 7
      [Token.ofList .ord 0x0013 [st.code, t.moved, 0, 0, t.tag.toNat]]
    s.endTransfer n t st = some (if st = .ok then w else w.itemFailed t.vp (match w.place t.cell with
      | some pl => pl.wave
      | none => 0) t.cell t.slot 0 st) := by
  intro w
  have hhosted : State.hosted { s with transfers := dropNth s.transfers n } t.vp t.cell = true := hh
  have harrive : State.arrive { s with transfers := dropNth s.transfers n } t.cell 7
      [Token.ofList .ord 0x0013 [st.code, t.moved, 0, 0, t.tag.toNat]] = some w := State.arrive_unrouted _ _ _ _ hr
  simp only [State.endTransfer, hhosted, harrive, if_true, Option.map_some] <;> rfl

section
variable {s u : State} {c : CellId} {n : Nat} {t : Transfer} (hn : s.transfers.findIdx? (fun t => t.cell == c) = some n)
  (ht : s.transfers[n]? = some t)
include hn ht

/-- The oldest transfer of a cell is the cell's. -/
theorem transfer_cell : t.cell = c := by
  obtain ⟨hlt, hcell, -⟩ := List.findIdx?_eq_some_iff_getElem.1 hn
  obtain ⟨-, rfl⟩ := List.getElem?_eq_some_iff.1 ht
  exact eq_of_beq hcell

/-- It waits for room at XFER, and for the held stores that it is ordered after. -/
theorem execTransferLine_waits (h : s.storesWait c t.inst t.after = true) : exec (.transferLine c) s = .next s := by
  show execTransferLine c s = _
  simp only [execTransferLine, hn, ht, h, Bool.or_true, if_true]

variable (ha : s.admits c 7 1 = true) (hw : s.storesWait c t.inst t.after = false)
include ha hw

theorem execTransferLine_moves (hm : s.moveLine t = (u, .ok)) (hl : t.moved + 64 < t.len) :
    exec (.transferLine c) s = .next { u with transfers := setNth u.transfers n { t with moved := t.moved + 64 } } := by
  show execTransferLine c s = _
  simp only [execTransferLine, hn, ht, ha, hw, hm, Bool.not_true, Bool.or_self, Bool.false_eq_true, if_false,
    if_neg (Nat.not_le.2 hl)]

theorem execTransferLine_ends (hm : s.moveLine t = (u, .ok)) (hl : t.len ≤ t.moved + 64) :
    exec (.transferLine c) s = .next ((u.endTransfer n { t with moved := t.moved + 64 } .ok).getD s) := by
  show execTransferLine c s = _
  simp only [execTransferLine, hn, ht, ha, hw, hm, Bool.not_true, Bool.or_self, Bool.false_eq_true, if_false, if_pos hl]

theorem execTransferLine_fails {st : Status} (hm : s.moveLine t = (u, st)) (hst : st ≠ .ok) :
    exec (.transferLine c) s = .next ((u.endTransfer n t st).getD s) := by
  show execTransferLine c s = _
  simp only [execTransferLine, hn, ht, ha, hw, hm, Bool.not_true, Bool.or_self, Bool.false_eq_true, if_false]

end

/-! ### A generator's frame (R407) -/

theorem Agen.word_eq (a : Agen) (i : Fin 8) : a.word i.val = (a.words[i]).toNat := by
  simp [Agen.word, List.getD_eq_getElem?_getD]

theorem Agen.receives_eq (a : Agen) : a.receives = ((a.words[(0 : Fin 8)]).toNat / 2 % 2 == 1) := by
  rw [Agen.receives, bitAt, ← a.word_eq 0]
  rfl

theorem Agen.port_eq (a : Agen) : a.port = Fin.ofNat 8 ((a.words[(0 : Fin 8)]).toNat / 2 ^ 8 % 8) := by
  rw [Agen.port, ← a.word_eq 0]
  rfl

/-- The lanes of a generator's mask. -/
theorem Agen.lanes_eq (a : Agen) : ((List.range 16).filter fun i => bitAt a.mask i) =
    (List.range 16).filter fun i => (a.words[(6 : Fin 8)]).toNat / 2 ^ i % 2 == 1 := by
  refine List.filter_congr fun i hi => ?_
  have hlt : i < 16 := List.mem_range.1 hi
  have hpow : 2 ^ (15 + 1) = 2 ^ i * 2 ^ (16 - i) := by rw [← Nat.pow_add]; congr 1; omega
  have hdvd : 2 ∣ 2 ^ (16 - i) := dvd_pow_self 2 (by omega)
  rw [Agen.mask, field_from_zero, bitAt, ← a.word_eq 6, hpow, Nat.mod_mul_right_div_self, Nat.mod_mod_of_dvd _ hdvd]
  rfl

/-! ### What a generator sends (R136, R407) -/

section
variable {s : State} {c : CellId} {gen : Fin 2} {a : Agen} {pl : Place} (hpl : s.place c = some pl)
  (ha : (s.cell c).agens[gen] = some a) (hdone : a.done = false) (hfault : a.faulted = false) (hstop : a.stop = false)
  (hsaved : (s.cell c).saved = false)
include hpl ha hdone hfault hstop hsaved

theorem execAddressGeneratorToken_sends (hr : a.receives = false) :
    exec (.addressGeneratorToken c gen) s = .next (s.agenSend pl c gen a) := by
  show execAddressGeneratorToken c gen s = _
  simp only [execAddressGeneratorToken, hpl, ha, hdone, hfault, hstop, hsaved, hr, Bool.false_and, Bool.or_self,
    Bool.false_eq_true, if_false]

theorem execAddressGeneratorToken_receives (hr : a.receives = true) :
    exec (.addressGeneratorToken c gen) s = .next (s.agenReceive pl c gen a) := by
  show execAddressGeneratorToken c gen s = _
  simp only [execAddressGeneratorToken, hpl, ha, hdone, hfault, hstop, hsaved, hr, Bool.false_and, Bool.or_self,
    Bool.false_eq_true, if_false, if_true]

end

section
variable {s u : State} {pl : Place} {c : CellId} {gen : Fin 2} {a : Agen}

/-- The elements of the frame's lanes go into one DATA token. -/
theorem State.agenSend_data {v w : State} {ls : List (Nat × Loc)} {vs : List (Nat × Option Elem)}
    (ho : a.outer < a.word 5) (hi : a.inner < a.word 3)
    (hacc : s.agenAccess c pl.x.tenant a false ((List.range 16).filter fun i => bitAt a.mask i) = (u, .ok ls))
    (hread : u.agenRead ⟨pl.x.tenant, .engine c⟩ ls = (v, vs)) (hv : ∀ e ∈ vs, e.2 ≠ none)
    (hsend : v.sendPort c a.port (Token.lanes .data (fun i => (laneValue vs i).isSome)
      (fun i => (laneValue vs i).getD 0)) = some w) :
    s.agenSend pl c gen a = w.setAgen c gen { a with inner := a.inner + 1 } := by
  simp only [State.agenSend, if_pos ho, if_pos hi, hacc, engineSender, hread, hsend, droppedLanes_whole hv]
  rfl

variable (hpre : pl.x.stage ≠ .preempting)
include hpre

theorem State.agenHalts_off : s.agenHalts pl c = false := by simp [State.agenHalts, hpre]

/-- The end of a run. -/
theorem State.agenSend_eot (hstop : a.stop = false) (ho : a.outer < a.word 5) (hi : a.word 3 ≤ a.inner)
    (hsend : s.sendPort c a.port (Token.marker .eot a.eots) = some u) :
    s.agenSend pl c gen a = u.setAgen c gen { a with outer := a.outer + 1, inner := 0, eots := a.eots + 1 } := by
  simp only [State.agenSend, State.agenHalts_off hpre, if_pos ho, if_neg (Nat.not_lt.2 hi), hsend, Bool.false_eq_true,
    if_false, Agen.endRun, hstop]

/-- The end of the frame. -/
theorem State.agenSend_eow (hstop : a.stop = false) (ho : a.word 5 ≤ a.outer)
    (hsend : s.sendPort c a.port (Token.marker .eow pl.wave) = some u) :
    s.agenSend pl c gen a = u.setAgen c gen { a with done := true } := by
  simp only [State.agenSend, State.agenHalts_off hpre, if_neg (Nat.not_lt.2 ho), hsend, Bool.false_eq_true,
    if_false, hstop]

end

/-- An EOW ends a generator that receives. -/
theorem State.agenReceive_eow {s : State} {pl : Place} {c : CellId} {gen : Fin 2} {a : Agen} {t : Token}
    {rest : List Token} (hi : (s.cell c).inst = none) (hp : (s.cell c).ports[a.port] = t :: rest) (ht : t.k = .eow)
    (ho : (s.cell c).arrayOwns a.port = false) :
    s.agenReceive pl c gen a = (s.removeTokens c a.port 1).setAgen c gen { a with done := true } := by
  simp only [State.agenReceive, hi, hp, ht, ho, Kind.isHeld]
  rfl

/-- Settles O42: the step of a transfer ends on `State.endTransfer`, and a generator's on what it sends or takes. -/
theorem transfersAndGenerators : Obligations.TransfersAndGenerators := by
  intro s u v c
  constructor
  · intro n t hn ht ha hr
    obtain rfl : t.cell = c := transfer_cell hn ht
    refine ⟨execTransferLine_waits hn ht, fun hw => ⟨execTransferLine_moves hn ht ha hw, fun hm hl hh => ?_,
      fun st pl hm hst hh hpl => ⟨_, rfl, fun wp hwp => ?_⟩⟩⟩
    · rw [execTransferLine_ends hn ht ha hw hm hl, State.endTransfer_here (t := { t with moved := t.moved + 64 }) hh hr]
      rfl
    · rw [execTransferLine_fails hn ht ha hw hm hst, State.endTransfer_here hh hr, if_neg hst]
      simp only [hwp, Option.getD_some]
  · intro gen a pl hpl ha hdone hfault hstop hsaved word port lanes
    have hword (i : Fin 8) : word i = a.word i.val := (a.word_eq i).symm
    have hport : port = a.port := a.port_eq.symm
    have hlanes : lanes = (List.range 16).filter fun i => bitAt a.mask i := a.lanes_eq.symm
    have hmode : a.receives = (word 0 / 2 % 2 == 1) := a.receives_eq
    have h3 := hword 3
    have h5 := hword 5
    simp only [hport, hlanes, h3, h5]
    refine ⟨fun hsends hpre => ?_, fun t rest hrecv hi hp ht ho => ?_⟩
    · have hr : a.receives = false := by rw [hmode, hsends]; rfl
      rw [execAddressGeneratorToken_sends hpl ha hdone hfault hstop hsaved hr]
      refine ⟨fun ls vs ho hi hacc hread hv w hsend => ?_, fun ho hi hsend => ?_, fun ho hsend => ?_⟩
      · rw [State.agenSend_data ho hi hacc hread hv hsend]
      · rw [State.agenSend_eot hpre hstop ho hi hsend]
      · rw [State.agenSend_eow hpre hstop ho hsend]
    · have hr : a.receives = true := by rw [hmode, hrecv]; rfl
      rw [execAddressGeneratorToken_receives hpl ha hdone hfault hstop hsaved hr, State.agenReceive_eow hi hp ht ho]

end Sys2Proof.Machine
end

section
/-!
PROOFS. Rings, bindings and orphan tokens (O46).
-/

namespace Sys2Proof.Machine
open Sys2Proof

/-! ### What a delivery leaves of a VP -/

theorem State.stage_touch (s : State) (v w : VpId) : ((s.touch w).vp v).stage = (s.vp v).stage := by
  by_cases h : v = w
  · subst h
    rw [State.touch, State.vp_setVp_same]
  · rw [State.touch, State.vp_setVp_other _ _ h]

theorem State.stage_putPort (s : State) (c : CellId) (port : Fin 8) (ts : List Token) (v : VpId) :
    ((s.putPort c port ts).vp v).stage = (s.vp v).stage := by
  unfold State.putPort
  dsimp only
  split
  · exact State.stage_touch ..
  · rfl

/-- Without a pre-emption no PRE is to follow. -/
theorem State.notePre_off {s : State} {v : VpId} (h : (s.vp v).stage ≠ .preempting) (c : CellId) (port : Fin 8)
    (t : Token) : s.notePre v c port t = s := by
  simp [State.notePre, h]

theorem State.preHeld_off {s : State} {v : VpId} (h : (s.vp v).stage ≠ .preempting) (c : CellId) (port : Fin 8) :
    s.preHeld v c port = false := by
  simp [State.preHeld, h]

theorem State.edgeOpen_running {s : State} {c : CellId}
    (h : (s.row c.rowId).phase = .live ∨ (s.row c.rowId).phase = .markers) (port : Fin 8) : s.edgeOpen c port = true := by
  rcases h with h | h <;> simp [State.edgeOpen, h, Phase.running]

theorem State.edgeOpen_past {s : State} {c : CellId} (h : (s.row c.rowId).phase ∈ [.drained, .rcf, .taken, .saved])
    (port : Fin 8) : s.edgeOpen c port = false := by
  simp only [List.mem_cons, List.not_mem_nil, or_false] at h
  rcases h with h | h | h | h <;> simp [State.edgeOpen, h, Phase.running]

/-! ### What becomes of a ring's token (R204, R210, R213) -/

/-- The cell that a ring's token is for. -/
def Vp.ringCell (x : Vp) (v : VpId) (e : Edge) (q : Nat × Nat × Token) : CellId :=
  x.cellOf v.die (x.dstEntry e) (x.ringPos e q.2.1) q.1

section
variable {s : State} {v : VpId} {n size : Nat} {e : Edge} {q : Nat × Nat × Token}

theorem State.ringFate_off (h : (s.vp v).stage ≠ .live) (h' : (s.vp v).stage ≠ .preempting) :
    s.ringFate v n e size q = .wait := by
  simp [State.ringFate, h, h']

theorem State.ringFate_notYet (h : s.posState v ((s.vp v).ringPos e q.2.1) = .notYet) :
    s.ringFate v n e size q = .wait := by
  simp [State.ringFate, h]

theorem State.ringFate_gone (h : (s.vp v).stage = .live) (hp : s.posState v ((s.vp v).ringPos e q.2.1) = .gone) :
    s.ringFate v n e size q = .discard := by
  simp [State.ringFate, h, hp]

variable (hp : s.posState v ((s.vp v).ringPos e q.2.1) = .resident)
include hp

/-- A token for a resident position waits behind the stream, and for a row that takes no more. -/
theorem State.ringFate_waits (h : (∃ f ∈ s.flights, f.vp = v ∧ f.edge = some n ∧ f.dest = (s.vp v).ringCell v e q) ∨
    s.edgeOpen ((s.vp v).ringCell v e q) e.toPort = false) : s.ringFate v n e size q = .wait := by
  unfold State.ringFate
  dsimp only
  split
  · rfl
  · rw [hp]
    refine if_neg ?_
    rcases h with h | h
    · have hany : (s.flights.any fun f => f.vp == v && f.edge == some n && f.dest == (s.vp v).ringCell v e q) = true := by
        simpa [and_assoc] using h
      simp only [Bool.and_eq_true, Bool.not_eq_true', not_and, Bool.not_eq_false]
      exact fun _ => hany
    · simp only [Bool.and_eq_true]
      exact fun ⟨⟨⟨ho, _⟩, _⟩, _⟩ => Bool.false_ne_true (h.symm.trans ho)

theorem State.ringFate_delivers (hl : (s.vp v).stage = .live)
    (ho : s.edgeOpen ((s.vp v).ringCell v e q) e.toPort = true)
    (ha : s.admits ((s.vp v).ringCell v e q) e.toPort size = true)
    (hf : ∀ f ∈ s.flights, ¬ (f.vp = v ∧ f.edge = some n ∧ f.dest = (s.vp v).ringCell v e q)) :
    s.ringFate v n e size q = .deliver := by
  have hpre : s.preHeld v ((s.vp v).ringCell v e q) e.toPort = false := State.preHeld_off (by simp [hl]) _ _
  have hany : (s.flights.any fun f => f.vp == v && f.edge == some n && f.dest == (s.vp v).ringCell v e q) = false := by
    simpa [and_assoc] using hf
  unfold State.ringFate
  dsimp only
  rw [hl, if_neg (by decide), hp]
  refine if_pos ?_
  simp only [Bool.and_eq_true, Bool.not_eq_true']
  exact ⟨⟨⟨ho, ha⟩, hpre⟩, hany⟩

end

/-! ### A ring's delivery -/

section
variable {s : State} {v : VpId} {n k wave : Nat} {e : Edge} {t : Token} {rest : List (Nat × Nat × Token)}
  (he : (s.vp v).edges[n]? = some e) (hr : e.ring = (k, wave, t) :: rest)
include he hr

/-- The VP's edge without the ring's first token. -/
def State.popRing (s : State) (v : VpId) (n : Nat) (e : Edge) : State :=
  (s.setVp v { s.vp v with edges := setNth (s.vp v).edges n (e.without 0) }).touch v

theorem execRingDelivery_waits (h : s.ringFate v n e (e.arriving 0 t).length (k, wave, t) = .wait) (h0 : rest = []) :
    exec (.ringDelivery v n) s = .next s := by
  subst h0
  show execRingDelivery v n s = _
  simp [execRingDelivery, he, hr, State.ringNext, h]

theorem execRingDelivery_discards (h : s.ringFate v n e (e.arriving 0 t).length (k, wave, t) = .discard) (ht : t.k ≠ .pre) :
    exec (.ringDelivery v n) s = .next ((s.popRing v n e).setCell ((s.vp v).ringCell v e (k, wave, t))
      { s.cell ((s.vp v).ringCell v e (k, wave, t)) with
        discard := (s.cell ((s.vp v).ringCell v e (k, wave, t))).discard + 1 }) := by
  have hnext : s.ringNext v n e [] 0 e.ring = some (0, .discard, (k, wave, t)) := by simp [hr, State.ringNext, h]
  show execRingDelivery v n s = _
  unfold execRingDelivery
  simp only [he, hnext, ht]
  rfl

theorem execRingDelivery_delivers {u : State} (h : s.ringFate v n e (e.arriving 0 t).length (k, wave, t) = .deliver)
    (hu : (if e.bad.contains 0 then (s.popRing v n e).countError (.cell ((s.vp v).ringCell v e (k, wave, t))) true
      else s.popRing v n e).arrive ((s.vp v).ringCell v e (k, wave, t)) e.toPort (e.arriving 0 t) = some u)
    (hl : (u.vp v).stage ≠ .preempting) : exec (.ringDelivery v n) s = .next u := by
  have hnext : s.ringNext v n e [] 0 e.ring = some (0, .deliver, (k, wave, t)) := by simp [hr, State.ringNext, h]
  have hoff := State.notePre_off hl ((s.vp v).ringCell v e (k, wave, t)) e.toPort ((e.arriving 0 t).headD .nul)
  simp only [State.popRing, Vp.ringCell] at hu hoff
  show execRingDelivery v n s = _
  simp only [execRingDelivery, he, hnext, decide_true, Bool.true_and, if_true, hu, hoff]

omit he in
/-- The edge without its first token, of which no other is damaged. -/
theorem popRing_eq (hb : e.bad = [] ∨ e.bad = [0]) : s.popRing v n e =
    (s.setVp v { s.vp v with edges := setNth (s.vp v).edges n { e with ring := rest, bad := [] } }).touch v := by
  rcases hb with hb | hb <;> simp [State.popRing, Edge.without, hr, hb, dropNth]

end

theorem State.stage_popRing (s : State) (v : VpId) (n : Nat) (e : Edge) :
    ((s.popRing v n e).vp v).stage = (s.vp v).stage := by
  rw [State.popRing, State.stage_touch, State.vp_setVp_same]

theorem State.stage_countError (s : State) (site : ErrorSite) (b : Bool) (v : VpId) :
    ((s.countError site b).vp v).stage = (s.vp v).stage := by
  rw [State.vp, State.countError_vps, State.vp]

/-! ### Bindings (R198) -/

/-- Nothing keeps an ingress binding from looking at its buffer. -/
theorem ingress_open {s : State} {v : VpId} {b : Binding} {c : CellId} (hst : b.stopped = false)
    (hp : s.posState v ((s.vp v).entryPos b.image b.eows) = .resident) (hl : (s.vp v).stage = .live)
    (ha : s.admits c 5 1 = true) (hw : b.eows < (s.vp v).w) (ho : s.edgeOpen c 5 = true) :
    (b.stopped || ((s.vp v).stage != .live && (s.vp v).stage != .preempting) || decide ((s.vp v).w ≤ b.eows) ||
      s.posState v ((s.vp v).entryPos b.image b.eows) != .resident || !s.edgeOpen c 5 || s.preHeld v c 5 ||
      !s.admits c 5 1) = false := by
  have hpre : s.preHeld v c 5 = false := State.preHeld_off (by simp [hl]) _ _
  simp [hst, hl, hw, hp, ho, hpre, ha]

section
variable {s u w : State} {v : VpId} {n : Nat} {b : Binding} (hb : (s.vp v).ingress[n]? = some b)
include hb

theorem execIngressBindingTake_waits
    (h : ((s.vp v).stage ≠ .live ∧ (s.vp v).stage ≠ .preempting) ∨
      s.admits ((s.vp v).boundCell v.die b ((s.vp v).entryPos b.image b.eows)) 5 1 = false) :
    exec (.ingressBindingTake v n) s = .next s := by
  show execIngressBindingTake v n s = _
  simp only [execIngressBindingTake, hb]
  refine if_pos ?_
  rcases h with ⟨h, h'⟩ | h
  · simp [h, h']
  · simp [h]

variable {c : CellId} (hc : c = (s.vp v).boundCell v.die b ((s.vp v).entryPos b.image b.eows)) (hst : b.stopped = false)
  (hp : s.posState v ((s.vp v).entryPos b.image b.eows) = .resident) (hl : (s.vp v).stage = .live)
  (ha : s.admits c 5 1 = true) (hw : b.eows < (s.vp v).w) (ho : s.edgeOpen c 5 = true) {head tail : Nat}
  (hcounts : s.counts (s.edgeReach c.rowId (s.vp v).tenant) b = (u, .ok (head, tail)))
include hc hst hp hl ha hw ho hcounts

/-- A buffer that holds a token not seen yet. -/
theorem execIngressBindingTake_takes {t : Token} {y : State} (hsize : (tail + 2 ^ 64 - head) % 2 ^ 64 ≤ b.size)
    (hseen : b.slots.sum < (tail + 2 ^ 64 - head) % 2 ^ 64)
    (htok : u.slotToken (s.edgeReach c.rowId (s.vp v).tenant) c (b.slotAt ((head + b.slots.sum) % 2 ^ 64)) = (w, .ok [t]))
    (hadm : w.admits c 5 1 = true)
    (hy : (w.setIngress v n { b with eows := if t.k = .eow then b.eows + 1 else b.eows }).arriveFrom c 5 [t] [1] = some y)
    (hpre : (y.vp v).stage ≠ .preempting) : exec (.ingressBindingTake v n) s = .next y := by
  have hopen := ingress_open hst hp hl ha hw ho
  have hadm' : w.admits c 5 [t].length = true := hadm
  have hy' : (w.setIngress v n { b with eows := if ([t].headD .nul).k = .eow then b.eows + 1 else b.eows }).arriveFrom c 5
      [t] (1 :: ([t].drop 1).map fun _ => 0) = some y := hy
  subst hc
  show execIngressBindingTake v n s = _
  simp only [execIngressBindingTake, hb, hopen, hcounts, if_neg (Nat.not_lt.2 hsize), if_neg (Nat.not_le.2 hseen), htok,
    hadm', hy', Bool.false_eq_true, if_false, Bool.not_true]
  exact congrArg Host.Outcome.next (State.notePre_off hpre ..)

/-- One whose tokens it has all seen. -/
theorem execIngressBindingTake_empty (hsize : (tail + 2 ^ 64 - head) % 2 ^ 64 ≤ b.size)
    (hseen : (tail + 2 ^ 64 - head) % 2 ^ 64 ≤ b.slots.sum) : exec (.ingressBindingTake v n) s = .next u := by
  have hopen := ingress_open hst hp hl ha hw ho
  subst hc
  show execIngressBindingTake v n s = _
  simp only [execIngressBindingTake, hb, hopen, hcounts, if_neg (Nat.not_lt.2 hsize), if_pos hseen, Bool.false_eq_true,
    if_false]

/-- One whose counts differ by more than its slots. -/
theorem execIngressBindingTake_stops {y : State} (hsize : b.size < (tail + 2 ^ 64 - head) % 2 ^ 64)
    (hy : (u.setIngress v n { b with stopped := true }).stopBinding v c b.eows .badDesc = some y) :
    exec (.ingressBindingTake v n) s = .next y := by
  have hopen := ingress_open hst hp hl ha hw ho
  subst hc
  show execIngressBindingTake v n s = _
  simp only [execIngressBindingTake, hb, hopen, hcounts, if_pos hsize, hy, Bool.false_eq_true, if_false]

end

section
variable {s u : State} {v : VpId} {n : Nat} {b : Binding} {t : Token} {r : RowId} {p head tail : Nat}
  (hb : (s.vp v).egress[n]? = some b) (ht : b.out = some t) (hst : b.stopped = false)
  (hr : s.rowOfEntry v b.image = some (r, p))
  (hcounts : s.counts (s.edgeReach r (s.vp v).tenant) b = (u, .ok (head, tail)))
include hb ht hst hr hcounts

/-- An egress binding with a slot free writes its token and advances the tail. -/
theorem execEgressBindingWrite_writes {w : State} (hsize : (tail + 2 ^ 64 - head) % 2 ^ 64 < b.size)
    (hw : u.areaWrite (s.edgeReach r (s.vp v).tenant) (b.slotAt tail) t.toBytes = (w, none)) :
    let y := w.advance v r b.cap 8 1
    exec (.egressBindingWrite v n) s = .next ((y.setVp v { y.vp v with
      egress := setNth (y.vp v).egress n { b with out := none } }).touch v) := by
  show execEgressBindingWrite v n s = _
  simp only [execEgressBindingWrite, hb, ht, hr, hst, hcounts, if_neg (Nat.not_lt.2 hsize.le), if_neg hsize.ne, hw,
    Bool.false_eq_true, if_false]

/-- A full buffer holds it back. -/
theorem execEgressBindingWrite_full (hsize : (tail + 2 ^ 64 - head) % 2 ^ 64 = b.size) :
    exec (.egressBindingWrite v n) s = .next u := by
  show execEgressBindingWrite v n s = _
  simp only [execEgressBindingWrite, hb, ht, hr, hst, hcounts, if_neg (Nat.not_lt.2 hsize.le), if_pos hsize,
    Bool.false_eq_true, if_false]

end

/-- A flight whose VP has left is dropped. -/
theorem execOrphanTokenDrop_drops {s : State} {c : CellId} {port : Fin 8} {j : Nat} {f : Flight}
    (hj : (s.flights.findIdx? fun f => f.dest == c && f.port == port && !s.hosted f.vp f.dest) = some j)
    (hf : s.flights[j]? = some f) : exec (.orphanTokenDrop c port) s =
      .next ({ s with flights := dropNth s.flights j }.dropOrphan f.vp (c.src 0 0)) := by
  show execOrphanTokenDrop c port s = _
  simp only [execOrphanTokenDrop, hj, hf]

/-- Settles O46: `State.ringFate` decides a ring's token, and a binding looks at its counts. -/
theorem ringsAndBindings : Obligations.RingsAndBindings := by
  intro s u w v n x
  refine ⟨fun e k wave t rest he hr hbad => ?_, fun b head tail hb => ?_, fun b r p t head tail hb ht hst hrow hcounts =>
    ⟨execEgressBindingWrite_writes hb ht hst hrow hcounts, execEgressBindingWrite_full hb ht hst hrow hcounts⟩,
    fun c port j f hj hf => execOrphanTokenDrop_drops hj hf⟩
  · intro p c out
    have hout : s.popRing v n e = out := popRing_eq hr hbad
    rw [← hout]
    refine ⟨fun hb hres hroom hin hl hph hf => ?_, fun hb hres hroom _ hin hl hph hf => ?_, fun hf hres h0 => ?_,
      fun hl hl' h0 => ?_, fun hph hres h0 => ?_, fun hgone hl ht => ?_, fun hnot h0 => ?_⟩
    · have harr : e.arriving 0 t = damaged := by simp [Edge.arriving, hb]
      have hadm : s.admits c e.toPort 2 = true := (State.admits_unrouted _ _ _ hin 2).trans hroom
      have hfate := State.ringFate_delivers (q := (k, wave, t)) hres hl (State.edgeOpen_running hph e.toPort) hadm hf
      refine execRingDelivery_delivers he hr (by rw [harr]; exact hfate) ?_ ?_
      · rw [harr, hb, if_pos (by decide)]
        exact State.arrive_unrouted _ _ _ _ ((State.inRoutes_countError ..).trans hin)
      · rw [State.stage_putPort, State.stage_putPort, State.stage_countError, State.stage_popRing]
        exact fun h => by rw [h] at hl; cases hl
    · have harr : e.arriving 0 t = [t] := by simp [Edge.arriving, hb]
      have hadm : s.admits c e.toPort 1 = true := (State.admits_unrouted _ _ _ hin 1).trans hroom
      have hfate := State.ringFate_delivers (q := (k, wave, t)) hres hl (State.edgeOpen_running hph e.toPort) hadm hf
      refine execRingDelivery_delivers he hr (by rw [harr]; exact hfate) ?_ ?_
      · rw [harr, hb, if_neg (by decide)]
        exact State.arrive_unrouted _ _ _ _ hin
      · rw [State.stage_putPort, State.stage_popRing]
        exact fun h => by rw [h] at hl; cases hl
    · exact execRingDelivery_waits he hr (State.ringFate_waits hres (.inl hf)) h0
    · exact execRingDelivery_waits he hr (State.ringFate_off hl hl') h0
    · exact execRingDelivery_waits he hr (State.ringFate_waits hres (.inr (State.edgeOpen_past hph _))) h0
    · exact execRingDelivery_discards he hr (State.ringFate_gone hl hgone) ht
    · exact execRingDelivery_waits he hr (State.ringFate_notYet hnot) h0
  · intro p c seen held
    refine ⟨fun hl hl' => execIngressBindingTake_waits hb (.inl ⟨hl, hl'⟩), fun hst hp hl ha hw hph hcounts => ?_,
      fun ha => execIngressBindingTake_waits hb (.inr ha)⟩
    have ho : s.edgeOpen c 5 = true := State.edgeOpen_running hph 5
    exact ⟨fun t hsize hseen htok hadm y => execIngressBindingTake_takes hb rfl hst hp hl ha hw ho hcounts hsize hseen htok hadm,
      execIngressBindingTake_empty hb rfl hst hp hl ha hw ho hcounts,
      fun y => execIngressBindingTake_stops hb rfl hst hp hl ha hw ho hcounts⟩

end Sys2Proof.Machine
end

section
/-!
PROOFS. When a row's next position goes live, and the preload of the one after (O45).
-/

namespace Sys2Proof.Machine
open Sys2Proof

/-! ### What loading an image leaves of the bands

No operation by which the cells of a span are loaded touches a row's record or a band scheduler. One lemma per operation,
in the order of the model's definitions. -/

/-- The rows and the band schedulers. -/
abbrev State.bands (s : State) : List (RowId × Row) × Vector Scheduler 2 := (s.rows, s.scheds)

section
variable {b : List (RowId × Row) × Vector Scheduler 2}

/-- The state of an answer with a state in front. -/
theorem bands_fst {α : Type} {p : State × α} {t : State} {y : α} (e : p = (t, y)) (h : p.1.bands = b) : t.bands = b := by
  subst e
  exact h

/-- A fold whose step keeps them. -/
theorem bands_foldl {α : Type} {f : State → α → State} {l : List α} {s : State} (h : s.bands = b)
    (hf : ∀ s a, s.bands = b → (f s a).bands = b) : (l.foldl f s).bands = b := by
  induction l generalizing s with
  | nil => exact h
  | cons a t ih => exact ih (hf _ _ h)

variable (s : State) (h : s.bands = b)
include h

theorem State.bands_setCell (c : CellId) (x : Cell) : (s.setCell c x).bands = b := h
theorem State.bands_draw : s.draw.2.bands = b := h
theorem State.bands_leave (who : Sender) (pa : Nat) (o : Outbound) : (s.leave who pa o).bands = b := h
theorem State.bands_countError (site : ErrorSite) (u : Bool) : (s.countError site u).bands = b := by
  rw [State.bands, State.countError_rows, State.countError_scheds]
  exact h
theorem State.bands_memWrite (a : Nat) (bs : List Byte) : (s.memWrite a bs).bands = b := by
  rw [State.bands, State.memWrite_rows, State.memWrite_scheds]
  exact h
theorem State.bands_scratchWrite (a : Nat) (bs : List Byte) : (s.scratchWrite a bs).bands = b := by
  rw [State.bands, State.scratchWrite_rows, State.scratchWrite_scheds]
  exact h

theorem State.bands_mark (e : TlbEntry) (bits : Nat) : (s.mark e bits).bands = b := by
  unfold State.mark
  dsimp only
  split
  · exact h
  · exact State.bands_memWrite s h ..

theorem State.bands_fillTlb (e : TlbEntry) : (s.fillTlb e).bands = b := by
  unfold State.fillTlb
  dsimp only
  split <;> exact h

theorem State.bands_translate (cache : CacheId) (tenant : BitVec 8) (root va : Nat) (write : Bool) :
    (s.translate cache tenant root va write).1.bands = b := by
  unfold State.translate
  dsimp only
  with_reducible repeat'
    first
      | exact h | apply State.bands_mark | apply State.bands_fillTlb | apply State.bands_countError | split

theorem State.bands_locRead (who : Sender) (l : Loc) (n : Nat) : (s.locRead who l n).1.bands = b := by
  unfold State.locRead
  dsimp only
  with_reducible repeat'
    first
      | exact h | apply State.bands_leave | apply State.bands_countError | apply State.bands_draw | split

end

section
variable {b : List (RowId × Row) × Vector Scheduler 2} (s : State) (h : s.bands = b)

theorem State.bands_areaLocs (x : Reach) (use : AreaUse) (l : List (Nat × Nat)) (h : s.bands = b) :
    (s.areaLocs x use l).1.bands = b := by
  induction l generalizing s with
  | nil => exact h
  | cons a l ih =>
    unfold State.areaLocs
    dsimp only
    with_reducible repeat'
      first
        | assumption | apply ih | apply State.bands_translate | (apply bands_fst; assumption) | split

theorem State.bands_areaBytes (who : Sender) (l : List (Loc × Nat)) (h : s.bands = b) :
    (s.areaBytes who l).1.bands = b := by
  induction l generalizing s with
  | nil => exact h
  | cons a l ih =>
    unfold State.areaBytes
    with_reducible repeat'
      first
        | assumption | apply ih | apply State.bands_locRead | (apply bands_fst; assumption) | split

theorem State.bands_loadLines (x : Reach) (v : VpId) (wave : Nat) (c : CellId) (va n i : Nat)
    (hload : ∀ (s : State) va n, s.bands = b → (s.loadPart x v wave c va n).1.bands = b) (h : s.bands = b) :
    (s.loadLines x v wave c va n i).bands = b := by
  induction n generalizing s i with
  | zero => exact h
  | succ n ih =>
    unfold State.loadLines
    refine ih _ _ ?_
    split
    all_goals
      next e => exact State.bands_scratchWrite _ (bands_fst e (hload _ _ _ h)) _ _

theorem State.bands_loadRegs (x : Reach) (v : VpId) (wave : Nat) (c : CellId) (va : Nat) (l : List Nat)
    (hload : ∀ (s : State) va n, s.bands = b → (s.loadPart x v wave c va n).1.bands = b) (h : s.bands = b) :
    (s.loadRegs x v wave c va l).bands = b := by
  induction l generalizing s va with
  | nil => exact h
  | cons a l ih =>
    unfold State.loadRegs
    refine ih _ _ ?_
    split
    · next e =>
      have hl := bands_fst e (hload _ _ _ h)
      exact hl
    · next e =>
      have hl := bands_fst e (hload _ _ _ h)
      split
      · exact hl
      · exact State.bands_countError _ hl _ _

include h

theorem State.bands_areaRead (x : Reach) (use : AreaUse) (va n : Nat) : (s.areaRead x use va n).1.bands = b := by
  unfold State.areaRead
  split
  · next e => exact bands_fst e (State.bands_areaLocs s x use _ h)
  · next e => exact State.bands_areaBytes _ _ _ (bands_fst e (State.bands_areaLocs s x use _ h))

theorem State.bands_loadPart (x : Reach) (v : VpId) (wave : Nat) (c : CellId) (va n : Nat) :
    (s.loadPart x v wave c va n).1.bands = b := by
  unfold State.loadPart
  split
  all_goals
    next e =>
    have hl := bands_fst e (State.bands_areaRead s h ..)
    exact hl

theorem State.bands_loadKept (v : VpId) (wave : Nat) (c : CellId) (e : ImageEntry) (va : Nat) :
    (s.loadKept v wave c e va).bands = b := by
  have hload (x : Reach) (s : State) (va n : Nat) (h : s.bands = b) : (s.loadPart x v wave c va n).1.bands = b :=
    State.bands_loadPart s h ..
  unfold State.loadKept
  dsimp only
  with_reducible repeat'
    first
      | exact h | exact hload _ | apply State.bands_loadRegs | apply State.bands_loadPart | apply State.bands_setCell
      | apply State.bands_loadLines | (apply bands_fst; assumption) | split

theorem State.bands_pauseBand (v : VpId) : (s.pauseBand v).bands = b := by
  refine bands_foldl h fun s w h => ?_
  dsimp only
  split <;> exact h

theorem State.bands_raiseCell (v : VpId) (c : CellId) (f : CellFault) (st : Nat) : (s.raiseCell v c f st).bands = b :=
  State.bands_pauseBand _ (State.bands_setCell s h ..) _

theorem State.bands_startBlock (v : VpId) (c : CellId) (n : Nat) : (s.startBlock v c n).bands = b := by
  unfold State.startBlock
  dsimp only
  split
  · exact h
  · split
    · exact State.bands_countError _ (State.bands_raiseCell _ (State.bands_setCell s h ..) ..) _ _
    · split
      · exact State.bands_raiseCell _ (State.bands_setCell s h ..) ..
      · exact h

theorem State.bands_readHeader (r : RowId) (tenant : BitVec 8) (cap : Cap) (rows : Nat) :
    (s.readHeader r tenant cap rows).1.bands = b := by
  unfold State.readHeader
  with_reducible repeat'
    first
      | exact h | apply State.bands_areaRead | (apply bands_fst; assumption) | split

theorem State.bands_readImage (r : RowId) (y : Vp) (e : Nat) : (s.readImage r y e).1.bands = b := by
  unfold State.readImage
  dsimp only
  with_reducible repeat'
    first
      | exact h | apply State.bands_readHeader | apply State.bands_areaRead | (apply bands_fst; assumption) | split

theorem State.bands_cellLive (v : VpId) (e p k : Nat) (c : CellId) (l : Load) : (s.cellLive v e p k c l).bands = b := by
  unfold State.cellLive
  dsimp only
  with_reducible repeat'
    first
      | exact h | apply State.bands_loadKept | apply State.bands_startBlock | split
  all_goals exact h

theorem State.bands_goCell (v : VpId) (e p : Nat) (kc : Nat × CellId) (l : Except Status Load) :
    (s.goCell v e p kc l).bands = b := by
  unfold State.goCell
  split
  · split
    · exact h
    · exact State.bands_cellLive s h ..
  · exact State.bands_raiseCell _ (State.bands_setCell s h ..) ..

theorem State.bands_rejectSpan (v : VpId) (cells : List (Nat × CellId)) (cause : Cause) (st : Nat) :
    (s.rejectSpan v cells cause st).bands = b := by
  unfold State.rejectSpan
  split
  · exact h
  · exact bands_foldl (State.bands_raiseCell _ (State.bands_setCell s h ..) ..) fun s c h => h

theorem State.bands_loadSpan (v : VpId) (e p : Nat) (cells : List (Nat × CellId)) :
    (s.loadSpan v e p cells).1.bands = b := by
  unfold State.loadSpan
  dsimp only
  split
  · exact State.bands_rejectSpan s h ..
  · split
    · exact bands_foldl h fun s q h => State.bands_goCell s h ..
    · split
      · next hr =>
        have hread := bands_fst hr (State.bands_readImage s h ..)
        exact State.bands_rejectSpan _ hread ..
      · next hr =>
        have hread := bands_fst hr (State.bands_readImage s h ..)
        exact bands_foldl hread fun s q h => State.bands_goCell s h ..

end

/-- The fold over the entries of a position that counts the late bytes beside. -/
theorem bands_foldl_fst {b : List (RowId × Row) × Vector Scheduler 2} {α β : Type} {f : State × β → α → State × β}
    {l : List α} {q : State × β} (h : q.1.bands = b) (hf : ∀ q a, q.1.bands = b → (f q a).1.bands = b) :
    (l.foldl f q).1.bands = b := by
  induction l generalizing q with
  | nil => exact h
  | cons a t ih => exact ih (hf _ _ h)

/-- What an answer that keeps the bands leaves of a row. -/
theorem State.row_of_bands {s t : State} (h : t.bands = s.bands) (r : RowId) : t.row r = s.row r := by
  exact congrArg (fun q => alGet q.1 r .reset) h

/-! ### Go-live -/

theorem State.savedBefore_iff (s : State) (v : VpId) (p : Nat) : s.savedBefore v p = true ↔
    (s.vp v).static = true ∨ p < (s.vp v).perWave ∨ s.posState v (p - (s.vp v).perWave) = .gone ∨
      ((s.row ((s.vp v).rowOf v.die (p - (s.vp v).perWave))).host = some v ∧
        (s.row ((s.vp v).rowOf v.die (p - (s.vp v).perWave))).pos = some (p - (s.vp v).perWave) ∧
        (s.row ((s.vp v).rowOf v.die (p - (s.vp v).perWave))).phase = .saved) := by
  unfold State.savedBefore
  dsimp only
  split
  · next h =>
    simp only [Bool.or_eq_true, decide_eq_true_eq] at h
    exact ⟨fun _ => h.elim .inl fun h => .inr (.inl h), fun _ => rfl⟩
  · next h =>
    simp only [Bool.or_eq_true, decide_eq_true_eq, not_or] at h
    simp only [h, false_or, Bool.or_eq_true, Bool.and_eq_true, beq_iff_eq]
    tauto

theorem State.mayGoLive_iff {s : State} {v : VpId} (hlive : (s.vp v).stage = .live) (r : RowId) (p : Nat) :
    s.mayGoLive v r p = true ↔ ((s.row r).phase = .empty ∨ (s.row r).phase = .left) ∧
      ((s.vp v).static = true ∨ p < (s.vp v).total) ∧ s.savedBefore v p = true ∧
      ((s.vp v).static = true ∨ (s.vp v).quiesce = false ∨ (s.vp v).waveOf p ≤ (s.vp v).waveDone) := by
  simp only [State.mayGoLive, hlive, beq_self_eq_true, Bool.true_or, Bool.true_and, Bool.and_eq_true, Bool.or_eq_true,
    beq_iff_eq, decide_eq_true_eq, Bool.not_eq_true', and_assoc, or_assoc]

/-- The row whose next position goes live. -/
abbrev Row.goesLive (row : Row) (p cycle : Nat) : Row :=
  { row with pos := some p, phase := .live, nextPos := none, liveAt := cycle }

/-- The images of a row's next position switched in, and the bytes that came late. -/
def State.switchedIn (s : State) (r : RowId) (v : VpId) (p : Nat) : State × Nat :=
  ((s.vp v).entriesAt p).foldl (fun (q : State × Nat) e =>
    ((q.1.loadSpan v e p ((s.vp v).spanAll r.die e p)).1, q.2 + (q.1.loadSpan v e p ((s.vp v).spanAll r.die e p)).2))
    (s.setRow r ((s.row r).goesLive p s.cycle), 0)

theorem State.bands_switchedIn (s : State) (r : RowId) (v : VpId) (p : Nat) :
    (s.switchedIn r v p).1.bands = (s.setRow r ((s.row r).goesLive p s.cycle)).bands :=
  bands_foldl_fst rfl fun q e h => State.bands_loadSpan q.1 h v e p _

/-- The bytes that a position restores. -/
def State.restoredBytes (s : State) (v : VpId) (p : Nat) : Nat :=
  if (s.vp v).static || decide (p < (s.vp v).perWave) then 0
  else (((s.vp v).entriesAt p).map fun e => ((s.vp v).image e).width * ((s.vp v).image e).rawBytes).sum

/-- A scroll stall counted at a row. -/
def State.addStall (s : State) (r : RowId) (n : Nat) : State :=
  s.setRow r { s.row r with stall := (s.row r).stall + BitVec.ofNat 64 n }

section
variable {s : State} {r : RowId} {v : VpId} {p : Nat} (hhost : (s.row r).host = some v)
  (hpos : (s.row r).nextPos = some p)
include hhost hpos

/-- The step, of a row that hosts a VP and has a next position. -/
theorem execPositionGoLive_next : execPositionGoLive r s = if s.mayGoLive v r p then .next
      (if (s.row r).phase = .left then
        (s.switchedIn r v p).1.addStall ⟨r.die, (s.vp v).dieRow 0⟩
          ((s.row r).exposedStall (s.restoredBytes v p) (s.switchedIn r v p).2)
      else (s.switchedIn r v p).1) else .next s := by
  unfold execPositionGoLive
  dsimp only
  split
  · next v' p' hv hp =>
    cases hv.symm.trans hhost
    cases hp.symm.trans hpos
    cases s.mayGoLive v r p
    · rfl
    · rfl
  · next h => exact absurd hpos (h v p hhost)

/-- A position that may go live does: its images are loaded, and only a scroll stall is added to a row. -/
theorem execPositionGoLive_row (h : s.mayGoLive v r p = true) :
    ∃ t, execPositionGoLive r s = .next t ∧ t.scheds = s.scheds ∧
      ∃ n, t.row r = { (s.row r).goesLive p s.cycle with stall := n } := by
  have hload := s.bands_switchedIn r v p
  have hrow := (State.row_of_bands hload r).trans (State.row_setRow_same ..)
  rw [execPositionGoLive_next hhost hpos, if_pos h]
  by_cases hleft : (s.row r).phase = .left
  · rw [if_pos hleft]
    by_cases hr : r = ⟨r.die, (s.vp v).dieRow 0⟩
    · refine ⟨_, rfl, congrArg Prod.snd hload, ?_⟩
      rw [← hr, State.addStall, State.row_setRow_same, hrow]
      exact ⟨_, rfl⟩
    · exact ⟨_, rfl, congrArg Prod.snd hload, _, (State.row_setRow_other _ _ hr).trans hrow⟩
  · rw [if_neg hleft]
    exact ⟨_, rfl, congrArg Prod.snd hload, _, hrow⟩

end

/-! ### Preloading -/

/-- The first cell of a span that has still to preload of an image, and what. -/
def State.firstPreload (u : State) (x : Vp) (e : Nat) (t : TileImage) (l : List (Nat × CellId)) :
    Option (CellId × KeptImage) :=
  l.findSome? fun c => (u.preloadOf x e t c.2).map fun k => (c.2, k)

/-- A cell's back bank takes frames of what it preloads. -/
def State.preload (u : State) (q : CellId × KeptImage) : State := u.setCell q.1 ((u.cell q.1).fill q.2)

section
variable {s u : State} {r : RowId} {v : VpId} {p : Nat} {t : TileImage}
  (hmove : s.movingRow r = some (v, p)) (hphase : (s.row r).phase.beforeSave = true)
  (hstatic : (s.vp v).static = false) (hnext : p + (s.vp v).b < (s.vp v).total)
  (hread : s.readImage r (s.vp v) ((s.vp v).entryOf (p + (s.vp v).b)) = (u, .ok t))
include hmove hphase hstatic hnext hread

/-- A row's preload step once the image that follows has been read. -/
theorem execImagePreload_read : execImagePreload r s =
    .next (((u.firstPreload (s.vp v) ((s.vp v).entryOf (p + (s.vp v).b)) t
      ((s.vp v).spanAll r.die ((s.vp v).entryOf (p + (s.vp v).b)) (p + (s.vp v).b))).map u.preload).getD u) := by
  have hwait : (!(s.row r).phase.beforeSave || (s.vp v).static || decide ((s.vp v).total ≤ p + (s.vp v).b)) = false := by
    simp only [hphase, hstatic, Nat.not_le.mpr hnext, Bool.not_true, Bool.or_self, decide_false]
  unfold execImagePreload
  rw [hmove]
  dsimp only
  rw [hwait, hread]
  cases h : u.firstPreload (s.vp v) ((s.vp v).entryOf (p + (s.vp v).b)) t
      ((s.vp v).spanAll r.die ((s.vp v).entryOf (p + (s.vp v).b)) (p + (s.vp v).b)) with
  | none =>
    rw [State.firstPreload] at h
    simp only [h, Bool.false_eq_true, if_false, Option.map_none, Option.getD_none]
  | some q =>
    rw [State.firstPreload] at h
    simp only [h, Bool.false_eq_true, if_false, Option.map_some, Option.getD_some]
    rfl

end

/-- The first cell that has to preload is the one behind those that have nothing to. -/
theorem State.firstPreload_of_none {u : State} {x : Vp} {e : Nat} {t : TileImage} {l : List (Nat × CellId)}
    (h : ∀ d ∈ l.map (·.2), u.preloadOf x e t d = none) : u.firstPreload x e t l = none := by
  refine List.findSome?_eq_none_iff.mpr fun q hq => ?_
  rw [h q.2 (List.mem_map_of_mem hq)]
  rfl

theorem State.firstPreload_of_split {u : State} {x : Vp} {e : Nat} {t : TileImage} {l : List (Nat × CellId)}
    {before after : List CellId} {c : CellId} {k : KeptImage} (hl : l.map (·.2) = before ++ c :: after)
    (hbefore : ∀ d ∈ before, u.preloadOf x e t d = none) (hc : u.preloadOf x e t c = some k) :
    u.firstPreload x e t l = some (c, k) := by
  obtain ⟨l₁, l₂, rfl, h₁, h₂⟩ := List.map_eq_append_iff.mp hl
  obtain ⟨q, l₃, rfl, rfl, -⟩ := List.map_eq_cons_iff.mp h₂
  have hnone := State.firstPreload_of_none (l := l₁) (h₁ ▸ hbefore)
  rw [State.firstPreload] at hnone ⊢
  rw [List.findSome?_append, hnone, Option.none_or, List.findSome?_cons, hc]
  rfl

theorem Cell.fill_of_partly {y : Cell} {k : KeptImage} {n : Nat} (h : y.partly k.cap k.tenant = some (k, n)) :
    y.fill k = if k.program.records ≤ n + 4 then
      { y with back := some k, filling := none, badWords := y.rewritten k }
    else { y with back := none, filling := some (k, n + 4) } := by
  rw [Cell.fill, h]
  rfl

theorem initRegs_get (y : Vp) (q : Program) (i : Fin 64) : (initRegs y q)[i] =
    if i.val = 63 then argToken y else if q.regInit.getLsbD i.val then Token.scalar 0 else .nul :=
  Vector.getElem_ofFn ..

theorem State.movingRow_of_live {s : State} {r : RowId} {v : VpId} {p : Nat} (hhost : (s.row r).host = some v)
    (hpos : (s.row r).pos = some p) (hlive : (s.vp v).stage = .live) : s.movingRow r = some (v, p) := by
  simp only [State.movingRow, hhost, hpos, hlive, true_or, if_true]

theorem Phase.beforeSave_of_mem {ph : Phase} (h : ph ∈ [.live, .markers, .draining, .drained, .rcf, .taken]) :
    ph.beforeSave = true := by
  simp only [List.mem_cons, List.not_mem_nil, or_false] at h
  rcases h with rfl | rfl | rfl | rfl | rfl | rfl
  all_goals rfl

/-! ### The obligation -/

/-- Settles O45: `execPositionGoLive_next` reads the step off the conditions, and the loads leave the rows. -/
theorem positionGoesLive : Obligations.PositionGoesLive := by
  intro s u r v p e row x hhost
  have hwait (hpos : row.nextPos = some p) (h : ¬ s.mayGoLive v r p = true) : exec (.positionGoLive r) s = .next s :=
    (execPositionGoLive_next hhost hpos).trans (if_neg h)
  refine ⟨fun hpos hlive hphase htotal hsaved hquiesce => ?_, fun hpos hlive hstatic hquiesce hwave => ?_,
    fun hpos hlive => ⟨fun hphase hfirst htotal hquiesce hone => ?_, fun hempty hleft => ?_,
      fun hstatic hwave hstate hrow => ?_⟩, fun t hpos hphase hlive hstatic hnext hread => ?_,
    fun y k n h => ?_, initRegs_get⟩
  · have hmay := (State.mayGoLive_iff hlive r p).mpr ⟨hphase, htotal, (s.savedBefore_iff v p).mpr hsaved, hquiesce⟩
    obtain ⟨t, ht, hscheds, n, hrow⟩ := execPositionGoLive_row hhost hpos hmay
    refine ⟨t, ht, ?_⟩
    rw [hrow]
    exact ⟨rfl, rfl, rfl, rfl, hhost, hscheds⟩
  · refine hwait hpos fun hmay => ?_
    obtain ⟨-, -, -, h⟩ := (State.mayGoLive_iff hlive r p).mp hmay
    rcases h with h | h | h
    · exact Bool.false_ne_true (hstatic.symm.trans h)
    · exact Bool.false_ne_true (h.symm.trans hquiesce)
    · exact Nat.not_le.mpr hwave h
  · have hmay := (State.mayGoLive_iff hlive r p).mpr ⟨.inl hphase, htotal,
      (s.savedBefore_iff v p).mpr (hfirst.imp_right .inl), hquiesce.imp_right .inl⟩
    intro live
    have hleft : (s.row r).phase ≠ .left := fun h => Phase.noConfusion (hphase.symm.trans h)
    refine (execPositionGoLive_next hhost hpos).trans ((if_pos hmay).trans ?_)
    rw [if_neg hleft, State.switchedIn, hone]
    rfl
  · refine hwait hpos fun hmay => ?_
    obtain ⟨h, -⟩ := (State.mayGoLive_iff hlive r p).mp hmay
    exact h.elim hempty hleft
  · refine hwait hpos fun hmay => ?_
    obtain ⟨-, -, h, -⟩ := (State.mayGoLive_iff hlive r p).mp hmay
    rcases (s.savedBefore_iff v p).mp h with h | h | h | ⟨-, h, -⟩
    · exact Bool.false_ne_true (hstatic.symm.trans h)
    · exact absurd hwave (Nat.not_le.mpr h)
    · exact PosState.noConfusion (hstate.symm.trans h)
    · exact hrow h
  · intro e cells
    have hstep := execImagePreload_read (State.movingRow_of_live hhost hpos hlive) (Phase.beforeSave_of_mem hphase)
      hstatic hnext hread
    refine ⟨fun before after c k hcells hbefore hc => hstep.trans ?_, fun hnone => hstep.trans ?_⟩
    · rw [State.firstPreload_of_split hcells hbefore hc]
      rfl
    · rw [State.firstPreload_of_none hnone]
      rfl
  · rw [Cell.fill_of_partly h]
    exact ⟨fun hn => by rw [if_pos hn]; exact ⟨rfl, rfl⟩, fun hn => by rw [if_neg (Nat.not_le.mpr hn)]; exact ⟨rfl, rfl⟩⟩

end Sys2Proof.Machine
end

section
/-!
PROOFS. The float group of the cells: NaN results, formats, saturation and the special functions (O21).
-/

namespace Sys2Proof.Machine
open Sys2Proof

/-! ### The value of bits -/

/-- R259 for binary32, in numerals. -/
theorem f32_eq (x : Nat) : f32 x =
    if x / 2 ^ 23 % 2 ^ 8 = 255 then (if x % 2 ^ 23 = 0 then .inf (bitAt x 31) else .nan)
    else if x / 2 ^ 23 % 2 ^ 8 = 0 then .fin (bitAt x 31) (x % 2 ^ 23) (-149)
    else .fin (bitAt x 31) (2 ^ 23 + x % 2 ^ 23) (-149 + ((x / 2 ^ 23 % 2 ^ 8 : Nat) - 1)) := rfl

theorem f32_subnormal {x : Nat} (h : x % 2 ^ 31 < 0x00800000) : f32 x = .fin (bitAt x 31) (x % 2 ^ 23) (-149) := by
  rw [f32_eq, if_neg (by omega), if_pos (by omega)]

theorem f32_normal {x : Nat} (hl : 0x00800000 ≤ x % 2 ^ 31) (hr : x % 2 ^ 31 < 0x7F800000) :
    f32 x = .fin (bitAt x 31) (2 ^ 23 + x % 2 ^ 23) ((x % 2 ^ 31 / 2 ^ 23 : Nat) - 150) := by
  rw [f32_eq, if_neg (by omega), if_neg (by omega)]
  congr 1
  omega

theorem f32_inf {x : Nat} (h : x % 2 ^ 31 = 0x7F800000) : f32 x = .inf (bitAt x 31) := by
  rw [f32_eq, if_pos (by omega), if_pos (by omega)]

theorem f32_nan {x : Nat} (h : 0x7F800000 < x % 2 ^ 31) : f32 x = .nan := by
  rw [f32_eq, if_pos (by omega), if_neg (by omega)]

/-- The bits of a number that are no NaN's and no infinity's are a finite value's. -/
theorem f32_finite {x : Nat} (h : x % 2 ^ 31 < 0x7F800000) : ∃ m e, f32 x = .fin (bitAt x 31) m e := by
  rcases Nat.lt_or_ge (x % 2 ^ 31) 0x00800000 with hl | hl
  · exact ⟨_, _, f32_subnormal hl⟩
  · exact ⟨_, _, f32_normal hl h⟩

theorem f32_ne_nan {x : Nat} (h : ¬ 0x7F800000 < x % 2 ^ 31) : f32 x ≠ .nan := by
  rcases Nat.lt_or_eq_of_le (Nat.not_lt.mp h) with h | h
  · obtain ⟨m, e, h⟩ := f32_finite h
    rw [h]
    exact Fp.noConfusion
  · rw [f32_inf h]
    exact Fp.noConfusion

theorem bitAt_31_of_lt {x : Nat} (h : x < 2 ^ 31) : bitAt x 31 = false := by
  simp only [bitAt, Nat.div_eq_of_lt h]
  rfl

theorem bitAt_31_of_le {x : Nat} (hl : 2 ^ 31 ≤ x) (hr : x < 2 ^ 32) : bitAt x 31 = true := by
  have h : x / 2 ^ 31 = 1 := by omega
  simp only [bitAt, h]
  rfl

/-! ### NaN operands (R263, R299) -/

@[simp] theorem Fp.nan_add (x : Fp) : Fp.nan.add x = .nan := rfl
@[simp] theorem Fp.add_nan (x : Fp) : x.add .nan = .nan := by cases x <;> rfl
@[simp] theorem Fp.nan_mul (x : Fp) : Fp.nan.mul x = .nan := rfl
@[simp] theorem Fp.mul_nan (x : Fp) : x.mul .nan = .nan := by cases x <;> rfl
@[simp] theorem Fp.nan_compare (x : Fp) : Fp.nan.compare x = none := rfl
@[simp] theorem Fp.compare_nan (x : Fp) : x.compare .nan = none := by cases x <;> rfl
@[simp] theorem Fp.neg_nan : Fp.nan.neg = .nan := rfl
@[simp] theorem Fp.div_nan (x : Fp) : x.div .nan = .nan := by cases x <;> rfl
@[simp] theorem toF32_nan : toF32 .nan = 0x7FC00000 := rfl

section
variable {a b : Nat}

theorem compare_of_nan (h : f32 a = .nan ∨ f32 b = .nan) : (f32 a).compare (f32 b) = none := by
  rcases h with h | h
  · rw [h, Fp.nan_compare]
  · rw [h, Fp.compare_nan]

/-- Of operands one of which is a NaN only the unordered condition holds. -/
theorem floatCmp_of_nan (h : f32 a = .nan ∨ f32 b = .nan) (m : Nat) : floatCmp m a b = true ↔ m = 3 := by
  unfold floatCmp
  rw [compare_of_nan h]
  match m with
  | 0 | 1 | 2 | 3 | 4 | n + 5 => simp

theorem f32Add_of_nan (h : f32 a = .nan ∨ f32 b = .nan) : f32Add a b = 0x7FC00000 := by
  rcases h with h | h <;> simp [f32Add, h]

theorem f32Sub_of_nan (h : f32 a = .nan ∨ f32 b = .nan) : f32Sub a b = 0x7FC00000 := by
  rcases h with h | h <;> simp [f32Sub, h]

theorem f32Mul_of_nan (h : f32 a = .nan ∨ f32 b = .nan) : f32Mul a b = 0x7FC00000 := by
  rcases h with h | h <;> simp [f32Mul, h]

theorem f32Min_nan_left (ha : f32 a = .nan) (hb : f32 b ≠ .nan) : f32Min a b = b := by
  rw [f32Min, compare_of_nan (.inl ha), ha]
  cases h : f32 b with
  | nan => exact absurd h hb
  | inf | fin => rfl

theorem f32Max_nan_left (ha : f32 a = .nan) (hb : f32 b ≠ .nan) : f32Max a b = b := by
  rw [f32Max, compare_of_nan (.inl ha), ha]
  cases h : f32 b with
  | nan => exact absurd h hb
  | inf | fin => rfl

theorem f32Min_nan_right (ha : f32 a ≠ .nan) (hb : f32 b = .nan) : f32Min a b = a := by
  rw [f32Min, compare_of_nan (.inr hb)]
  cases h : f32 a with
  | nan => exact absurd h ha
  | inf | fin => rfl

theorem f32Max_nan_right (ha : f32 a ≠ .nan) (hb : f32 b = .nan) : f32Max a b = a := by
  rw [f32Max, compare_of_nan (.inr hb)]
  cases h : f32 a with
  | nan => exact absurd h ha
  | inf | fin => rfl

theorem f32Min_nan_both (ha : f32 a = .nan) (hb : f32 b = .nan) : f32Min a b = 0x7FC00000 := by
  rw [f32Min, compare_of_nan (.inl ha), ha, hb]
  rfl

theorem f32Max_nan_both (ha : f32 a = .nan) (hb : f32 b = .nan) : f32Max a b = 0x7FC00000 := by
  rw [f32Max, compare_of_nan (.inl ha), ha, hb]
  rfl

end

theorem truth_toNat (b : Bool) : (truth b).toNat = if b then 2 ^ 32 - 1 else 0 := by
  cases b
  · rfl
  · rfl

/-- FCMP's result is all ones or 0. -/
theorem execFcmp_eq (f : C3) (s : State) : exec (.fcmp f) s =
    fireFloat2 (.fcmp f) (fun a b => if floatCmp f.m.val a b then 2 ^ 32 - 1 else 0) s := by
  simp only [← truth_toNat]
  rfl

/-! ### FABS (R298) -/

/-- A word's sign and magnitude. -/
theorem exists_cons (a : Elem) : ∃ (b : Bool) (r : BitVec 31), a = BitVec.cons b r :=
  ⟨a.msb, a.setWidth 31, (BitVec.cons_msb_setWidth a).symm⟩

theorem toNat_cons_elem (b : Bool) (r : BitVec 31) : (BitVec.cons b r).toNat = (if b then 2 ^ 31 else 0) + r.toNat := by
  rw [BitVec.toNat_cons']
  cases b <;> simp [Nat.shiftLeft_eq]

theorem ofNat_toNat_cons {b : Bool} {r : BitVec 31} {n : Nat} (h : n = (if b then 2 ^ 31 else 0) + r.toNat) :
    BitVec.ofNat 32 n = BitVec.cons b r := by
  rw [h, ← toNat_cons_elem, BitVec.ofNat_toNat, BitVec.setWidth_eq]

/-- FABS of no NaN, by its sign and magnitude. -/
theorem floatAbs_cons {b : Bool} {r : BitVec 31} (h : ¬ 0x7F800000 < (BitVec.cons b r).toNat % 2 ^ 31) :
    BitVec.ofNat 32 (floatAbs 0 (BitVec.cons b r).toNat) = BitVec.cons false r ∧
      BitVec.ofNat 32 (floatAbs 1 (BitVec.cons b r).toNat) = BitVec.cons (!b) r ∧
      BitVec.ofNat 32 (floatAbs 2 (BitVec.cons b r).toNat) = BitVec.cons true r ∧
      BitVec.ofNat 32 (floatAbs 3 (BitVec.cons b r).toNat) = BitVec.cons b r := by
  have hnan : isNaN32 (BitVec.cons b r).toNat = false := decide_eq_false h
  have hsign : bitAt (BitVec.cons b r).toNat 31 = b := by
    rw [bitAt_toNat, BitVec.getLsbD_cons, if_pos rfl]
  have hr : r.toNat < 2 ^ 31 := r.isLt
  have hval := toNat_cons_elem b r
  simp only [floatAbs, hnan, hsign, Bool.false_eq_true, if_false]
  refine ⟨ofNat_toNat_cons ?_, ofNat_toNat_cons ?_, ofNat_toNat_cons ?_, ofNat_toNat_cons hval⟩
  all_goals
    rw [hval]
    cases b
    · simp
      omega
    · simp
      omega

theorem floatAbs_of_nan {x : Nat} (h : 0x7F800000 < x % 2 ^ 31) (m : Nat) : floatAbs m x = 0x7FC00000 :=
  if_pos (decide_eq_true h)

/-- FABS of no NaN, by the word. -/
theorem floatAbs_modes {a : Elem} (h : ¬ 0x7F800000 < a.toNat % 2 ^ 31) :
    BitVec.ofNat 32 (floatAbs 0 a.toNat) = a &&& 0x7FFFFFFF ∧
      BitVec.ofNat 32 (floatAbs 1 a.toNat) = (a ^^^ 0x80000000) ∧
      BitVec.ofNat 32 (floatAbs 2 a.toNat) = a ||| 0x80000000 ∧ BitVec.ofNat 32 (floatAbs 3 a.toNat) = a := by
  obtain ⟨b, r, rfl⟩ := exists_cons a
  have hmag : (0x7FFFFFFF : Elem) = BitVec.cons false (BitVec.allOnes 31) := rfl
  have hsign : (0x80000000 : Elem) = BitVec.cons true 0 := rfl
  obtain ⟨h0, h1, h2, h3⟩ := floatAbs_cons h
  refine ⟨h0.trans ?_, h1.trans ?_, h2.trans ?_, h3⟩
  · rw [hmag, BitVec.cons_and_cons, Bool.and_false, BitVec.and_allOnes]
  · rw [hsign, BitVec.cons_xor_cons, Bool.xor_true]
    exact congrArg _ BitVec.xor_zero.symm
  · rw [hsign, BitVec.cons_or_cons, Bool.or_true]
    exact congrArg _ BitVec.or_zero.symm

/-! ### FCVT (R300) -/

theorem f32ToInt_of_nan {x : Nat} (h : f32 x = .nan) (mode : Mode) (lo hi : Int) : f32ToInt mode lo hi x = 0 := by
  rw [f32ToInt, h]

/-- A whole number is its own integer. -/
theorem Fp.toInt_whole (mode : Mode) (m : Nat) {e : Int} (he : 0 ≤ e) :
    Fp.toInt mode false m e = (m * 2 ^ e.toNat : Nat) := by
  simp only [Fp.toInt, if_pos he, Bool.false_eq_true, if_false]
  norm_cast

/-- From 2^(23 + k) on, a number saturates a bound up to that. -/
theorem f32ToInt_saturates {x k : Nat} {lo hi : Int} (mode : Mode) (hx : x < 2 ^ 31) (hnan : ¬ 0x7F800000 < x % 2 ^ 31)
    (hk : (150 + k) * 2 ^ 23 ≤ x) (hlo : lo ≤ hi) (hhi : hi ≤ (2 ^ (23 + k) : Nat)) : f32ToInt mode lo hi x = hi := by
  have hmod := Nat.mod_eq_of_lt hx
  unfold f32ToInt
  rcases Nat.lt_or_eq_of_le (Nat.not_lt.mp hnan) with hfin | hinf
  · rw [f32_normal (by omega) hfin, bitAt_31_of_lt hx]
    have hpow : (2 : Nat) ^ k ≤ 2 ^ ((x % 2 ^ 31 / 2 ^ 23 : Nat) - 150 : Int).toNat :=
      Nat.pow_le_pow_right (by decide) (by omega)
    have hbig : 2 ^ (23 + k) ≤ (2 ^ 23 + x % 2 ^ 23) * 2 ^ ((x % 2 ^ 31 / 2 ^ 23 : Nat) - 150 : Int).toNat :=
      (Nat.pow_add ..).le.trans (Nat.mul_le_mul (Nat.le_add_right ..) hpow)
    have hle := hhi.trans (Int.ofNat_le.mpr hbig)
    rw [← Fp.toInt_whole mode _ (by omega)] at hle
    show max lo (min hi _) = hi
    rw [min_eq_left hle, max_eq_right hlo]
  · rw [f32_inf hinf, bitAt_31_of_lt hx]
    rfl

/-- No negative number has a positive unsigned integer. -/
theorem f32ToInt_negative {x : Nat} {hi : Int} (mode : Mode) (hl : 2 ^ 31 ≤ x) (hr : x < 2 ^ 32)
    (hnan : ¬ 0x7F800000 < x % 2 ^ 31) : f32ToInt mode 0 hi x = 0 := by
  unfold f32ToInt
  rcases Nat.lt_or_eq_of_le (Nat.not_lt.mp hnan) with hfin | hinf
  · obtain ⟨m, e, h⟩ := f32_finite hfin
    rw [h, bitAt_31_of_le hl hr]
    have hle : Fp.toInt mode true m e ≤ 0 := by
      simp only [Fp.toInt, if_true]
      split
      · exact Int.neg_nonpos_of_nonneg (Int.mul_nonneg (Int.natCast_nonneg _) (by positivity))
      · exact Int.neg_nonpos_of_nonneg (Int.natCast_nonneg _)
    exact max_eq_left ((min_le_right ..).trans hle)
  · rw [f32_inf hinf, bitAt_31_of_le hl hr]
    rfl

/-- The spacing at which (−1)^s · m · 2^e is rounded, as an exponent of 2. -/
def Fmt.spacing (f : Fmt) (m : Nat) (e : Int) : Int := max (e + m.log2 - f.frac) f.low

/-- Its magnitude's bits, as if no exponent were too large. -/
def Fmt.magnitude (f : Fmt) (mode : Mode) (m : Nat) (e : Int) : Nat :=
  (f.spacing m e - f.low).toNat * 2 ^ f.frac +
    if f.spacing m e ≤ e then m * 2 ^ (e - f.spacing m e).toNat else shiftRound mode m (f.spacing m e - e).toNat

/-- The magnitude's bits where the exponent is too large. -/
def Fmt.overflow (f : Fmt) : Mode → Nat
  | .rne => f.inf
  | .rtz => f.inf - 1

theorem Fmt.overflow_le (f : Fmt) (mode : Mode) : f.overflow mode ≤ f.inf := by
  cases mode
  · exact Nat.le_refl _
  · exact Nat.sub_le ..

theorem Fmt.round_zero (f : Fmt) (mode : Mode) (s : Bool) (e : Int) : f.round mode s 0 e = f.sign s := if_pos rfl

theorem Fmt.round_of_ne (f : Fmt) (mode : Mode) (s : Bool) {m : Nat} (hm : m ≠ 0) (e : Int) : f.round mode s m e =
    f.sign s + if f.magnitude mode m e < f.inf then f.magnitude mode m e else f.overflow mode :=
  if_neg hm

theorem Fmt.round_le (f : Fmt) (mode : Mode) (s : Bool) (m : Nat) (e : Int) : f.round mode s m e ≤ f.sign s + f.inf := by
  by_cases hm : m = 0
  · rw [hm, f.round_zero]
    exact Nat.le_add_right ..
  · rw [f.round_of_ne mode s hm]
    refine Nat.add_le_add_left ?_ _
    split
    · next h => exact Nat.le_of_lt h
    · exact f.overflow_le mode

theorem Fmt.sign_le (f : Fmt) (s : Bool) : f.sign s ≤ f.sign true := by
  cases s
  · exact Nat.zero_le _
  · exact Nat.le_refl _

/-- No encoding lies above the NaN with a sign. -/
theorem Fmt.encode_le (f : Fmt) (mode : Mode) (v : Fp) : f.encode mode v ≤ f.sign true + f.nan := by
  have hinf (s : Bool) : f.sign s + f.inf ≤ f.sign true + f.nan := Nat.add_le_add (f.sign_le s) (Nat.le_add_right ..)
  cases v with
  | nan => exact Nat.le_add_left ..
  | inf s => exact hinf s
  | fin s m e => exact (f.round_le mode s m e).trans (hinf s)

theorem div_le_shiftRound (mode : Mode) (x n : Nat) : x / 2 ^ n ≤ shiftRound mode x n := by
  cases mode with
  | rtz => exact Nat.le_refl _
  | rne =>
    simp only [shiftRound]
    split
    · exact Nat.le_succ _
    · exact Nat.le_refl _

/-- From 2^16 on, a number overflows binary16. -/
theorem convert_f16_overflow {x : Nat} (mode : Mode) (hl : 0x47800000 ≤ x) (hr : x < 0x7F800000) :
    convert .f32 .f16 mode x = Fmt.f16.overflow mode := by
  have hx : x < 2 ^ 31 := by omega
  have hmod := Nat.mod_eq_of_lt hx
  obtain ⟨m, hm⟩ : ∃ m, m = 2 ^ 23 + x % 2 ^ 23 := ⟨_, rfl⟩
  obtain ⟨e, he⟩ : ∃ e : Int, e = (x % 2 ^ 31 / 2 ^ 23 : Nat) - 150 := ⟨_, rfl⟩
  have hlog : m.log2 = 23 := (Nat.log2_eq_iff (by omega)).mpr (by omega)
  have hspace : Fmt.f16.spacing m e = e + 13 := by
    rw [Fmt.spacing, hlog]
    show max (e + (23 : Nat) - (10 : Nat)) (-24) = e + 13
    omega
  have hbits : Fmt.f16.inf ≤ Fmt.f16.magnitude mode m e := by
    have hround := div_le_shiftRound mode m (e + 13 - e).toNat
    have hshift : (e + 13 - e).toNat = 13 := by omega
    rw [Fmt.magnitude, hspace, if_neg (by omega)]
    rw [hshift] at hround ⊢
    show 0x7C00 ≤ (e + 13 - -24).toNat * 2 ^ 10 + _
    omega
  show Fmt.f16.encode mode (f32 x) = _
  rw [f32_normal (by omega) (by omega), bitAt_31_of_lt hx, ← hm, ← he]
  show Fmt.f16.round mode false m e = _
  rw [Fmt.round_of_ne _ _ _ (by omega), if_neg (Nat.not_lt.mpr hbits)]
  exact Nat.zero_add _

/-- The results and the 16-bit formats of FCVT fit in 16 bits. -/
theorem floatConvert_half (x : Nat) :
    floatConvert 7 x < 2 ^ 16 ∧ floatConvert 8 x < 2 ^ 16 ∧ floatConvert 9 x < 2 ^ 16 :=
  ⟨(Fmt.encode_le ..).trans_lt (by decide), (Fmt.encode_le ..).trans_lt (by decide),
    (Fmt.encode_le ..).trans_lt (by decide)⟩

/-! ### UNPK and PACK (R301) -/

section
variable {m j i : Nat} {l r : Token}

/-- Half k of a word. -/
theorem half_eq (w : Elem) (k : Nat) :
    (if k % 2 = 0 then w.toNat % 2 ^ 16 else w.toNat / 2 ^ 16) = w.toNat / 2 ^ (16 * (k % 2)) % 2 ^ 16 := by
  have hw : w.toNat < 2 ^ 32 := w.isLt
  rcases Nat.mod_two_eq_zero_or_one k with h | h
  · rw [if_pos h, h, Nat.mul_zero, Nat.pow_zero, Nat.div_one]
  · rw [if_neg (by omega), h, Nat.mul_one]
    omega

theorem unpkToken_ok (hj : j < 16) : (unpkToken m l).ok j = l.ok ((if m % 2 = 0 then 0 else 8) + j / 2) := by
  unfold unpkToken
  rw [Token.ok_lanes hj]

theorem unpkToken_at (hj : j < 16) (hok : l.ok ((if m % 2 = 0 then 0 else 8) + j / 2) = true) :
    (unpkToken m l).at j = BitVec.ofNat 32 (convert (if m < 2 then .f16 else .bf16) .f32 .rne
      ((l.at ((if m % 2 = 0 then 0 else 8) + j / 2)).toNat / 2 ^ (16 * (j % 2)) % 2 ^ 16)) := by
  unfold unpkToken
  rw [Token.at_lanes hj, if_pos hok]
  dsimp only
  rw [half_eq]

theorem packToken_ok (hi : i < 16) : (packToken m l r).ok i =
    ((if i < 8 then l else r).ok (2 * (i % 8)) || (if i < 8 then l else r).ok (2 * (i % 8) + 1)) := by
  unfold packToken
  rw [Token.ok_lanes hi]

/-- What PACK makes of lane j of a source: an invalid half is 0. -/
def narrowed (m : Nat) (src : Token) (j : Nat) : Nat :=
  if src.ok j = false then 0
  else convert .f32 (if m = 1 then .bf16 else .f16) (if m = 2 then .rtz else .rne) (src.at j).toNat

theorem packToken_at (hm : m < 3) (hi : i < 16) (hok : (if i < 8 then l else r).ok (2 * (i % 8)) = true ∨
      (if i < 8 then l else r).ok (2 * (i % 8) + 1) = true) :
    (packToken m l r).at i = BitVec.ofNat 32 (narrowed m (if i < 8 then l else r) (2 * (i % 8)) +
      narrowed m (if i < 8 then l else r) (2 * (i % 8) + 1) * 2 ^ 16) := by
  have half (src : Token) (k x : Nat) : (if src.ok k then x else 0) = if src.ok k = false then 0 else x := by
    cases src.ok k
    · rfl
    · rfl
  unfold packToken narrowed
  rw [Token.at_lanes hi, if_pos (Bool.or_eq_true_iff.mpr hok)]
  match m, hm with
  | 0, _ | 1, _ | 2, _ =>
    dsimp only
    rw [half, half]
    simp

end

/-! ### The special functions (R276) -/

set_option maxRecDepth 4000 in
/-- 2^n of whole n from −148 to 127 is exact. -/
theorem fexp2_whole : ∀ n : Fin 276, let k : Int := (n.val : Int) - 148
    fexp2 (intToF32 k) = if k < -126 then 2 ^ (k + 149).toNat else (k + 127).toNat * 2 ^ 23 := by
  decide

/-- log2 of a power of two is exact. -/
theorem flog2_power {x k : Nat} {e : Int} (h : f32 x = .fin false (2 ^ k) e) : flog2 x = intToF32 (k + e) := by
  unfold flog2
  rw [h]
  dsimp only
  rw [Nat.log2_two_pow, if_neg (Nat.two_pow_pos k).ne', if_neg Bool.false_ne_true, if_pos rfl]

theorem flog2_normal_power (n : Fin 254) : flog2 ((n.val + 1) * 2 ^ 23) = intToF32 ((n.val : Int) - 126) := by
  have hn := n.isLt
  have hx : (n.val + 1) * 2 ^ 23 < 2 ^ 31 := by omega
  have hexp : (n.val + 1) * 2 ^ 23 % 2 ^ 31 / 2 ^ 23 = n.val + 1 := by omega
  have hfrac : (n.val + 1) * 2 ^ 23 % 2 ^ 23 = 0 := by omega
  have hval := f32_normal (x := (n.val + 1) * 2 ^ 23) (by omega) (by omega)
  rw [bitAt_31_of_lt hx, hexp, hfrac] at hval
  rw [flog2_power hval]
  congr 1
  omega

theorem flog2_subnormal_power (n : Fin 23) : flog2 (2 ^ n.val) = intToF32 ((n.val : Int) - 149) := by
  have hlt : 2 ^ n.val < 2 ^ 23 := Nat.pow_lt_pow_right (by decide) n.isLt
  obtain ⟨x, hx⟩ : ∃ x, x = 2 ^ n.val := ⟨_, rfl⟩
  rw [← hx] at hlt ⊢
  have hval := f32_subnormal (x := x) (by omega)
  rw [bitAt_31_of_lt (by omega), Nat.mod_eq_of_lt hlt] at hval
  exact flog2_power (hval.trans (congrArg (Fp.fin false · _) hx))

section
variable {x : Nat}

theorem special_of_nan (h : f32 x = .nan) :
    fexp2 x = 0x7FC00000 ∧ flog2 x = 0x7FC00000 ∧ frcp x = 0x7FC00000 ∧ frsq x = 0x7FC00000 ∧ ftanh x = 0x7FC00000 := by
  unfold fexp2 flog2 frcp f32Div frsq ftanh
  rw [h, Fp.div_nan]
  exact ⟨rfl, rfl, rfl, rfl, rfl⟩

/-- The values of the negative numbers and of −∞. -/
theorem f32_negative (hl : 0x80000000 < x) (hr : x ≤ 0xFF800000) :
    f32 x = .inf true ∨ ∃ m e, m ≠ 0 ∧ f32 x = .fin true m e := by
  have hsign : bitAt x 31 = true := bitAt_31_of_le (by omega) (by omega)
  rcases Nat.lt_or_ge (x % 2 ^ 31) 0x00800000 with hsub | hnormal
  · exact .inr ⟨_, _, by omega, hsign ▸ f32_subnormal hsub⟩
  · rcases Nat.lt_or_ge (x % 2 ^ 31) 0x7F800000 with hfin | hinf
    · exact .inr ⟨_, _, by omega, hsign ▸ f32_normal hnormal hfin⟩
    · exact .inl (hsign ▸ f32_inf (by omega))

/-- log2 and 1/√x of a negative number are the NaN. -/
theorem special_of_negative (hl : 0x80000000 < x) (hr : x ≤ 0xFF800000) :
    flog2 x = 0x7FC00000 ∧ frsq x = 0x7FC00000 := by
  unfold flog2 frsq
  rcases f32_negative hl hr with h | ⟨m, e, hm, h⟩
  · rw [h]
    exact ⟨rfl, rfl⟩
  · rw [h]
    dsimp only
    rw [if_neg hm, if_neg hm]
    exact ⟨rfl, rfl⟩

theorem roundFixed_sign (s : Bool) (v : Nat) (e : Int) : roundFixed s v e = Fmt.f32.sign s + roundFixed false v e := by
  unfold roundFixed
  rw [Fmt.round_of_ne _ _ _ (Nat.succ_ne_zero _), Fmt.round_of_ne _ _ false (Nat.succ_ne_zero _)]
  exact congrArg _ (Nat.zero_add _).symm

theorem faithful_sign (fn key v : Nat) (rising s : Bool) (e : Int) :
    faithful fn rising key s v e = Fmt.f32.sign s + faithful fn rising key false v e :=
  congrArg _ (Nat.zero_add _).symm

/-- A finite number and the one of the other sign. -/
theorem f32_signs (h : x < 0x7F800000) : ∃ m e, f32 x = .fin false m e ∧ f32 (x + 2 ^ 31) = .fin true m e := by
  have hpos : bitAt x 31 = false := bitAt_31_of_lt (by omega)
  have hneg : bitAt (x + 2 ^ 31) 31 = true := bitAt_31_of_le (by omega) (by omega)
  have hmag : (x + 2 ^ 31) % 2 ^ 31 = x % 2 ^ 31 := Nat.add_mod_right ..
  have hfrac : (x + 2 ^ 31) % 2 ^ 23 = x % 2 ^ 23 := by omega
  rcases Nat.lt_or_ge x 0x00800000 with hsub | hnormal
  · refine ⟨_, _, (f32_subnormal (by omega)).trans (by rw [hpos]), (f32_subnormal (by omega)).trans ?_⟩
    rw [hneg, hfrac]
  · refine ⟨_, _, (f32_normal (by omega) (by omega)).trans (by rw [hpos]), (f32_normal (by omega) (by omega)).trans ?_⟩
    rw [hneg, hfrac, hmag]

/-- The size of e^(2|x|), as a fixed-point number. -/
def expTwice (m : Nat) (e : Int) : Nat :=
  exp2Frac (2 * fixed m e * one / ln2 % one) * 2 ^ (2 * fixed m e * one / ln2 / one)

/-- The magnitude of tanh of a number of magnitude bits k from 2^(−13) on. -/
def tanhMagnitude (k m : Nat) (e : Int) : Nat :=
  if 0x41200000 ≤ k then 0x3F800000
  else if k < 0x3F800000 then faithful 4 true k false ((expTwice m e - one) * one / (expTwice m e + one)) 0
  else roundFixed false ((expTwice m e - one) * one / (expTwice m e + one)) 0

theorem ftanh_finite {m : Nat} {s : Bool} {e : Int} (h : f32 x = .fin s m e) : ftanh x =
    if magBits x < 0x39000000 then x else Fmt.f32.sign s + tanhMagnitude (magBits x) m e := by
  unfold ftanh tanhMagnitude
  rw [h]
  dsimp only
  split
  · rfl
  · split
    · rfl
    · rw [faithful_sign, roundFixed_sign]
      split
      · rfl
      · rfl
/-- FTANH is odd. -/
theorem ftanh_neg (h : x ≤ 0x7F800000) : ftanh (x + 2 ^ 31) = ftanh x + 2 ^ 31 := by
  rcases Nat.lt_or_eq_of_le h with hfin | rfl
  · obtain ⟨m, e, hpos, hneg⟩ := f32_signs hfin
    have hmag : magBits (x + 2 ^ 31) = magBits x := by rw [magBits, Nat.add_mod_right, magBits]
    have htrue : Fmt.f32.sign true = 2 ^ 31 := rfl
    have hfalse : Fmt.f32.sign false = 0 := rfl
    rw [ftanh_finite hpos, ftanh_finite hneg, hmag, htrue, hfalse, Nat.zero_add, Nat.add_comm (2 ^ 31)]
    split
    · rfl
    · rfl
  · unfold ftanh
    rw [f32_inf (by decide), f32_inf (by decide)]
    rfl

end

/-- A faithful result is one of the two neighbours of the exact value. -/
theorem faithful_neighbours (fn key v : Nat) (rising sign : Bool) (e : Int) :
    faithful fn rising key sign v e = Fmt.f32.sign sign + Fmt.f32.round .rtz false (2 * v + 1) (e - 193) ∨
      faithful fn rising key sign v e = Fmt.f32.sign sign + (Fmt.f32.round .rtz false (2 * v + 1) (e - 193) + 1) := by
  have hprec : e - prec - 1 = e - 193 := by
    show e - 192 - 1 = e - 193
    omega
  unfold faithful
  dsimp only
  rw [hprec]
  exact (ite_eq_or_eq _ _ _).symm.imp (congrArg (Fmt.f32.sign sign + ·)) (congrArg (Fmt.f32.sign sign + ·))

/-! ### The obligation -/

/-- Settles O21: the results from the shared lane-wise rules, a NaN by its value, the saturations and overflows by the
exponent, the special functions by the value of their operand's bits. -/
theorem cellFloats : Obligations.CellFloats := by
  refine ⟨fun f => ?results, fun a b m => ?nans, ⟨fun a => ?convert, fun m l j hj => ?unpk, fun m l r i hi => ?pack⟩,
    ?special⟩
  case results =>
    exact ⟨results_of fun _ => rfl, results_of fun _ => rfl, results_of fun _ => rfl, results_of fun _ => rfl,
      results_of fun _ => rfl, results_of fun _ => rfl, results_of fun _ => rfl, results_of (execFcmp_eq f),
      results_of fun _ => rfl, results_of fun _ => rfl, results_of fun _ => rfl, results_of fun _ => rfl,
      results_of fun _ => rfl, results_of fun _ => rfl, results_of fun _ => rfl, results_of fun _ => rfl⟩
  case nans =>
    intro nan
    refine ⟨fun h => ?_, fun ha hb => ?_, fun ha hb => ?_, fun ha hb => ?_⟩
    · have h := h.imp f32_nan f32_nan
      exact ⟨f32Add_of_nan h, f32Sub_of_nan h, f32Mul_of_nan h, floatCmp_of_nan h m⟩
    · exact ⟨f32Min_nan_left (f32_nan ha) (f32_ne_nan hb), f32Max_nan_left (f32_nan ha) (f32_ne_nan hb)⟩
    · exact ⟨f32Min_nan_right (f32_ne_nan ha) (f32_nan hb), f32Max_nan_right (f32_ne_nan ha) (f32_nan hb)⟩
    · exact ⟨f32Min_nan_both (f32_nan ha) (f32_nan hb), f32Max_nan_both (f32_nan ha) (f32_nan hb)⟩
  case convert =>
    intro x nan
    have hx : x < 2 ^ 32 := a.isLt
    obtain ⟨h7, h8, h9⟩ := floatConvert_half x
    refine ⟨floatAbs_of_nan, floatAbs_modes, fun h => ?_, fun hlt hle h => ?_, fun hlt hle h => ?_, fun hle h => ?_,
      ?_, ?_, h7, h8, h9, fun hl hr => ⟨convert_f16_overflow .rtz hl hr, convert_f16_overflow .rne hl hr⟩⟩
    · have h0 (mode : Mode) (lo hi : Int) : wrap (f32ToInt mode lo hi x) 32 = 0 := by
        rw [f32ToInt_of_nan (f32_nan h)]
        rfl
      exact ⟨h0 .., h0 .., h0 ..⟩
    · have hmax (mode : Mode) : wrap (f32ToInt mode (-(2 ^ 31)) (2 ^ 31 - 1) x) 32 = 0x7FFFFFFF := by
        rw [f32ToInt_saturates (k := 8) mode hlt h (by omega) (by decide) (by decide)]
        rfl
      exact ⟨hmax .rne, hmax .rtz⟩
    · show wrap (f32ToInt .rne 0 (2 ^ 32 - 1) x) 32 = 0xFFFFFFFF
      rw [f32ToInt_saturates (k := 9) .rne hlt h (by omega) (by decide) (by decide)]
      rfl
    · show wrap (f32ToInt .rne 0 (2 ^ 32 - 1) x) 32 = 0
      rw [f32ToInt_negative .rne hle hx h]
      rfl
    · exact congrArg (convert .f16 .f32 .rne) (Nat.mod_mod ..).symm
    · exact congrArg (convert .bf16 .f32 .rne) (Nat.mod_mod ..).symm
  case unpk => exact ⟨unpkToken_ok hj, unpkToken_at hj⟩
  case pack => exact ⟨packToken_ok hi, packToken_at m.isLt hi⟩
  case special =>
    refine ⟨fexp2_whole, ?_, flog2_normal_power, flog2_subnormal_power, ?_⟩
    · decide
    · refine ⟨rfl, rfl, rfl, rfl, rfl, rfl, rfl, rfl, rfl, rfl, rfl, rfl, rfl, rfl, rfl, rfl, fun x => special_of_negative,
        fun x _ h => ?_, fun x => ftanh_neg, faithful_neighbours⟩
      obtain ⟨hexp, hlog, hrcp, hrsq, htanh⟩ := special_of_nan (f32_nan h)
      simp [hexp, hlog, hrcp, hrsq, htanh]

end Sys2Proof.Machine
end
